-- ==== Sys2Proof/Word.lean ====
section
/-! DEFINITION. Word.lean: the byte and the word types of the device (spec/00_scope.md, "Numbers and units": multi-byte
fields are little-endian; byte-order helpers stand in Machine/Tab.lean). -/

namespace Sys2Proof

/-- One byte. -/
abbrev Byte := BitVec 8
/-- A queue counter, a register half, an FP32 encoding. -/
abbrev W32 := BitVec 32
/-- A 64-bit word of device memory or a register. -/
abbrev W64 := BitVec 64
/-- A string of bytes, lowest address first. -/
abbrev Bytes := List Byte
/-- A table of things by number, sorted by number, at most one entry per number. -/
abbrev Tab (α : Type) := List (Nat × α)

end Sys2Proof
end

