-- ==== Sys2Proof/Syntax.lean ====
section
/-! DEFINITION. Syntax.lean: the commands the block takes, one constructor per row of spec/opcode_table.json, in the
table's order, and the operand types they need. A record row names the queue whose next record is dispatched (the record
itself lies in that queue's run-ahead buffer, R115); a message row names the function whose mailbox is served (the request
lies in its request buffer, R302); an event row carries what the outside brings with it. Log 4. -/

namespace Sys2Proof

/-- Which array a word lies in: device memory or the scratchpads. -/
inductive Store where
  | dram
  | spad
  deriving DecidableEq, Repr

/-- Whose schedule table: the device's (R279) or a partition's (R274). -/
inductive Owner where
  | device
  | partition (p : Nat)
  deriving DecidableEq, Repr

/-- Parts of a Cuff's SRAM (R41). -/
inductive CuffPart where
  | microcode
  | query
  | token
  | accumulators
  | rowRegisters
  | topk
  deriving DecidableEq, Repr

/-- A bit error that strikes a Cuff while it runs an entry (R41, R68, R69). -/
inductive CuffFault where
  | none
  /-- Wrong bits in a word of a part, while the entry works on one of its pieces: a chunk of NB_AXPY, a unit of NB_QUANT. Of the microcode
  store: whether the copy that is loaded again, if it comes to that, passes its digest. -/
  | word (part : CuffPart) (index wrongBits piece : Nat) (reloadOk : Bool)
  deriving DecidableEq, Repr

/-- What a patrol scrub reads (R384, R389): a word of an array by its number; of a cached line, the device memory's word number; of a Command Front,
a word of a queue's run-ahead buffer; of a dispatcher, an entry it holds; of a Cuff, a word of a part; of Pewter, the Brass island or an I/O die,
named by an island identifier, a word of its memory. -/
inductive Scrubbed where
  | array (store : Store)
  | cache (cluster : Nat)
  | front (p q : Nat)
  | dispatcher (pc : Nat)
  | cuff (bank : Nat) (part : CuffPart)
  | unit (island : Nat)
  deriving DecidableEq, Repr

/-- A unit that fails its digest twice or its decoder self-test at boot (R379). -/
inductive BootUnit where
  | core (cluster core : Nat)
  | cluster (cluster : Nat)
  | cuffDigest (bank : Nat)
  | cuffDecoder (bank : Nat)
  | pseudoChannel (pc : Nat)
  | baseManager (stack : Nat)
  | ioDie (die : Nat)
  deriving DecidableEq, Repr

/-- The failing lanes of a die's Girdle link as training finds them; `spared`: the link has spares for them, of which the spec gives no number
(R376, R378). -/
structure GirdleLanes where
  die : Nat
  lanes : List Nat
  spared : Bool
  deriving DecidableEq, Repr

/-- A cluster's reset, with what its end finds: `ok`, that the decoders of the cluster pass their self-test and the reloaded firmware its digest, and
the cores whose scratchpad decoder or sequencer code fails (R379, R388, R392). `bist`: no reset, but the built-in test of a drained cluster that no
partition owns (R397). -/
structure ClusterRestart where
  cluster : Nat
  ok : Bool := true
  cores : List Nat := []
  bist : Bool := false
  deriving DecidableEq, Repr

/-- What a boot finds in the silicon (R378): inputs of nature, not choices of the device. -/
structure BootFindings where
  entropyOk : Bool
  /-- Every field of the fuse record has a majority (R377). -/
  fuseOk : Bool
  /-- Fitted stacks found, one bit each. -/
  stackMask : Nat
  /-- Failing lanes per pseudo-channel link (global pseudo-channel, lanes). -/
  linkLanes : List (Nat × List Nat)
  /-- Failing TSVs per bank-private column (bank identifier, TSVs). -/
  columnLanes : List (Nat × List Nat)
  /-- Girdle links with failing lanes. -/
  girdle : List GirdleLanes
  /-- Units that fail at order 5 or 7. -/
  units : List BootUnit
  /-- Stored licence blobs (by position) that fail verification. -/
  badBlobs : List Nat
  /-- A firmware copy fails a signature or digest check although its bytes are those that were staged (flash bits lost). -/
  badCopyA : Bool := false
  badCopyB : Bool := false
  deriving DecidableEq, Repr

/-- Why the input switch opens (R413). -/
inductive InputFault where
  | under
  | over
  | overcurrent
  deriving DecidableEq, Repr

/-- How a device read of host memory ends badly (R290, R291). -/
inductive ReadFailure where
  | timeout
  | unsupported
  | abort
  | atsRefused
  | atsTimeout
  deriving DecidableEq, Repr

/-- Whose read of host memory it was. -/
inductive HostReader where
  /-- A command in flight. -/
  | command (id : Nat)
  /-- A record at the head of its queue whose check reads a control operand (R428). -/
  | dispatch (p q : Nat)
  /-- A queue's consumer word (R135). -/
  | consumer (p q : Nat)
  /-- The firmware, for the request in a function's mailbox. -/
  | firmware (fn : Nat)
  deriving DecidableEq, Repr

/-- What a sender says of the collective that a frame belongs to (R159, R323). -/
structure Shape where
  opcode : Nat
  bytes : Nat
  type : Nat
  max : Bool
  tree : Bool
  deriving DecidableEq, Repr

/-- What an accepted data frame belongs to. The transport header (R313) names group, OP_SEQ, OFFSET and CHANNEL; how the
receiver tells the kinds apart, and by what it learns the sender's parameters, is not in the spec, so the command says it
(log 18). Partitions and peers are numbered as the receiving device numbers them. -/
inductive Carries where
  /-- A stretch of a collective of a group of a local partition, from the member of rank src. -/
  | collective (p group opSeq src : Nat) (shape : Shape)
  /-- Bytes of a CSEND of a peer for a channel of a local partition; total is the sender's BYTES. -/
  | message (p peer channel number total : Nat)
  /-- Bytes of a peer's PEERCOPY that writes total bytes of local memory from a virtual address of a local partition. -/
  | remoteWrite (p peer id va total : Nat)
  /-- A peer's PEERCOPY that reads local memory. -/
  | remoteRead (p peer id va total : Nat)
  /-- Bytes that a local PEERCOPY (command in flight) reads. -/
  | copyData (id : Nat)
  /-- The remote device's report on a local PEERCOPY (command in flight). -/
  | copyReport (id : Nat) (ok : Bool)
  /-- Traffic that this device relays to another member of a group (R318). -/
  | relay (p group rank : Nat) (inner : Carries)
  deriving DecidableEq, Repr

/-- A data frame on a peer link (R313). -/
structure Frame where
  fcsOk : Bool
  seq : Nat
  ack : Nat
  offset : Nat
  last : Bool
  /-- Poisoned 64-bit words of the payload, by number (R325). -/
  poison : List Nat
  carries : Carries
  payload : Bytes
  deriving DecidableEq, Repr

/-- One peer command named by a notice: abandoned (R322), or, of a collective, found to differ from its match (R159). -/
inductive Abandoned where
  | collective (group opSeq : Nat)
  | mismatch (group opSeq : Nat)
  /-- A collective of no bytes, which has done no work (R142, R159). -/
  | empty (group opSeq : Nat)
  /-- A CSEND (`sender`) or a CRECV of the member that sends the notice. -/
  | message (sender : Bool) (channel number : Nat)
  /-- A PEERCOPY, by the number that its frames carry; nothing on the remote device waits for it. -/
  | copy (id : Nat)
  deriving DecidableEq, Repr

/-- An SPDM request over MCTP, as far as the spec gives it a meaning (R336, R339). -/
inductive SpdmRequest where
  /-- IDE_KM in a secure session with the PF sets the keys of a stream, bound to a VF or to none. -/
  | ideKeys (stream : Nat) (vf : Option Nat) (tee : Bool)
  | other (body : Bytes)
  deriving DecidableEq, Repr

/-- The counts a traffic test keeps for one bank (R40). -/
structure BankCounts where
  wordsRead : Nat
  lanes : List Nat
  corrected : Nat
  uncorrectable : Nat
  firstFail : Nat
  deriving DecidableEq, Repr

/-- What a test on a pseudo-channel found (R40, R72). -/
inductive TestFindings where
  | traffic (passes : Nat) (banks : List BankCounts)
  /-- Per Cuff: 0 for a pass, else the number of the first failing step. -/
  | selfTest (steps : List Nat)
  deriving DecidableEq, Repr

/-- GET_MEASUREMENTS as asked for over a transport; `signed`: with the response's signature (R338). -/
structure MeasurementsAsk where
  transport : Nat
  signed : Bool
  deriving DecidableEq, Repr

/-- How a request of the host comes: the T bit of its TLP, and the IDE stream that carries it, if one does (R339, R341). -/
structure Via where
  tee : Bool := false
  stream : Option Nat := none
  deriving DecidableEq, Repr

/-- Registers of configuration space that the spec gives a meaning (R289, R292, R293, R350, R418). -/
inductive CfgReg where
  | vendorId | deviceId | classCode
  /-- BAR 0 of every function, BARs 2 and 4 of a VF. -/
  | bar (n : Nat)
  /-- Resizable BAR: log2 of the size of VF BAR4. -/
  | bar4Size
  | maxPayload | maxReadRequest | completionTimeout | ats | headerLog
  /-- ASPM control, of which only L1 can be enabled; ASPM L1.1; L0p; 14-bit tags. -/
  | aspm | l11 | l0p | tag14
  /-- MSI-X Enable and Function Mask. -/
  | msixEnable | msixMask
  /-- SR-IOV VF Enable, of the PF. -/
  | vfEnable
  /-- AER: Uncorrectable Error Status, whose bits are cleared by writing 1. -/
  | aerStatus
  | pmeEnable
  /-- Emergency Power Reduction Supported. -/
  | powerReduction
  /-- Enable bits of what is not supported: Relaxed Ordering of device writes, PRI, PASID, MSI, INTx. -/
  | relaxedOrdering | pri | pasid | msi | intx
  deriving DecidableEq, Repr

/-- A register of a function: at an offset of its BAR0, or in its configuration space. -/
inductive HostReg where
  | bar0 (offset : Nat)
  | config (reg : CfgReg)
  deriving DecidableEq, Repr

/-- A read of CTR_VALUE of a function (R341, R402). -/
structure CtrRead where
  fn : Nat
  via : Via
  deriving DecidableEq, Repr

/-- A request of fw.stage in the mailbox of a function; `cut`: the power fails while the copy is being written (R332). -/
structure Staging where
  fn : Nat
  cut : Bool := false
  deriving DecidableEq, Repr

/-- Digests of a group entry that have come: those of members for this device, by rank; and those that this device relays, as the rank they go to,
the rank they come from, and the digest (R317, R318). -/
structure DigestReports where
  own : List (Nat × BitVec 512)
  relayed : List (Nat × Nat × BitVec 512) := []
  deriving DecidableEq, Repr

/-- A notice about a match number, as it came on a port: the receiver's that its CRECV is dispatched, or (`size`) the sender's that its BYTES differ;
for this device, or for the member that it relays to (R160, R318, R326). -/
structure MatchNotice where
  port : Nat
  number : Nat
  bytes : Nat
  size : Bool := false
  relay : Option (Nat × Nat) := none
  deriving DecidableEq, Repr

/-- The commands of the block. -/
inductive Instr where
  -- records dispatched from a queue (chapters 06 and 07)
  | nop (p q : Nat) | wait (p q : Nat) | signal (p q : Nat) | cmp (p q : Nat) | loop (p q : Nat) | fence (p q : Nat)
  | step (p q : Nat) | load (p q : Nat) | store (p q : Nat) | copy (p q : Nat) | gather (p q : Nat) | scatter (p q : Nat)
  | hostout (p q : Nat) | mma (p q : Nat) | mmaq (p q : Nat) | vop (p q : Nat) | readCtr (p q : Nat) | vred (p q : Nat)
  | vquant (p q : Nat) | vdeq (p q : Nat) | vtopk (p q : Nat) | attn (p q : Nat) | attnMerge (p q : Nat)
  | nbAttend (p q : Nat) | nbPool (p q : Nat) | nbScan (p q : Nat) | nbFill (p q : Nat) | nbAxpy (p q : Nat)
  | nbQuant (p q : Nat) | cag (p q : Nat) | crs (p q : Nat) | car (p q : Nat) | csend (p q : Nat) | crecv (p q : Nat)
  | peercopy (p q : Nat) | stOpen (p q : Nat) | stAppend (p q : Nat) | stCommit (p q : Nat) | stRollback (p q : Nat)
  | stRelease (p q : Nat) | prefixLookup (p q : Nat) | prefixPublish (p q : Nat)
  -- the Sleeve, fetch and completion
  | sleeveWrite (p offset : Nat) (data : Bytes) (via : Via)
  | recordFetch (p q slots : Nat)
  | commandComplete (id : Nat)
  | cqConsumerReread (p q value : Nat)
  | coalesceTimer (p q : Nat)
  | stallTimer (p q : Nat)
  | waitSatisfied (p q : Nat)
  | signalUpdateApply (i : Nat)
  -- near-bank machinery and the banks
  | expansionResume (cluster : Nat)
  | cuffEntry (bank : Nat) (fault : CuffFault)
  | partialEgress (pc : Nat)
  | correctedWriteBack (store : Store) (word : Nat)
  | bankRefresh (bank : Nat)
  | patrolScrub (at_ : Scrubbed) (word wrongBits : Nat)
  | pendingRepairApply (pc : Nat)
  -- streams and partitions
  | streamSweep (shard : Nat)
  | blockReturn (p : Nat)
  | zeroisation (p : Nat)
  -- schedule
  | slotBoundary (owner : Owner)
  | guardInterval (owner : Owner)
  | majorCycleStart (owner : Owner)
  | shareGuardExpiry (p : Nat)
  -- power and temperature
  | governorEpoch (ioDraw : Nat) (draws : List (Nat × Nat))
  | governorBudgetUpdate (meanDraw : Nat)
  | pwrbrkAssert | pwrbrkRelease | idleEntry | watchEntry | watchWakeSample
  | watchExitComplete | pfD3hot | pfD0
  | sensorSample (die : Nat) (counts : List Nat)
  -- crossings, resets, input power
  | heartbeat (near far : Nat)
  | cdcWatchdogFire (near far : Nat)
  | coreReset (cluster core : Nat)
  | clusterReset (unit : ClusterRestart)
  | perstAssert
  | perstRelease (found : BootFindings)
  | topologyRecheck
  | pfFlr (found : BootFindings)
  | vfFlr (p : Nat)
  | inputSwitchClose
  | inputSwitchOpen (why : InputFault)
  -- host link
  | hostLinkLoss | hostLinkRestored | hostLinkHoldExpiry
  | hostReadTimeout (reader : HostReader) (failure : ReadFailure)
  | hostBar4Read (p offset len : Nat) (via : Via)
  | hostBar4Write (p offset : Nat) (data : Bytes) (via : Via)
  | cxlMemRead (hpa : Nat)
  | cxlMemWrite (hpa : Nat) (data : Bytes)
  | hdmDecoderCommit (p base size : Nat)
  -- trust
  | ideIntegrityFailure (stream : Nat)
  | lockInterface (p : Nat) | startInterface (p : Nat) | stopInterface (p : Nat)
  | getDeviceInterfaceReport (p : Nat)
  | getMeasurements (ask : MeasurementsAsk)
  | mctpSpdmRequest (transport : Nat) (req : SpdmRequest)
  | debugAttach
  -- peer links
  | peerDataFrame (port : Nat) (frame : Frame)
  | peerAckFrame (port ack : Nat)
  | peerNakFrame (port expected : Nat)
  | keepaliveFrame (port : Nat)
  | identityFrame (port : Nat) (serial : Nat) (farPort : Nat)
  | lossNotice (port p group peer : Nat)
  | abortNotice (port p peer : Nat) (items : List Abandoned) (relay : Option (Nat × Nat))
  | groupResetNotice (port p group peer : Nat)
  | ackTimer (port : Nat) | retransmitTimeout (port : Nat) | keepaliveTimer (port : Nat) | identityTimer (port : Nat)
  | peerSilenceTimeout (peer : Nat)
  | peerLinkDown (port : Nat) | peerLinkUp (port : Nat)
  | groupActivation (p group : Nat) (reports : DigestReports)
  -- counters, tests, registers
  | ctrValueRead (read : CtrRead)
  | sampleWrite (cluster : Nat)
  | memTestEnd (pc : Nat) (found : TestFindings)
  | registerWrite (fn : Nat) (reg : HostReg) (data : Bytes) (via : Via)
  -- Clonar messages: the firmware serves the request in the mailbox of function fn
  | devInfo (fn : Nat) | devTopology (fn : Nat) | devTopologyAccept (fn : Nat) | devLicences (fn : Nat)
  | partCreate (fn : Nat) | partDestroy (fn : Nat) | partConfigRead (fn : Nat) | partConfigWrite (fn : Nat)
  | partReset (fn : Nat) | partMap (fn : Nat) | partMapUnmap (fn : Nat) | partMapQuery (fn : Nat)
  | queueCreate (fn : Nat) | queueDestroy (fn : Nat) | queueStatus (fn : Nat)
  | ctxCreate (fn : Nat) | ctxTeardown (fn : Nat)
  | streamPool (fn : Nat) | streamStats (fn : Nat)
  | schedLoadPartition (fn : Nat) | schedLoadDevice (fn : Nat) | schedCommit (fn : Nat)
  | perfConfigRead (fn : Nat) | perfConfigWrite (fn : Nat)
  | perfSampleEnable (fn : Nat) | perfSampleDisable (fn : Nat) | perfSampleStatus (fn : Nat)
  | errRead (fn : Nat) | powerCap (fn : Nat) | powerStateRead (fn : Nat) | powerStateSet (fn : Nat)
  | thermalQuery (fn : Nat)
  | fwStage (request : Staging) | fwActivate (fn : Nat) | attestSpdm (fn : Nat)
  | memTestTraffic (fn : Nat) | memTestSelfTest (fn : Nat) | memTestStop (fn : Nat) | memTestResults (fn : Nat)
  | memMapout (fn : Nat) | memRepairRow (fn : Nat) | memRepairColumn (fn : Nat)
  | peerTopology (fn : Nat) | peerStatus (fn : Nat) | dbgStatus (fn : Nat) | licInstall (fn : Nat)
  -- later rows of the table
  | hostLinkDown | hostLinkRecovery
  | queueDestroyTimeout (p q : Nat)
  | receiverNotice (p peer channel : Nat) (notice : MatchNotice)
  deriving DecidableEq, Repr

end Sys2Proof
end

