-- ==== Sys2Proof/WellFormed.lean ====
section
/-! DEFINITION. WellFormed.lean: the operands that a transport of the device can carry (log 4). Everything else about a
command is settled by the state it meets: a queue that does not exist, an address of no memory, a reserved field. -/

namespace Sys2Proof

/-- A frame's payload is 64 to 4,096 bytes in multiples of 64, its numbers have 24 bits and OFFSET has 64 (R313). -/
def Frame.wellFormed (f : Frame) : Bool :=
  decide (64 ≤ f.payload.length) && decide (f.payload.length ≤ 4096) && decide (f.payload.length % 64 = 0)
    && decide (f.seq < 2 ^ 24) && decide (f.ack < 2 ^ 24) && decide (f.offset < 2 ^ 64)

/-- What is wrong with a command's operands, if anything. -/
def Instr.illFormed : Instr → Option String
  | .sleeveWrite _ _ data _ => if data.isEmpty then some "an access of no bytes" else none
  | .hostBar4Write _ _ data _ => if data.isEmpty then some "an access of no bytes" else none
  | .hostBar4Read _ _ len _ => if len = 0 then some "an access of no bytes" else none
  | .registerWrite _ _ data _ => if data.isEmpty then some "an access of no bytes" else none
  | .cxlMemWrite hpa data =>
    if data.length ≠ 64 then some "a CXL.mem write carries 64 bytes"
    else if hpa % 64 ≠ 0 then some "a CXL.mem access is a line of 64 bytes" else none
  | .cxlMemRead hpa => if hpa % 64 ≠ 0 then some "a CXL.mem access is a line of 64 bytes" else none
  | .peerDataFrame _ f => if f.wellFormed then none else some "no such data frame"
  | .peerAckFrame _ a => if a < 2 ^ 24 then none else some "a sequence number has 24 bits"
  | .peerNakFrame _ a => if a < 2 ^ 24 then none else some "a sequence number has 24 bits"
  | .identityFrame _ serial farPort =>
    if serial < 2 ^ 128 ∧ farPort < 16 then none else some "a serial has 128 bits and a port four"
  | _ => none

/-- The command can be carried by its transport. -/
def Instr.wellFormed (i : Instr) : Bool := i.illFormed.isNone

end Sys2Proof
end

