-- ==== Sys2Proof/Config.lean ====
section
/-! DEFINITION. Config.lean: what an implementation fixes and the values the spec leaves open. Every constant here is
opaque: nothing in Lean evaluates it, so a statement holds whatever the value is (notes/assumptions/8.md). -/

namespace Sys2Proof

/-- A fresh open value: seed (the state's free counter), site (which open choice), index (which one of them). Every use
reduces it to the range that the spec allows. Log 8. -/
opaque Config.free : Nat → Nat → Nat → Nat

/-- What a 64-bit word of the system region holds, as far as a reader of it needs to know. -/
inductive SysUse where
  /-- Word `word` of a ring slot of a queue. -/
  | ringSlot (p q slot word : Nat)
  /-- The entry of a stream in the stream table. -/
  | streamEntry (stream : Nat)
  /-- An entry of a bucket of the prefix index. -/
  | prefixBucket (bucket : Nat)
  /-- Page tables of a partition. -/
  | pageTable (p : Nat)
  /-- Firmware and microcode copies, staged tables, the error log, nothing. -/
  | other
  deriving DecidableEq, Repr, Inhabited

/-- What lies in a word of the system region: the layout within it belongs to the firmware (R27). Log 29. -/
opaque Config.systemUse : Nat → SysUse

/-- What a byte of host memory holds that the device has not written and no caller has placed. Log 11. -/
opaque Config.hostByte : Nat → Byte

/-- Set of a cluster read cache that a line of device memory falls into, by line number: R97 gives 2 MiB, 16 ways and lines of 128 bytes,
hence 1,024 sets, and not the index. Every use reduces it modulo 1,024. Log 7. -/
opaque Config.cacheSet : Nat → Nat

/-- SHAKE256 with 64 bytes of output (R329): the spec names the function and does not define it. Log 14. -/
opaque Config.shake256 : Bytes → BitVec 512

/-- First 16 bytes of KMAC256 with key, data, L = 256 and S = "DRUCON PREFIX" (R237). Log 14. -/
opaque Config.kmac256 : BitVec 256 → Bytes → BitVec 128

/-- Falcon-1024 verification of a signature over a digest under a public key (R329). Log 14. -/
opaque Config.falconOk : Bytes → BitVec 512 → Bytes → Bool

/-- The 256-bit key of a sharing domain drawn in a given drawing (R238, R343): drawing number, then domain. Log 14. -/
opaque Config.domainKey : Nat → Nat → BitVec 256

/-- The response of the SPDM responder to a request (R336): SPDM 1.3 defines it, the spec does not. Log 42. -/
opaque Config.spdmResponse : Nat → Bytes → Bytes

/-- The X.509 chain of certificate slot 0 (R337), of the subject's serial and part and the certified key. Log 14. -/
opaque Config.certChain : BitVec 128 → BitVec 16 → BitVec 14344 → Bytes

/-- The responder's signature under the sealed attestation key over a transcript (R338). Log 14. -/
opaque Config.spdmSign : BitVec 18440 → BitVec 256 → Bytes → Bytes

/-- A requester's FINISH verifies against the handshake of a connection (R336): transport, session, message. Log 42. -/
opaque Config.finishOk : Nat → Nat → Bytes → Bool

/-- SHAKE256 of the boot ROM (R338, block 1). Log 14. -/
opaque Config.bootRomDigest : BitVec 512

/-- SHAKE256 of the fuse record without DEVICE_SECRET (R338, block 5), of the record's contents. Log 14. -/
opaque Config.fuseDigest : List (List Nat) → BitVec 512

end Sys2Proof
end

