-- ==== Sys2Proof/Machine/State.lean ====
section
/-! DEFINITION. State.lean: everything the spec gives the module, as plain data, with State.reset. INVENTORY.md lists the
same pieces with the rules that name them. Widths: a field the spec gives a register is a BitVec; counts, addresses, ring
positions and lengths are Nat, reduced where the spec says they wrap. -/

namespace Sys2Proof.Machine

/-- Why a step stops the model: nothing does. The spec gives every command an effect, and one whose operands no transport can
carry changes nothing (log 4). -/
inductive Fault where
  deriving DecidableEq, Repr

/-- Why a step has no meaning. -/
inductive Refusal where
  /-- An arm that has no meaning yet; raised by exec's arms only. Safe. -/
  | notModelled (mnemonic : String)
  deriving DecidableEq, Repr

/-! ### Assembly (chapters 00, 16, 19) -/

/-- The three parts of R3. -/
inductive Part where
  | drc12s2x
  | drc10s2x
  | drc8s1x
  deriving DecidableEq, Repr

/-- What assembly fixes (R8, R292, R328). -/
structure Ident where
  part : Part
  computeRev : Byte
  ioRev : Byte
  baseRev : Byte
  packageRev : Byte
  serial : BitVec 128
  vendor : BitVec 16
  rootFw : BitVec 512
  rootLic : BitVec 512
  deviceSecret : BitVec 256
  /-- MAC addresses of the peer ports (R312), by port; one not listed is 02:00:00:00:00:n (log 46). -/
  macs : Tab Nat := []
  deriving DecidableEq, Repr

/-- One row or column-group repair (R36, R376): a bank, a unit within it, the spare in use. -/
structure Repair where
  bank : Nat
  unit : Nat
  spare : Nat
  deriving DecidableEq, Repr

/-- A path that has spare lanes (R376). -/
inductive Path where
  /-- A pseudo-channel link. -/
  | link
  /-- A bank-private column. -/
  | column
  /-- A Girdle link, which `pc` of the entry names by its die. -/
  | girdle
  deriving DecidableEq, Repr

def Path.number : Path → Nat
  | .link => 0
  | .column => 1
  | .girdle => 2

/-- One spare-lane entry (R30, R307, R376). -/
structure Lane where
  path : Path
  pc : Nat
  bank : Nat
  lane : Nat
  spare : Nat
  deriving DecidableEq, Repr

/-- The fuse record (R328, R376). `disabled` names physical units and enters no behaviour (R14): clusters as die × 17 + physical cluster,
then cores as 68 + logical cluster × 9 + physical core. -/
structure Fuse where
  fwSvn : BitVec 6
  disabled : List Nat
  rowRepairs : List Repair
  columnRepairs : List Repair
  spareLanes : List Lane
  mapouts : List Nat
  cuffFences : List Nat
  /-- Default calibration of every sensor, and sensors (die × 128 + sensor) that differ from it (R357). -/
  calDefault : Nat × Nat
  cal : Tab (Nat × Nat)
  deriving DecidableEq, Repr

/-- What the checks of R329 and R331 meet in a signed object whose bytes are not spelled out (log 2): the digest of the public key that travels with
it, whether the signature verifies under that key, and whether every digest holds. -/
structure SignedAs where
  keyDigest : BitVec 512 := 0
  signature : Bool := true
  digests : Bool := true
  deriving DecidableEq, Repr

/-- A firmware copy in flash (R331): header fields and digests of its two images. `sound` is false for a copy that is not whole: one half
written when the power failed (R332). -/
structure FwCopy where
  sound : Bool
  /-- The bytes of both images, which every boot verifies; none for the copy shipped with the part, whose bytes are not spelled out
  (log 2). -/
  image : Option Bytes := none
  /-- Of the copy shipped with the part: how its two images are signed. -/
  signedAs : SignedAs := {}
  /-- Security versions of the first-stage and the main image; a boot needs both, FW_SVN follows the main one. -/
  firstSvn : Nat
  svn : Nat
  version : Nat
  /-- Parts that may run both images. -/
  parts : Nat
  firstDigest : BitVec 512
  mainDigest : BitVec 512
  cuffDigest : BitVec 512
  deriving DecidableEq, Repr

/-- A stored licence blob (R334, R335). -/
structure Blob where
  features : Byte
  bytes : Bytes
  /-- Of a blob shipped with the part, whose bytes are not spelled out: how it is signed, and the serial that it is bound to. -/
  signedAs : SignedAs := {}
  serial : BitVec 128 := 1
  deriving DecidableEq, Repr

/-- A pending repair or repair candidate (R390): a row of a bank, or a column group of a subarray. -/
structure Candidate where
  column : Bool
  bank : Nat
  unit : Nat
  deriving DecidableEq, Repr

/-- Certificate slot 0 and the attestation key pair (R337): the subject of the device certificate, the public key it certifies, and the private
key as it lies in flash, sealed under DEVICE_SECRET. -/
structure Attest where
  serial : BitVec 128
  partCode : BitVec 16
  publicKey : BitVec 14344
  sealedKey : BitVec 18440
  deriving DecidableEq, Repr

/-- The flash: firmware copies, activation record, licence store, acceptances, pending repairs, certificate and sealed attestation key (R331,
R335, R337, R382, R390). -/
structure Flash where
  copyA : Option FwCopy
  copyB : Option FwCopy
  /-- Active copy: false is A. -/
  active : Bool
  /-- Copy named by fw.activate for the next reset (R333). -/
  pendingActive : Option Bool
  store : List Blob
  /-- Accepted mismatches: KIND, LOCATION_A, LOCATION_B (R382). -/
  accepted : List (Nat × Nat × Nat)
  pendingRepairs : List Candidate
  attest : Attest := { serial := 1, partCode := 0, publicKey := 0, sealedKey := 0 }
  deriving DecidableEq, Repr

/-! ### Bring-up (chapters 18, 19, 21) -/

/-- READINESS (R381). -/
inductive Readiness where
  | notReady
  | degraded
  | ready
  deriving DecidableEq, Repr

/-- A mismatch of the topology check (R381). -/
structure Mismatch where
  kind : Nat
  locA : Nat
  locB : Nat
  detail : Nat
  deriving DecidableEq, Repr

/-- Bring-up and health of the units. -/
structure Boot where
  switchClosed : Bool
  /-- Set by an overcurrent until the input falls below 40 V (R414). -/
  overcurrent : Bool
  perstLow : Bool
  /-- Order 9 of R378 reached: the operator mailbox is served. -/
  served : Bool
  /-- The boot ROM serves the operator mailbox itself (R331, R377). -/
  rom : Bool
  readiness : Readiness
  mismatches : List Mismatch
  /-- Running firmware copy: false is A (FW_SLOT). -/
  slot : Bool
  licLive : Byte
  licPending : Byte
  fencedClusters : List Nat
  /-- cluster × 8 + core. -/
  fencedCores : List Nat
  /-- Fenced Cuffs by bank number, with the cause of the first fence (R307). -/
  fencedCuffs : Tab Nat
  /-- Pseudo-channels held offline, with the cause. -/
  offline : Tab Nat
  lanes : List Lane
  /-- Banks whose column the last training found with more failing lanes than spares (R31). -/
  columns : List Nat := []
  /-- Cores and clusters reset once in this boot (R394): cluster × 8 + core, and 1,024 + cluster. -/
  resetOnce : List Nat
  /-- Pseudo-channels tested since they were last zeroised (R38). -/
  tested : List Nat
  /-- Poisoned words in the memories of Pewter, the Brass island and the I/O dies: island and word (R384, R386). -/
  unitPoison : List (Nat × Nat) := []
  deriving DecidableEq, Repr

/-- The watchdog of one end of a crossing: its count of own cycles, and the commands that waited when it last counted (R371). -/
structure Watchdog where
  cycles : Nat
  waiting : List Nat
  deriving DecidableEq, Repr

/-- Crossings (R371 to R375). An end is named by the pair (own island, far island). -/
structure Crossings where
  /-- 2-bit Gray heartbeat each end sends: (near × 65,536 + far) to 0 to 3. -/
  heartbeats : Tab Nat
  broken : List (Nat × Nat)
  /-- Far islands that broke a crossing once in this boot (R374). -/
  brokeOnce : List Nat
  cdcTimeout : Nat
  /-- What the watchdog of each end has counted, by the key of the end; none is zero (R371). -/
  watch : Tab Watchdog := []
  deriving DecidableEq, Repr

/-! ### Memory -/

/-- Where an address leads. -/
inductive Space where
  | dram
  | spad
  | host
  deriving DecidableEq, Repr

/-- An array: bytes in canonical form (addresses strictly rising, no zero byte listed), poisoned words and words with
stored bit errors (word number to wrong bits: 1 or 2 correctable, 3 uncorrectable) (R20, R384). -/
structure Mem where
  cells : List Host.Cell
  poison : List Nat
  errs : Tab Nat
  deriving DecidableEq, Repr

/-- The array that a boot leaves: zeros, valid check bits (R378 order 8, R344). -/
def Mem.empty : Mem := { cells := [], poison := [], errs := [] }

/-- A line of a cluster read cache (R97). -/
structure CacheLine where
  addr : Nat
  bytes : Bytes
  deriving DecidableEq, Repr

/-- How far a write has come (R88, R249): seen by its own engine alone, at CLUSTER scope of its cluster, at DEVICE scope. -/
inductive Scope where
  | own
  | cluster
  | device
  deriving DecidableEq, Repr

/-- What a write has put into one granule of 64 bytes, while some reader may still miss it (R249, R258, R262). -/
structure Unsettled where
  space : Space
  /-- First byte of the granule. -/
  addr : Nat
  /-- The granule before the write; only the bytes that the write reached count. -/
  old : Bytes
  /-- The bytes that the write reached: bit i is byte i. -/
  mask : Nat
  /-- Bytes that a reader gets old or new as one: 64, 32 of a Cuff's write, one element under ACCUM (R262). -/
  unit : Nat
  /-- Which add to its elements this is, among those of its command (ACCUM; else 0). -/
  layer : Nat
  /-- Writer: command, partition, queue, cluster, engine, and its kind (0 host, 1 cluster, 2 stream command, 3 peer). -/
  cmd : Nat
  p : Nat
  q : Nat
  cluster : Nat
  engine : Nat
  kind : Nat
  scope : Scope
  /-- Counters, as (partition × 64 + queue, counter), that announced the write; of a host write the queues whose sealing settles it. -/
  told : List (Nat × Nat)
  /-- Queues that waited on such a counter, as (partition × 64 + queue, number of the WAIT). -/
  known : List (Nat × Nat)
  /-- Host reads are certain of it: a FENCE of HOST scope has covered it (R259). -/
  host : Bool
  deriving DecidableEq, Repr

/-! ### Commands in flight -/

/-- Completion statuses (R422). -/
inductive Status where
  | ok | skippedPred | illegal | inconsistent | aliased | bounds | poison | leaseConflict | eccUncorr | timeoutCdc
  | hostTimeout | peerLost | configRejected | partitionReset | contextTorn
  deriving DecidableEq, Repr

/-- A record fetched into a run-ahead buffer (R115): ring position of its first slot, and its 64 or 128 bytes. -/
structure Rec where
  pos : Nat
  bytes : Bytes
  deriving DecidableEq, Repr

/-- A loop being run (R130): its body, the index of the next record, the iterations left after this one, and whether this
is the second or a later iteration. -/
structure LoopFrame where
  body : List Rec
  idx : Nat
  left : Nat
  again : Bool
  deriving DecidableEq, Repr

/-- A range of bytes of one space; of a byte that is written in part (sub-byte elements), the bits. -/
structure Range where
  space : Space
  addr : Nat
  len : Nat
  bits : Nat := 255
  deriving DecidableEq, Repr

/-- A stretch as a command in flight read it: its bytes, and the words of it that were bad. -/
structure Seen where
  space : Space
  addr : Nat
  bytes : Bytes
  bad : List Nat
  deriving DecidableEq, Repr

/-- What an engine command in flight started from: the seed of its free values, the counters of its queue and the step number, and what it
read (R88, R262). -/
structure Began where
  free : Nat
  ctrs : List W32
  stepNo : W64
  seen : List Seen
  deriving DecidableEq, Repr

/-- Who wrote where a command in flight reads or writes: another agent, a later command of its own engine, an earlier one. -/
inductive MixBy where
  | other | later | earlier
  deriving DecidableEq, Repr

/-- A write that has met what a command in flight reads or writes (R88, R176, R262): a granule of 64 bytes, the bits of it that the write
set (bit 8i + j is bit j of byte i) and their values, the words that it left poisoned, and the unit in which a reader gets it old or new. -/
structure Mix where
  space : Space
  addr : Nat
  bits : Nat
  val : Nat
  bad : Nat
  unit : Nat
  by_ : MixBy
  deriving DecidableEq, Repr

/-- One (stream, group) pair of an NB_ATTEND (R47, R53). -/
structure Pair where
  item : Nat
  stream : Nat
  group : Nat
  n : Nat
  q : Nat
  query : Nat
  deriving DecidableEq, Repr

/-- The piece of work of one entry (chapter 03, "What one work-list entry covers"). Addresses are device-memory addresses. -/
inductive Work where
  /-- Block j of a pair, at a slot address. -/
  | attend (pair : Pair) (j addr : Nat)
  | pool (bag addr : Nat) (weight : W32)
  | scan (ordinal addr : Nat)
  | fill (addr len : Nat)
  | axpy (x y len : Nat)
  | quant (src dst units : Nat)
  deriving DecidableEq, Repr

/-- A work-list entry: its command, the bank of its Cuff, its work, and the DRAM rows it touches (R81). -/
structure Entry where
  cmd : Nat
  bank : Nat
  work : Work
  rowLo : Nat
  rowHi : Nat
  deriving DecidableEq, Repr

/-- What a near-bank command in flight still needs (R44, R45, R47, R51). -/
structure Nb where
  /-- The record's fields that entries need. -/
  record : Bytes
  /-- Expansion has not begun (another expansion of the cluster goes first). -/
  waiting : Bool
  /-- Entries not yet accepted by a dispatcher. -/
  toSend : List Entry
  /-- Slots given: (item, bank, slot). -/
  slots : List (Nat × Nat × Nat)
  /-- Work items of the directory, with their first slot and slot count. -/
  items : List (Nat × Nat × Nat)
  poisonedItems : List Nat
  /-- Elements converted, clipped, NaN and the maximum (FP32) reported so far (R66). -/
  stat : Nat × Nat × Nat × W32
  /-- Cuff groups that did work, the last one first (R134). -/
  groups : List Nat
  /-- The microcode of these Cuffs failed in this command (R69). -/
  ended : List Nat
  /-- Query rows delivered: (item, pseudo-channel), their bytes, and whether a word of them was bad (R52). -/
  delivered : List (Nat × Nat × Bytes × Bool)
  deriving DecidableEq, Repr

/-- One expected stretch of a collective's or a transfer's data: from which rank, into which bytes, combined or copied. -/
structure Phase where
  from? : Nat
  reduce : Bool
  offset : Nat
  len : Nat
  /-- Ranks that the result of the stretch is sent on to. -/
  onward : List Nat
  deriving DecidableEq, Repr

/-- What a peer command in flight is about (R159, R160). -/
inductive PeerKind where
  | collective (group opSeq rank members : Nat)
  | send (peer channel number : Nat)
  | recv (peer channel number : Nat)
  | copyOut (peer remote : Nat)
  | copyIn (peer remote : Nat)
  deriving DecidableEq, Repr

/-- A peer command in flight. -/
structure PeerJob where
  kind : PeerKind
  src : Nat
  dst : Nat
  bytes : Nat
  opcode : Nat
  bf16 : Bool
  max : Bool
  /-- The tree algorithm (R323). -/
  tree : Bool
  /-- The buffer in which results form (local operand, then combined), and its poisoned words. -/
  acc : Bytes
  bad : List Nat
  phases : List Phase
  /-- Data may flow (a CSEND once the receiver's notice has come, R326). -/
  open? : Bool
  deriving DecidableEq, Repr

/-- The settings of the configuration block (R283). -/
structure Settings where
  clusters : W64
  streamBase : Nat
  streamCount : Nat
  prefixQuota : Nat
  policyPartition : Bool
  perfUser : Bool
  deriving DecidableEq, Repr

def Settings.none : Settings :=
  { clusters := 0, streamBase := 0, streamCount := 0, prefixQuota := 0, policyPartition := false, perfUser := false }

/-- A command in flight (R121). -/
structure Flight where
  p : Nat
  q : Nat
  ctx : Nat
  cluster : Nat
  pos : Nat
  bytes : Bytes
  looped : Bool
  /-- Engine of the cluster: core × 4 + 0 ME0, 1 ME1, 2 VE, 3 TE; 32 Mantle; 33 near-bank; 34 control; 35 peer; 36 stream. -/
  engine : Nat
  island : Nat
  /-- Conditions met so far, other than OK. -/
  conds : List Status
  /-- Byte offset of the offending field for the skip log. -/
  offset : Nat
  partialDone : Bool
  /-- Ranges the command writes: undefined when it is abandoned. -/
  writes : List Range
  readsHost : Bool
  /-- It writes through the host window, whose translation may fail (R291). -/
  writesHost : Bool := false
  nb : Option Nb
  peer : Option PeerJob
  /-- The settings it was dispatched under, which it keeps (R288). -/
  under : Settings := Settings.none
  /-- What its engine reads, what it started from, and the writes of others that have met its reads or its writes since (R88, R176). -/
  reads : List Range := []
  began : Option Began := Option.none
  mixed : List Mix := []
  /-- Counters of its cluster enabled when it was issued, with their events (R287). -/
  enabled : List (Nat × Nat) := []
  deriving DecidableEq, Repr

/-- A counter update crossing the Girdle (R124). -/
structure SigUpdate where
  /-- Commands completed before the SIGNAL, with writes not yet certain for everyone: what it announces (R252). -/
  tells : List Nat
  p : Nat
  fromQ : Nat
  toQ : Nat
  ctr : Nat
  add : Bool
  value : W32
  deriving DecidableEq, Repr

/-! ### Cuffs (chapter 03) -/

/-- Running state of one attention row (R54), FP32: reference maximum, sum, outputs; no token yet. -/
structure AttRow where
  started : Bool
  m : W32
  l : W32
  o : List W32
  deriving DecidableEq, Repr

/-- A pair in a Cuff's hands: the rows of its first pass, at most 8, and its blocks so far, block number and slot address, which the later
passes read again (R55). -/
structure AttHold where
  pair : Pair
  rows : List AttRow
  count : Nat
  poison : Bool
  blocks : List (Nat × Nat) := []
  deriving DecidableEq, Repr

/-- A bag in a Cuff's accumulators (R59). -/
structure BagHold where
  bag : Nat
  acc : List W32
  count : Nat
  poison : Bool
  deriving DecidableEq, Repr

/-- A Cuff at work on a command. -/
structure Cuff where
  cmd : Nat
  att : Option AttHold
  bags : List BagHold
  deriving DecidableEq, Repr

/-- The SRAM of a Cuff besides the bag sums, output rows and row registers, which stand with the work in hand (R41): the digest of the image
in its 4 KiB microcode store, none where the last reload failed its digest; what lies in its query buffer of 8 KiB, its token buffer of 2 KiB, and
its top-k buffers; the chunk of y in its accumulators (R64); and the wrong bits of its words (word number to count), which the DEC-TED code
corrects up to two of a word. -/
structure Sram where
  microcode : Option (BitVec 512)
  query : Bytes
  token : Bytes
  chunk : Bytes := []
  /-- Per query the candidates kept, score and row. -/
  topk : List (List (W32 × Nat))
  errs : Tab Nat
  deriving DecidableEq, Repr

/-- Buffers empty, microcode loaded. -/
def Sram.loaded (image : BitVec 512) : Sram := { microcode := some image, query := [], token := [], topk := [], errs := [] }

/-- A finished partial waiting for egress (R57). -/
structure PartialRec where
  cmd : Nat
  bank : Nat
  slot : Nat
  item : Nat
  bytes : Bytes
  poison : Bool
  deriving DecidableEq, Repr

/-- A lease (R81): a bank, its command, the lowest and the highest row under work. -/
structure Lease where
  bank : Nat
  cmd : Nat
  rowLo : Nat
  rowHi : Nat
  deriving DecidableEq, Repr

/-- Near-bank machinery. -/
structure Near where
  /-- Entries held by the dispatchers, in order of arrival. -/
  entries : List Entry
  cuffs : Tab Cuff
  finished : List PartialRec
  leases : List Lease
  /-- Words corrected and not yet written back (R67, R385). -/
  writeBacks : List (Store × Nat)
  /-- Those among them that a Cuff has to write back for an entry of a command, as (command, word) (R67). -/
  cuffBacks : List (Nat × Nat) := []
  /-- Refreshes done per bank, modulo 8,192 (R28). -/
  refresh : Tab Nat
  /-- SRAM of the Cuffs by bank; one not listed is loaded and holds nothing. -/
  sram : Tab Sram := []
  deriving DecidableEq, Repr

/-! ### Queues and partitions (chapters 06, 13) -/

/-- A comparator (R125). -/
structure Comparator where
  ctrA : Nat
  rel : Nat
  second : Option Nat
  imm : W32
  deriving DecidableEq, Repr

/-- A WAIT that holds its queue (R127): relation, record, ACQUIRE and LOOPED. -/
structure Waiting where
  cond : Comparator
  rcd : Rec
  looped : Bool
  deriving DecidableEq, Repr

/-- A queue (R105 to R138). -/
structure Queue where
  ctx : Nat
  cluster : Nat
  cqLog2 : Nat
  vector : Nat
  coCount : Nat
  coTime : Nat
  credit : Nat
  cqBase : Nat
  cqConsumer : Nat
  /-- Consume position, seal frontier, high mark (R109). -/
  cpos : Nat
  fpos : Nat
  hpos : Nat
  /-- Bytes arrived per ring position at or above C. -/
  slots : Tab (List Host.Cell)
  overwrites : Nat
  /-- Records fetched and not yet dispatched, and the loops being run, innermost first. -/
  ahead : List Rec
  loops : List LoopFrame
  ctrs : List W32
  cmps : List Comparator
  waiting : Option Waiting
  /-- STALLED of the credit word (R113). -/
  stalled : Bool
  broken : Bool
  destroying : Bool
  skipLog : List Bytes
  lost : Nat
  /-- Completion ring: entries written, consumer word last read, entries since the last interrupt, entries waiting. -/
  written : Nat
  consumed : Nat
  unsignalled : Nat
  held : List Bytes
  /-- Host-memory writes discarded while the link was lost (R311). -/
  discarded : Nat
  deriving DecidableEq, Repr

/-- A context (R268). -/
structure Context where
  cls : Nat
  ranges : List (Nat × Nat)
  deriving DecidableEq, Repr

/-- A mapped striped page (R301). -/
structure Page where
  va : Nat
  pa : Nat
  big : Bool
  deriving DecidableEq, Repr

/-- A layer of a pool (R205). -/
structure Layer where
  /-- 0 FP8 E4M3, 1 FP8 E5M2, 2 FP4 E2M1, 3 BF16. -/
  cache : Nat
  group : Nat
  scaleE4m3 : Bool
  rotated : Bool
  deriving DecidableEq, Repr

/-- A slot in use: bank number, slot number, layer. -/
structure SlotUse where
  bank : Nat
  slot : Nat
  layer : Nat
  deriving DecidableEq, Repr

/-- Blocks freed that return to the pool once the named commands have completed (R162), and streams that then become FREE. -/
structure Freed where
  after : List Nat
  slots : List SlotUse
  streams : List Nat
  deriving DecidableEq, Repr

/-- The pool of stream.pool (R205, R230). -/
structure Pool where
  firstStream : Nat
  streamCount : Nat
  base : Nat
  size : Nat
  maxBlocks : Nat
  sharedGroups : Nat
  lowWater : Nat
  idleSteps : Nat
  metaVa : Nat
  tokens : Nat
  groups : Nat
  layers : List Layer
  /-- Bank numbers, sorted by (bank, pseudo-channel, stack) as R76 needs. -/
  banks : List Nat
  used : List SlotUse
  freed : List Freed
  deriving DecidableEq, Repr

/-- Counts of stream.stats that are not counted on demand (R244), modulo 2^48. -/
structure StreamStats where
  evictAlloc : Nat
  evictPublish : Nat
  evictLow : Nat
  collisions : Nat
  noRoom : Nat
  exhausted : Nat
  converted : Nat
  clipped : Nat
  nans : Nat
  deriving DecidableEq, Repr

/-- A schedule table (R274, R279): slots as (START_US, raw entry bytes). -/
structure SchedTable where
  majorUs : Nat
  enabled : Bool
  guardUs : Nat
  slots : List (Nat × Bytes)
  /-- Function whose vector and host address the next two are; 0xFFFF and 0 for none. -/
  fn : Nat
  vector : Nat
  cycleWord : Nat
  deriving DecidableEq, Repr

/-- A schedule: live table, current slot, guard interval running, cycles started since the swap, staged table, armed. -/
structure Sched where
  live : Option SchedTable
  slot : Nat
  inGuard : Bool
  cycles : Nat
  staged : Option SchedTable
  armed : Bool
  deriving DecidableEq, Repr

/-- Why a partition waits for zeroisation (R266), and which mailbox waits for the answer. -/
structure Zeroing where
  destroy : Bool
  mailbox : Option Nat
  deriving DecidableEq, Repr

/-- A partition (chapter 13). -/
structure Partition where
  live : Settings
  staged : Settings
  applyCount : W32
  rejectCount : W32
  pcs : Tab Nat
  stepNo : W64
  pages : List Page
  ctxs : Tab Context
  queues : Tab Queue
  pool : Option Pool
  stats : StreamStats
  sched : Sched
  zeroing : Option Zeroing
  /-- Which drawing of the domain keys is in the key store (R238, R343). -/
  keys : Nat
  /-- Match numbers of point-to-point commands: (peer × 65,536 + CHANNEL) to sends and receives dispatched (R160). -/
  sends : Tab Nat
  recvs : Tab Nat
  /-- Receivers' notices that came before the CSEND they match (R326): (peer × 65,536 + CHANNEL), match number, bytes. -/
  notices : List (Nat × Nat × Nat)
  /-- Notices kept for matches not yet dispatched (R159, R322): group, OP_SEQ and 0, or peer, channel and number; the last is 0 for an abandoned
  collective, 1 for a CSEND of this device whose match was abandoned, 2 for such a CRECV, 3 for a collective that mismatched. -/
  aborts : List (Nat × Nat × Nat × Nat)
  /-- Per cluster the queue that dispatched last: the rotation goes on from the next one (R120). -/
  turns : Tab Nat := []
  deriving DecidableEq, Repr

/-! ### Streams (chapter 11) -/

/-- Stream states (R227). -/
inductive StreamState where
  | free | active | idle | draining
  deriving DecidableEq, Repr

/-- A stream entry (R227). -/
structure Stream where
  state : StreamState
  priority : Nat
  partition : Nat
  ctx : Nat
  domain : Nat
  committed : Nat
  speculative : Nat
  appendBase : Nat
  positionBase : W32
  blocks : Nat
  chainValid : Bool
  shared : Nat
  published : Nat
  blockTable : Nat
  lastStep : W64
  chainHash : BitVec 128
  deriving DecidableEq, Repr

/-- A prefix-index entry (R239); its place in the table is its key. -/
structure PrefixEntry where
  hash : BitVec 128
  record : Nat
  partition : Nat
  domain : Nat
  priority : Nat
  lastUse : W64
  deriving DecidableEq, Repr

/-! ### Host interface (chapter 14) -/

/-- An MSI-X table entry. -/
structure Msix where
  addr : W64
  data : W32
  masked : Bool
  deriving DecidableEq, Repr

/-- What a mailbox still waits for after its message was taken up. -/
inductive MailWait where
  /-- queue.destroy waits for the commands of a queue (R107). -/
  | queueDestroy (p q : Nat)
  /-- part.destroy or part.reset waits for zeroisation (R266). -/
  | zeroing (p : Nat)
  deriving DecidableEq, Repr

/-- The register file of one function: mailbox, MSI-X and performance window. -/
structure Func where
  busy : Bool
  respValid : Bool
  lastStatus : BitVec 16
  reqSeq : BitVec 16
  respSeq : BitVec 16
  event : BitVec 9
  eventEn : W64
  req : List Host.Cell
  resp : Bytes
  waitFor : Option MailWait
  /-- A request handed over in WATCH: it waits, with BUSY clear, for the exit (R354). -/
  held : Bool
  msix : Tab Msix
  pba : List Nat
  ctrSelect : W32
  deriving DecidableEq, Repr

/-- An error-log entry (R309): its 64 bytes, and the mailboxes that have read it. -/
structure LogEntry where
  bytes : Bytes
  readBy : List Nat
  deriving DecidableEq, Repr

/-- The error log, ERR_SUMMARY and HOSTLOSS_HOLD (R296, R309). -/
structure ErrLog where
  entries : List LogEntry
  lost : Tab Nat
  count : W32
  summary : BitVec 12
  holdMs : W32
  deriving DecidableEq, Repr

/-- A committed HDM decoder (R297). -/
structure Decoder where
  base : Nat
  size : Nat
  deriving DecidableEq, Repr

/-- Registers of one HDM decoder as software writes them, and its Error Not Committed flag (R297, R300). -/
structure Hdm where
  base : W64 := 0
  size : W64 := 0
  ctrl : W32 := 0
  error : Bool := false
  deriving DecidableEq, Repr

/-- What configuration space lets the host set in a function, and what it logs there, for the features that R289 lists (log 41). -/
structure CfgSpace where
  /-- BAR bases as the host programmed them, by the number of the BAR: 0, 2 and 4. -/
  bars : Tab Nat := []
  /-- Resizable BAR: log2 of the size of VF BAR4, 30 to 40. -/
  bar4Log2 : Nat := 40
  ats : Bool := false
  /-- Max Payload Size and Max Read Request Size, as log2 of bytes less 7. -/
  payload : Nat := 0
  readRequest : Nat := 2
  /-- Completion Timeout Value. -/
  timeout : Nat := 0
  /-- AER header log: the first header logged, if one is; and Uncorrectable Error Status. -/
  headerLog : Option Bytes := none
  aer : W32 := 0
  /-- ASPM L1, L1.1, L0p and 14-bit tags enabled; MSI-X Enable and Function Mask; VF Enable of the PF; PME enable. -/
  l1 : Bool := false
  l11 : Bool := false
  l0p : Bool := false
  tag14 : Bool := false
  msixEnable : Bool := false
  msixMask : Bool := false
  vfEnable : Bool := false
  pmeEnable : Bool := false
  /-- Pages of the function whose ATS translations the device holds, at most 4,096, the last used first (R291). -/
  translations : List Nat := []
  deriving DecidableEq, Repr

/-- State of the host link (R311): down waits 10 ms for a loss; lost is the hold; expired is what its end leaves. -/
inductive LinkState where
  | up
  | down
  | lost
  | expired
  deriving DecidableEq, Repr

/-- The host link. -/
structure HostLink where
  state : LinkState
  cxl : Bool
  d3hot : Bool
  decoders : Tab Decoder
  /-- CXL component registers (R297, R300). -/
  hdm : Tab Hdm := []
  hdmGlobal : W32 := 0
  /-- Configuration space by function (R289, R293). -/
  cfg : Tab CfgSpace := []
  /-- Cycle words discarded while the link was lost, by function (R311). -/
  cycleDiscards : Tab Nat := []
  deriving DecidableEq, Repr

/-! ### Trust (chapter 16) -/

/-- TDISP states (R340). -/
inductive TdiState where
  | unlocked | locked | run | error
  deriving DecidableEq, Repr

/-- An IDE stream (R339). -/
structure IdeStream where
  vf : Option Nat
  tee : Bool
  insecure : Bool
  deriving DecidableEq, Repr

/-- How far an SPDM connection has come (R336). -/
inductive SpdmStage where
  | none | version | capabilities | algorithms
  deriving DecidableEq, Repr

/-- The connection state of one transport or mailbox: its stage, and its secure sessions, by number, with whether each is established. -/
structure SpdmConn where
  stage : SpdmStage := .none
  sessions : Tab Bool := []
  deriving DecidableEq, Repr

/-- Debug, TDISP and IDE state. -/
structure Trust where
  sessions : W32
  debugSeen : Bool
  lastAttach : W64
  tdi : Tab TdiState
  ide : Tab IdeStream
  /-- SPDM requests answered per transport: the responder's nonces differ from request to request (R336). -/
  spdm : Tab Nat
  /-- SPDM connection state per transport: 0 MCTP over PCIe, 1 MCTP over I3C, 2 + f the mailbox of function f (R336). -/
  conns : Tab SpdmConn := []
  /-- Debug access has been granted since the last full reset (R342). -/
  access : Bool := false
  /-- Measurement block 6 as formed at the last reset (R338). -/
  licMeasure : BitVec 512
  /-- Bytes that a debugger has written where the model holds no contents byte by byte (R342, log 44): by device address, and by 2^46 + its
  address in Pewter's memory. -/
  pokes : Tab Byte := []
  deriving DecidableEq, Repr

/-! ### Peer links (chapter 15) -/

/-- A peer of the manifest. -/
structure PeerEntry where
  serial : BitVec 128
  included : Bool
  deriving DecidableEq, Repr

/-- A link of the manifest. -/
structure LinkEntry where
  port : Nat
  peer : Nat
  remotePort : Nat
  switched : Bool
  mac : Nat
  deriving DecidableEq, Repr

/-- A group of the manifest: members as (peer index or 0xFF, remote partition). -/
structure GroupEntry where
  partition : Nat
  group : Nat
  rank : Nat
  members : List (Nat × Nat)
  deriving DecidableEq, Repr

/-- The peer manifest (R316). -/
structure Manifest where
  etherType : Nat
  loopback : Nat
  peers : List PeerEntry
  links : List LinkEntry
  groups : List GroupEntry
  deriving DecidableEq, Repr

/-- States of a port (R327). -/
inductive PortState where
  | disabled | down | training | up | mismatch | loopback
  deriving DecidableEq, Repr

/-- A frame sent and not yet acknowledged, or waiting to be sent. -/
structure OutFrame where
  seq : Nat
  last : Bool
  offset : Nat
  carries : Carries
  payload : Bytes
  poison : List Nat
  /-- The command in flight that sent it, and the local partition whose group it goes through, for the filter of the counters (R405). -/
  job : Option Nat
  part : Nat := 0xFF
  /-- ACK and PORTS of its transport header, as they stood when it was sent (R313). -/
  ack : Nat := 0
  ports : Nat := 0
  deriving DecidableEq, Repr

/-- A peer port with its connection (R314, R315). -/
structure Port where
  state : PortState
  farSerial : BitVec 128
  farPort : Nat
  nextSeq : Nat
  expected : Nat
  unacked : List OutFrame
  backlog : List OutFrame
  sinceAck : Nat
  retransmits : W32
  fcsErrors : W32
  loopErrors : W32
  deriving DecidableEq, Repr

/-- States of a group (R317). -/
inductive GroupState where
  | pending | active | failed
  deriving DecidableEq, Repr

/-- A group's running state. -/
structure Group where
  state : GroupState
  opSeq : W32
  /-- Collectives of no bytes that this device has run, which a frame of their number contradicts: OP_SEQ (R159, log 43). -/
  empties : List Nat := []
  deriving DecidableEq, Repr

/-- A stretch of a collective that this device has not dispatched yet, and the port on which it came. -/
structure Early where
  carries : Carries
  offset : Nat
  data : Bytes
  bad : List Nat
  port : Nat
  deriving DecidableEq, Repr

/-- The peer side. Groups are numbered partition × 16 + group. -/
structure Peers where
  manifest : Manifest
  ports : Tab Port
  groups : Tab Group
  early : List Early
  /-- Digests of group entries that members have reported: group key, rank, digest (R317). -/
  digests : List (Nat × Nat × BitVec 512) := []
  /-- Bytes that have come of the PEERCOPYs that peers write here: partition, peer, number, bytes (R260). -/
  copies : List (Nat × Nat × Nat × Nat) := []
  /-- Accepted manifests whose peer comparison is still to come (R383). -/
  rechecks : Nat := 0
  deriving DecidableEq, Repr

/-! ### Power and temperature (chapter 17) -/

/-- Power and rest states (R352). -/
inductive PState where
  | active | idle | watch
  deriving DecidableEq, Repr

/-- What may wake the device (R353, R354). -/
inductive Wake where
  | host
  | mail
  | peer
  deriving DecidableEq, Repr

/-- A host read that waits for the exit from WATCH (R354). -/
inductive HeldRead where
  | bar4 (p offset len : Nat)
  | cxl (hpa : Nat)
  deriving DecidableEq, Repr

/-- Power. Watts are kept in units of 10 µW where fractions of a watt arise (R346). -/
structure Power where
  capW : Nat
  brake : Bool
  /-- Reduction of the governed budget (R349), 10 µW. -/
  cut : Nat
  /-- Measured mean draw over the last 1 ms, 10 µW. -/
  mean : Nat
  /-- Granted issue fractions in 64ths, by island identifier; 64 where absent. -/
  fractions : Tab Nat
  rest : PState
  state : PState
  watchPeriod : Nat
  /-- Wake conditions held (R354): host ingress, mailbox, peer. -/
  wakeHost : Bool
  wakeMail : Bool
  wakePeer : Bool
  exiting : Bool
  /-- Host reads that wait for the exit from WATCH. -/
  held : List HeldRead
  /-- Mailboxes with a request that waits for the exit, in the order of their MB_REQ_SEQ writes (R303). -/
  mail : List Nat := []
  deriving DecidableEq, Repr

/-- Temperature. Dies are numbered as in R365: 0 to 3 C0 to C3, 4 to 15 S0 to S11, 16 X0, 17 X1. -/
structure Thermal where
  /-- Last readings of a die's sensors, quarter degrees. -/
  readings : Tab (List Int)
  failed : List Nat
  /-- Dies held at their highest level below critical (R358). -/
  heldDies : List Nat
  levels : Tab Nat
  /-- THERMTRIP_N asserted (R364). -/
  tripped : Bool
  deriving DecidableEq, Repr

/-! ### Maintenance and counters (chapters 02, 19, 20) -/

/-- A test on a pseudo-channel (R39, R72). -/
structure TestRun where
  selfTest : Bool
  done : Bool
  pattern : Nat
  walk : Nat
  check : Nat
  passes : Nat
  banks : Nat
  passesDone : Nat
  counts : List BankCounts
  steps : List Nat
  deriving DecidableEq, Repr

/-- Corrected-word accesses of a row in the rolling window (R390). -/
structure RowHits where
  count : Nat
  twoBit : Bool
  /-- Word positions at which words were corrected. -/
  words : List Nat
  candidate : Bool
  deriving DecidableEq, Repr

/-- A performance counter (R399, R400). -/
structure Counter where
  event : Nat
  enable : Bool
  filter : Nat
  filterKind : Nat
  count : Nat
  ovf : Bool
  deriving DecidableEq, Repr

/-- A sampling set enabled by perf.sample (R407, R410). Scopes: partition p is p; cluster c is 64 + c; the device 256. -/
structure Sampler where
  k : Nat
  buffer : Nat
  log2 : Nat
  vector : Nat
  producer : Nat
  fn : Nat
  enabled : Bool
  taken : Nat
  written : Nat
  dropped : Nat
  /-- Per cluster of the set: dispatches so far in the window, LFSR. -/
  windows : Tab (Nat × W32)
  /-- How many enables of this scope came before it. -/
  epoch : Nat := 0
  deriving DecidableEq, Repr

/-- A tagged command whose sample is under way or finished (R408). -/
structure Sample where
  scope : Nat
  cluster : Nat
  cmd : Option Nat
  seq : Nat
  bytes : Bytes
  finished : Bool
  /-- The enable under which its command was issued: function, buffer, size of the ring, and its number in the scope (R287). -/
  fn : Nat := 0
  buffer : Nat := 0
  log2 : Nat := 0
  epoch : Nat := 0
  deriving DecidableEq, Repr

/-- Counters and sampling. -/
structure Perf where
  ctrs : Tab Counter
  samplers : Tab Sampler
  samples : List Sample
  deriving DecidableEq, Repr

/-- What the device has put on its outputs. -/
inductive Out where
  /-- A vector of a function; whether it carries the T bit on the bound stream (R341). -/
  | msix (fn vector : Nat) (tee : Bool)
  | readData (fn : Nat) (data : Bytes) (poison : Bool)
  | readAbort (fn : Nat)
  | unsupported (fn : Nat)
  | cxlData (data : Bytes) (poison : Bool)
  | cxlDone
  | regData (fn : Nat) (value : Bytes)
  | frame (port : Nat) (f : OutFrame)
  | ackFrame (port ack : Nat)
  | nakFrame (port expected : Nat)
  | keepalive (port : Nat)
  | identity (port : Nat) (serial : BitVec 128) (ident : Nat)
  | lossNotice (port p group peer : Nat)
  | abortNotice (port p peer : Nat) (items : List Abandoned) (relay : Option (Nat × Nat))
  | resetNotice (port p group peer : Nat)
  /-- The receiver's notice and the sender's answer that its BYTES differ: port, the next hop's partition, the channel, the match number, the
  sender of the notice's BYTES, and where the hop relays it to. -/
  | recvNotice (port p channel number bytes : Nat) (relay : Option (Nat × Nat))
  | sizeNotice (port p channel number bytes : Nat) (relay : Option (Nat × Nat))
  /-- The digest of a group entry, from the member of a rank (R317). -/
  | digest (port p group rank : Nat) (value : BitVec 512) (relay : Option (Nat × Nat))
  | spdm (transport : Nat) (body : Bytes)
  /-- Measurement blocks 1 to 8, and the signature, empty where none was requested (R338). -/
  | measurements (transport : Nat) (blocks : List Bytes) (signature : Bytes)
  | report (p : Nat) (body : Bytes)
  | tdisp (p : Nat) (ok : Bool)
  deriving DecidableEq, Repr

/-- The whole module. -/
structure State where
  ident : Ident
  fuse : Fuse
  flash : Flash
  boot : Boot
  cross : Crossings
  /-- Schedule timer in µs (R282). -/
  timer : Nat
  /-- Cycle counts by island identifier, 0 where absent (R367). -/
  cycles : Tab Nat
  dram : Mem
  spad : Mem
  hostMem : List Host.Cell
  caches : Tab (List CacheLine)
  unsettled : List Unsettled
  parts : Tab Partition
  streams : Tab Stream
  prefixes : Tab PrefixEntry
  flight : Tab Flight
  nextId : Nat
  sigs : List SigUpdate
  near : Near
  /-- Key drawings made so far (R238). -/
  keyDraws : Nat
  funcs : Tab Func
  /-- Mailboxes with a request in hand, in the order of their MB_REQ_SEQ writes (R303). -/
  handed : List Nat
  log : ErrLog
  link : HostLink
  trust : Trust
  peers : Peers
  power : Power
  thermal : Thermal
  tests : Tab TestRun
  rowHits : Tab RowHits
  sched : Sched
  perf : Perf
  out : List Out
  free : Nat
  pending : List Instr
  deriving DecidableEq, Repr

/-! ### Reset -/

/-- Licences shipped with each part (R3): bits of dev.licences. -/
def Part.licences : Part → Byte
  | .drc12s2x => 0x1F
  | .drc10s2x => 0x0C
  | .drc8s1x => 0x00

def Sched.none : Sched :=
  { live := Option.none, slot := 0, inGuard := false, cycles := 0, staged := Option.none, armed := false }

def Manifest.none : Manifest := { etherType := 0x88B5, loopback := 0, peers := [], links := [], groups := [] }

def Near.empty : Near :=
  { entries := [], cuffs := [], finished := [], leases := [], writeBacks := [], refresh := [] }

/-- Registers of a function after reset: zeros; MSI-X vectors masked. -/
def Func.reset : Func :=
  { busy := false, respValid := false, lastStatus := 0, reqSeq := 0, respSeq := 0, event := 0, eventEn := 0, req := [],
    resp := [], waitFor := Option.none, held := false, msix := [], pba := [], ctrSelect := 0 }

def ErrLog.reset : ErrLog := { entries := [], lost := [], count := 0, summary := 0, holdMs := 5000 }

def HostLink.reset : HostLink :=
  { state := .up, cxl := false, d3hot := false, decoders := [] }

def Trust.reset : Trust :=
  { sessions := 0, debugSeen := false, lastAttach := 0, tdi := [], ide := [], spdm := [], licMeasure := 0 }

def Power.reset : Power :=
  { capW := 1500, brake := false, cut := 0, mean := 0, fractions := [], rest := .active, state := .active,
    watchPeriod := 1000, wakeHost := false, wakeMail := false, wakePeer := false, exiting := false, held := [] }

def Thermal.reset : Thermal := { readings := [], failed := [], heldDies := [], levels := [], tripped := false }

def Crossings.reset : Crossings := { heartbeats := [], broken := [], brokeOnce := [], cdcTimeout := 65536 }

def Boot.reset : Boot :=
  { switchClosed := true, overcurrent := false, perstLow := true, served := false, rom := false, readiness := .notReady,
    mismatches := [], slot := false, licLive := 0, licPending := 0, fencedClusters := [], fencedCores := [],
    fencedCuffs := [], offline := [], lanes := [], resetOnce := [], tested := [] }

/-- The part as assembled (DESIGN CHOICE, log 2): die revisions of major step 1 (R10). -/
def Ident.assembled (part : Part) : Ident :=
  { part := part, computeRev := 0x10, ioRev := 0x10, baseRev := 0x10, packageRev := 0, serial := 1, vendor := 0,
    rootFw := 0, rootLic := 0, deviceSecret := 0 }

/-- The units fused off at test: one physical cluster of each die, one physical core of each enabled cluster; that it is the last one of each is
a DESIGN CHOICE (log 2). -/
def Fuse.disabledUnits : List Nat := (List.range 4).map (fun d => d * 17 + 16) ++ (List.range 64).map (fun c => 68 + c * 9 + 8)

def Fuse.assembled : Fuse :=
  { fwSvn := 0, disabled := Fuse.disabledUnits, rowRepairs := [], columnRepairs := [], spareLanes := [], mapouts := [], cuffFences := [],
    calDefault := (0, 280), cal := [] }

/-- The copy shipped in slot A (DESIGN CHOICE, log 2): runs on every part. -/
def FwCopy.shipped : FwCopy :=
  { sound := true, firstSvn := 0, svn := 0, version := 0, parts := 7, firstDigest := 0, mainDigest := 0, cuffDigest := 0 }

/-- PART_CODE (R8). -/
def Part.code : Part → Nat
  | .drc12s2x => 0xDC12
  | .drc10s2x => 0xDC10
  | .drc8s1x => 0xDC08

/-- Certificate and keys as made at test: the keys' values are named, not known (DESIGN CHOICE, log 2). -/
def Attest.assembled (part : Part) : Attest :=
  { serial := 1, partCode := BitVec.ofNat 16 part.code, publicKey := 0, sealedKey := 0 }

def Flash.assembled (part : Part) : Flash :=
  { attest := Attest.assembled part, copyA := some FwCopy.shipped, copyB := Option.none, active := false, pendingActive := Option.none,
    store := if part.licences = 0 then [] else [{ features := part.licences, bytes := [] }],
    accepted := [], pendingRepairs := [] }

/-- The module of a part in full reset: powered, PERST_N low, nothing booted yet. -/
def State.resetOf (part : Part) : State :=
  { ident := Ident.assembled part, fuse := Fuse.assembled, flash := Flash.assembled part, boot := Boot.reset,
    cross := Crossings.reset, timer := 0, cycles := [], dram := Mem.empty, spad := Mem.empty, hostMem := [], caches := [],
    unsettled := [], parts := [], streams := [], prefixes := [], flight := [], nextId := 0, sigs := [], near := Near.empty,
    keyDraws := 0, funcs := [], handed := [], log := ErrLog.reset, link := HostLink.reset, trust := Trust.reset,
    peers := { manifest := Manifest.none, ports := [], groups := [], early := [] }, power := Power.reset, thermal := Thermal.reset,
    tests := [], rowHits := [], sched := Sched.none, perf := { ctrs := [], samplers := [], samples := [] }, out := [],
    free := 0, pending := [] }

/-- The machine right after reset: full reset, before PERST_N is released (R378, R396). Log 1, log 2. -/
def State.reset : State := State.resetOf .drc12s2x

end Sys2Proof.Machine
end

