-- ==== Sys2Proof/Machine/Tab.lean ====
section
/-! DEFINITION. Tab.lean: tables by number, byte lists in canonical form, and the byte order of the device (00_scope.md:
multi-byte fields are little-endian, bit 0 is the least significant). -/

namespace Sys2Proof.Machine

/-- The entry of number i. -/
def tget {α : Type} : Tab α → Nat → Option α
  | [], _ => none
  | (k, v) :: t, i => if i = k then some v else tget t i

/-- The table with entry i set, kept sorted. -/
def tput {α : Type} : Tab α → Nat → α → Tab α
  | [], i, x => [(i, x)]
  | (k, v) :: t, i, x =>
    if i < k then (i, x) :: (k, v) :: t
    else if i = k then (i, x) :: t
    else (k, v) :: tput t i x

/-- The table without entry i. -/
def tdel {α : Type} (t : Tab α) (i : Nat) : Tab α := t.filter (fun e => e.1 ≠ i)

/-- The table with entry i, if there, changed. -/
def tupd {α : Type} (t : Tab α) (i : Nat) (f : α → α) : Tab α :=
  match tget t i with
  | some v => tput t i (f v)
  | none => t

/-- Entry i, or a default. -/
def tgetD {α : Type} (t : Tab α) (i : Nat) (d : α) : α := (tget t i).getD d

/-! ### Bytes in canonical form -/

/-- The byte at an address: 0 where none is listed. -/
def cget : List Host.Cell → Nat → Byte
  | [], _ => 0
  | (k, v) :: t, a => if a = k then v else cget t a

/-- Addresses strictly rise and lie above a bound. -/
def cellsAbove (lo : Nat) : List Host.Cell → Bool
  | [] => true
  | (k, v) :: t => decide (lo ≤ k) && decide (v ≠ 0) && cellsAbove (k + 1) t

/-- The canonical form: addresses strictly rising, no listed zero. -/
def cellsWf (c : List Host.Cell) : Bool := cellsAbove 0 c

/-- The listed bytes of a range. -/
def cslice (c : List Host.Cell) (a n : Nat) : List Host.Cell := c.filter (fun e => decide (a ≤ e.1) && decide (e.1 < a + n))

/-- n bytes from an address on. -/
def cbytes (c : List Host.Cell) (a n : Nat) : Bytes :=
  let w := cslice c a n
  (List.range n).map (fun i => cget w (a + i))

/-- Consecutive bytes as they are listed: a zero is not, so that equal memories are equal lists. -/
def clist (a : Nat) : Bytes → List Host.Cell
  | [] => []
  | b :: t => if b = 0 then clist (a + 1) t else (a, b) :: clist (a + 1) t

/-- Consecutive bytes written from an address on. -/
def cwrite (c : List Host.Cell) (a : Nat) (b : Bytes) : List Host.Cell :=
  c.filter (fun e => decide (e.1 < a)) ++ clist a b ++ c.filter (fun e => decide (a + b.length ≤ e.1))

/-- Every byte of a range back to zero. -/
def cclear (c : List Host.Cell) (lo len : Nat) : List Host.Cell :=
  c.filter (fun e => ! (decide (lo ≤ e.1) && decide (e.1 < lo + len)))

/-! ### Byte order -/

/-- The number that little-endian bytes spell. -/
def leNat : Bytes → Nat
  | [] => 0
  | b :: t => b.toNat + 256 * leNat t

/-- The low n bytes of a number, little-endian. -/
def natLe : Nat → Nat → Bytes
  | 0, _ => []
  | n + 1, v => BitVec.ofNat 8 v :: natLe n (v / 256)

/-- The field of len bytes at an offset. -/
def fld (b : Bytes) (off len : Nat) : Nat := leNat ((b.drop off).take len)

/-- One byte of a record as a number. -/
def u8 (b : Bytes) (off : Nat) : Nat := fld b off 1
def u16 (b : Bytes) (off : Nat) : Nat := fld b off 2
def u32 (b : Bytes) (off : Nat) : Nat := fld b off 4
def u64 (b : Bytes) (off : Nat) : Nat := fld b off 8

/-- Bits [hi:lo] of a number, as R-tables write them. -/
def bits (v hi lo : Nat) : Nat := (v / 2 ^ lo) % 2 ^ (hi + 1 - lo)

/-- Bit i of a number. -/
def bit (v i : Nat) : Bool := v.testBit i

/-- 1 for true. -/
def b2n (b : Bool) : Nat := if b then 1 else 0

/-- n zero bytes. -/
def zeros (n : Nat) : Bytes := List.replicate n 0

/-- Bytes cut or padded with zeros to a length. -/
def padTo (n : Nat) (b : Bytes) : Bytes := b.take n ++ zeros (n - b.length)

/-- A signed number from its n-bit two's complement. -/
def signed (n v : Nat) : Int := if v < 2 ^ (n - 1) then (v : Int) else (v : Int) - (2 ^ n : Nat)

/-- a divided by b, rounded up. -/
def cdiv (a b : Nat) : Nat := (a + b - 1) / b

/-- a rounded up to a multiple of b. -/
def roundUp (a b : Nat) : Nat := cdiv a b * b

/-- A list without repeats, first occurrences kept. -/
def nubNat : List Nat → List Nat
  | [] => []
  | a :: t => a :: (nubNat t).filter (fun b => b ≠ a)

/-- Sum of a list. -/
def sumNat : List Nat → Nat
  | [] => 0
  | a :: t => a + sumNat t

/-- Is every one of these bytes zero? -/
def allZero (b : Bytes) : Bool := b.all (fun x => x = 0)

/-- Insertion into a list ordered by a relation. -/
def insertBy {α : Type} (le : α → α → Bool) (x : α) : List α → List α
  | [] => [x]
  | y :: t => if le x y then x :: y :: t else y :: insertBy le x t

/-- Insertion sort (stable). -/
def sortBy {α : Type} (le : α → α → Bool) : List α → List α
  | [] => []
  | x :: t => insertBy le x (sortBy le t)

/-- One element and what follows it, merged into a list. -/
def mergeInto {α : Type} (le : α → α → Bool) (x : α) (rest : List α → List α) : List α → List α
  | [] => x :: rest []
  | y :: t => if le x y then x :: rest (y :: t) else y :: mergeInto le x rest t

/-- Two ordered lists merged, the first one's elements before equal ones of the second. -/
def mergeTwo {α : Type} (le : α → α → Bool) : List α → List α → List α
  | [] => fun l => l
  | x :: t => mergeInto le x (mergeTwo le t)

def mergePairs {α : Type} (le : α → α → Bool) : List (List α) → List (List α)
  | a :: b :: t => mergeTwo le a b :: mergePairs le t
  | l => l

def mergeRounds {α : Type} (le : α → α → Bool) : Nat → List (List α) → List α
  | 0, l => l.flatten
  | f + 1, l => mergeRounds le f (mergePairs le l)

/-- Merge sort (stable). -/
def mergeSort {α : Type} (le : α → α → Bool) (l : List α) : List α :=
  mergeRounds le (Nat.log2 l.length + 1) (l.map (fun x => [x]))

/-- A rising list without its repeats. -/
def nubRising : List Nat → List Nat
  | a :: b :: t => if a = b then nubRising (b :: t) else a :: nubRising (b :: t)
  | l => l

/-- Position of the first element that satisfies a test. -/
def indexWhere {α : Type} (f : α → Bool) : List α → Nat → Option Nat
  | [], _ => none
  | x :: t, i => if f x then some i else indexWhere f t (i + 1)

end Sys2Proof.Machine
end

