-- ==== Sys2Proof/Machine/Mem.lean ====
section
/-! DEFINITION. Mem.lean: the arrays (device memory and scratchpads) with poison and stored bit errors per 64-bit word
(R20, R384 to R387), and what a reader sees of writes still under way (R249, R262). -/

namespace Sys2Proof.Machine

/-- The form every array keeps: canonical bytes, word lists without repeats in rising order. -/
def risingFrom (lo : Nat) : List Nat → Bool
  | [] => true
  | a :: t => decide (lo ≤ a) && risingFrom (a + 1) t

def Mem.wf (m : Mem) : Bool :=
  cellsWf m.cells && risingFrom 0 m.poison && risingFrom 0 (m.errs.map Prod.fst)

/-- A number put into a rising list. -/
def addNat : List Nat → Nat → List Nat
  | [], a => [a]
  | b :: t, a => if a < b then a :: b :: t else if a = b then b :: t else b :: addNat t a

def delNat (l : List Nat) (a : Nat) : List Nat := l.filter (fun b => b ≠ a)

/-- One byte of the array. -/
def Mem.get (m : Mem) (a : Nat) : Byte := cget m.cells a

/-- Consecutive bytes of the array. -/
def Mem.bytes (m : Mem) (a n : Nat) : Bytes := cbytes m.cells a n

/-- Word numbers of the words that n bytes from a touch. -/
def wordsOf (a n : Nat) : List Nat :=
  if n = 0 then [] else (List.range ((a + n - 1) / 8 + 1 - a / 8)).map (fun i => a / 8 + i)

/-- Is the word poisoned or does it hold an uncorrectable error? A reader takes both as bad (R144, R386). -/
def Mem.badWord (m : Mem) (w : Nat) : Bool := m.poison.contains w || decide (3 ≤ (tgetD m.errs w 0))

/-- Any bad word among n bytes from a. -/
def Mem.bad (m : Mem) (a n : Nat) : Bool := (wordsOf a n).any m.badWord

/-- Uncorrectable and not yet poisoned (R386). -/
def Mem.uncorr (m : Mem) (w : Nat) : Bool := (!m.poison.contains w) && decide (3 ≤ (tgetD m.errs w 0))

/-- A word whose 64 bits are all written loses poison and errors (R386, R85). -/
def Mem.cleanWord (m : Mem) (w : Nat) : Mem := { m with poison := delNat m.poison w, errs := tdel m.errs w }

/-- A word marked poisoned, with valid check bits. -/
def Mem.poisonWord (m : Mem) (w : Nat) : Mem := { m with poison := addNat m.poison w, errs := tdel m.errs w }

/-- A corrected word written back, or a word whose stored errors are now these (R385, R389). -/
def Mem.setErrs (m : Mem) (w n : Nat) : Mem := { m with errs := if n = 0 then tdel m.errs w else tput m.errs w n }

/-- Does the range [a, a + n) cover word w whole? -/
def coversWord (a n w : Nat) : Bool := decide (a ≤ 8 * w) && decide (8 * w + 8 ≤ a + n)

/-- After a write of n bytes at a: whole words are clean, a word merged while bad is poisoned, and any other merge re-encodes its word, whose
corrected errors are then gone (R82, R386, R387). -/
def Mem.settleWords (m : Mem) (a n : Nat) : Mem :=
  (wordsOf a n).foldl (fun m w =>
    if coversWord a n w then m.cleanWord w else if m.badWord w then m.poisonWord w else m.setErrs w 0) m

/-- Bytes written from a on. -/
def Mem.write (m : Mem) (a : Nat) (b : Bytes) : Mem :=
  ({ m with cells := cwrite m.cells a b } : Mem).settleWords a b.length

/-- Was some word of the range merged while bad? -/
def Mem.mergesBad (m : Mem) (a n : Nat) : Bool :=
  (wordsOf a n).any (fun w => !coversWord a n w && m.badWord w)

/-- A range of zeros with valid check bits and clear poison (R63, R344). -/
def Mem.clear (m : Mem) (lo len : Nat) : Mem :=
  { cells := cclear m.cells lo len,
    poison := m.poison.filter (fun w => ! (decide (lo ≤ 8 * w) && decide (8 * w < lo + len))),
    errs := m.errs.filter (fun e => ! (decide (lo ≤ 8 * e.1) && decide (8 * e.1 < lo + len))) }

/-- Words written whole by the device's own agents lose their poison (R386). -/
def Mem.unpoison (m : Mem) (whole : Nat → Bool) : Mem := { m with poison := m.poison.filter (fun w => !whole w) }

/-- The bytes that cover bits [bit, bit + width), as a number shifted to bit 0. -/
def bitsAt (b : Bytes) (shift width : Nat) : Nat := (leNat b / 2 ^ shift) % 2 ^ width

/-- The n codes of a width that stand one after another from bit `shift` of the first byte on, low bits first. -/
def codesFrom (width : Nat) : Nat → Nat → Bytes → List Nat
  | 0, _, _ => []
  | n + 1, shift, b =>
    bitsAt (b.take 5) shift width :: codesFrom width n ((shift + width) % 8) (b.drop ((shift + width) / 8))

/-- The n codes of a width that bytes spell. -/
def codesOf (width n : Nat) (b : Bytes) : List Nat := codesFrom width n 0 b

/-- Bytes that hold a field of width bits from bit number bit on: first byte and count. -/
def bitSpan (bit width : Nat) : Nat × Nat := (bit / 8, (bit % 8 + width + 7) / 8)

/-- The bytes b with width bits from bit shift on replaced by v. -/
def replaceBits (b : Bytes) (shift width v : Nat) : Bytes :=
  let n := leNat b
  let old := (n / 2 ^ shift) % 2 ^ width
  natLe b.length (n - old * 2 ^ shift + (v % 2 ^ width) * 2 ^ shift)

/-! ### What a reader sees -/


/-- Who reads. -/
inductive Reader where
  /-- An engine (or the Mantle) of a cluster. -/
  | engine (cluster engine : Nat)
  /-- A Cuff at work for a command of a cluster. -/
  | cuff (cluster : Nat)
  /-- Dispatchers, the Stream Manager, cluster controllers reading control operands, reduction units. -/
  | device
  | host
  deriving DecidableEq, Repr

/-- Did the write reach byte a of a space? -/
def Unsettled.covers (u : Unsettled) (sp : Space) (a : Nat) : Bool :=
  decide (u.space = sp) && decide (u.addr ≤ a) && u.mask.testBit (a - u.addr)

/-- The byte that the write replaced. -/
def Unsettled.oldByte (u : Unsettled) (a : Nat) : Byte := (u.old[a - u.addr]?).getD 0

/-- Is the write guaranteed readable by this reader (R88, R249, R258)? A Cuff works off the entries of one cluster's near-bank commands
in order (R46); the host sees its own writes; host reads of device memory are certain once a FENCE of HOST scope has taken the write off
the list (R259). -/
def Unsettled.seenBy (u : Unsettled) : Reader → Bool
  | .engine c e =>
    decide (u.scope = .device)
      || ((decide (u.kind = 1) || decide (u.kind = 2)) && decide (u.cluster = c) && (decide (u.scope = .cluster) || decide (u.engine = e)))
  | .cuff c => decide (u.scope = .device) || (decide (u.kind = 1) && decide (u.engine = 33) && decide (u.cluster = c))
  | .device => decide (u.scope = .device)
  | .host => decide (u.kind = 0) || u.host

/-- Bytes that this reader gets old or new as one: never more than 32 of a Cuff's reading (R83, R220, R258, R262). -/
def Unsettled.unitFor (u : Unsettled) : Reader → Nat
  | .cuff _ => min u.unit 32
  | _ => u.unit

/-- The byte a reader gets, newest write first: the write's new contents if the reader is guaranteed them, else old or new, one free
choice per write and unit (R262). -/
def observe (seed : Nat) (r : Reader) (sp : Space) (a : Nat) : List Unsettled → Byte → Byte
  | [], cur => cur
  | u :: t, cur =>
    if u.covers sp a then
      if u.seenBy r then cur
      else if Config.free seed 6 ((u.cmd * 256 + u.layer) * 2 ^ 48 + a / u.unitFor r) % 2 = 0 then cur
      else observe seed r sp a t (u.oldByte a)
    else observe seed r sp a t cur

/-! ### Settling writes -/

def Unsettled.sameGranule (u v : Unsettled) : Bool := decide (u.space = v.space) && decide (u.addr = v.addr)

/-- What a write has put into its granule, where it reached it: the bytes that the nearest newer write replaced, else what the array holds
(`cur`). `newer` are the newer writes of the granule, the nearest first. -/
def newBytes (newer : List Unsettled) (cur : Bytes) : Bytes :=
  ((List.range cur.length).zip cur).map (fun e =>
    match newer.find? (fun v => v.mask.testBit e.1) with
    | some v => (v.old[e.1]?).getD 0
    | none => e.2)

/-- An older write above which this one, whose `old` here holds what it put, is now certain: it can no longer be hidden. -/
def Unsettled.beneath (v g : Unsettled) : Unsettled :=
  if v.sameGranule g then
    { v with old := ((List.range v.old.length).zip v.old).map (fun e => if g.mask.testBit e.1 then (g.old[e.1]?).getD 0 else e.2) }
  else v

/-- Every reader is certain of the write. The host has seen its own. -/
def Unsettled.done (u : Unsettled) : Bool := decide (u.scope = .device) && (u.host || decide (u.kind = 0))

/-- Take writes off the list, newest first, that are now certain for every reader: no older write of their granule may hide their bytes
any more (R252, R257, R263). `cur` gives the granules of the arrays; `newer` are the newer writes that stay, nearest first, `gone` those
that go, with what they put. -/
def settleList (cur : Space → Nat → Bytes) (newer gone : List Unsettled) : List Unsettled → List Unsettled
  | [] => []
  | u :: t =>
    let v := gone.foldl Unsettled.beneath u
    if u.done then
      settleList cur newer ({ u with old := newBytes (newer.filter v.sameGranule) (cur u.space u.addr) } :: gone) t
    else v :: settleList cur (v :: newer) gone t

end Sys2Proof.Machine
end

