-- ==== Sys2Proof/Machine/Ops.lean ====
section
/-! DEFINITION. Ops.lean: the named operations over the state: access to partitions, queues and functions; events,
vectors and the error log; clocks; address resolution; reads and writes of memory with their side effects. -/

namespace Sys2Proof.Machine

/-! ### Access by number -/

def State.part? (s : State) (p : Nat) : Option Partition := tget s.parts p

def State.setPart (s : State) (p : Nat) (P : Partition) : State := { s with parts := tput s.parts p P }

def State.updPart (s : State) (p : Nat) (f : Partition → Partition) : State := { s with parts := tupd s.parts p f }

/-- The partition of a command in flight, with the settings that the command keeps (R288). -/
def State.partOf (s : State) (f : Flight) : Option Partition := (s.part? f.p).map (fun P => { P with live := f.under })

def State.queue? (s : State) (p q : Nat) : Option Queue :=
  match s.part? p with
  | none => none
  | some P => tget P.queues q

def State.updQueue (s : State) (p q : Nat) (f : Queue → Queue) : State :=
  s.updPart p (fun P => { P with queues := tupd P.queues q f })

def State.func (s : State) (fn : Nat) : Func := tgetD s.funcs fn Func.reset

def State.updFunc (s : State) (fn : Nat) (f : Func → Func) : State := { s with funcs := tput s.funcs fn (f (s.func fn)) }

def State.updFlight (s : State) (id : Nat) (f : Flight → Flight) : State := { s with flight := tupd s.flight id f }

/-- The copy that runs. -/
def State.running (s : State) : Option FwCopy := if s.boot.slot then s.flash.copyB else s.flash.copyA

/-- What the device has put out, in order. -/
def State.emit (s : State) (o : Out) : State := { s with out := s.out ++ [o] }

/-- The next seed for free values (log 8). -/
def State.tick (s : State) : State := { s with free := s.free + 1 }

/-- Apply a function for each element, left to right. -/
def State.each {α : Type} (s : State) (l : List α) (f : State → α → State) : State := l.foldl f s

/-- An arrival that wakes: IDLE ends at once, in WATCH the condition is held for the next sample (R353, R354). -/
def State.wake (s : State) (w : Wake) : State :=
  match s.power.state with
  | .active => s
  | .idle => { s with power := { s.power with state := .active } }
  | .watch =>
    match w with
    | .host => { s with power := { s.power with wakeHost := true } }
    | .mail => { s with power := { s.power with wakeMail := true } }
    | .peer => { s with power := { s.power with wakePeer := true } }

/-- The engines, the Cuffs and the firmware are on: in WATCH they are not, and nothing completes after a trip (R352, R364). -/
def State.working (s : State) : Bool := decide (s.power.state ≠ .watch) && !s.thermal.tripped

/-- Cluster control runs: in IDLE and WATCH its clock stands, and what crosses toward it waits (R352, R375). -/
def State.controlRuns (s : State) : Bool := decide (s.power.state = .active) && !s.thermal.tripped

/-! ### Configuration space and the ways in (R289, R339, R341) -/

def State.cfgSpace (s : State) (fn : Nat) : CfgSpace := tgetD s.link.cfg fn {}

def State.setCfg (s : State) (fn : Nat) (c : CfgSpace) : State := { s with link := { s.link with cfg := tput s.link.cfg fn c } }

/-- The stream is bound to the VF of a partition. -/
def State.boundStream (s : State) (p n : Nat) : Bool := match tget s.trust.ide n with | some x => decide (x.vf = some p) | none => false

/-- A request to a VF's BARs counts: the VFs are enabled, and in RUN it comes on the VF's bound stream with the T bit (R289, R341). -/
def State.barOpen (s : State) (p : Nat) (via : Via) : Bool :=
  (s.cfgSpace 0).vfEnable && (match tget s.trust.tdi p with
    | some .run => via.tee && (match via.stream with | some n => s.boundStream p n | none => false)
    | _ => true)

/-- The TLPs of a stream that is Insecure, or that has no keys, are discarded (R339). -/
def State.streamDrops (s : State) (via : Via) : Bool :=
  match via.stream with
  | some n => (match tget s.trust.ide n with | some x => x.insecure | none => true)
  | none => false

/-- Device requests for the partition of a VF in RUN carry the T bit (R341): its interrupts show it; of a write or a read of host memory it is an
attribute of the TLP, which host memory does not keep (log 15). -/
def State.requestTee (s : State) (p : Nat) : Bool := decide (tget s.trust.tdi p = some .run)

/-- How a request of the device for a partition goes out: in RUN with the T bit on the VF's bound stream. -/
def State.requestVia (s : State) (p : Nat) : Via :=
  if s.requestTee p then { tee := true, stream := (s.trust.ide.find? (fun e => decide (e.2.vf = some p))).map Prod.fst } else {}

/-- The T bit of what a function sends: the PF's own requests carry none. -/
def State.fnTee (s : State) (fn : Nat) : Bool := decide (fn ≠ 0) && s.requestTee (fn - 1)

/-! ### Geometry (R3, R14, R19, R26, R27, R365) -/

def Part.absentStacks : Part → List Nat
  | .drc12s2x => []
  | .drc10s2x => [5, 11]
  | .drc8s1x => [2, 5, 8, 11]

def State.stackFitted (s : State) (st : Nat) : Bool := decide (st < 12) && !s.ident.part.absentStacks.contains st

/-- IDENT (R8). -/
def Ident.word (i : Ident) : Nat :=
  i.part.code * 2 ^ 48 + i.computeRev.toNat * 2 ^ 40 + i.ioRev.toNat * 2 ^ 32 + i.baseRev.toNat * 2 ^ 24 + i.packageRev.toNat * 2 ^ 16

/-- Does the part have both I/O dies (R3)? -/
def Part.hasX1 : Part → Bool
  | .drc8s1x => false
  | _ => true

def systemPc (pc : Nat) : Bool := decide (pc / 64 < 2) && decide (pc % 64 < 4)

def bankStride : Nat := 2 ^ 27
def bankBytes : Nat := 0x5000000
def rowBytes : Nat := 2048

/-- Device-memory address of an offset in a bank. -/
def bankAddr (bank off : Nat) : Nat := bank * bankStride + off

def addrBank (a : Nat) : Nat := a / bankStride
def addrRow (a : Nat) : Nat := (a % bankStride) / rowBytes

/-- Mapped out for good (R33). -/
def State.mappedOut (s : State) (pc : Nat) : Bool := s.fuse.mapouts.contains pc

/-- A pseudo-channel that exists: fitted and not mapped out. -/
def State.pcPresent (s : State) (pc : Nat) : Bool :=
  decide (pc < 768) && s.stackFitted (pc / 64) && !s.mappedOut pc

def State.pcOffline (s : State) (pc : Nat) : Bool := (tget s.boot.offline pc).isSome

def State.clusterFenced (s : State) (c : Nat) : Bool := s.boot.fencedClusters.contains c

def State.coreFenced (s : State) (c k : Nat) : Bool := s.boot.fencedCores.contains (c * 8 + k)

def State.cuffFenced (s : State) (bank : Nat) : Bool := (tget s.boot.fencedCuffs bank).isSome

def Partition.ownsCluster (P : Partition) (c : Nat) : Bool := decide (c < 64) && P.live.clusters.getLsbD c

/-- Owned clusters in rising order. -/
def Partition.clusterList (P : Partition) : List Nat := (List.range 64).filter P.ownsCluster

/-- Is the bank bank-local in the partition (R24, R26)? -/
def Partition.localBank (P : Partition) (bank : Nat) : Bool :=
  match tget P.pcs (bank / 16) with
  | some l => decide (bank % 16 < l)
  | none => false

/-- Order (pseudo-channel, stack) of the lists of R25 and R76. -/
def pcKeyLe (a b : Nat × Nat) : Bool :=
  decide (a.1 % 64 < b.1 % 64) || (decide (a.1 % 64 = b.1 % 64) && decide (a.1 / 64 ≤ b.1 / 64))

/-- The striped banks, sorted by (bank, pseudo-channel, stack), stack varying fastest (R25). -/
def Partition.stripedBanks (P : Partition) : List Nat :=
  let pcs := sortBy pcKeyLe P.pcs
  (List.range 16).flatMap (fun b => (pcs.filter (fun e => decide (e.2 ≤ b))).map (fun e => e.1 * 16 + b))

/-- Striped capacity (R25, R301). -/
def Partition.capacity (P : Partition) : Nat := P.stripedBanks.length * bankBytes

def Page.bytes (g : Page) : Nat := if g.big then 2 ^ 30 else 2 ^ 21

def Page.covers (g : Page) (va : Nat) : Bool := decide (g.va ≤ va) && decide (va < g.va + g.bytes)

/-! ### Address resolution (R25, R26, R95, R291) -/

/-- Device-memory address of a granule of 4,096 physical striped bytes (R25). -/
def Partition.placeGranule (P : Partition) (g : Nat) : Option Nat :=
  let list := P.stripedBanks
  if list.length = 0 then none
  else
    match list[g % list.length]? with
    | none => none
    | some b => some (bankAddr b (g / list.length * 4096))

/-- A striped virtual address through the page tables; pages begin and end at multiples of 4,096 (R301). -/
def Partition.striped (P : Partition) (va : Nat) : Option Nat :=
  let first := va / 4096 * 4096
  match P.pages.find? (fun g => g.covers first) with
  | none => none
  | some g => (P.placeGranule ((g.pa + (first - g.va)) / 4096)).map (fun a => a + va % 4096)

def hostBase : Nat := 0x300000000000
def spadBase : Nat := 0x200000000000
def localBase : Nat := 0x100000000000

/-- Key of host memory: function and untranslated address. -/
def hostKey (fn addr : Nat) : Nat := fn * 2 ^ 64 + addr % 2 ^ 64

/-- A scratchpad address that the partition may access (R95). -/
def State.spaOk (s : State) (P : Partition) (spa : Nat) : Bool :=
  let c := spa / 2 ^ 24
  let o := spa % 2 ^ 24
  decide (spa < 2 ^ 30) && P.ownsCluster c && !s.clusterFenced c
    && (decide (o < 0x800000) || !s.coreFenced c ((o - 0x800000) / 0x100000))

/-- A bank-local address (R26): its bank and offset. -/
def State.localPlace (s : State) (P : Partition) (va : Nat) : Option Nat :=
  let bank := va / bankStride % 2 ^ 14
  if bits va 43 41 = 0 ∧ s.stackFitted (bank / 1024) ∧ P.localBank bank ∧ va % bankStride < bankBytes
  then some (bankAddr bank (va % bankStride)) else none

/-- Where one byte of a partition's device virtual address lies; none gives BOUNDS. -/
def State.place (s : State) (p : Nat) (P : Partition) (va : Nat) : Option (Space × Nat) :=
  if va < 2 ^ 40 then (P.striped va).map (fun a => (Space.dram, a))
  else if va / 2 ^ 44 = 1 then (s.localPlace P va).map (fun a => (Space.dram, a))
  else if va / 2 ^ 44 = 2 then
    if va - spadBase < 2 ^ 30 ∧ s.spaOk P (va - spadBase) then some (.spad, va - spadBase) else none
  else if hostBase ≤ va ∧ va < 0x700000000000 then some (.host, hostKey (p + 1) (va - hostBase))
  else none

/-- A stretch of bytes that lie together. -/
structure Seg where
  space : Space
  addr : Nat
  len : Nat
  deriving DecidableEq, Repr

def State.segsAux (s : State) (p : Nat) (P : Partition) : Nat → Nat → Nat → Option (List Seg)
  | 0, _, n => if n = 0 then some [] else none
  | f + 1, va, n =>
    if n = 0 then some []
    else
      let k := min n (4096 - va % 4096)
      match s.place p P va with
      | none => none
      | some (sp, a) =>
        match s.segsAux p P f (va + k) (n - k) with
        | none => none
        | some t => some ({ space := sp, addr := a, len := k } :: t)

/-- The stretches of n bytes from a virtual address, or none where some byte has no place (BOUNDS). Pages, banks and
windows all begin at multiples of 4,096, so a stretch never crosses one. -/
def State.segs (s : State) (p : Nat) (P : Partition) (va n : Nat) : Option (List Seg) :=
  s.segsAux p P (n / 4096 + 2) va n

/-! ### Clocks (R282, R367; log 9, log 19) -/

/-- Read the schedule timer: some µs have passed since it was last read. -/
def State.readTimer (s : State) : Nat × State :=
  let t := s.timer + Config.free s.free 1 0
  (t, { s with timer := t, free := s.free + 1 })

def islKind (i : Nat) : Nat := i / 2 ^ 12
def islInstance (i : Nat) : Nat := i % 2 ^ 12


/-- The island's clock runs in the power state (R352). -/
def State.clocked (s : State) (i : Nat) : Bool :=
  match s.power.state with
  | .active => true
  | .idle => decide (islKind i ≠ 1) && decide (islKind i ≠ 2) && decide (islKind i ≠ 3)
  | .watch => decide (islKind i = 4) || decide (islKind i = 5) || decide (islKind i = 11)

/-- Read an island's cycle count: it has moved on by some cycles, but stands still while its clock is stopped, and never runs backwards (R367). -/
def State.readCycles (s : State) (isl : Nat) : Nat × State :=
  let old := tgetD s.cycles isl 0
  let t := old + (if s.clocked isl then Config.free s.free 2 isl % (2 ^ 64 - old) else 0)
  (t, { s with cycles := tput s.cycles isl t, free := s.free + 1 })

/-- The island leaves reset: its count is zero again. -/
def State.zeroCycles (s : State) (isl : Nat) : State := { s with cycles := tdel s.cycles isl }

/-! ### Vectors, events, error log (R308, R309, R424) -/

/-- Interrupts of a function go out: MSI-X is enabled and its Function Mask clear (R289; log 41). -/
def State.vectorsOn (s : State) (fn : Nat) : Bool := (s.cfgSpace fn).msixEnable && !(s.cfgSpace fn).msixMask

/-- Raise an MSI-X vector: a masked one sets its pending bit (R136). -/
def State.raiseVector (s : State) (fn v : Nat) : State :=
  let F := s.func fn
  match tget F.msix v with
  | some e =>
    if e.masked || !s.vectorsOn fn then s.updFunc fn (fun F => { F with pba := addNat F.pba v }) else s.emit (.msix fn v (s.fnTee fn))
  | none => s.updFunc fn (fun F => { F with pba := addNat F.pba v })

/-- An event of a class reaches a mailbox (R308). -/
def State.raiseEvent (s : State) (fn i : Nat) : State :=
  let F := s.func fn
  if F.event.getLsbD i then s
  else
    let s := s.updFunc fn (fun F => { F with event := F.event ||| BitVec.ofNat 9 (2 ^ i) })
    if F.eventEn.getLsbD i then s.raiseVector fn 0 else s

/-- A new error-log entry; the fields that a class does not use keep these values (R309). -/
structure LogNew where
  cls : Nat
  islandA : Nat
  islandB : Nat := 0
  part : Nat := 0xFF
  queue : Nat := 0xFF
  tag : Nat := 0
  status : Nat := 0xFF
  loc : Bytes := zeros 8
  detail : Bytes := zeros 32
  deriving DecidableEq, Repr

/-- Bytes of an entry (R309). -/
def LogNew.bytes (e : LogNew) (time : Nat) : Bytes :=
  natLe 8 time ++ natLe 2 e.cls ++ natLe 2 e.islandA ++ natLe 2 e.islandB ++ natLe 1 e.part ++ natLe 1 e.queue
    ++ natLe 2 e.tag ++ natLe 1 e.status ++ zeros 5 ++ padTo 8 e.loc ++ padTo 32 e.detail

/-- Does the entry belong to the mailbox (R309)? -/
def LogEntry.forFn (e : LogEntry) (fn : Nat) : Bool := decide (fn = 0) || decide (u8 e.bytes 14 + 1 = fn)

/-- The mailboxes that had not read an entry lose it when it is overwritten. -/
def ErrLog.drop (l : ErrLog) (e : LogEntry) : ErrLog :=
  let who := 0 :: (if u8 e.bytes 14 = 0xFF then [] else [u8 e.bytes 14 + 1])
  { l with lost := (who.filter (fun fn => !e.readBy.contains fn)).foldl (fun t fn => tput t fn (tgetD t fn 0 + 1)) l.lost }

def ErrLog.push (l : ErrLog) (e : LogEntry) (cls : Nat) : ErrLog :=
  let l : ErrLog :=
    { l with count := l.count + 1, summary := if cls < 12 then l.summary ||| BitVec.ofNat 12 (2 ^ cls) else l.summary }
  match l.entries with
  | [] => { l with entries := [e] }
  | o :: rest =>
    if 4096 ≤ l.entries.length then { l.drop o with entries := rest ++ [e] } else { l with entries := l.entries ++ [e] }

/-- Write an error-log entry: LOG_COUNT, the summary bit, and the ERROR event of the mailboxes it is for. -/
def State.logErr (s : State) (n : LogNew) : State :=
  let (t, s) := s.readTimer
  let s := { s with log := s.log.push { bytes := n.bytes t, readBy := [] } n.cls }
  let s := s.raiseEvent 0 5
  if n.part < 32 then s.raiseEvent (n.part + 1) 5 else s

/-! ### Power -/

/-- Power-good of the switched domains: asserted while the input switch is closed; the 100 ms before it are time (R414, log 36). -/
def State.powerGood (s : State) : Bool := s.boot.switchClosed

/-- The module has its input power and is not held in a full reset. -/
def State.alive (s : State) : Bool := s.powerGood && !s.boot.perstLow

/-! ### Islands as log entries and completion records name them (R134) -/

def islArith (c : Nat) : Nat := 0x1000 + c
def islControl (c : Nat) : Nat := 0x2000 + c
def islCuff (pc : Nat) : Nat := 0x3000 + pc
def islPeer (port : Nat) : Nat := 0x4000 + port
def islPcie : Nat := 0x5000
def islStream (die : Nat) : Nat := 0x6000 + die

/-! ### Performance counters (R399, R400; events of R405) -/

def Counter.add (c : Counter) (n : Nat) : Counter :=
  { c with count := (c.count + n) % 2 ^ 48, ovf := c.ovf || decide (2 ^ 48 ≤ c.count + n) }

/-- Does the counter select this event? `part` and `port` are the partition and port of an I/O-die event. -/
def Counter.selects (c : Counter) (ev part port : Nat) : Bool :=
  c.enable && decide (c.event = ev)
    && (decide (c.filterKind = 0) || (decide (c.filterKind = 1) && decide (c.filter = part))
      || (decide (c.filterKind = 2) && decide (c.filter = port)))

/-- n events of a code at a unit (kind 0 core, 1 cluster, 2 pseudo-channel, 3 I/O die). -/
def State.countIo (s : State) (kind inst ev n part port : Nat) : State :=
  { s with perf := { s.perf with ctrs := s.perf.ctrs.map (fun e =>
      if e.1 / 2 ^ 16 = kind * 2 ^ 12 + inst ∧ e.2.selects ev part port then (e.1, e.2.add n) else e) } }

def State.count (s : State) (kind inst ev n : Nat) : State := s.countIo kind inst ev n 0 0

/-! ### Host memory (R259, R291, R311) -/

/-- A host-link loss has been declared and the link is not back (R311). -/
def State.linkGone (s : State) : Bool := decide (s.link.state = .lost) || decide (s.link.state = .expired)

def hostFind : List Host.Cell → Nat → Option Byte
  | [], _ => none
  | (k, v) :: t, a => if a = k then some v else hostFind t a

/-- A byte of host memory: what the device wrote, else what the host keeps there (log 11). -/
def State.hostByte (s : State) (key : Nat) : Byte := (hostFind s.hostMem key).getD (Config.hostByte key)

/-- Consecutive bytes, each listed. -/
def hostList (key : Nat) : Bytes → List Host.Cell
  | [] => []
  | b :: t => (key, b) :: hostList (key + 1) t

def hostWriteAll (m : List Host.Cell) (key : Nat) (b : Bytes) : List Host.Cell :=
  m.filter (fun e => decide (e.1 < key)) ++ hostList key b ++ m.filter (fun e => decide (key + b.length ≤ e.1))

/-- A write of host memory on behalf of a queue: discarded and counted while the link is lost (R311, order 3). -/
def State.hostWrite (s : State) (p q key : Nat) (b : Bytes) : State :=
  if s.linkGone then s.updQueue p q (fun Q => { Q with discarded := Q.discarded + 1 })
  else ({ s with hostMem := hostWriteAll s.hostMem key b } : State).countIo 3 0 0xC1 (cdiv b.length 64) p 0

/-- A write of host memory by the firmware or the schedule, for a function. -/
def State.hostWriteFw (s : State) (fn addr : Nat) (b : Bytes) : State :=
  if s.linkGone then s else { s with hostMem := hostWriteAll s.hostMem (hostKey fn addr) b }

def State.hostBytes (s : State) (key : Nat) (n : Nat) : Bytes :=
  let w := cslice s.hostMem key n
  (List.range n).map (fun i => (hostFind w (key + i)).getD (Config.hostByte (key + i)))

/-- Overlap of two ranges. -/
def overlaps (a n b m : Nat) : Bool := decide (0 < n) && decide (0 < m) && decide (a < b + m) && decide (b < a + n)

/-! ### Reading -/

/-- Contents of a stretch as a reader gets them; only the unsettled granules it meets matter. -/
def State.observeAll (s : State) (r : Reader) (g : Seg) (cur : Bytes) : Bytes :=
  let us := s.unsettled.filter (fun u => decide (u.space = g.space) && overlaps u.addr 64 g.addr g.len)
  ((List.range g.len).zip cur).map (fun e => observe s.free r g.space (g.addr + e.1) us e.2)

/-- The bytes of a stretch as a reader gets them. -/
def State.view (s : State) (r : Reader) (g : Seg) : Bytes :=
  match g.space with
  | .host => s.hostBytes g.addr g.len
  | .dram => s.observeAll r g (s.dram.bytes g.addr g.len)
  | .spad => s.observeAll r g (s.spad.bytes g.addr g.len)

/-- Does the stretch hold a poisoned or uncorrectable word? -/
def State.badSeg (s : State) (g : Seg) : Bool :=
  match g.space with
  | .host => false
  | .dram => s.dram.bad g.addr g.len
  | .spad => s.spad.bad g.addr g.len

def State.viewAll (s : State) (r : Reader) (l : List Seg) : Bytes := l.flatMap (s.view r)
def State.badAll (s : State) (l : List Seg) : Bool := l.any s.badSeg

/-- The store behind a space. -/
def State.store (s : State) : Store → Mem
  | .dram => s.dram
  | .spad => s.spad

def State.setStore (s : State) (st : Store) (m : Mem) : State :=
  match st with
  | .dram => { s with dram := m }
  | .spad => { s with spad := m }

/-- LOCATION of a word: bank identifier and row, or scratchpad address. -/
def wordLoc (st : Store) (w : Nat) : Bytes :=
  match st with
  | .dram => natLe 2 (addrBank (8 * w)) ++ natLe 4 (addrRow (8 * w)) ++ zeros 2
  | .spad => natLe 8 (8 * w)

/-- Island that reports a word. -/
def wordIsland (st : Store) (w : Nat) : Nat :=
  match st with
  | .dram => islCuff (addrBank (8 * w) / 16)
  | .spad => islArith (8 * w / 2 ^ 24)

/-- Which partition owns a word. -/
def State.ownerOf (s : State) (st : Store) (w : Nat) : Option Nat :=
  match st with
  | .dram => (s.parts.find? (fun e => (tget e.2.pcs (addrBank (8 * w) / 16)).isSome)).map Prod.fst
  | .spad => (s.parts.find? (fun e => e.2.ownsCluster (8 * w / 2 ^ 24))).map Prod.fst

/-- A new repair candidate: listed in flash while there is room, and logged with its bank, its row or subarray, and the counts (R390). -/
def State.addCandidate (s : State) (c : Candidate) (w place n nbits : Nat) : State :=
  let isNew := !s.flash.pendingRepairs.contains c
  let room := decide (s.flash.pendingRepairs.length < 1024)
  let s := { s with flash := { s.flash with pendingRepairs := if isNew && room then s.flash.pendingRepairs ++ [c] else s.flash.pendingRepairs } }
  let loc := natLe 2 c.bank ++ natLe 4 place ++ zeros 2
  let s := s.logErr { cls := 0, islandA := islCuff (c.bank / 16), part := ((s.ownerOf .dram w).getD 0xFF), loc := loc,
                      detail := natLe 4 n ++ natLe 1 (b2n (nbits = 2)) ++ natLe 1 (b2n c.column) ++ natLe 2 (c.unit % 256) }
  if isNew && !room then s.logErr { cls := 0x10A, islandA := islCuff (c.bank / 16), loc := loc } else s

/-- Candidate rows of the subarray of a row that have failed at a word position. -/
def State.failingRows (s : State) (bank row pos : Nat) : List Nat :=
  (s.rowHits.filter (fun e => e.2.candidate && decide (e.1 / 2 ^ 16 = bank) && decide (e.1 % 2 ^ 16 % 40 = row % 40)
    && e.2.words.contains pos)).map (fun e => e.1 % 2 ^ 16)

/-- Count a corrected word for its row (R390; row r lies in subarray r mod 40, R48); `first`: it is the first such word of its access. The fourth
access within the window, or a two-bit error, makes the row a candidate; whether the earlier accesses lie within 24 hours is a free choice (log 9).
Three candidate rows of one subarray that fail at one word position merge into a column group. -/
def State.countCorrected (s : State) (w nbits : Nat) (first : Bool) : State :=
  let bank := addrBank (8 * w)
  let row := addrRow (8 * w)
  let key := bank * 2 ^ 16 + row
  let h := tgetD s.rowHits key { count := 0, twoBit := false, words := [], candidate := false }
  let n := h.count + b2n first
  let full := decide (4 ≤ n) && decide (Config.free s.free 3 key % 2 = 0)
  let cand := h.candidate || full || decide (nbits = 2)
  let h' : RowHits :=
    { count := if 4 ≤ n ∧ !full then 3 else n, twoBit := h.twoBit || decide (nbits = 2), words := addNat h.words (w % 256), candidate := cand }
  let s := ({ s with rowHits := tput s.rowHits key h' } : State).tick
  let s := s.count 2 (bank / 16) 0x89 1
  if !cand then s
  else
    let columns := h'.words.filter (fun x => decide (3 ≤ (s.failingRows bank row x).length))
    if columns.isEmpty then (if h.candidate then s else s.addCandidate { column := false, bank := bank, unit := row } w row n nbits)
    else
      s.each columns (fun s x =>
        let c : Candidate := { column := true, bank := bank, unit := row % 40 * 256 + x }
        let rows := s.failingRows bank row x
        let drop := fun (y : Candidate) => !y.column && decide (y.bank = bank) && rows.contains y.unit
        let s := { s with flash := { s.flash with pendingRepairs := s.flash.pendingRepairs.filter (fun y => !drop y) } }
        if s.flash.pendingRepairs.contains c then s else s.addCandidate c w (row % 40) n nbits)

/-- A reader meets the stored errors of a word: one or two wrong bits are corrected and written back later (R385), three
are poisoned and logged once (R386). `first`: no other word that is corrected came before it in the same access. -/
def State.meetWord (s : State) (st : Store) (w : Nat) (first : Bool) : State :=
  let e := tgetD (s.store st).errs w 0
  if (s.store st).poison.contains w || decide (e = 0) then s
  else if e ≤ 2 then
    let s := { s with near := { s.near with writeBacks :=
                                            if s.near.writeBacks.contains (st, w) then s.near.writeBacks else s.near.writeBacks ++ [(st, w)] } }
    match st with
    | .dram => s.countCorrected w e first
    | .spad => s
  else
    let s := s.setStore st ((s.store st).poisonWord w)
    s.logErr { cls := 1, islandA := wordIsland st w, part := ((s.ownerOf st w).getD 0xFF), loc := wordLoc st w }

/-- Words of a range that hold stored errors. -/
def Mem.errWords (m : Mem) (a n : Nat) : List Nat :=
  (m.errs.filter (fun e => decide (a < 8 * e.1 + 8) && decide (8 * e.1 < a + n))).map Prod.fst

/-- Is the word the first of its 64-byte unit, which one access reads, among those of a list (R390, log 29)? -/
def firstOf (l : List Nat) (w : Nat) : Bool := !(l.takeWhile (fun x => decide (x ≠ w))).any (fun x => decide (x / 8 = w / 8))

/-- Readers meet words of one array, unit by unit. -/
def State.meetWords (s : State) (st : Store) (l : List Nat) : State :=
  let fixed := l.filter (fun w => decide (tgetD (s.store st).errs w 0 = 1) || decide (tgetD (s.store st).errs w 0 = 2))
  s.each l (fun s w => s.meetWord st w (firstOf fixed w))

/-- A reader meets every word of a stretch. -/
def State.meetSeg (s : State) (g : Seg) : State :=
  match g.space with
  | .host => s
  | .dram => s.meetWords .dram (s.dram.errWords g.addr g.len)
  | .spad => s.meetWords .spad (s.spad.errWords g.addr g.len)

def State.meetAll (s : State) (l : List Seg) : State := s.each l State.meetSeg

/-! ### Leases and write-backs (R67, R81, R385) -/

/-- A near-bank command in flight. -/
def State.nb? (s : State) (id : Nat) : Option (Flight × Nb) :=
  match tget s.flight id with
  | some f => f.nb.map (fun n => (f, n))
  | none => none

/-- Has the Cuff of a bank ended all its entries of a command? -/
def State.bankDone (s : State) (id bank : Nat) (n : Nb) : Bool :=
  !n.waiting && !(s.near.entries ++ n.toSend).any (fun e => decide (e.cmd = id) && decide (e.bank = bank))

/-- Does a correction that the Cuff made for the leasing command wait to be written back within its rows (R67, R81)? -/
def State.leaseWriteBack (s : State) (l : Lease) : Bool :=
  s.near.cuffBacks.any (fun x => decide (x.1 = l.cmd) && decide (addrBank (8 * x.2) = l.bank)
    && decide (l.rowLo ≤ addrRow (8 * x.2)) && decide (addrRow (8 * x.2) ≤ l.rowHi))

/-- Leases whose bank has no work and no write-back left end. -/
def State.endLeases (s : State) : State :=
  { s with near := { s.near with leases := s.near.leases.filter (fun l =>
      match s.nb? l.cmd with
      | some (_, n) => !s.bankDone l.cmd l.bank n || s.leaseWriteBack l
      | none => false) } }

/-- Write-backs of some words are cancelled, or done (R82, R385). -/
def Near.dropBacks (n : Near) (gone : Store → Nat → Bool) : Near :=
  { n with writeBacks := n.writeBacks.filter (fun x => !gone x.1 x.2), cuffBacks := n.cuffBacks.filter (fun x => !gone .dram x.2) }

/-! ### Protected ranges (R75, R231) -/

/-- Bytes of one stream's block table (R231). -/
def Pool.tableBytes (o : Pool) : Nat := roundUp (o.maxBlocks * o.layers.length * 4) 64

/-- Bytes of a shared-group record (R240). -/
def Pool.recordBytes (o : Pool) : Nat := roundUp (16 + 4 * o.layers.length + 4 * o.tokens) 64

/-- Bytes of the metadata area: the block tables, then the shared-group records (R231, R240). -/
def Pool.metaBytes (o : Pool) : Nat := o.streamCount * o.tableBytes + o.sharedGroups * o.recordBytes

/-- Does a write of n bytes at a virtual address meet the pool range or the metadata area? -/
def Partition.protectedVa (P : Partition) (va n : Nat) : Bool :=
  match P.pool with
  | none => false
  | some o =>
    overlaps va n o.metaVa o.metaBytes
      || (decide (va / 2 ^ 44 = 1) && o.banks.contains (va / bankStride % 2 ^ 14)
        && overlaps (va % bankStride) n o.base o.size)

/-! ### Writing -/

/-- Completion status codes (R422). -/
def Status.code : Status → Nat
  | .ok => 0x00 | .skippedPred => 0x01 | .illegal => 0x02 | .inconsistent => 0x03 | .aliased => 0x04 | .bounds => 0x05
  | .poison => 0x06 | .leaseConflict => 0x07 | .eccUncorr => 0x08 | .timeoutCdc => 0x09 | .hostTimeout => 0x0A
  | .peerLost => 0x0B | .configRejected => 0x0C | .partitionReset => 0x0D | .contextTorn => 0x0E

/-- Who writes: a command with its queue, cluster and engine; kind 0 host, 1 cluster, 2 stream command (engine 36 plus the
Stream Manager shard), 3 peer. -/
structure Writer where
  cmd : Nat
  p : Nat
  q : Nat
  cluster : Nat
  engine : Nat
  kind : Nat
  /-- Bytes that a reader of the write gets old or new as one: 64, or one element under ACCUM (R262); 32 for a Cuff (R83). -/
  unit : Nat := 64
  /-- The bits that a write of one byte sets (R176). -/
  bits : Nat := 255
  deriving DecidableEq, Repr

/-- A condition that a command has met; the first that enters the skip log keeps its offset. -/
def State.condition (s : State) (id : Nat) (st : Status) : State :=
  s.updFlight id (fun f => if f.conds.contains st then f else { f with conds := f.conds ++ [st] })

/-- A poisoned word of the system region holds what the test picks (R27, R386; log 29). -/
def State.sysBad (s : State) (holds : SysUse → Bool) : Bool :=
  s.dram.poison.any (fun w => systemPc (addrBank (8 * w) / 16) && holds (Config.systemUse w))

/-- Words of the system region that the test picks are written whole. -/
def State.sysWritten (s : State) (holds : SysUse → Bool) : State :=
  { s with dram := s.dram.unpoison (fun w => systemPc (addrBank (8 * w) / 16) && holds (Config.systemUse w)) }

/-- Reads toward a pseudo-channel held offline end their command with TIMEOUT_CDC (R31, R373). -/
def State.crossReads (s : State) (id : Nat) (l : List Seg) : State :=
  if l.any (fun g => decide (g.space = .dram) && s.pcOffline (addrBank g.addr / 16)) then s.condition id .timeoutCdc else s

/-- A command has read these stretches: crossings, then stored errors (R373, R385, R386). -/
def State.readSegs (s : State) (id : Nat) (l : List Seg) : State := (s.crossReads id l).meetAll l

/-- The 64 bytes of a granule of the arrays. -/
def State.granule (s : State) (sp : Space) (a : Nat) : Bytes := (if sp = .dram then s.dram else s.spad).bytes a 64

/-- Unit in which a writer's bytes turn from old to new (R83, R262). -/
def Writer.unitOf (w : Writer) : Nat := if w.engine = 33 ∧ w.kind = 1 then 32 else w.unit

/-- The mask of bytes lo to hi - 1 of a granule. -/
def maskOf (lo hi : Nat) : Nat := 2 ^ hi - 2 ^ lo

/-- The write a of a command joins what the same command has put into the granule last; under ACCUM a second add to an element stands
apart, so that a reader may get the element after any leading part of its adds (R262). -/
def Unsettled.takes (u : Unsettled) (w : Writer) (sp : Space) (a mask : Nat) : Bool :=
  decide (u.cmd = w.cmd) && decide (u.space = sp) && decide (u.addr = a) && (decide (32 ≤ w.unit) || decide (u.mask &&& mask = 0))

/-- Note what a write replaces in one granule. -/
def State.unsettleOne (s : State) (w : Writer) (sp : Space) (a mask : Nat) : State :=
  let now := s.granule sp a
  let fresh := fun (k : Nat) =>
    ({ space := sp, addr := a, old := now, mask := mask, unit := w.unitOf, layer := k, cmd := w.cmd, p := w.p, q := w.q,
       cluster := w.cluster, engine := w.engine, kind := w.kind, scope := .own, told := [], known := [], host := false } : Unsettled)
  match s.unsettled.find? (fun u => decide (u.space = sp) && decide (u.addr = a)) with
  | some u =>
    if u.takes w sp a mask then
      let old := ((List.range u.old.length).zip u.old).map (fun e => if u.mask.testBit e.1 then e.2 else (now[e.1]?).getD 0)
      { s with unsettled := { u with old := old, mask := u.mask ||| mask } :: s.unsettled.erase u }
    else { s with unsettled := fresh (if u.cmd = w.cmd then u.layer + 1 else 0) :: s.unsettled }
  | none => { s with unsettled := fresh 0 :: s.unsettled }

/-- Remember what a write replaces, granule by granule (R262). Host memory is outside (R249). -/
def State.unsettle (s : State) (w : Writer) (g : Seg) : State :=
  if g.space = .host ∨ g.len = 0 then s
  else
    let first := g.addr / 64
    s.each (List.range ((g.addr + g.len - 1) / 64 + 1 - first)) (fun s i =>
      let a := (first + i) * 64
      s.unsettleOne w g.space a (maskOf (g.addr - a) (min 64 (g.addr + g.len - a))))

/-- Writes come further toward their readers; those that every reader is certain of leave the list. -/
def State.raiseScope (s : State) (f : Unsettled → Unsettled) : State :=
  { s with unsettled := settleList s.granule [] [] (s.unsettled.map f) }

/-- A range of an array is cleared: zeros, valid check bits, and nothing of earlier writes to be seen any more (R344, R384). -/
def State.clearArray (s : State) (st : Store) (a n : Nat) : State :=
  { s.setStore st ((s.store st).clear a n) with
    unsettled := s.unsettled.filter (fun u => !(decide (u.space = (match st with | .dram => Space.dram | .spad => .spad))
      && overlaps u.addr 64 a n)) }

/-- The granules of 64 bytes, or the halves of them (a Cuff's unit), that a write of some bytes sets bits of, with the bits and their values.
Words that the test picks are left poisoned. -/
def Writer.mixes (w : Writer) (g : Seg) (b : Bytes) (bad : Nat → Bool) : List Mix :=
  let size := if w.unitOf = 32 then 32 else 64
  if b.isEmpty then []
  else
    (List.range ((g.addr + b.length - 1) / size + 1 - g.addr / size)).map (fun i =>
      let lo := max g.addr ((g.addr / size + i) * size)
      let hi := min (g.addr + b.length) ((g.addr / size + i + 1) * size)
      let a := lo / 64 * 64
      let bits := if w.bits = 255 then maskOf (8 * (lo - a)) (8 * (hi - a)) else w.bits * 2 ^ (8 * (lo - a))
      { space := g.space, addr := a, bits := bits, val := (leNat ((b.drop (lo - g.addr)).take (hi - lo)) * 2 ^ (8 * (lo - a))) &&& bits,
        bad := sumNat ((List.range 8).map (fun k => if 64 * k < 8 * (hi - a) ∧ 8 * (lo - a) < 64 * k + 64 ∧ bad (a / 8 + k) then 2 ^ k else 0)),
        unit := w.unitOf, by_ := .other })

/-- Does a granule meet a range? -/
def Mix.meets (x : Mix) (r : Range) : Bool := decide (r.space = x.space) && overlaps r.addr r.len x.addr 64

/-- Writes of another command are noted by a command in flight, as far as they meet what it reads or writes. -/
def Flight.meet (f : Flight) (by_ : MixBy) (l : List Mix) : Flight :=
  { f with mixed := f.mixed ++ (l.filter (fun x => (f.reads ++ f.writes).any x.meets)).map (fun x => { x with by_ := by_ }) }

/-- Has a write to some bytes anything to do with what a command in flight reads or writes? -/
def Flight.touches (f : Flight) (sp : Space) (a n : Nat) : Bool :=
  (f.reads ++ f.writes).any (fun r => decide (r.space = sp) && overlaps r.addr r.len a n)

/-- A write meets what an engine's command in flight reads or writes: the device tracks no such dependency between engines (R88), so that what
the command reads there, old or new, and whose value stays, is open until it completes; a later command of its own engine keeps what it
writes, and reads what an earlier one puts (R88, R176). -/
def State.mixReaders (s : State) (w : Writer) (g : Seg) (b : Bytes) (bad : Nat → Bool) : State :=
  { s with flight := s.flight.map (fun e =>
      if e.2.engine < 33 ∧ ¬(w.kind = 1 ∧ e.1 = w.cmd)
          ∧ e.2.touches g.space g.addr b.length
        then
          let by_ : MixBy := if w.kind = 1 ∧ e.2.cluster = w.cluster ∧ e.2.engine = w.engine then (if w.cmd < e.1 then .earlier else .later)
            else .other
          (e.1, e.2.meet by_ (w.mixes g b bad))
        else e) }

/-- The leases that a write of n bytes at a device-memory address meets (R82). -/
def Near.leasesHit (n : Near) (a len : Nat) : List Lease :=
  n.leases.filter (fun l => decide (l.bank = addrBank a) && decide (l.rowLo ≤ addrRow (a + len - 1))
    && decide (addrRow a ≤ l.rowHi))

/-- A write meets a lease: the command will complete with LEASE_CONFLICT, and the event is logged (R82). R82 does not say how many entries
one command's write gives nor which of several rows LOCATION names: each stretch of contiguous bytes gives one, with the first leased row
it meets (DESIGN CHOICE, log 38). -/
def State.leaseHit (s : State) (w : Writer) (a : Nat) (l : Lease) : State :=
  match tget s.flight l.cmd with
  | none => s
  | some f =>
    let who : Nat × Nat := if w.kind = 3 then (Config.free s.free 4 0 % 256, Config.free s.free 4 1 % 256) else if w.kind = 2 then (2, w.engine - 36) else (w.kind, w.cluster)
    let s := (s.condition l.cmd .leaseConflict).tick
    let s := s.count 2 (l.bank / 16) 0x8A 1
    s.logErr { cls := 8, islandA := islCuff (l.bank / 16), part := f.p, queue := f.q, tag := u16 f.bytes 4,
               status := Status.leaseConflict.code, loc := natLe 2 l.bank ++ natLe 4 (max l.rowLo (addrRow a)) ++ zeros 2,
               detail := natLe 1 who.1 ++ natLe 1 who.2 ++ zeros 30 }

/-- A line of a cache without the lines a write touches (R98). -/
def dropLines (l : List CacheLine) (a n : Nat) : List CacheLine :=
  l.filter (fun x => !overlaps x.addr 128 a n)

/-- Words of a write that are written in part. -/
def partWords (a n : Nat) : List Nat := (wordsOf a n).filter (fun w => !coversWord a n w)

/-- The merges of a narrow write read their words first (R385 to R387): a correctable error is corrected, an uncorrectable word is poisoned and
logged, and every merge counts as an event of the channel, or of the core whose scratchpad it is; of the cluster's scratchpad, of core 0
(DESIGN CHOICE, log 47). -/
def State.mergeWords (s : State) (st : Store) (a n : Nat) : State :=
  let l := partWords a n
  let s := s.meetWords st l
  if l.isEmpty then s
  else
    match st with
    | .dram => s.count 2 (addrBank a / 16) 0x88 l.length
    | .spad =>
      let o := a % 2 ^ 24
      s.count 0 (a / 2 ^ 24 * 8 + (if o < 0x800000 then 0 else (o - 0x800000) / 0x100000)) 0x0A l.length

/-- Write one stretch. `bad` poisons every word touched (R144). -/
def State.writeSeg (s : State) (w : Writer) (g : Seg) (b : Bytes) (bad : Bool) : State :=
  match g.space with
  | .host => (s.mixReaders w g b (fun _ => false)).hostWrite w.p w.q g.addr b
  | .spad =>
    let words := wordsOf g.addr b.length
    let s := s.mergeWords .spad g.addr b.length
    let merge := s.spad.mergesBad g.addr b.length
    let m := s.spad.write g.addr b
    let m := if bad then words.foldl Mem.poisonWord m else m
    let s := (s.mixReaders w g b m.badWord).unsettle w g
    let s := { s with spad := m, near := s.near.dropBacks (fun st x => decide (st = Store.spad) && words.contains x) }
    if merge then s.condition w.cmd .poison else s
  | .dram =>
    -- nothing reaches a pseudo-channel held offline (R31, R373)
    if s.pcOffline (addrBank g.addr / 16) then s.condition w.cmd .timeoutCdc else
    let s := s.each (s.near.leasesHit g.addr b.length) (fun s l => s.leaseHit w g.addr l)
    let words := wordsOf g.addr b.length
    let s := s.mergeWords .dram g.addr b.length
    let merge := s.dram.mergesBad g.addr b.length
    let m := s.dram.write g.addr b
    let m := if bad then words.foldl Mem.poisonWord m else m
    let s := (s.mixReaders w g b m.badWord).unsettle w g
    let s := { s with dram := m, near := s.near.dropBacks (fun st x => decide (st = Store.dram) && words.contains x),
                      caches := if w.kind = 1 ∧ w.engine < 32 then tupd s.caches w.cluster (fun l => dropLines l g.addr b.length) else s.caches }
    let s := s.endLeases
    if merge then s.condition w.cmd .poison else s

/-- Write consecutive stretches. -/
def State.writeAll (s : State) (w : Writer) : List Seg → Bytes → Bool → State
  | [], _, _ => s
  | g :: t, b, bad => (s.writeSeg w g (b.take g.len) bad).writeAll w t (b.drop g.len) bad

/-! ### Credit word and completion ring (R114, R133 to R136) -/

/-- The credit word (R114). -/
def Queue.creditWord (Q : Queue) : Nat :=
  Q.cpos % 2 ^ 48 + b2n Q.stalled * 2 ^ 48 + b2n Q.broken * 2 ^ 49 + b2n (!Q.skipLog.isEmpty) * 2 ^ 50

def State.writeCredit (s : State) (p q : Nat) : State :=
  match s.queue? p q with
  | none => s
  | some Q => s.hostWrite p q (hostKey (p + 1) Q.credit) (natLe 8 Q.creditWord)

def Queue.ringSize (Q : Queue) : Nat := 2 ^ Q.cqLog2

def Queue.full (Q : Queue) : Bool := decide (Q.consumed + Q.ringSize ≤ Q.written)

/-- Write one entry of the ring, which has room (R133): the phase is 1 on the first pass. -/
def State.ringWrite (s : State) (p q : Nat) (Q : Queue) (e : Bytes) : State :=
  let i := Q.written % Q.ringSize
  let phase := b2n (Q.written / Q.ringSize % 2 = 0)
  let e := e.take 3 ++ natLe 1 (u8 e 3 / 2 * 2 + phase) ++ e.drop 4
  let s := s.hostWrite p q (hostKey (p + 1) (Q.cqBase + 16 * i)) e
  let s := s.countIo 3 0 0xC5 1 p 0
  let n := Q.unsignalled + 1
  let fire := decide (Q.coCount ≤ n)
  let s := s.updQueue p q (fun Q => { Q with written := Q.written + 1, unsignalled := if fire then 0 else n })
  if fire then s.raiseVector (p + 1) Q.vector else s

/-- Write the entries that wait, as far as the ring has room. -/
def State.ringDrain (s : State) (p q : Nat) : Nat → State
  | 0 => s
  | f + 1 =>
    match s.queue? p q with
    | none => s
    | some Q =>
      match Q.held with
      | [] => s
      | e :: t =>
        if Q.full then s
        else ((s.updQueue p q (fun Q => { Q with held := t })).ringWrite p q Q e).ringDrain p q f

/-- A completion record goes to its ring, or waits while the ring is full (R135). -/
def State.ringPut (s : State) (p q : Nat) (e : Bytes) : State :=
  match s.queue? p q with
  | none => s
  | some Q =>
    if Q.full || !Q.held.isEmpty then s.updQueue p q (fun Q => { Q with held := Q.held ++ [e] })
    else s.ringWrite p q Q e

end Sys2Proof.Machine
end

