-- ==== Sys2Proof/Machine/Mail.lean ====
section
/-! DEFINITION. Mail.lean: the request that lies in a mailbox and its response (R302 to R306). -/

namespace Sys2Proof.Machine

/-- Response statuses of R306. -/
inductive Answer where
  | ok | refused | badField | wrongMailbox | badPartition | unknownMessage | protoUnsupported | seqMismatch | hostAccess
  | signature | timeout | notReady
  deriving DecidableEq, Repr

def Answer.code : Answer → Nat
  | .ok => 0x0000
  | .refused => 0x0001
  | .badField => 0x0002
  | .wrongMailbox => 0x0003
  | .badPartition => 0x0004
  | .unknownMessage => 0x0005
  | .protoUnsupported => 0x0006
  | .seqMismatch => 0x0007
  | .hostAccess => 0x0008
  | .signature => 0x0009
  | .timeout => 0x000A
  | .notReady => 0x000B

/-- The header of the request in a mailbox. -/
def State.reqHeader (s : State) (fn : Nat) : Bytes := cbytes (s.func fn).req 0 16

def State.reqCode (s : State) (fn : Nat) : Nat := u16 (s.reqHeader fn) 0

/-- The response header (R303): firmware version 1.0, RESPONSE set, PARTITION and SEQUENCE copied. -/
def responseHeader (req : Bytes) (a : Answer) (len : Nat) : Bytes :=
  req.take 2 ++ natLe 2 len ++ (req.drop 4).take 2 ++ [1, 0] ++ (req.drop 8).take 1 ++ [1] ++ natLe 2 a.code ++ zeros 4

/-- Step 5 and 6 of R302: the response is written, BUSY clears and vector 0 of the function rises. -/
def State.respond (s : State) (fn : Nat) (a : Answer) (body : Bytes) : State :=
  let h := responseHeader (s.reqHeader fn) a body.length
  let s := s.updFunc fn (fun F =>
    { F with resp := h ++ body, respSeq := F.reqSeq, lastStatus := BitVec.ofNat 16 a.code, respValid := true, busy := false,
             waitFor := none })
  ({ s with handed := s.handed.filter (fun i => decide (i ≠ fn)) } : State).raiseVector fn 0

/-- The body of a refusal: offset within the request of the first offending field, or 0xFFFFFFFF (R306). -/
def refusalBody : Option Nat → Bytes
  | some o => natLe 4 o
  | none => natLe 4 0xFFFFFFFF

def State.refuse (s : State) (fn : Nat) : State := s.respond fn .refused (refusalBody none)

/-- Answer the mailbox that waits for something, if one does. -/
def State.answerWait (s : State) (w : MailWait) (a : Answer) : State :=
  match s.funcs.find? (fun e => decide (e.2.waitFor = some w)) with
  | some e => s.respond e.1 a []
  | none => s

/-- A request in progress on the mailbox of a partition that goes away (R303). -/
def State.mailGone (s : State) (p : Nat) : State :=
  if (s.func (p + 1)).busy then s.respond (p + 1) .badPartition [] else s

end Sys2Proof.Machine
end

