-- ==== Sys2Proof/Machine/PeerOps.lean ====
section
/-! DEFINITION. PeerOps.lean: the manifest's links and groups, and the notices a device sends (R316 to R322). -/

namespace Sys2Proof.Machine

/-! ### Ports -/

def Port.reset : Port :=
  { state := .disabled, farSerial := 0, farPort := 0, nextSeq := 0, expected := 0, unacked := [], backlog := [], sinceAck := 0,
    retransmits := 0, fcsErrors := 0, loopErrors := 0 }

def State.port (s : State) (n : Nat) : Port := tgetD s.peers.ports n Port.reset

def State.setPort (s : State) (n : Nat) (x : Port) : State := { s with peers := { s.peers with ports := tput s.peers.ports n x } }

/-- A port that the part can enable (R6). -/
def State.portEnableable (s : State) (n : Nat) : Bool :=
  decide (n < 8) || (decide (n < 16) && s.ident.part.hasX1 && bit s.boot.licLive.toNat 3)

/-- The peer ports run: nothing is issued or completed after a trip (R364, R420). -/
def State.portsRun (s : State) : Bool := s.alive && !s.thermal.tripped

/-- A port that carries frames of the transport; on one in MISMATCH only identity frames and keepalives pass (R315). -/
def State.carries (s : State) (n : Nat) : Bool := s.portsRun && decide ((s.port n).state = .up)

/-! ### Groups -/

/-- Groups of a partition in the live manifest. -/
def State.groupsOf (s : State) (p : Nat) : List GroupEntry := s.peers.manifest.groups.filter (fun g => decide (g.partition = p))

def State.groupEntry? (s : State) (p g : Nat) : Option GroupEntry :=
  s.peers.manifest.groups.find? (fun e => decide (e.partition = p) && decide (e.group = g))

def groupKey (p g : Nat) : Nat := p * 16 + g

def State.group (s : State) (p g : Nat) : Group := tgetD s.peers.groups (groupKey p g) { state := .pending, opSeq := 0 }

def State.setGroup (s : State) (p g : Nat) (G : Group) : State :=
  { s with peers := { s.peers with groups := tput s.peers.groups (groupKey p g) G } }

/-- Member of a rank: peer index, or 0xFF for this device. -/
def GroupEntry.member (g : GroupEntry) (r : Nat) : Nat := ((g.members[r % (max g.members.length 1)]?).getD (0xFF, 0)).1

/-- The peers of a group. -/
def GroupEntry.peers (g : GroupEntry) : List Nat := (g.members.map Prod.fst).filter (fun k => decide (k ≠ 0xFF))

/-- The rank of a peer. -/
def GroupEntry.rankOf (g : GroupEntry) (k : Nat) : Option Nat := indexWhere (fun m => decide (m.1 = k)) g.members 0

/-- Ports of the links to a peer. -/
def State.portsTo (s : State) (k : Nat) : List Nat :=
  (s.peers.manifest.links.filter (fun l => decide (l.peer = k))).map LinkEntry.port

/-- Ports of a group: links to the ring neighbours of this device (R316, R318). -/
def State.groupPorts (s : State) (g : GroupEntry) : List Nat :=
  nubNat (s.portsTo (g.member (g.rank + 1)) ++ s.portsTo (g.member (g.rank + g.members.length - 1)))

/-- Rank of the next hop toward a rank (R318): the member itself over its own link, else the ring neighbour with fewer hops,
toward rank r + 1 when both are equal. -/
def State.nextHop (s : State) (g : GroupEntry) (rank : Nat) : Nat :=
  let n := max g.members.length 1
  if !(s.portsTo (g.member rank)).isEmpty then rank
  else if (rank + n - g.rank) % n ≤ n - (rank + n - g.rank) % n then (g.rank + 1) % n else (g.rank + n - 1) % n

/-- Ports toward a rank; traffic is striped across parallel links. -/
def State.routePorts (s : State) (g : GroupEntry) (rank : Nat) : List Nat := s.portsTo (g.member (s.nextHop g rank))

/-- The port on which a notice for a rank goes out: the first that carries frames. -/
def State.noticePort (s : State) (g : GroupEntry) (rank : Nat) : Option Nat := (s.routePorts g rank).find? s.carries

/-- Partition of a member as that member numbers it. -/
def GroupEntry.partitionOf (g : GroupEntry) (rank : Nat) : Nat := ((g.members[rank % max g.members.length 1]?).getD (0xFF, 0)).2

/-- Partition and relay of a notice for a rank: the next hop's partition, and the destination where the hop relays. -/
def State.relayOf (s : State) (g : GroupEntry) (rank : Nat) : Nat × Option (Nat × Nat) :=
  let h := s.nextHop g rank
  (g.partitionOf h, if h = rank then none else some (g.group, rank))

/-- The group through which a partition reaches a peer (R317). -/
def State.pairing (s : State) (p k : Nat) : Option (GroupEntry × Nat) :=
  (s.groupsOf p).findSome? (fun g => (g.members.find? (fun m => decide (m.1 = k))).map (fun m => (g, m.2)))

/-- An abort notice to a member. -/
def State.sendAbort (s : State) (g : GroupEntry) (rank : Nat) (items : List Abandoned) : State :=
  let r := s.relayOf g rank
  match s.noticePort g rank with
  | some port => s.emit (.abortNotice port r.1 (g.member rank) items r.2)
  | none => s

/-- The same items to every other member. -/
def State.abortAll (s : State) (g : GroupEntry) (items : List Abandoned) : State :=
  s.each ((List.range g.members.length).filter (fun r => decide (r ≠ g.rank))) (fun s r => s.sendAbort g r items)

/-- Abort notices for the peer commands, by number, that a teardown abandons (R322): a collective to every member, a point-to-point command to
its peer. -/
def State.abortNotices (s : State) (p : Nat) (jobs : List (Nat × PeerJob)) : State :=
  s.each jobs (fun s e =>
    let toPeer := fun (k : Nat) (item : Abandoned) =>
      match s.pairing p k with
      | none => s
      | some (G, _) =>
        match G.rankOf k with
        | some r => s.sendAbort G r [item]
        | none => s
    match e.2.kind with
    | .collective g op _ _ =>
      match s.groupEntry? p g with
      | none => s
      | some G => s.abortAll G [.collective g op]
    | .send k ch n => toPeer k (.message true ch n)
    | .recv k ch n => toPeer k (.message false ch n)
    | .copyOut k _ | .copyIn k _ => toPeer k (.copy e.1))

/-! ### Digests of group entries (R317) -/

/-- The digest of a group entry: the members' serials in rank order, each member's partition and rank, and P; that these are joined as bytes in
this order and widths is a DESIGN CHOICE (log 43). -/
def State.groupDigest (s : State) (g : GroupEntry) : BitVec 512 :=
  let serial := fun (k : Nat) => if k = 0xFF then s.ident.serial else ((s.peers.manifest.peers[k]?).map PeerEntry.serial).getD 0
  let ranked := (List.range g.members.length).zip g.members
  Config.shake256 (ranked.flatMap (fun e => natLe 16 (serial e.2.1).toNat)
    ++ ranked.flatMap (fun e => natLe 1 (if e.1 = g.rank then g.partition else e.2.2) ++ natLe 2 e.1) ++ natLe 2 g.members.length)

/-- A digest sent, or relayed, toward a rank (R318). -/
def State.sendDigest (s : State) (g : GroupEntry) (to_ origin : Nat) (d : BitVec 512) : State :=
  let r := s.relayOf g to_
  match s.noticePort g to_ with
  | some port => s.emit (.digest port r.1 g.group origin d r.2)
  | none => s

/-- Every member of a group is INCLUDED, and every link of this device to a member is up without MISMATCH (R317); the other members' links show in
their reports. -/
def State.groupLinked (s : State) (g : GroupEntry) : Bool :=
  g.peers.all (fun k => match s.peers.manifest.peers[k]? with | some e => e.included | none => false)
    && (g.peers.flatMap s.portsTo).all s.carries

/-- What a group that fails, or starts anew at OP_SEQ 0, leaves behind is given up: stretches, notices and digests of before, and the PEERCOPYs of
the peer under way (R323, R393). -/
def State.forgetGroup (s : State) (p g : Nat) : State :=
  let ofGroup := fun (c : Carries) => match c with
    | .collective p' g' _ _ _ => decide (p' = p) && decide (g' = g)
    | _ => false
  let s := { s with peers := { s.peers with early := s.peers.early.filter (fun e => !ofGroup e.carries),
                                            digests := s.peers.digests.filter (fun e => decide (e.1 ≠ groupKey p g)),
                                            groups := s.peers.groups.map (fun (e : Nat × Group) =>
                                              if e.1 = groupKey p g then (e.1, { e.2 with empties := [] }) else e) } }
  match s.part? p with
  | none => s
  | some P =>
    s.setPart p { P with aborts := P.aborts.filter (fun a => decide (a.1 ≠ g) || decide (a.2.2.2 = 1) || decide (a.2.2.2 = 2)) }

/-- PEERCOPYs that a peer writes into a partition are given up. -/
def State.forgetCopies (s : State) (test : Nat → Nat → Bool) : State :=
  { s with peers := { s.peers with copies := s.peers.copies.filter (fun e => !test e.1 e.2.1) } }

/-- A device tells every other member of a group the digest of its entry. -/
def State.offerDigest (s : State) (g : GroupEntry) : State :=
  s.each ((List.range g.members.length).filter (fun r => decide (r ≠ g.rank))) (fun s r => s.sendDigest g r g.rank (s.groupDigest g))

/-- Digests go out for the groups that first come up: those PENDING whose links are up now (R317). -/
def State.offerDigests (s : State) : State :=
  s.each (s.peers.manifest.groups.filter (fun g => decide ((s.group g.partition g.group).state = .pending) && s.groupLinked g)) State.offerDigest

/-- Group-reset notices for every group of a partition; its groups are FAILED (R322). -/
def State.resetNotices (s : State) (p : Nat) : State :=
  s.each (s.groupsOf p) (fun s g =>
    let s := s.each ((s.groupPorts g).filter s.carries) (fun s port => s.emit (.resetNotice port p g.group 0xFF))
    ((s.setGroup p g.group { (s.group p g.group) with state := .failed }).forgetGroup p g.group).forgetCopies (fun p' _ => decide (p' = p)))

end Sys2Proof.Machine
end

