-- ==== Sys2Proof/Machine/StreamOps.lean ====
section
/-! DEFINITION. StreamOps.lean: block tables, shared-group records, slots and the release of a stream (R230 to R248). -/

namespace Sys2Proof.Machine

/-- Bytes of device memory at a striped virtual address, as the Stream Manager and the firmware read them. -/
def State.rawVa (s : State) (p : Nat) (P : Partition) (va n : Nat) : Bytes :=
  match s.segs p P va n with
  | some l => l.flatMap (fun g => match g.space with
      | .dram => s.dram.bytes g.addr g.len
      | .spad => s.spad.bytes g.addr g.len
      | .host => s.hostBytes g.addr g.len)
  | none => zeros n

/-- Why an access to metadata ends its command, if it does: a byte of it lies in no mapped page (R301), or a word is poisoned or uncorrectable
(R144). -/
def State.rawFault (s : State) (p : Nat) (P : Partition) (va n : Nat) : Option Status :=
  match s.segs p P va n with
  | some l => if s.badAll l then some .eccUncorr else none
  | none => some .bounds

/-- Write by the Stream Manager. One to a page that is not mapped ends its command with BOUNDS (R301). -/
def State.smWrite (s : State) (w : Writer) (va : Nat) (b : Bytes) : State :=
  match s.part? w.p with
  | none => s
  | some P =>
    match s.segs w.p P va b.length with
    | some l => s.writeAll w l b false
    | none => s.condition w.cmd .bounds

/-! ### Pools (R207, R231) -/

/-- Bytes B of one latent: a half pack of 528 bytes (FP8) or 272 bytes (FP4), or 512 BF16 elements (R194, R207). -/
def Layer.latentBytes (L : Layer) : Nat :=
  match L.cache with
  | 0 | 1 => 528
  | 2 => 272
  | _ => 1024

/-- Block-table entry (R232). -/
def entryOf (bank slot : Nat) (shared : Bool) : Nat := slot % 2 ^ 16 + (bank % 2 ^ 14) * 2 ^ 16 + b2n shared * 2 ^ 30 + 2 ^ 31

def entrySlot (e : Nat) : Nat := bits e 15 0
def entryBank (e : Nat) : Nat := bits e 29 16
def entryShared (e : Nat) : Bool := bit e 30
def entryValid (e : Nat) : Bool := bit e 31

/-- Address of the block-table entry of range j and layer l (R232). -/
def Pool.entryVa (o : Pool) (table j l : Nat) : Nat := table + (j * o.layers.length + l) * 4

/-- Address of the block table of a stream (R232). -/
def Pool.tableVa (o : Pool) (st : Nat) : Nat := o.metaVa + (st - o.firstStream) * o.tableBytes

/-- Address of shared-group record r (R240). -/
def Pool.recordVa (o : Pool) (r : Nat) : Nat := o.metaVa + o.streamCount * o.tableBytes + r * o.recordBytes

/-- Is record r VALID? -/
def State.recordValid (s : State) (p : Nat) (P : Partition) (o : Pool) (r : Nat) : Bool :=
  bit (u8 (s.rawVa p P (o.recordVa r) 16) 8) 0

def State.recordRefs (s : State) (p : Nat) (P : Partition) (o : Pool) (r : Nat) : Nat := u32 (s.rawVa p P (o.recordVa r) 16) 0

/-- The record that a shared table entry belongs to: the VALID record whose entry of that layer is the same. -/
def State.recordOf (s : State) (p : Nat) (P : Partition) (o : Pool) (l e : Nat) : Option Nat :=
  (List.range o.sharedGroups).find? (fun r =>
    s.recordValid p P o r && decide (u32 (s.rawVa p P (o.recordVa r + 16 + 4 * l) 4) 0 = e))

/-- Add to a record's REFS. -/
def State.bumpRefs (s : State) (w : Writer) (o : Pool) (r : Nat) (up : Bool) : State :=
  match s.part? w.p with
  | none => s
  | some P =>
    let n := s.recordRefs w.p P o r
    s.smWrite w (o.recordVa r) (natLe 4 (if up then n + 1 else n - 1))

/-- The blocks that rows j ≥ lo of a stream's table name: unshared slots, and records of shared rows. -/
def State.rowsFrom (s : State) (p : Nat) (P : Partition) (o : Pool) (table lo hi : Nat) : List SlotUse × List Nat × Nat :=
  (List.range (hi - lo)).foldl (fun acc i =>
    let row := (List.range o.layers.length).map (fun l => (l, u32 (s.rawVa p P (o.entryVa table (lo + i) l) 4) 0))
    let own := (row.filter (fun e => entryValid e.2 && !entryShared e.2)).map (fun e =>
      ({ bank := entryBank e.2, slot := entrySlot e.2, layer := e.1 } : SlotUse))
    let shared := row.filter (fun e => entryValid e.2 && entryShared e.2)
    let recs := match shared with
      | [] => []
      | e :: _ => (s.recordOf p P o e.1 e.2).toList
    (acc.1 ++ own, acc.2.1 ++ recs, acc.2.2 + own.length + shared.length)) ([], [], 0)

/-- What a read of the head of a record and of its entries ends with, if badly (R144, R240, R301). -/
def State.recordFault (s : State) (p : Nat) (P : Partition) (o : Pool) (r : Nat) : Option Status :=
  s.rawFault p P (o.recordVa r) (16 + 4 * o.layers.length)

/-- Some row of a table shares a block that no record in a mapped page holds (R301). -/
def State.shareLost (s : State) (p : Nat) (P : Partition) (o : Pool) (table lo hi : Nat) : Bool :=
  (List.range (hi - lo)).any (fun i =>
    let shared := (List.range o.layers.length).filterMap (fun l =>
      let v := u32 (s.rawVa p P (o.entryVa table (lo + i) l) 4) 0
      if entryValid v && entryShared v then some (l, v) else none)
    match shared with
    | [] => false
    | e :: _ => (s.recordOf p P o e.1 e.2).isNone
        && (List.range o.sharedGroups).any (fun r => decide (s.recordFault p P o r = some .bounds)))

/-- What reading rows lo to hi - 1 of a stream's table and the records that they share ends with, if badly: a page that is not mapped, or an
uncorrectable control operand (R144, R301). -/
def State.rowsFault (s : State) (p : Nat) (P : Partition) (o : Pool) (table lo hi : Nat) : Option Status :=
  match s.rawFault p P (o.entryVa table lo 0) ((hi - lo) * o.layers.length * 4) with
  | some st => some st
  | none =>
    if s.shareLost p P o table lo hi then some .bounds
    else (s.rowsFrom p P o table lo hi).2.1.findSome? (s.recordFault p P o)

/-- Commands of a partition that are in flight (R162). -/
def State.inFlight (s : State) (p : Nat) : List Nat := (s.flight.filter (fun e => decide (e.2.p = p))).map Prod.fst

/-- Give freed slots and draining streams to the pool once the commands dispatched before have completed (R162). -/
def State.freeLater (s : State) (p : Nat) (after : List Nat) (slots : List SlotUse) (streams : List Nat) : State :=
  s.updPart p (fun P => { P with pool := P.pool.map (fun o =>
    { o with freed := o.freed ++ [{ after := after, slots := slots, streams := streams }] }) })

/-- The firmware as a writer of pool metadata, under a number of no command. -/
def firmwareWriter (p seed : Nat) : Writer :=
  { cmd := 2 ^ 65 + seed, p := p, q := 64, cluster := 0, engine := 36, kind := 2 }

/-- What the firmware has written for a message is readable by every reader once it goes on. -/
def State.firmwareDone (s : State) (w : Writer) : State :=
  (s.raiseScope (fun u => if u.cmd = w.cmd then { u with scope := .device, host := true } else u)).tick

/-- Release a stream (R248): its table is cleared, its unshared blocks are freed under R162, REFS of its shared groups
fall, and it is DRAINING. Answers the blocks whose reference it dropped. -/
def State.releaseStream (s : State) (w : Writer) (st : Nat) (after : List Nat) : State × Nat :=
  let w := { w with engine := 36 + st % 4 }
  match s.part? w.p, tget s.streams st with
  | some P, some e =>
    match P.pool with
    | none => (s, 0)
    | some o =>
      let (own, recs, n) := s.rowsFrom w.p P o e.blockTable 0 e.blocks
      let s := s.each recs (fun s r => s.bumpRefs w o r false)
      let s := s.smWrite w e.blockTable (zeros o.tableBytes)
      let s := s.freeLater w.p after own [st]
      ({ s with streams := tput s.streams st { e with state := .draining, lastStep := P.stepNo } }, n)
  | _, _ => (s, 0)

/-- The first batch of freed blocks whose commands have all completed returns to the pool (R162, R228). -/
def State.returnBlocks (s : State) (p : Nat) : State :=
  match s.part? p with
  | none => s
  | some P =>
    match P.pool with
    | none => s
    | some o =>
      match o.freed.find? (fun f => f.after.all (fun id => (tget s.flight id).isNone)) with
      | none => s
      | some f =>
        let s := s.setPart p { P with pool := some { o with freed := o.freed.erase f,
                                                            used := o.used.filter (fun u => !f.slots.contains u) } }
        { s with streams := s.streams.filter (fun e => !f.streams.contains e.1) }

/-- Every stream of a partition FREE at once, its pool emptied, its prefix entries and records removed (R228, R266, R272). -/
def State.dropStreams (s : State) (p : Nat) : State :=
  let s := { s with streams := s.streams.filter (fun e => decide (e.2.partition ≠ p)),
                    prefixes := s.prefixes.filter (fun e => decide (e.2.partition ≠ p)) }
  s.updPart p (fun P => { P with pool := P.pool.map (fun o => { o with used := [], freed := [] }) })

end Sys2Proof.Machine
end

