-- ==== Sys2Proof/Machine/Retire.lean ====
section
/-! DEFINITION. Retire.lean: how a command ends: status, counter, step boundary, skip log, completion record; faults,
teardown of a context, reset and destruction of a partition (R101, R123, R133 to R137, R266, R270 to R273, R283 to R288). -/

namespace Sys2Proof.Machine

/-- The order of R143 and R70: the first condition met decides; conditions found at dispatch stand alone. -/
def statusOrder : List Status :=
  [.partitionReset, .contextTorn, .timeoutCdc, .hostTimeout, .peerLost, .eccUncorr, .bounds, .inconsistent, .leaseConflict,
   .poison, .illegal, .aliased, .skippedPred, .configRejected]

/-- The status a command completes with. -/
def Flight.final (f : Flight) : Status := (statusOrder.find? (fun st => f.conds.contains st)).getD .ok

/-- Header fields (R116). -/
def recOp (b : Bytes) : Nat := u16 b 0
def recTag (b : Bytes) : Nat := u16 b 4
def recSignal (b : Bytes) : Nat := u8 b 6
def recFlag (b : Bytes) (i : Nat) : Bool := bit (u8 b 3) i
def recComplete (b : Bytes) : Bool := recFlag b 0
def recFenceBefore (b : Bytes) : Bool := recFlag b 1
def recAccum (b : Bytes) : Bool := recFlag b 2
def recPadFill (b : Bytes) : Bool := recFlag b 3
def recStepEnd (b : Bytes) : Bool := recFlag b 4
def recLong (b : Bytes) : Bool := recFlag b 5
def recAcquire (b : Bytes) : Bool := recFlag b 6

/-! ### Step boundary (R284 to R288) -/

/-- Zero the scratchpads of a cluster. -/
def State.clearCluster (s : State) (c : Nat) : State := s.clearArray .spad (c * 2 ^ 24) (2 ^ 24)

/-- A cluster with its read cache changes owner: scratchpads zero, no line kept (R96, R344). -/
def State.handCluster (s : State) (c : Nat) : State :=
  { s.clearCluster c with caches := tdel s.caches c }

/-- Counters of a unit at their reset values (R401). -/
def State.resetCounters (s : State) (mine : Nat → Bool) : State :=
  { s with perf := { s.perf with ctrs := s.perf.ctrs.filter (fun e => !mine (e.1 / 2 ^ 16)) } }

/-- Selector heads (KIND and INSTANCE) of a cluster's cores and of the cluster itself. -/
def clusterUnit (c : Nat) (head : Nat) : Bool :=
  (decide (head / 2 ^ 12 = 0) && decide (head % 2 ^ 12 / 8 = c)) || (decide (head / 2 ^ 12 = 1) && decide (head % 2 ^ 12 = c))

def pcUnit (pc : Nat) (head : Nat) : Bool := decide (head / 2 ^ 12 = 2) && decide (head % 2 ^ 12 = pc)

/-- Streams of a partition that are not FREE. -/
def State.liveStreams (s : State) (p : Nat) : List Nat :=
  (s.streams.filter (fun e => decide (e.2.partition = p) && decide (e.2.state ≠ .free))).map Prod.fst

/-- Is cluster c owned by another partition? -/
def State.ownedByOther (s : State) (p c : Nat) : Bool := s.parts.any (fun e => decide (e.1 ≠ p) && e.2.ownsCluster c)

/-- Agreement group A (R285). -/
def State.groupAOk (s : State) (p : Nat) (P : Partition) : Bool :=
  decide (P.staged.clusters ≠ 0)
    && (List.range 64).all (fun c =>
      let was := P.live.clusters.getLsbD c
      let is := P.staged.clusters.getLsbD c
      if is && !was then !s.clusterFenced c && !s.ownedByOther p c
      else if was && !is then !P.queues.any (fun e => decide (e.2.cluster = c)) else true)

/-- A stream range within the identifiers and apart from every other partition's. -/
def State.rangeOk (s : State) (p base count : Nat) : Bool :=
  decide (1 ≤ count) && decide (base + count ≤ 2 ^ 20)
    && !s.parts.any (fun e => decide (e.1 ≠ p) && overlaps base count e.2.live.streamBase e.2.live.streamCount)

/-- Agreement group B (R285). -/
def State.groupBOk (s : State) (p : Nat) (P : Partition) : Bool :=
  let b := P.staged.streamBase
  let n := P.staged.streamCount
  s.rangeOk p b n
    && (match P.pool with
      | none => true
      | some o => decide (b ≤ o.firstStream) && decide (o.firstStream + o.streamCount ≤ b + n))
    && (s.liveStreams p).all (fun st => decide (b ≤ st) && decide (st < b + n))

def State.quotaTotal (s : State) (except : Nat) : Nat :=
  sumNat ((s.parts.filter (fun e => decide (e.1 ≠ except))).map (fun e => e.2.live.prefixQuota))

/-- Agreement group C (R285). -/
def State.groupCOk (s : State) (p : Nat) (P : Partition) : Bool :=
  let q := P.staged.prefixQuota
  (match P.pool with | none => true | some o => decide (o.sharedGroups ≤ q))
    && decide ((s.prefixes.filter (fun e => decide (e.2.partition = p))).length ≤ q)
    && decide (s.quotaTotal p + q ≤ 8388608)

/-- A rejected group: counted, raised on both mailboxes, logged with the group in DETAIL (R286). -/
def State.rejectGroup (s : State) (p g : Nat) : State :=
  let s := s.updPart p (fun P => { P with rejectCount := P.rejectCount + 1 })
  let s := (s.raiseEvent 0 0).raiseEvent (p + 1) 0
  s.logErr { cls := 7, islandA := islStream 0, part := p, detail := natLe 1 g }

/-- A step boundary of the partition. Answers whether some group was rejected. -/
def State.stepBoundary (s : State) (p : Nat) : State × Bool :=
  match s.part? p with
  | none => (s, false)
  | some P =>
    if P.staged = P.live then (s, false)
    else
      let a := s.groupAOk p P
      let b := s.groupBOk p P
      let c := s.groupCOk p P
      let live : Settings :=
        { clusters := if a then P.staged.clusters else P.live.clusters,
          streamBase := if b then P.staged.streamBase else P.live.streamBase,
          streamCount := if b then P.staged.streamCount else P.live.streamCount,
          prefixQuota := if c then P.staged.prefixQuota else P.live.prefixQuota,
          policyPartition := P.staged.policyPartition, perfUser := P.staged.perfUser }
      let moved := (List.range 64).filter (fun i => P.live.clusters.getLsbD i != live.clusters.getLsbD i)
      let s := s.updPart p (fun P =>
        { P with live := live, staged := live, applyCount := if live = P.live then P.applyCount else P.applyCount + 1 })
      let s := s.each moved (fun s i => (s.handCluster i).resetCounters (clusterUnit i))
      let s := if a then s else s.rejectGroup p 0
      let s := if b then s else s.rejectGroup p 1
      let s := if c then s else s.rejectGroup p 2
      (s, !(a && b && c))

/-! ### Samples (R408) -/

/-- The executing island of R408: of an engine or Mantle command the cluster's arithmetic island, whatever island its last write ends in. -/
def Flight.execIsland (f : Flight) : Nat := if f.engine < 33 then islArith f.cluster else f.island

/-- A count in a field of 32 bits, which holds at its greatest value (R408). -/
def capped (n : Nat) : Bytes := natLe 4 (min n (2 ^ 32 - 1))

/-- The tagged command has ended: the rest of its record is known. Durations are free counts of the executing island (log 9, log 19). -/
def Sample.finish (x : Sample) (seed : Nat) (f : Flight) (st : Status) : Sample :=
  let durations := decide (f.engine ≠ 34)
  let written := u32 x.bytes 8 + Config.free seed 20 x.seq
  let d := fun i => if durations then Config.free seed (21 + i) x.seq else 0
  let sat := bit (u8 x.bytes 35) 3 || [written, d 0, d 1, d 2].any (fun n => decide (2 ^ 32 ≤ n))
  { x with finished := true,
           bytes := x.bytes.take 12 ++ capped written ++ capped (d 0) ++ capped (d 1) ++ capped (d 2)
             ++ natLe 2 f.execIsland ++ natLe 2 (recOp f.bytes) ++ natLe 2 (recTag f.bytes) ++ natLe 1 st.code
             ++ natLe 1 (b2n f.looped + 2 * b2n (recComplete f.bytes) + 4 * b2n durations + 8 * b2n sat)
             ++ natLe 1 f.q ++ natLe 1 f.ctx ++ natLe 1 f.p ++ natLe 1 f.cluster ++ natLe 6 f.pos ++ x.bytes.drop 46 }

/-- The samples of a command that ends are finished, one for each set that has tagged it; one that finds its cluster's 16 places full is dropped and
counted (R409). -/
def State.finishSample (s : State) (id : Nat) (f : Flight) (st : Status) : State :=
  let s := s.each (s.perf.samples.filter (fun x => decide (x.cmd = some id))) (fun s x =>
    let held := s.perf.samples.filter (fun y => y.finished && decide (y.cluster = x.cluster))
    if 16 ≤ held.length then
      { s with perf := { s.perf with samples := s.perf.samples.erase x,
                                     samplers := tupd s.perf.samplers x.scope (fun m =>
                                       if m.epoch = x.epoch then { m with dropped := m.dropped + 1 } else m) } }
    else { s with perf := { s.perf with samples := s.perf.samples.erase x ++ [{ x.finish s.free f st with cmd := none }] } })
  s.tick

/-! ### The end of a command -/

/-- A skip-log entry (R137). -/
def Flight.skipEntry (f : Flight) (st : Status) : Bytes :=
  natLe 6 f.pos ++ f.bytes.take 2 ++ (f.bytes.drop 4).take 2
    ++ natLe 1 st.code ++ natLe 1 (b2n f.partialDone + 2 * b2n f.looped) ++ natLe 1 f.offset ++ zeros 3

def Status.skips : Status → Bool
  | .illegal | .inconsistent | .aliased | .bounds => true
  | _ => false

/-- The skip log holds at most 64 entries; the oldest is overwritten and counted as lost (R137). -/
def Queue.addSkip (Q : Queue) (e : Bytes) : Queue :=
  match Q.skipLog with
  | _ :: rest =>
    if 64 ≤ Q.skipLog.length then { Q with skipLog := rest ++ [e], lost := Q.lost + 1 }
    else { Q with skipLog := Q.skipLog ++ [e] }
  | [] => { Q with skipLog := [e] }

/-- A completion record (R133). -/
def Flight.record (f : Flight) (st : Status) (stamp : Nat) : Bytes :=
  (f.bytes.drop 4).take 2 ++ natLe 1 st.code ++ natLe 1 (2 * b2n f.looped) ++ natLe 1 (f.q % 64) ++ zeros 1
    ++ natLe 2 f.island ++ natLe 8 stamp

/-- Add 1 to a counter of a queue (R123). -/
def Queue.bump (Q : Queue) (c : Nat) (v : W32) : Queue := { Q with ctrs := Q.ctrs.set c ((Q.ctrs[c]?).getD 0 + v) }

/-- Island identifiers of a completion record as keys of the cycle counts: those of R365 share the encoding of R134. -/
def State.stamp (s : State) (isl : Nat) : Nat × State := s.readCycles isl

/-- Log one SECONDARY_STATUS entry for each further condition (R143, R70). -/
def State.logSecondary (s : State) (f : Flight) (st : Status) : State :=
  s.each (f.conds.filter (fun c => decide (c ≠ st) && decide (c ≠ .ok)))
    (fun s c => s.logErr { cls := 0x105, islandA := f.island, part := f.p, queue := f.q, tag := recTag f.bytes, status := c.code })

/-- A command's writes once it has completed: near-bank and peer results are readable at DEVICE scope, others at CLUSTER
scope (R249). -/
def Unsettled.completedBy (u : Unsettled) (id engine : Nat) : Unsettled :=
  if u.cmd ≠ id then u
  else if engine = 33 ∨ engine = 35 then { u with scope := .device }
  else if u.scope = .own then { u with scope := .cluster } else u

/-- Count an event of a command in the counters of a unit that were enabled for it when the command was issued (R287). -/
def State.countFor (s : State) (f : Flight) (kind inst ev n : Nat) : State :=
  { s with perf := { s.perf with ctrs := s.perf.ctrs.map (fun e =>
      if e.1 / 2 ^ 16 = kind * 2 ^ 12 + inst ∧ f.enabled.contains (e.1, ev) then (e.1, e.2.add n) else e) } }

/-- Commands in flight of a queue. -/
def State.queueBusy (s : State) (p q : Nat) : Bool := s.flight.any (fun e => decide (e.2.p = p) && decide (e.2.q = q))

/-- A queue.destroy that waits for its queue is answered once the queue's commands have completed and their records are
written; the queue is then gone (R107). -/
def State.settleDestroy (s : State) (p q : Nat) : State :=
  match s.queue? p q with
  | none => s
  | some Q =>
    if Q.destroying && !s.queueBusy p q && Q.held.isEmpty then
      let s := s.updPart p (fun P => { P with queues := tdel P.queues q })
      let s := { s with sigs := s.sigs.filter (fun g => !(decide (g.p = p) && decide (g.toQ = q))) }
      s.answerWait (.queueDestroy p q) .ok
    else s

/-- End a command in flight: step boundary, counter, skip log, completion record (R101, R123, R129, R286). -/
def State.retire (s : State) (id : Nat) : State :=
  match tget s.flight id with
  | none => s
  | some f =>
    let boundary := recStepEnd f.bytes || decide (recOp f.bytes = 0x0007)
    let (s, rejected) := if boundary then s.stepBoundary f.p else (s, false)
    let st := if rejected && decide (f.final = .ok) then Status.configRejected else f.final
    let s := s.logSecondary f st
    let s := ({ s with flight := tdel s.flight id } : State).raiseScope (fun u => u.completedBy id f.engine)
    let s := if recSignal f.bytes < 15 then s.updQueue f.p f.q (fun Q => Q.bump (recSignal f.bytes) 1) else s
    let s := if st.skips then s.updQueue f.p f.q (fun Q => Q.addSkip (f.skipEntry st)) else s
    let s := if st.skips then s.countFor f 1 f.cluster 0x45 1 else s
    let s := if st = .skippedPred then s.countFor f 1 f.cluster 0x44 1 else s
    let s := if f.engine < 32 then s.countFor f 0 (f.cluster * 8 + f.engine / 4) 0x0B 1 else s
    let s := if recComplete f.bytes then
        let (t, s) := s.stamp f.island
        s.ringPut f.p f.q (f.record st t)
      else s
    (s.finishSample id f st).settleDestroy f.p f.q

/-! ### Abandoned commands (R70, R266, R271) -/

/-- Undefined contents: free bytes. -/
def freeBytes (seed site addr n : Nat) : Bytes :=
  (List.range n).map (fun i => BitVec.ofNat 8 (Config.free seed site (addr + i)))

/-- New bytes of a range over the old ones: of a byte that is written in part, its bits alone (R182). -/
def Range.onto (r : Range) (old new : Bytes) : Bytes :=
  if r.bits = 255 then new
  else (old.zip new).map (fun e => (e.1 &&& BitVec.ofNat 8 (255 - r.bits % 256)) ||| (e.2 &&& BitVec.ofNat 8 r.bits))

/-- The destination of an abandoned command is undefined; host memory takes nothing while the link is lost (R311). -/
def State.scramble (s : State) (l : List Range) : State :=
  (s.each l (fun s r =>
    match r.space with
    | .dram => { s with dram := s.dram.write r.addr (r.onto (s.dram.bytes r.addr r.len) (freeBytes s.free 10 r.addr r.len)) }
    | .spad => { s with spad := s.spad.write r.addr (r.onto (s.spad.bytes r.addr r.len) (freeBytes s.free 11 r.addr r.len)) }
    | .host => if s.linkGone then s
      else { s with hostMem := hostWriteAll s.hostMem r.addr (r.onto (s.hostBytes r.addr r.len) (freeBytes s.free 12 r.addr r.len)) })).tick

/-- A bad word in a control operand ends the command with ECC_UNCORR and leaves its destination undefined (R144). -/
def State.controlFails (s : State) (id : Nat) : State :=
  match tget s.flight id with
  | none => s
  | some f => (s.scramble f.writes).condition id .eccUncorr

/-- Entries not started are discarded, partials dropped, leases end (R271 order 2). -/
def State.dropWork (s : State) (id : Nat) : State :=
  { s with near := { s.near with entries := s.near.entries.filter (fun e => decide (e.cmd ≠ id)),
                                 cuffs := s.near.cuffs.filter (fun e => decide (e.2.cmd ≠ id)),
                                 finished := s.near.finished.filter (fun e => decide (e.cmd ≠ id)),
                                 leases := s.near.leases.filter (fun l => decide (l.cmd ≠ id)) } }

/-- A command is abandoned with a status. -/
def State.abandon (s : State) (id : Nat) (st : Status) : State :=
  match tget s.flight id with
  | none => s
  | some f => (((s.dropWork id).scramble f.writes).condition id st).retire id

/-- Records that wait on a full ring when their queue goes: the consumer word is read again, and as many are written as the ring then has
room for (R135, R271 orders 3 and 4). -/
def State.lastRecords (s : State) (p q : Nat) : State :=
  match s.queue? p q with
  | none => s
  | some Q =>
    if Q.held.isEmpty || s.linkGone then s
    else
      let word := leNat (s.hostBytes (hostKey (p + 1) Q.cqConsumer) 8)
      (s.updQueue p q (fun Q => { Q with consumed := word })).ringDrain p q (Q.held.length + 1)

/-- Delete the queues that a test picks, as queue.destroy frees them; a waiting queue.destroy of one is answered. -/
def State.deleteQueues (s : State) (p : Nat) (f : Queue → Bool) : State :=
  match s.part? p with
  | none => s
  | some P =>
    let gone := (P.queues.filter (fun e => f e.2)).map Prod.fst
    let s := s.each gone (fun s q => s.lastRecords p q)
    let s := s.updPart p (fun P => { P with queues := P.queues.filter (fun e => !f e.2) })
    let s := { s with sigs := s.sigs.filter (fun g => !(decide (g.p = p) && gone.contains g.toQ)) }
    match (s.func (p + 1)).waitFor with
    | some (.queueDestroy _ q) => if gone.contains q then s.respond (p + 1) .ok [] else s
    | _ => s

/-- Teardown of one context (R271). Cause 0xFF is ctx.teardown. -/
def State.teardown (s : State) (p ctx cause : Nat) : State :=
  match s.part? p with
  | none => s
  | some P =>
    match tget P.ctxs ctx with
    | none => s
    | some C =>
      let before := s.inFlight p
      let mine := s.flight.filter (fun e => decide (e.2.p = p) && decide (e.2.ctx = ctx))
      let s := s.each (mine.map Prod.fst) (fun s id => s.abandon id .contextTorn)
      let s := s.abortNotices p (mine.filterMap (fun e => e.2.peer.map (fun j => (e.1, j))))
      let s := s.deleteQueues p (fun Q => decide (Q.ctx = ctx))
      let w := firmwareWriter p s.free
      let streams := (s.streams.filter (fun e => decide (e.2.partition = p) && decide (e.2.ctx = ctx)
        && (decide (e.2.state = .active) || decide (e.2.state = .idle)))).map Prod.fst
      let s := (s.each streams (fun s st => (s.releaseStream w st before).1)).firmwareDone w
      let s := s.each C.ranges (fun s r => s.clearArray .spad r.1 r.2)
      let s := s.updPart p (fun P => { P with ctxs := tdel P.ctxs ctx })
      let s := s.raiseEvent (p + 1) 1
      s.logErr { cls := 0x106, islandA := islControl 0, part := p, detail := natLe 1 ctx ++ natLe 1 cause }

/-- Sampling of a partition stops (R407). -/
def State.stopSampling (s : State) (scope : Nat) : State :=
  { s with perf := { s.perf with samplers := tupd s.perf.samplers scope (fun m => { m with enabled := false }),
                                 samples := s.perf.samples.filter (fun x => decide (x.scope ≠ scope)) } }

/-- A VF in LOCKED or RUN moves to ERROR (R340). -/
def State.tdiError (s : State) (p : Nat) : State :=
  match tget s.trust.tdi p with
  | some .locked | some .run => { s with trust := { s.trust with tdi := tput s.trust.tdi p .error } }
  | _ => s

/-- The start of a partition reset or destruction (R266, R272): every command ends with PARTITION_RESET, queues, streams
and contexts go, groups fail; the zeroisation that follows is a command of its own. -/
def State.beginZeroing (s : State) (p : Nat) (destroy : Bool) (mailbox : Option Nat) : State :=
  match s.part? p with
  | none => s
  | some P =>
    match P.zeroing with
    | some z =>
      -- a reset under way is taken over by a destruction (R395)
      if destroy && !z.destroy then
        let s := s.setPart p { P with zeroing := some { destroy := true, mailbox := mailbox } }
        let s := { s with link := { s.link with decoders := tdel s.link.decoders p } }
        match z.mailbox with
        | some fn => s.respond fn .badPartition []
        | none => s
      else s
    | none =>
      let s := s.tdiError p
      let s := if mailbox = some (p + 1) then s else s.mailGone p
      let s := s.each (s.inFlight p) (fun s id => s.abandon id .partitionReset)
      let s := s.resetNotices p
      let s := s.deleteQueues p (fun _ => true)
      let s := s.dropStreams p
      let s := s.stopSampling p
      -- a set of one cluster that the partition owns stops with it (R407)
      let s := s.each P.clusterList (fun s c => s.stopSampling (64 + c))
      let s := { s with unsettled := s.unsettled.filter (fun u => decide (u.p ≠ p)),
                        sigs := s.sigs.filter (fun g => decide (g.p ≠ p)),
                        link := if destroy then { s.link with decoders := tdel s.link.decoders p } else s.link }
      s.updPart p (fun P =>
        { P with ctxs := P.ctxs.filter (fun e => decide (e.1 = 0)), sends := [], recvs := [], notices := [], aborts := [],
                 zeroing := some { destroy := destroy, mailbox := mailbox } })

/-- A fault of a context: the live policy decides (R270 to R273, R288). -/
def State.fault (s : State) (p ctx cause : Nat) : State :=
  match s.part? p with
  | none => s
  | some P =>
    if P.zeroing.isSome then s
    else if P.live.policyPartition then s.beginZeroing p false none
    else s.teardown p ctx cause

/-- Class of a fault by the status that caused it. -/
def Status.faultClass : Status → Option Nat
  | .eccUncorr => some 1
  | .timeoutCdc => some 2
  | .hostTimeout => some 3
  | _ => none

/-- The last writes of a command have reached their destination (R101): of a transfer engine, no line of its cluster's cache that is older is
left (R98). -/
def State.landWrites (s : State) (f : Flight) : State :=
  if f.engine < 32 ∧ f.engine % 4 = 3 then
    { s with caches := tupd s.caches f.cluster (fun l => l.filter (fun x =>
        !f.writes.any (fun r => decide (r.space = .dram) && overlaps x.addr 128 r.addr r.len))) }
  else s

/-- A command completes: it retires, and a status of R270 faults its context. -/
def State.complete (s : State) (id : Nat) : State :=
  match tget s.flight id with
  | none => s
  | some f =>
    let st := f.final
    let s := if st = .hostTimeout
      then s.logErr { cls := 3, islandA := islPcie, part := f.p, queue := f.q, tag := recTag f.bytes, status := st.code } else s
    -- the destinations of a command that a broken crossing ended are undefined (R373)
    let s := if st = .timeoutCdc then s.scramble f.writes else s
    let s := (s.landWrites f).retire id
    match st.faultClass with
    | some c => s.fault f.p f.ctx c
    | none => s

/-- A command ends before its work is done, for a reason that is no teardown: it completes as any other, a fault included (R270). -/
def State.cutShort (s : State) (id : Nat) (st : Status) : State :=
  match tget s.flight id with
  | none => s
  | some f => (((s.dropWork id).scramble f.writes).condition id st).complete id

/-- A queue becomes BROKEN: the credit word says so; its context faults separately (R114, R138). -/
def State.markBroken (s : State) (p q : Nat) : State :=
  match s.queue? p q with
  | none => s
  | some Q =>
    if Q.broken then s
    else (s.updQueue p q (fun Q => { Q with broken := true, waiting := none })).writeCredit p q

/-- A queue breaks and faults its context (R270); the class of that fault is not numbered, so a free value. -/
def State.breakQueue (s : State) (p q : Nat) : State :=
  match s.queue? p q with
  | none => s
  | some Q =>
    if Q.broken then s
    else
      let s := (s.markBroken p q).tick
      s.fault p Q.ctx (Config.free s.free 13 0 % 256)

/-- What a debugger wrote into a pseudo-channel is gone with its contents. -/
def State.dropPokes (s : State) (pc : Nat) : State :=
  { s with trust := { s.trust with pokes := s.trust.pokes.filter (fun e => !(decide (e.1 < 2 ^ 46) && decide (addrBank e.1 / 16 = pc))) } }

/-- Zeroise a partition's memory and scratchpads, with its caches (R266, R344, R99). -/
def State.zeroise (s : State) (P : Partition) : State :=
  let s := s.each P.pcs (fun s e =>
    let s := s.clearArray .dram (e.1 * 16 * bankStride) (16 * bankStride)
    (({ s with near := s.near.dropBacks (fun st x => decide (st = Store.dram) && decide (addrBank (8 * x) / 16 = e.1)),
               boot := { s.boot with tested := delNat s.boot.tested e.1 } } : State)).dropPokes e.1)
  s.each P.clusterList State.handCluster

end Sys2Proof.Machine
end

