-- ==== Sys2Proof/Machine/Flags.lean ====
section
/-! DEFINITION. Flags.lean: counters, relations and predicates (R123 to R126), the header of a record and its flags (R116,
R117, R139), and what the schedule admits (R274 to R278). -/

namespace Sys2Proof.Machine

/-! ### Relations (R125) -/

def relHolds (rel : Nat) (a b : W32) : Bool :=
  match rel with
  | 0 => decide (a = b)
  | 1 => decide (a ≠ b)
  | 2 => a.slt b
  | 3 => !a.slt b
  | 4 => a.ult b
  | 5 => !a.ult b
  | _ => false

def Queue.ctr (Q : Queue) (i : Nat) : W32 := (Q.ctrs[i]?).getD 0

/-- The comparator's second operand. -/
def Queue.second (Q : Queue) (c : Comparator) : W32 :=
  match c.second with
  | some i => Q.ctr i
  | none => c.imm

def Queue.holds (Q : Queue) (c : Comparator) : Bool := relHolds c.rel (Q.ctr c.ctrA) (Q.second c)

/-- The setting of a comparator after queue.create (R106). -/
def Comparator.reset : Comparator := { ctrA := 0, rel := 0, second := none, imm := 0 }

/-- A record's predicate (R126). -/
def Queue.predicate (Q : Queue) (b : Bytes) : Bool :=
  let f := u8 b 2
  if bit f 7 then (Q.holds ((Q.cmps[bits f 2 0]?).getD Comparator.reset)) != bit f 6 else true

/-! ### The header (R116, R117, R139) -/

/-- Rows of R139: opcode, slots, ACCUM legal, PAD_FILL legal. -/
def opRows : List (Nat × Nat × Bool × Bool) :=
  [(0x0001, 1, false, false), (0x0002, 1, false, false), (0x0003, 1, false, false), (0x0004, 1, false, false),
   (0x0005, 1, false, false), (0x0006, 1, false, false), (0x0007, 1, false, false)]
  ++ [(0x1001, 2, false, true), (0x1002, 2, false, false), (0x1003, 2, true, false), (0x1004, 2, false, true),
      (0x1005, 2, true, false), (0x1006, 1, false, false), (0x2001, 2, false, false), (0x2002, 2, false, false)]
  ++ [(0x3001, 2, false, false), (0x3002, 2, false, false), (0x3003, 2, false, false), (0x3004, 2, false, false),
      (0x3005, 1, false, false), (0x4001, 2, false, false), (0x4002, 1, false, false)]
  ++ [(0x5001, 2, false, false), (0x5002, 1, false, false), (0x5003, 1, false, false), (0x5004, 1, false, false),
      (0x5005, 1, false, false), (0x5006, 1, false, false)]
  ++ [(0x6001, 1, false, false), (0x6002, 1, false, false), (0x6003, 1, false, false), (0x6004, 1, false, false),
      (0x6005, 1, false, false), (0x6006, 1, false, false)]
  ++ [(0x7001, 1, false, false), (0x7002, 1, false, false), (0x7003, 1, false, false), (0x7004, 1, false, false),
      (0x7005, 1, false, false), (0x7006, 1, false, false), (0x7007, 1, false, false)]

def opRow? (op : Nat) : Option (Nat × Bool × Bool) := (opRows.find? (fun r => decide (r.1 = op))).map Prod.snd

/-- The offset of the first requirement that a record breaks. -/
def firstBad (l : List (Nat × Bool)) : Option Nat :=
  l.foldl (fun acc e => if e.2 then acc else
    match acc with
    | none => some e.1
    | some o => some (min o e.1)) none

/-- The first offending field of a header, if any (R116, R117). -/
def headerBad (b : Bytes) : Option Nat :=
  match opRow? (recOp b) with
  | none => some 0
  | some (slots, acc, pad) =>
    firstBad
      [(2, decide (bits (u8 b 2) 5 3 = 0)),
       (3, (acc || !recAccum b) && (pad || !recPadFill b) && (recLong b == decide (slots = 2))
           && (decide (recOp b = 0x0002) || !recAcquire b) && !recFlag b 7),
       (6, decide (recSignal b ≤ 15)), (7, decide (u8 b 7 = 0))]

/-- Bytes 8 onward that no field of the command uses must be zero (R12, R140): `used` lists (offset, length). -/
def reservedZero (b : Bytes) (used : List (Nat × Nat)) : List (Nat × Bool) :=
  ((List.range (b.length - 8)).map (fun i => i + 8)).filterMap (fun o =>
    if used.any (fun u => decide (u.1 ≤ o) && decide (o < u.1 + u.2)) then none else some (o, decide (u8 b o = 0)))

/-! ### What the schedule admits (R276 to R278) -/

/-- Byte of the live table for a cluster or a pseudo-channel in a slot. -/
def slotByte (t : SchedTable) (slot off : Nat) : Nat :=
  match t.slots[slot]? with
  | some e => u8 e.2 off
  | none => 0

/-- The table and slot after the next boundary. -/
def Sched.next (c : Sched) (t : SchedTable) : SchedTable × Nat :=
  if c.slot + 1 < t.slots.length then (t, c.slot + 1)
  else
    match c.armed, c.staged with
    | true, some u => (u, 0)
    | _, _ => (t, 0)

/-- Does the schedule admit class k at the byte of this offset? -/
def Sched.admits (c : Sched) (off k : Nat) : Bool :=
  match c.live with
  | .none => true
  | some t => !t.enabled || bit (slotByte t c.slot off) k

/-- Will it after the next boundary? -/
def Sched.admitsNext (c : Sched) (off k : Nat) : Bool :=
  match c.live with
  | .none => true
  | some t =>
    let (u, i) := c.next t
    !u.enabled || bit (slotByte u i off) k

/-- A class may dispatch on a cluster now: its byte admits it and no guard holds it (R277, R278). -/
def Sched.clusterOpen (c : Sched) (cluster k : Nat) : Bool :=
  c.admits (8 + cluster) k && (!c.inGuard || c.admitsNext (8 + cluster) k)

/-- A near-bank command of a class may dispatch: in a guard, not if the class loses a pseudo-channel at the boundary. -/
def Partition.nearOpen (P : Partition) (k : Nat) : Bool :=
  !P.sched.inGuard || P.pcs.all (fun e => !P.sched.admits (72 + e.1) k || P.sched.admitsNext (72 + e.1) k)

/-- Class of a context. -/
def Partition.classOf (P : Partition) (ctx : Nat) : Nat := (((tget P.ctxs ctx).map Context.cls)).getD 0

end Sys2Proof.Machine
end

