-- ==== Sys2Proof/Machine/Front.lean ====
section
/-! DEFINITION. Front.lean: the head of a queue and the order of dispatch (R115 to R121, R128 to R132). -/

namespace Sys2Proof.Machine

/-- The record that is dispatched next: of the innermost loop being run, else of the run-ahead buffer. -/
def Queue.head? (Q : Queue) : Option Rec :=
  match Q.loops with
  | f :: _ => f.body[f.idx]?
  | [] => Q.ahead.head?

/-- Is the head of the second or a later iteration of some loop (R132)? -/
def Queue.looped (Q : Queue) : Bool := Q.loops.any LoopFrame.again

/-- Frames whose iteration has ended begin the next one or are left (R130). -/
def settleLoops : List LoopFrame → List LoopFrame
  | [] => []
  | f :: t =>
    if f.idx < f.body.length then f :: t
    else if 0 < f.left then { f with idx := 0, left := f.left - 1, again := true } :: t
    else settleLoops t

/-- The queue after its head has been taken and `skip` records after it consumed. -/
def Queue.advance (Q : Queue) (skip : Nat) : Queue :=
  match Q.loops with
  | f :: t => { Q with loops := settleLoops ({ f with idx := f.idx + 1 + skip } :: t) }
  | [] => { Q with ahead := Q.ahead.drop (1 + skip) }

/-- Commands in flight on a cluster. -/
def State.clusterLoad (s : State) (c : Nat) : Nat := (s.flight.filter (fun e => decide (e.2.cluster = c))).length

/-- Commands outstanding on an engine of a cluster (R86, R100). -/
def State.engineLoad (s : State) (c e : Nat) : Nat :=
  (s.flight.filter (fun x => decide (x.2.cluster = c) && decide (x.2.engine = e))).length

/-- FENCE, STEP, STEP_END and FENCE_BEFORE wait for the queue's earlier records (R128, R129, R146, R147). -/
def needsFence (b : Bytes) : Bool :=
  recFenceBefore b || recStepEnd b || decide (recOp b = 0x0006) || decide (recOp b = 0x0007)

/-- The head of queue q may dispatch now (R120, R121, R127, R128, R135, R277, R278). -/
def State.mayDispatch (s : State) (p q : Nat) (P : Partition) (Q : Queue) (b : Bytes) : Bool :=
  P.zeroing.isNone && !Q.broken && !Q.destroying && Q.waiting.isNone && !Q.full && Q.held.isEmpty
    && decide (s.power.state ≠ .watch) && !s.link.d3hot && !s.thermal.tripped && decide (s.clusterLoad Q.cluster < 256)
    && (!needsFence b || !s.queueBusy p q)
    && P.sched.clusterOpen Q.cluster (P.classOf Q.ctx)
    && (!decide (recOp b / 2 ^ 12 = 5) || P.nearOpen (P.classOf Q.ctx))

/-! ### Sampling at dispatch (R407, R408) -/

/-- One step of the 32-bit Galois LFSR with x^32 + x^22 + x^2 + x + 1. -/
def lfsrStep (x : W32) : W32 := if x.getLsbD 0 then (x >>> 1) ^^^ 0x80200003 else x >>> 1

/-- Clusters of a scope: a partition's, one cluster, the device's. -/
def State.inScope (s : State) (scope cluster : Nat) : Bool :=
  if scope < 64 then (match s.part? scope with | some P => P.ownsCluster cluster | none => false)
  else if scope < 128 then decide (scope - 64 = cluster) else true

/-- A tenant samples the clusters that its partition owns (R404, R410). -/
def State.samplerMay (s : State) (m : Sampler) (cluster : Nat) : Bool :=
  decide (m.fn = 0) || (match s.part? (m.fn - 1) with | some P => P.ownsCluster cluster | none => false)

/-- A count in a field of 32 bits, which holds at its greatest value (R408). -/
def cap32 (n : Nat) : Nat := min n (2 ^ 32 - 1)

/-- Each sampler of the cluster counts one dispatch; a window's tagged command starts a sample. Byte 35 says whether a field is saturated so far. -/
def State.sampleDispatch (s : State) (cluster id : Nat) : State :=
  s.each s.perf.samplers (fun s e =>
    let scope := e.1
    let m := e.2
    if m.enabled && s.inScope scope cluster && s.samplerMay m cluster then
      let (n, x) := tgetD m.windows cluster (0, BitVec.ofNat 32 (Config.free s.free 30 cluster))
      let hit := decide (n = x.toNat % 2 ^ m.k)
      let w := if n + 1 = 2 ^ m.k then (0, lfsrStep x) else (n + 1, x)
      let m' := { m with windows := tput m.windows cluster w, taken := m.taken + b2n hit }
      let s := { s with perf := { s.perf with samplers := tput s.perf.samplers scope m' } }
      let s := s.tick
      if hit then
        let (t, s) := s.readTimer
        let (c, s) := s.readCycles (islControl cluster)
        let d := Config.free s.free 31 id % (c + 1)
        let bytes := natLe 8 (c - d) ++ natLe 4 (cap32 d) ++ natLe 4 (cap32 d) ++ zeros 19 ++ natLe 1 (8 * b2n (2 ^ 32 ≤ d)) ++ zeros 12
          ++ natLe 8 m.taken ++ natLe 8 t
        let x : Sample := { scope := scope, cluster := cluster, cmd := some id, seq := m.taken, bytes := bytes, finished := false,
                            fn := m.fn, buffer := m.buffer, log2 := m.log2, epoch := m.epoch }
        { s with perf := { s.perf with samples := s.perf.samples ++ [x] } }
      else s
    else s)

/-! ### Dispatch -/

/-- What a record meets: its queue and place. -/
structure Site where
  p : Nat
  q : Nat
  P : Partition
  Q : Queue
  rcd : Rec
  deriving DecidableEq, Repr

def Site.b (d : Site) : Bytes := d.rcd.bytes

/-- A new command in flight on an engine, before its work. -/
def Site.flight (d : Site) (engine island : Nat) : Flight :=
  { p := d.p, q := d.q, ctx := d.Q.ctx, cluster := d.Q.cluster, pos := d.rcd.pos, bytes := d.b, looped := d.Q.looped,
    engine := engine, island := island, conds := [], offset := 0xFF, partialDone := false, writes := [],
    readsHost := false, nb := none, peer := none }

/-- Does a command reach memory at a die: a stack's device memory, or a compute die's scratchpads? -/
def Flight.reaches (f : Flight) (die : Nat) : Bool :=
  (f.reads ++ f.writes).any (fun r => match r.space with
    | .dram => decide (addrBank r.addr / 1024 + 4 = die)
    | .spad => decide (r.addr / 2 ^ 28 = die)
    | .host => decide (16 = die))

/-- Its transactions would cross a broken crossing: to the host, to the Girdle of a die whose memory it reaches, or to its peer port (R373). -/
def State.meetsBroken (s : State) (f : Flight) : Bool :=
  s.cross.broken.any (fun e => match islKind e.2 with
    | 4 => decide (f.engine = 35) && decide (f.island = e.2)
    | 5 => f.readsHost || f.writesHost
    | 7 => f.reaches (islInstance e.2)
    | _ => false)

/-- What a command keeps from the moment it is issued: the settings it was dispatched under (R288) and the counters of its cluster that
are enabled for its events (R287). One whose transactions meet a broken crossing ends with TIMEOUT_CDC (R373). -/
def State.issue (s : State) (p : Nat) (f : Flight) : Flight :=
  { f with conds := if s.meetsBroken f then .timeoutCdc :: f.conds else f.conds,
           under := (match s.part? p with | some P => P.live | none => Settings.none),
           enabled := (s.perf.ctrs.filter (fun e => e.2.enable && clusterUnit f.cluster (e.1 / 2 ^ 16))).map (fun e => (e.1, e.2.event)) }

/-- Take the head into flight: the queue moves on, `skip` further records are consumed (R130). Answers the command. -/
def State.launch (s : State) (d : Site) (f : Flight) (skip : Nat) : State × Nat :=
  let id := s.nextId
  let s := { s with flight := tput s.flight id (s.issue d.p f), nextId := id + 1 }
  let s := s.updQueue d.p d.q (fun Q => Q.advance skip)
  let s := s.updPart d.p (fun P => { P with turns := tput P.turns d.Q.cluster d.q })
  let s := s.count 1 d.Q.cluster 0x43 1
  (s.sampleDispatch d.Q.cluster id, id)

/-- A record that completes at dispatch with a status (R118, R134). -/
def State.endAtDispatch (s : State) (d : Site) (st : Status) (off skip : Nat) : State :=
  let f := { d.flight 34 (islControl d.Q.cluster) with offset := off, conds := if st = .ok then [] else [st] }
  let (s, id) := s.launch d f skip
  s.complete id

/-- How the dispatch of a record that is this command's goes on after header and predicate. -/
inductive Verdict where
  /-- A step of R118 fails. -/
  | fail (st : Status) (off : Nat)
  /-- It holds its queue (a full engine, a loop body not yet fetched). -/
  | hold
  /-- All steps pass. -/
  | go
  deriving DecidableEq, Repr

/-- The record's transactions would cross a broken crossing toward an island that only a device reset restores (R373, R374): the
Girdle of its compute die, from the cluster's control or arithmetic island, or a Stream Manager; or from the Girdle into the cluster's arithmetic
island, until the cluster is reset. -/
def State.crossBroken (s : State) (d : Site) : Bool :=
  let c := d.Q.cluster
  let k := recOp d.b / 2 ^ 12
  s.cross.broken.any (fun e =>
    (decide (e = (islControl c, 0x7000 + c / 16)) && decide (5 ≤ k))
      || (decide (e = (0x7000 + c / 16, islArith c)) && (decide (k = 1) || decide (k = 4)))
      || (decide (e = (islArith c, 0x7000 + c / 16)) && (decide (k = 1) || decide (k = 4)))
      || (decide (e.2 / 2 ^ 12 = 6) && decide (k = 7)))

/-- A command that moves data by virtual addresses needs a poisoned word of its partition's page tables (R386). Which words it needs
lies with the firmware, so a free choice (log 29). -/
def State.tableBad (s : State) (d : Site) : Bool :=
  let k := recOp d.b / 2 ^ 12
  (decide (k = 1) || (decide (4 ≤ k) && decide (k ≤ 7))) && s.sysBad (fun u => decide (u = .pageTable d.p))
    && decide (Config.free s.free 74 d.p % 2 = 0)

/-- A record whose check reads a span list in the host window: until that read ends it cannot dispatch (R428). -/
def readsHostList (b : Bytes) : Bool :=
  let n := if recOp b = 0x5005 then u32 b 16 else u32 b 12
  (decide (recOp b = 0x5005) || decide (recOp b = 0x5006)) && (headerBad b).isNone && decide (0 < n) && decide (n ≤ 4096)
    && decide (hostBase ≤ u64 b 24 + 24 * n - 1)

/-- The head waits for a place in its engine, for the end of its read of a host list, or is a LOOP whose body is not fetched whole (R86, R100, R120,
R130, R428). Whether a read of host memory has ended is the host's: the command that dispatches the record says that it has. -/
def State.headHeld (s : State) (Q : Queue) (b : Bytes) : Bool :=
  let core := bits (u8 b 8) 2 0 * 4
  let full := fun (e depth : Nat) => decide (depth ≤ s.engineLoad Q.cluster e)
  match recOp b / 2 ^ 12 with
  | 0 => decide (recOp b = 0x0005) && Q.loops.isEmpty && decide (1 ≤ u16 b 8) && decide (u16 b 8 ≤ 256) && decide (Q.ahead.length ≤ u16 b 8)
  | 1 => full (core + 3) 16
  | 2 =>
    match bits (u8 b 8) 4 3 with
    | 0 => full core 16
    | 1 => full (core + 1) 16
    | _ => full core 16 && full (core + 1) 16
  | 3 => full (core + 2) 16
  | 4 => full 32 8
  | 5 => readsHostList b && Q.predicate b
  | _ => false

/-- Can the next record of the queue dispatch now? -/
def State.ready (s : State) (p q : Nat) (P : Partition) (Q : Queue) : Bool :=
  match Q.head? with
  | none => false
  | some r => s.mayDispatch p q P Q r.bytes && !s.headHeld Q r.bytes

/-- The controller takes the queues of a cluster in rotation: queue q is taken unless one that comes before it, counted from the queue that
dispatched last, can dispatch (R120). -/
def State.inTurn (s : State) (p q : Nat) (P : Partition) (Q : Queue) : Bool :=
  let from_ := tgetD P.turns Q.cluster 63
  let dist := fun (i : Nat) => (i + 127 - from_) % 64
  !P.queues.any (fun e => decide (e.2.cluster = Q.cluster) && decide (dist e.1 < dist q) && s.ready p e.1 P e.2)

/-- The queue whose head is to be dispatched, if there is one, it may, and it is its turn. -/
def State.site? (s : State) (p q : Nat) : Option Site :=
  match s.part? p with
  | none => none
  | some P =>
    match tget P.queues q with
    | none => none
    | some Q =>
      match Q.head? with
      | none => none
      | some r =>
        if s.mayDispatch p q P Q r.bytes && s.inTurn p q P Q then some { p := p, q := q, P := P, Q := Q, rcd := r } else none

/-- One dispatch (R118). `mine` tells the command's own records; a record of no row of R139 completes with ILLEGAL
whichever row takes it (log 3); a record of another row, or a queue that holds, leaves everything as it is. `skip` is the
loop body that goes with a LOOP, consumed when it does not run. -/
def State.dispatch (s : State) (p q : Nat) (mine : Bytes → Bool) (skip : Site → Nat)
    (check : Site → Verdict) (run : State → Site → State) : Host.Outcome State Fault Refusal :=
  match s.site? p q with
  | none => .next s
  | some d =>
    if (opRow? (recOp d.b)).isNone then .next (s.endAtDispatch d .illegal 0 0)
    else if !mine d.b then .next s
    else
      match headerBad d.b with
      | some o => .next (s.endAtDispatch d .illegal o (skip d))
      | none =>
        if !d.Q.predicate d.b then .next (s.endAtDispatch d .skippedPred 0xFF (skip d))
        else
          match check d with
          | .fail st o => .next (s.endAtDispatch d st o (skip d))
          | .hold => .next s
          | .go =>
            if s.crossBroken d then .next (s.endAtDispatch d .timeoutCdc 0xFF (skip d))
            else if s.tableBad d then .next (((run s d).controlFails s.nextId).tick)
            else .next (run s d)

/-- Records of one opcode. -/
def isOp (op : Nat) (b : Bytes) : Bool := decide (recOp b = op)

def noSkip (_ : Site) : Nat := 0

/-- Requirements in the order of R118: fields, consistency, aliasing, bounds. -/
def verdictOf (fields cons : Option Nat) (al bo : Option Nat) (hold : Bool) : Verdict :=
  match fields with
  | some o => .fail .illegal o
  | none =>
    match cons with
    | some o => .fail .inconsistent o
    | none =>
      match al with
      | some o => .fail .aliased o
      | none =>
        match bo with
        | some o => .fail .bounds o
        | none => if hold then .hold else .go

end Sys2Proof.Machine
end

