-- ==== Sys2Proof/Machine/Control.lean ====
section
/-! DEFINITION. Control.lean: class 0x0 and the machinery around it: NOP, WAIT, SIGNAL, CMP, LOOP, FENCE, STEP (R124 to
R132, R145 to R147), and the commands that resume a WAIT or apply a crossing counter update. -/

namespace Sys2Proof.Machine

/-- Field requirements of a control record: the given ones, and zero reserved bytes. -/
def controlFields (b : Bytes) (used : List (Nat × Nat)) (l : List (Nat × Bool)) : Option Nat :=
  firstBad (l ++ reservedZero b used)

/-- Requirements of NOP. -/
def nopVerdict (d : Site) : Verdict := verdictOf (controlFields d.b [] []) none none none false

def execNop (p q : Nat) (s : State) : Host.Outcome State Fault Refusal :=
  s.dispatch p q (isOp 0x0001) noSkip nopVerdict
    (fun s d => s.endAtDispatch d .ok 0xFF 0)

/-- Fields shared by WAIT and CMP. -/
def compareFields (b : Bytes) (maxComp : Nat) : Option Nat :=
  controlFields b [(8, 5), (16, 4)]
    [(8, decide (u8 b 8 ≤ maxComp)), (9, decide (u8 b 9 ≤ 15)), (10, decide (u8 b 10 ≤ 5)), (11, decide (u8 b 11 ≤ 1)),
     (12, if u8 b 11 = 1 then decide (u8 b 12 ≤ 15) else decide (u8 b 12 = 0)),
     (16, if u8 b 11 = 0 then true else decide (u32 b 16 = 0))]

/-- Requirements of WAIT (R127) and of CMP (R125). -/
def waitVerdict (d : Site) : Verdict := verdictOf (compareFields d.b 0) none none none false
def cmpVerdict (d : Site) : Verdict := verdictOf (compareFields d.b 7) none none none false

/-- The comparator a WAIT or CMP record describes. -/
def comparatorOf (b : Bytes) : Comparator :=
  { ctrA := u8 b 9, rel := u8 b 10, second := if u8 b 11 = 1 then some (u8 b 12) else none, imm := BitVec.ofNat 32 (u32 b 16) }

/-- Empty a cluster's read cache (R99). -/
def State.acquire (s : State) (cluster : Nat) : State :=
  ({ s with caches := tdel s.caches cluster } : State).count 1 cluster 0x4B 1

/-- A queue of a partition, as announcements name it. -/
def queueKey (p q : Nat) : Nat := p * 64 + q

/-- Writes of completed commands that a SIGNAL of a queue announces: its own queue's, and those it has waited for itself (R252). -/
def State.announced (s : State) (p q : Nat) : List Nat :=
  nubNat ((s.unsettled.filter (fun u => decide (u.scope ≠ .own) && !u.host
    && ((decide (u.p = p) && decide (u.q = q)) || u.known.any (fun k => decide (k.1 = queueKey p q))))).map Unsettled.cmd)

/-- A counter of a queue has been told of these commands. -/
def State.tell (s : State) (cmds : List Nat) (p q ctr : Nat) : State :=
  { s with unsettled := s.unsettled.map (fun u => if cmds.contains u.cmd then { u with told := (queueKey p q, ctr) :: u.told } else u) }

/-- A WAIT of a queue on these counters is satisfied: the queue knows of what they were told (R252, R259). -/
def State.learn (s : State) (p q id : Nat) (c : Comparator) : State :=
  { s with unsettled := s.unsettled.map (fun u =>
      if u.told.any (fun k => decide (k.1 = queueKey p q) && (decide (k.2 = c.ctrA) || decide (some k.2 = c.second)))
        then { u with known := (queueKey p q, id) :: u.known } else u) }

/-- WAIT completes at once when its relation holds, else it holds the queue (R127). -/
def execWait (p q : Nat) (s : State) : Host.Outcome State Fault Refusal :=
  s.dispatch p q (isOp 0x0002) noSkip waitVerdict
    (fun s d =>
      let c := comparatorOf d.b
      if d.Q.holds c then
        let s := if recAcquire d.b then s.acquire d.Q.cluster else s
        (s.learn p q s.nextId c).endAtDispatch d .ok 0xFF 0
      else
        s.updQueue p q (fun Q => { Q.advance 0 with waiting := some { cond := c, rcd := d.rcd, looped := Q.looped } }))

/-- The WAIT that holds a queue is satisfied: it acquires if it asks to, and completes (R127). -/
def execWaitSatisfied (p q : Nat) (s : State) : Host.Outcome State Fault Refusal :=
  match s.queue? p q with
  | none => .next s
  | some Q =>
    match Q.waiting with
    | none => .next s
    | some w =>
      if Q.holds w.cond && s.controlRuns then
        let s := if recAcquire w.rcd.bytes then s.acquire Q.cluster else s
        let f : Flight :=
          { p := p, q := q, ctx := Q.ctx, cluster := Q.cluster, pos := w.rcd.pos, bytes := w.rcd.bytes, looped := w.looped,
            engine := 34, island := islControl Q.cluster, conds := [], offset := 0xFF, partialDone := false, writes := [],
            readsHost := false, nb := none, peer := none }
        let id := s.nextId
        let f := s.issue p f
        let s := s.learn p q id w.cond
        let s := { s with flight := tput s.flight id f, nextId := id + 1 }
        let s := s.updQueue p q (fun Q => { Q with waiting := none })
        let s := s.count 1 Q.cluster 0x43 1
        .next ((s.sampleDispatch Q.cluster id).complete id)
      else .next s

/-- A counter set or added to. -/
def Queue.applySignal (Q : Queue) (c : Nat) (add : Bool) (v : W32) : Queue :=
  if add then Q.bump c v else { Q with ctrs := Q.ctrs.set c v }

/-- Requirements of SIGNAL: the queue it names exists (R124). -/
def signalVerdict (d : Site) : Verdict :=
  verdictOf
    (controlFields d.b [(8, 3), (12, 4)]
      [(8, decide (u8 d.b 8 ≤ 63)), (9, decide (u8 d.b 9 ≤ 15)), (10, decide (u8 d.b 10 ≤ 1))]) none none
    (if (tget d.P.queues (u8 d.b 8)).isNone then some 8 else none) false

/-- SIGNAL (R124): at once to a queue of the same cluster, else as a count that crosses the Girdle. -/
def execSignal (p q : Nat) (s : State) : Host.Outcome State Fault Refusal :=
  s.dispatch p q (isOp 0x0003) noSkip signalVerdict
    (fun s d =>
      let t := u8 d.b 8
      let v := BitVec.ofNat 32 (u32 d.b 12)
      let add := decide (u8 d.b 10 = 1)
      match tget d.P.queues t with
      | none => s
      | some T =>
        let tells := s.announced p q
        let s :=
          if T.cluster = d.Q.cluster then (s.updQueue p t (fun T => T.applySignal (u8 d.b 9) add v)).tell tells p t (u8 d.b 9)
          else { s with sigs := s.sigs ++ [{ tells := tells, p := p, fromQ := q, toQ := t, ctr := u8 d.b 9, add := add, value := v }] }
        s.endAtDispatch d .ok 0xFF 0)

/-- A crossing update reaches its counter: those of one queue to one counter in their order (R124). -/
def execSignalUpdateApply (i : Nat) (s : State) : Host.Outcome State Fault Refusal :=
  match s.sigs[i]? with
  | none => .next s
  | some g =>
    if (s.sigs.take i).any (fun h => decide (h.p = g.p) && decide (h.fromQ = g.fromQ) && decide (h.toQ = g.toQ)
        && decide (h.ctr = g.ctr)) || !s.controlRuns then .next s
    else
      .next (({ s with sigs := s.sigs.eraseIdx i } : State).updQueue g.p g.toQ (fun Q => Q.applySignal g.ctr g.add g.value)
        |>.tell g.tells g.p g.toQ g.ctr)

/-- CMP sets a comparator of its own queue (R125). -/
def execCmp (p q : Nat) (s : State) : Host.Outcome State Fault Refusal :=
  s.dispatch p q (isOp 0x0004) noSkip cmpVerdict
    (fun s d =>
      let s := s.endAtDispatch d .ok 0xFF 0
      s.updQueue p q (fun Q => { Q with cmps := Q.cmps.set (u8 d.b 8) (comparatorOf d.b) }))

/-! ### LOOP (R130 to R132, R145) -/

/-- N of a LOOP, where it defines a body. -/
def loopN (b : Bytes) : Nat := if 1 ≤ u16 b 8 ∧ u16 b 8 ≤ 256 then u16 b 8 else 0

/-- The records that lie after the head, as far as its body may reach: of the containing body, or of the buffer. -/
def Queue.after (Q : Queue) : List Rec :=
  match Q.loops with
  | f :: _ => f.body.drop (f.idx + 1)
  | [] => Q.ahead.drop 1

/-- Records consumed with a LOOP that does not run (R130, R131). -/
def loopSkip (d : Site) : Nat := min (loopN d.b) d.Q.after.length

def recSlots (r : Rec) : Nat := if 64 < r.bytes.length then 2 else 1

/-- A LOOP that is illegal by its place: N out of range, four loops already, a body beyond the containing one, or of more
than 256 slots (R131, R145). -/
def loopPlace (d : Site) : Option Nat :=
  let n := loopN d.b
  if n = 0 then some 8
  else if 4 ≤ d.Q.loops.length then some 0xFF
  else if !d.Q.loops.isEmpty && decide (d.Q.after.length < n) then some 8
  else if 256 < sumNat ((d.Q.after.take n).map recSlots) then some 8
  else none

/-- The body of an outermost LOOP is not fetched whole yet (R130). -/
def loopWaits (d : Site) : Bool := d.Q.loops.isEmpty && decide (d.Q.after.length < loopN d.b)

def loopCount (d : Site) : Nat := if u8 d.b 10 = 1 then (d.Q.ctr (u8 d.b 11)).toNat else u32 d.b 12

/-- Requirements of LOOP (R130, R131, R145). -/
def loopVerdict (d : Site) : Verdict :=
  let f := controlFields d.b [(8, 4), (12, 4)]
    [(10, decide (u8 d.b 10 ≤ 1)), (11, if u8 d.b 10 = 1 then decide (u8 d.b 11 ≤ 15) else decide (u8 d.b 11 = 0)),
     (12, if u8 d.b 10 = 0 then true else decide (u32 d.b 12 = 0))]
  verdictOf (match f with | some o => some o | none => loopPlace d) none none none false

/-- LOOP completes at dispatch; a count of zero consumes the body, any other runs it that often. A LOOP whose body is not
fetched holds, whatever else is wrong with it: the body goes with it. -/
def execLoop (p q : Nat) (s : State) : Host.Outcome State Fault Refusal :=
  match s.site? p q with
  | none => .next s
  | some d =>
    if isOp 0x0005 d.b && loopWaits d then .next s
    else
      s.dispatch p q (isOp 0x0005) loopSkip loopVerdict
        (fun s d =>
          let n := loopN d.b
          let count := loopCount d
          if count = 0 then s.endAtDispatch d .ok 0xFF n
          else
            let body := d.Q.after.take n
            let s := s.endAtDispatch d .ok 0xFF n
            s.updQueue p q (fun Q =>
              { Q with loops := { body := body, idx := 0, left := count - 1, again := false } :: outerLoops d.Q n }))
where
  /-- The containing loops with the inner body behind them; one that has ended is settled when the inner one is left. -/
  outerLoops (Q : Queue) (n : Nat) : List LoopFrame :=
    match Q.loops with
    | [] => []
    | f :: t => { f with idx := f.idx + 1 + n } :: t

/-! ### FENCE and STEP (R146, R147) -/

/-- What a FENCE of a scope covers, done: its queue's earlier writes are readable at DEVICE scope, at HOST scope by the host too; host
reads are certain also of writes of other queues that a WAIT before the FENCE covered (R146, R259). -/
def Unsettled.fenced (u : Unsettled) (p q id : Nat) (host : Bool) : Unsettled :=
  if u.p = p ∧ u.q = q ∧ u.cmd < id ∧ u.kind ≠ 0 then { u with scope := .device, host := u.host || host }
  else if u.known.any (fun k => decide (k.1 = queueKey p q) && decide (k.2 < id)) then { u with host := u.host || host }
  else u

def State.settleQueue (s : State) (p q id : Nat) (host : Bool) : State := s.raiseScope (fun u => u.fenced p q id host)

/-- Requirements of FENCE (R146) and of STEP (R147). -/
def fenceVerdict (d : Site) : Verdict := verdictOf (controlFields d.b [(8, 1)] [(8, decide (u8 d.b 8 ≤ 2))]) none none none false
def stepVerdict (d : Site) : Verdict :=
  verdictOf
    (controlFields d.b [(8, 1), (16, 8)]
      [(8, decide (u8 d.b 8 ≤ 1)), (16, if u8 d.b 8 = 1 then true else decide (u64 d.b 16 = 0))]) none none none false

/-- FENCE is in flight until COMMAND_COMPLETE ends it; from its dispatch on the earlier records of its queue, which have
completed, become readable within its scope (CLUSTER adds nothing to their completion, R249). -/
def execFence (p q : Nat) (s : State) : Host.Outcome State Fault Refusal :=
  s.dispatch p q (isOp 0x0006) noSkip fenceVerdict
    (fun s d => (s.launch d (d.flight 34 (islControl d.Q.cluster)) 0).1)

/-- What a FENCE of DEVICE or HOST scope has done when it completes. -/
def State.fenceDone (s : State) (id : Nat) (f : Flight) : State :=
  if recOp f.bytes = 0x0006 ∧ 1 ≤ u8 f.bytes 8 then s.settleQueue f.p f.q id (decide (u8 f.bytes 8 = 2)) else s

/-- STEP changes the partition's step number and is a step boundary (R147). -/
def execStep (p q : Nat) (s : State) : Host.Outcome State Fault Refusal :=
  s.dispatch p q (isOp 0x0007) noSkip stepVerdict
    (fun s d =>
      let s := s.updPart p (fun P =>
        { P with stepNo := if u8 d.b 8 = 0 then P.stepNo + 1 else BitVec.ofNat 64 (u64 d.b 16) })
      s.endAtDispatch d .ok 0xFF 0)

end Sys2Proof.Machine
end

