-- ==== Sys2Proof/Machine/Formats.lean ====
section
/-! DEFINITION. Formats.lean: element types, exact values, rounding and arithmetic (R188 to R203). Values are exact dyadic
numbers; every result is formed exactly and rounded once, as its rule says. -/

namespace Sys2Proof.Machine

/-- A value: NaN, an infinity, or (-1)^neg * m * 2^e. -/
inductive Num where
  | nan
  | inf (neg : Bool)
  | fin (neg : Bool) (m : Nat) (e : Int)
  deriving DecidableEq, Repr

/-- A floating-point encoding of R189: field widths, bias, infinity, largest finite magnitude code, NaN code if any. -/
structure Fmt where
  ebits : Nat
  mbits : Nat
  bias : Nat
  hasInf : Bool
  maxMag : Nat
  nan : Option Nat
  deriving DecidableEq, Repr

def fp32 : Fmt := { ebits := 8, mbits := 23, bias := 127, hasInf := true, maxMag := 0x7F7FFFFF, nan := some 0x7FC00000 }
def bf16 : Fmt := { ebits := 8, mbits := 7, bias := 127, hasInf := true, maxMag := 0x7F7F, nan := some 0x7FC0 }
def fp16 : Fmt := { ebits := 5, mbits := 10, bias := 15, hasInf := true, maxMag := 0x7BFF, nan := some 0x7E00 }
def e4m3 : Fmt := { ebits := 4, mbits := 3, bias := 7, hasInf := false, maxMag := 0x7E, nan := some 0x7F }
def e5m2 : Fmt := { ebits := 5, mbits := 2, bias := 15, hasInf := true, maxMag := 0x7B, nan := some 0x7E }
def e3m2 : Fmt := { ebits := 3, mbits := 2, bias := 3, hasInf := false, maxMag := 0x1F, nan := none }
def e2m3 : Fmt := { ebits := 2, mbits := 3, bias := 1, hasInf := false, maxMag := 0x1F, nan := none }
def e2m1 : Fmt := { ebits := 2, mbits := 1, bias := 1, hasInf := false, maxMag := 0x7, nan := none }

/-- Element types (R188). -/
inductive Dtype where
  | fp32 | bf16 | fp16 | e4m3 | e5m2 | e3m2 | e2m3 | e2m1 | int8 | int32 | uint32
  deriving DecidableEq, Repr

def Dtype.ofCode : Nat → Option Dtype
  | 0x01 => some .fp32 | 0x02 => some .bf16 | 0x03 => some .fp16 | 0x04 => some .e4m3 | 0x05 => some .e5m2
  | 0x06 => some .e3m2 | 0x07 => some .e2m3 | 0x08 => some .e2m1 | 0x09 => some .int8 | 0x0A => some .int32
  | 0x0B => some .uint32 | _ => none

def Dtype.width : Dtype → Nat
  | .fp32 | .int32 | .uint32 => 32
  | .bf16 | .fp16 => 16
  | .e4m3 | .e5m2 | .int8 => 8
  | .e3m2 | .e2m3 => 6
  | .e2m1 => 4

def Dtype.fmt : Dtype → Option Fmt
  | .fp32 => some Machine.fp32 | .bf16 => some Machine.bf16 | .fp16 => some Machine.fp16 | .e4m3 => some Machine.e4m3
  | .e5m2 => some Machine.e5m2 | .e3m2 => some Machine.e3m2 | .e2m3 => some Machine.e2m3 | .e2m1 => some Machine.e2m1
  | _ => none

/-- Types that packs and MX blocks may hold (R188). -/
def Dtype.packable : Dtype → Bool
  | .e4m3 | .e5m2 | .e3m2 | .e2m3 | .e2m1 | .int8 => true
  | _ => false

/-- Rounding: to nearest with ties to even, toward zero, away from zero. -/
inductive Round where
  | nearest | zero | up
  deriving DecidableEq, Repr

/-! ### Decoding and encoding -/

def Fmt.decode (f : Fmt) (c : Nat) : Num :=
  let mag := c % 2 ^ (f.ebits + f.mbits)
  let neg := bit c (f.ebits + f.mbits)
  let e := mag / 2 ^ f.mbits
  let m := mag % 2 ^ f.mbits
  if f.hasInf && decide (e = 2 ^ f.ebits - 1) then (if m = 0 then .inf neg else .nan)
  else if !f.hasInf && f.nan.isSome && decide (mag = 2 ^ (f.ebits + f.mbits) - 1) then .nan
  else if e = 0 then .fin neg m (1 - (f.bias : Int) - f.mbits)
  else .fin neg (2 ^ f.mbits + m) ((e : Int) - f.bias - f.mbits)

/-- m * 2^e over 2^q, rounded to an integer. -/
def roundAt (r : Round) (m : Nat) (e q : Int) : Nat :=
  if q ≤ e then m * 2 ^ (e - q).toNat
  else
    let d := 2 ^ (q - e).toNat
    let n := m / d
    let rest := m % d
    match r with
    | .zero => n
    | .up => if rest = 0 then n else n + 1
    | .nearest => if 2 * rest > d || (decide (2 * rest = d) && decide (n % 2 = 1)) then n + 1 else n

/-- Magnitude code of m * 2^e, before overflow is looked at. -/
def Fmt.magCode (f : Fmt) (r : Round) (m : Nat) (e : Int) : Nat :=
  if m = 0 then 0
  else
    let qmin : Int := 1 - (f.bias : Int) - f.mbits
    let top : Int := e + (Nat.log2 m : Nat)
    let q := max qmin (top - f.mbits)
    (q - qmin).toNat * 2 ^ f.mbits + roundAt r m e q

def Fmt.signBit (f : Fmt) (neg : Bool) : Nat := if neg then 2 ^ (f.ebits + f.mbits) else 0

/-- The canonical NaN (R191); a type without NaN holds +0 (R199). -/
def Fmt.nanCode (f : Fmt) : Nat := f.nan.getD 0

/-- The code of infinity, or of the largest finite value where there is none. -/
def Fmt.infMag (f : Fmt) : Nat := if f.hasInf then f.maxMag + 1 else f.maxMag

/-- A value in a format. `sat`: a value beyond the range, infinities included, becomes the largest finite one. -/
def Fmt.encode (f : Fmt) (r : Round) (sat : Bool) : Num → Nat
  | .nan => f.nanCode
  | .inf neg => f.signBit neg + (if sat then f.maxMag else f.infMag)
  | .fin neg m e =>
    let c := f.magCode r m e
    f.signBit neg + (if f.maxMag < c then (if sat || decide (r = .zero) then f.maxMag else f.infMag) else c)

/-! ### Exact arithmetic -/

def Num.ofInt (i : Int) : Num := .fin (decide (i < 0)) i.natAbs 0

def Num.zero : Num := .fin false 0 0

def Num.neg : Num → Num
  | .nan => .nan
  | .inf n => .inf (!n)
  | .fin n m e => .fin (!n) m e

def Num.abs : Num → Num
  | .nan => .nan
  | .inf _ => .inf false
  | .fin _ m e => .fin false m e

/-- Signed significand at a common exponent. -/
def scaled (neg : Bool) (m : Nat) (e q : Int) : Int :=
  let v : Int := (m * 2 ^ (e - q).toNat : Nat)
  if neg then -v else v

/-- Exact sum; a zero sum of unlike signs is +0 (IEEE 754, R191). -/
def Num.add : Num → Num → Num
  | .nan, _ => .nan
  | _, .nan => .nan
  | .inf a, .inf b => if a = b then .inf a else .nan
  | .inf a, _ => .inf a
  | _, .inf b => .inf b
  | .fin a m e, .fin b n d =>
    let q := min e d
    let v := scaled a m e q + scaled b n d q
    if v = 0 then .fin (a && b) 0 0 else .fin (decide (v < 0)) v.natAbs q

def Num.sub (a b : Num) : Num := a.add b.neg

def Num.isZero : Num → Bool
  | .fin _ m _ => decide (m = 0)
  | _ => false

def Num.mul : Num → Num → Num
  | .nan, _ => .nan
  | _, .nan => .nan
  | .inf a, .inf b => .inf (a != b)
  | .inf a, .fin b n _ => if n = 0 then .nan else .inf (a != b)
  | .fin a m _, .inf b => if m = 0 then .nan else .inf (a != b)
  | .fin a m e, .fin b n d => .fin (a != b) (m * n) (e + d)

/-- Quotient of finite values, the divisor not zero, to at least 64 bits with a sticky bit below them. -/
def Num.div : Num → Num → Num
  | .fin a m e, .fin b n d =>
    let k := 80 + Nat.log2 (n + 1)
    let v := m * 2 ^ k
    let q := v / n
    .fin (a != b) (2 * q + (if v % n = 0 then 0 else 1)) (e - d - k - 1)
  | _, _ => .nan

/-- Comparison of finite or infinite values: is a below b? Zeros compare equal. -/
def Num.lt : Num → Num → Bool
  | .nan, _ => false
  | _, .nan => false
  | .inf a, .inf b => a && !b
  | .inf a, .fin _ _ _ => a
  | .fin _ _ _, .inf b => !b
  | .fin a m e, .fin b n d =>
    let q := min e d
    decide (scaled a m e q < scaled b n d q)

def Num.isNeg : Num → Bool
  | .nan => false
  | .inf n => n
  | .fin n _ _ => n

def Num.isFin : Num → Bool
  | .fin _ _ _ => true
  | _ => false

def Num.isNan : Num → Bool
  | .nan => true
  | _ => false

/-- Maximum with NaN contagious and -0 below +0 (R152). -/
def Num.max (a b : Num) : Num :=
  if a.isNan || b.isNan then .nan
  else if a.lt b then b else if b.lt a then a
  else if a.isNeg then b else a

def Num.min (a b : Num) : Num :=
  if a.isNan || b.isNan then .nan
  else if a.lt b then a else if b.lt a then b
  else if a.isNeg then a else b

/-- Multiplied by a power of two. -/
def Num.shift (a : Num) (k : Int) : Num :=
  match a with
  | .fin n m e => .fin n m (e + k)
  | x => x

/-! ### FP32 words -/

def dec32 (c : W32) : Num := fp32.decode c.toNat
def enc32 (x : Num) : W32 := BitVec.ofNat 32 (fp32.encode .nearest false x)

/-- The value rounded to FP32. -/
def Num.r32 (x : Num) : Num := fp32.decode (fp32.encode .nearest false x)

/-- Values added two at a time, each sum rounded to FP32; which two are added next is chosen by `pick`. -/
def addAny (pick : Nat → Nat) : Nat → List Num → Num
  | 0, l => (l.head?.getD .zero).r32
  | n + 1, l =>
    let k := pick (2 * n) % l.length
    match (if k = 0 then l else l.drop k ++ l.take k) with
    | [] => .zero
    | [x] => x.r32
    | x :: y :: t =>
      let i := pick (2 * n + 1) % (t.length + 1)
      addAny pick n ((x.add (((y :: t)[i]?).getD .zero)).r32 :: (y :: t).eraseIdx i)

/-- A sum in FP32 whose order of adds the spec leaves open: the order is free (R203: results need not repeat; log 13). -/
def sumAny (seed site idx : Nat) (l : List Num) : Num :=
  addAny (fun k => Config.free seed site (idx * 2 ^ 20 + k)) l.length l

/-- A product that is added in FP32 where the spec does not say whether it is rounded first: a free choice (log 13). -/
def mulAny (free : Nat) (a b : Num) : Num := if free % 2 = 0 then (a.mul b).r32 else a.mul b

def add32 (a b : W32) : W32 := enc32 ((dec32 a).add (dec32 b))
def mul32 (a b : W32) : W32 := enc32 ((dec32 a).mul (dec32 b))
def max32 (a b : W32) : W32 := enc32 ((dec32 a).max (dec32 b))

/-! ### Element values -/

/-- The value of a plain element; integers are the integers they encode (R190). -/
def Dtype.value (t : Dtype) (c : Nat) : Num :=
  match t.fmt with
  | some f => f.decode c
  | none =>
    match t with
    | .int8 => .ofInt (signed 8 c)
    | .int32 => .ofInt (signed 32 c)
    | _ => .fin false c 0

/-- The value of an element inside a pack or MX block: INT8 counts in units of 2^-6 (R190). -/
def Dtype.packValue (t : Dtype) (c : Nat) : Num :=
  match t with
  | .int8 => (Num.ofInt (signed 8 c)).shift (-6)
  | _ => t.value c

/-- An integer rounded to nearest, ties to even, and saturated; NaN gives 0 (R203). -/
def intEncode (width : Nat) : Num → Nat
  | .nan => 0
  | .inf neg => if neg then 2 ^ (width - 1) else 2 ^ (width - 1) - 1
  | .fin neg m e =>
    let n := roundAt .nearest m e 0
    if neg then (if 2 ^ (width - 1) ≤ n then 2 ^ (width - 1) else (2 ^ width - n) % 2 ^ width)
    else if 2 ^ (width - 1) ≤ n then 2 ^ (width - 1) - 1 else n

/-- A value in an element type, to nearest with ties to even; beyond the range to infinity, or to the largest value of a
type without infinity; integers saturate (R178, R203). -/
def Dtype.encode (t : Dtype) (x : Num) : Nat :=
  match t.fmt with
  | some f => f.encode .nearest false x
  | none => intEncode t.width x

/-- Scale bytes (R192): E8M0, or E4M3 with the sign bit set taken as the NaN scale. -/
def scaleValue (isE4m3 : Bool) (c : Nat) : Num :=
  if isE4m3 then (if bit c 7 then .nan else e4m3.decode c)
  else if c = 255 then .nan else .fin false 1 ((c : Int) - 127)

/-- emax of R189 and R190. -/
def Dtype.emax : Dtype → Int
  | .e4m3 => 8 | .e5m2 => 15 | .e3m2 => 4 | .e2m3 => 2 | .e2m1 => 2 | _ => 0

/-- Largest finite magnitude of a pack element. -/
def Dtype.packMax (t : Dtype) : Num :=
  match t.fmt with
  | some f => f.decode f.maxMag
  | none => .fin false 127 (-6)

/-- The scale byte for an amax (R198). -/
def chooseScale (isE4m3 : Bool) (t : Dtype) (amax : Num) : Nat :=
  if amax.isZero then (if isE4m3 then 0x38 else 127)
  else
    match amax with
    | .fin _ m e =>
      if isE4m3 then
        let quot := fp32.decode (fp32.encode .up true (amax.div t.packMax))
        max 1 (e4m3.encode .up true quot)
      else
        let l : Int := e + (Nat.log2 m : Nat) - t.emax
        (min 127 (max (-127) l) + 127).toNat
    | _ => 127

/-- One element of R199: its code, and whether it counts as clipped or NaN. -/
def quantise (t : Dtype) (s : Num) (x : Num) : Nat × Bool × Bool :=
  let sign := fun (c : Nat) => match t.fmt with
    | some f => f.signBit x.isNeg + c
    | none => if x.isNeg then (2 ^ 8 - c) % 2 ^ 8 else c
  let top := match t.fmt with | some f => f.maxMag | none => 127
  match x with
  | .nan => (match t with | .e4m3 => 0x7F | .e5m2 => 0x7E | _ => 0, false, true)
  | .inf _ => (sign top, true, false)
  | .fin _ _ _ =>
    let q := fp32.decode (fp32.encode .zero true (x.div s))
    if t.packMax.lt q.abs then (sign top, true, false)
    else
      match t.fmt, q with
      | some f, q => (f.encode .zero true q, false, false)
      | none, .fin n m e => ((fun v => if n then (2 ^ 8 - v) % 2 ^ 8 else v) (roundAt .zero m e (-6)), false, false)
      | none, _ => (0, false, false)

/-! ### Functions with a bound on their error (R203; log 12) -/

/-- A finite FP32 code moved by k units in the last place, in the order of the values. -/
def moveUlp (c : Nat) (k : Int) : Nat :=
  let mag : Int := (c % 2 ^ 31 : Nat)
  let o : Int := if bit c 31 then -mag else mag
  if k = 0 then c
  else
    let v := max (-(0x7F800000 : Int)) (min 0x7F800000 (o + k))
    if v < 0 then 2 ^ 31 + v.natAbs else v.natAbs

/-- Any FP32 value within n units in the last place of a finite value: a free choice. -/
def within (n free : Nat) (x : Num) : Nat := moveUlp (fp32.encode .nearest false x) ((free % (2 * n + 1) : Nat) - (n : Int))

/-- Fixed point: 2^120. -/
def one120 : Nat := 2 ^ 120

def ln2Fix : Nat := 0xb17217f7d1cf79abc9e3b39803f2f6af / 2 ^ 8

/-- Sum of t^k / k! for k from 0 on, all in units of 2^-120. -/
def expSeries (t : Nat) : Nat → Nat → Nat → Nat
  | 0, _, _ => 0
  | f + 1, k, term => term + expSeries t f (k + 1) (term * t / one120 / (k + 1))

/-- 2^x for a finite x: 2^floor(x) times the series at the fraction. Exponents beyond 400 are cut there. -/
def exp2Num : Num → Num
  | .fin neg m e =>
    if 9 ≤ e + (Nat.log2 m : Nat) ∧ m ≠ 0 then .fin false 1 (if neg then -400 else 400)
    else
      let v : Int := if neg then -(m : Int) else m
      let fix : Int := if 0 ≤ e + 120 then v * 2 ^ (e + 120).toNat else v / 2 ^ (-(e + 120)).toNat
      let n := fix / one120
      let f := (fix % one120).toNat
      .fin false (expSeries (f * ln2Fix / one120) 30 0 one120) (n - 120)
  | x => x

/-- e^x for a finite x. -/
def expNum (x : Num) : Num := exp2Num (x.mul (.fin false 0x171547652b82fe1777d0ffda0d23a7d11 (-128)))

/-- Bits of log2 of y/2^120 in [1, 2), by squaring. -/
def log2Bits : Nat → Nat → Nat → Nat
  | 0, _, acc => acc
  | f + 1, y, acc =>
    let z := y * y / one120
    if 2 * one120 ≤ z then log2Bits f (z / 2) (2 * acc + 1) else log2Bits f z (2 * acc)

/-- log2 of a positive finite value. -/
def log2Num : Num → Num
  | .fin _ m e =>
    let l := Nat.log2 m
    let frac := log2Bits 80 (m * 2 ^ 120 / 2 ^ l) 0
    let v : Int := (e + l) * 2 ^ 80 + frac
    .fin (decide (v < 0)) v.natAbs (-80)
  | x => x

/-- Integer square root, bit by bit from bit k down. -/
def isqrtAux (n : Nat) : Nat → Nat → Nat
  | 0, r => r
  | k + 1, r => if (r + 2 ^ k) * (r + 2 ^ k) ≤ n then isqrtAux n k (r + 2 ^ k) else isqrtAux n k r

def rsqrtNum : Num → Num
  | .fin _ m e =>
    let (m, e) := if e % 2 = 0 then (m, e) else (2 * m, e - 1)
    .fin false (isqrtAux (2 ^ 300 / m) 151 0) (-150 - e / 2)
  | x => x

def oneNum : Num := .fin false 1 0

/-- 1 / (1 + e^-x) for a finite x. -/
def sigmoidNum (x : Num) : Num :=
  let t := expNum (Num.neg x.abs)
  if x.isNeg then t.div (oneNum.add t) else oneNum.div (oneNum.add t)

/-- GELU in its tanh form: x / (1 + e^(-2 sqrt(2/pi) (x + 0.044715 x^3))). -/
def geluNum (x : Num) : Num :=
  let c : Num := .fin false 0xcc42299ea1b284687e59e2805d5c717f (-127)
  let k : Num := (Num.fin false 44715 0).div (.fin false 1000000 0)
  let u := (c.mul (x.add (k.mul (x.mul (x.mul x)))))
  match u with
  | .fin n m e =>
    let cut : Num := if 200 < Nat.log2 m then .fin n (m / 2 ^ (Nat.log2 m - 200)) (e + (Nat.log2 m - 200 : Nat)) else .fin n m e
    x.mul (sigmoidNum cut)
  | _ => x

def piFix : Nat := 0x3243f6a8885a308d313198a2e03707344a4093822299f31d0082efa98ec4e6c89452821e638d01377

/-- sum of (-1)^k t^(2k) / (2k + o)! ..., alternating series from a first term, in units of 1 / one. -/
def altSeries (one : Int) (t : Int) : Nat → Nat → Int → Int
  | 0, _, _ => 0
  | f + 1, k, term => term + altSeries one t f (k + 2) (-(term * t / one * t / one) / ((k + 1) * (k + 2)))

/-- Sine and cosine of an angle below 1/2, in units of 2^-400: an FP32 angle is exact in them, however small it is. -/
def sinCosSmall (neg : Bool) (m : Nat) (e : Int) : Num × Num :=
  let one : Int := 2 ^ 400
  let v : Nat := if -400 ≤ e then m * 2 ^ (e + 400).toNat else m / 2 ^ (-400 - e).toNat
  let r : Int := if neg then -(v : Int) else v
  let num := fun (v : Int) => Num.fin (decide (v < 0)) v.natAbs (-400)
  (num (altSeries one r 20 1 r), num (altSeries one r 20 0 one))

/-- Sine and cosine of a finite angle in radians, reduced by pi over 2. -/
def sinCos : Num → Num × Num
  | .fin neg m e =>
    if m = 0 ∨ (Nat.log2 m : Int) + e < -1 then sinCosSmall neg m e
    else
    let x := scaled neg (m * 2 ^ 320) e e
    let fix : Int := if 0 ≤ e then x * 2 ^ e.toNat else x / 2 ^ (-e).toNat
    let half : Int := (piFix / 2 : Nat)
    let n := (fix + half / 2) / half
    let r := (fix - n * half) / 2 ^ 200
    let s := altSeries one120 r 20 1 r
    let c := altSeries one120 r 20 0 one120
    let num := fun (v : Int) => Num.fin (decide (v < 0)) v.natAbs (-120)
    match (n % 4).toNat with
    | 0 => (num s, num c)
    | 1 => (num c, num (-s))
    | 2 => (num (-s), num (-c))
    | _ => (num (-c), num s)
  | x => (x, x)

end Sys2Proof.Machine
end

