-- ==== Sys2Proof/Machine/Operands.lean ====
section
/-! DEFINITION. Operands.lean: descriptors, layouts and element addresses (R163 to R169, R423), reach and bounds (R87, R172),
the write-aliasing check (R173), and reading and writing elements through the spaces, the read cache included (R97). -/

namespace Sys2Proof.Machine

/-- A descriptor: SD (R163) or GD (R164). `base` is a device virtual address, `off` its place in the record. -/
structure Desc where
  glob : Bool
  off : Nat
  base : Nat
  dtype : Nat
  layout : Nat
  param : Nat
  e0 : Nat
  e1 : Nat
  e2 : Nat
  e3 : Nat
  s0 : Int
  s1 : Int
  s2 : Int
  s3 : Int
  scaleOff : Int
  deriving DecidableEq, Repr

def sdAt (b : Bytes) (o : Nat) : Desc :=
  { glob := false, off := o, base := spadBase + u32 b o, dtype := u8 b (o + 4), layout := u8 b (o + 5), param := u16 b (o + 6),
    e0 := u16 b (o + 8), e1 := u16 b (o + 10), e2 := u16 b (o + 12), e3 := u16 b (o + 14),
    s0 := signed 16 (u16 b (o + 16)), s1 := signed 16 (u16 b (o + 18)), s2 := signed 16 (u16 b (o + 20)),
    s3 := signed 16 (u16 b (o + 22)), scaleOff := 0 }

def gdAt (b : Bytes) (o : Nat) : Desc :=
  { glob := true, off := o, base := u64 b o, dtype := u8 b (o + 8), layout := u8 b (o + 9), param := u16 b (o + 10),
    e0 := u16 b (o + 12), e1 := u16 b (o + 14), e2 := u16 b (o + 16), e3 := u16 b (o + 18),
    s0 := signed 32 (u32 b (o + 20)), s1 := signed 32 (u32 b (o + 24)), s2 := signed 32 (u32 b (o + 28)),
    s3 := signed 32 (u32 b (o + 32)), scaleOff := signed 32 (u32 b (o + 36)) }

def Desc.size (d : Desc) : Nat := if d.glob then 40 else 24

def Desc.type (d : Desc) : Dtype := (Dtype.ofCode d.dtype).getD .fp32

/-- Bits of one element; in layout 6 an element is one byte (R423). -/
def Desc.width (d : Desc) : Nat := if d.layout = 6 then 8 else d.type.width

def Desc.sub (d : Desc) : Bool := decide (d.type.width < 8)

def Desc.empty (d : Desc) : Bool := decide (d.e0 = 0) || decide (d.e1 = 0) || decide (d.e2 = 0) || decide (d.e3 = 0)

/-- Pack parameters (R163): elements per group, E4M3 scales. -/
def Desc.group (d : Desc) : Nat := 32 * 2 ^ bits d.param 1 0
def Desc.e4Scale (d : Desc) : Bool := bit d.param 2

def Dtype.packBytes (t : Dtype) : Nat := 32 + 1024 * t.width / 8

/-! ### Field and consistency requirements -/

/-- Requirements on the fields alone (R140, R163, R164). -/
def Desc.fields (d : Desc) : List (Nat × Bool) :=
  let paramOk := if d.layout = 4 then decide (bits d.param 1 0 ≠ 3) && decide (d.param < 8) else decide (d.param = 0)
  if d.glob then
    [(d.off, decide (d.base < 2 ^ 48)), (d.off + 8, (Dtype.ofCode d.dtype).isSome), (d.off + 9, decide (d.layout ≤ 6)),
     (d.off + 10, paramOk), (d.off + 36, decide (d.layout = 5) || decide (d.scaleOff = 0))]
  else
    [(d.off, decide (d.base - spadBase < 2 ^ 30)), (d.off + 4, (Dtype.ofCode d.dtype).isSome),
     (d.off + 5, decide (d.layout ≤ 6)), (d.off + 6, paramOk)]

def stridePos (d : Desc) (k : Nat) : Nat := if d.glob then d.off + 20 + 4 * k else d.off + 16 + 2 * k

def divides (k : Nat) (v : Int) : Bool := decide (v % (k : Int) = 0)

/-- Bytes of a data row in layout 5. A row whose elements make no whole number of bytes is filled up to one, so that each row begins at a byte
(DESIGN CHOICE, log 47; R165 says only that the data are dense). -/
def Desc.mxRow (d : Desc) : Nat := (d.e0 * d.type.width + 7) / 8

def Desc.mxRows (d : Desc) : Nat := d.e1 * d.e2 * d.e3

/-- First byte of the MX scale array (R168). -/
def Desc.mxScales (d : Desc) : Int :=
  if d.glob then (d.base : Int) + d.scaleOff else (spadBase + roundUp (d.base - spadBase + d.mxRows * d.mxRow) 32 : Nat)

/-- Lowest and highest sum of a dimension's steps. -/
def span (n : Nat) (s : Int) : Int × Int := (min 0 (((n : Int) - 1) * s), max 0 (((n : Int) - 1) * s))

/-- A byte range of virtual addresses, from lo for len bytes. -/
abbrev VaRange := Int × Nat

/-- Byte range of the data rows in layout 5. -/
def Desc.mxData (d : Desc) : VaRange :=
  if d.glob then
    let a := span d.e1 d.s1; let b := span d.e2 d.s2; let c := span d.e3 d.s3
    (d.base + a.1 + b.1 + c.1, (a.2 + b.2 + c.2 - a.1 - b.1 - c.1).toNat + d.mxRow)
  else (d.base, d.mxRows * d.mxRow)

def Desc.mxScaleBytes (d : Desc) : Nat := d.mxRows * cdiv d.e0 32

def rangesMeet (a b : VaRange) : Bool :=
  decide (0 < a.2) && decide (0 < b.2) && decide (a.1 < b.1 + b.2) && decide (b.1 < a.1 + a.2)

/-- The MX scale array of a GD meets a data row of the same descriptor (R168). -/
def Desc.mxOverlap (d : Desc) : Bool :=
  rangesMeet d.mxData (d.mxScales, d.mxScaleBytes)
    && (List.range d.e3).any (fun i3 => (List.range d.e2).any (fun i2 => (List.range d.e1).any (fun i1 =>
      rangesMeet ((d.base : Int) + i1 * d.s1 + i2 * d.s2 + i3 * d.s3, d.mxRow) (d.mxScales, d.mxScaleBytes))))

/-- Consistency requirements of one descriptor (R165 to R168, R188). -/
def Desc.consistent (d : Desc) : List (Nat × Bool) :=
  let m : Nat := if d.type.width = 4 then 2 else if d.type.width = 6 then 4 else 1
  let typeOff := if d.glob then d.off + 8 else d.off + 4
  let align :=
    match d.layout with
    | 0 | 1 => divides (max 1 (d.type.width / 8)) d.base
    | 6 => true
    | _ => divides 32 d.base
  [(typeOff, if d.layout = 4 ∨ d.layout = 5 then d.type.packable else true), (d.off, align)] ++
  match d.layout with
  | 0 | 1 =>
    if d.sub then
      [(stridePos d 0, decide (d.s0 = 1))] ++
        (if d.glob then [] else [(stridePos d 1, divides m d.s1), (stridePos d 2, divides m d.s2), (stridePos d 3, divides m d.s3)])
    else []
  | 2 | 3 =>
    [(stridePos d 0, decide (d.s0 = 0)), (stridePos d 1, decide (d.s1 = 0))] ++
      (if d.glob then [] else [(stridePos d 2, divides m d.s2), (stridePos d 3, divides m d.s3)])
  | 4 =>
    [(stridePos d 0, decide (d.s0 = 0))] ++
      (if d.glob then [(stridePos d 1, divides 32 d.s1), (stridePos d 2, divides 32 d.s2), (stridePos d 3, divides 32 d.s3)] else [])
  | 5 =>
    if d.glob then
      [(stridePos d 0, decide (d.s0 = 0)), (d.off + 36, !d.mxOverlap)]
    else
      [(stridePos d 0, decide (d.s0 = 0)), (stridePos d 1, decide (d.s1 = 0)), (stridePos d 2, decide (d.s2 = 0)),
       (stridePos d 3, decide (d.s3 = 0))]
  | _ => []

/-! ### Element addresses (R165) -/

/-- An index (i0, i1, i2, i3). -/
structure Ix where
  i0 : Nat
  i1 : Nat
  i2 : Nat
  i3 : Nat
  deriving DecidableEq, Repr

/-- Bits that one step of stride k counts. -/
def Desc.unit (d : Desc) (k : Nat) : Int :=
  match d.layout with
  | 4 => if d.glob then 8 else (d.type.packBytes * 8 : Nat)
  | 6 => 8
  | _ => if d.glob then (if d.sub && decide (k = 0) then (d.width : Int) else 8) else (d.width : Int)

/-- Bit address of an element. -/
def Desc.bitAddr (d : Desc) (x : Ix) : Int :=
  let b : Int := (d.base : Int) * 8
  let high : Int := x.i2 * d.s2 * d.unit 2 + x.i3 * d.s3 * d.unit 3
  match d.layout with
  | 1 => b + x.i1 * d.s0 * d.unit 0 + x.i0 * d.s1 * d.unit 1 + high
  | 2 =>
    let t := x.i1 / 64 * cdiv d.e0 64 + x.i0 / 64
    b + (t * 4096 + x.i1 % 64 * 64 + x.i0 % 64 : Nat) * (d.width : Int) + high
  | 3 =>
    let t := x.i1 / 32 * cdiv d.e0 32 + x.i0 / 32
    b + (t * 1024 + x.i1 % 32 * 32 + x.i0 % 32 : Nat) * (d.width : Int) + high
  | 4 =>
    b + (x.i0 / 1024 * d.type.packBytes * 8 + 256 + x.i0 % 1024 * d.width : Nat) + x.i1 * d.s1 * d.unit 1 + high
  | 5 =>
    if d.glob then b + (x.i1 * d.s1 + x.i2 * d.s2 + x.i3 * d.s3) * 8 + (x.i0 * d.width : Nat)
    else b + ((x.i1 + d.e1 * (x.i2 + d.e2 * x.i3)) * d.mxRow * 8 + x.i0 * d.width : Nat)
  | _ => b + x.i0 * d.s0 * d.unit 0 + x.i1 * d.s1 * d.unit 1 + high

/-- Byte address of an element's scale byte (layouts 4 and 5). -/
def Desc.scaleAddr (d : Desc) (x : Ix) : Int :=
  if d.layout = 4 then
    (d.base : Int) + (x.i0 / 1024 * d.type.packBytes + x.i0 % 1024 / d.group : Nat)
      + (x.i1 * d.s1 * d.unit 1 + x.i2 * d.s2 * d.unit 2 + x.i3 * d.s3 * d.unit 3) / 8
  else d.mxScales + ((x.i1 + d.e1 * (x.i2 + d.e2 * x.i3)) * cdiv d.e0 32 + x.i0 / 32 : Nat)

/-- All indices of a box, dimension 0 fastest. -/
def box (e0 e1 e2 e3 : Nat) : List Ix :=
  (List.range e3).flatMap fun i3 => (List.range e2).flatMap fun i2 => (List.range e1).flatMap fun i1 =>
    (List.range e0).map fun i0 => { i0 := i0, i1 := i1, i2 := i2, i3 := i3 }

def Desc.all (d : Desc) : List Ix := box d.e0 d.e1 d.e2 d.e3

/-! ### Bounds (R172) -/

/-- Extents of a box of elements, dimension 0 first. -/
structure Ext where
  n0 : Nat
  n1 : Nat
  n2 : Nat
  n3 : Nat
  deriving DecidableEq, Repr

def Desc.ext (d : Desc) : Ext := { n0 := d.e0, n1 := d.e1, n2 := d.e2, n3 := d.e3 }

def Ext.empty (n : Ext) : Bool := decide (n.n0 = 0) || decide (n.n1 = 0) || decide (n.n2 = 0) || decide (n.n3 = 0)

/-- Byte ranges that the elements of a descriptor within a box span, with their scales; `pad`: pad positions are written too. -/
def Desc.rangesIn (d : Desc) (n : Ext) (pad : Bool) : List VaRange :=
  if d.empty || n.empty then []
  else
    let c := span n.n2 (d.s2 * d.unit 2)
    let e := span n.n3 (d.s3 * d.unit 3)
    let mk := fun (lo hi : Int) => [((lo / 8 : Int), ((hi + 7) / 8 - lo / 8).toNat)]
    let b : Int := (d.base : Int) * 8
    match d.layout with
    | 2 | 3 =>
      let side := if d.layout = 2 then 64 else 32
      let last := d.bitAddr { i0 := n.n0 - 1, i1 := n.n1 - 1, i2 := 0, i3 := 0 } + d.width
      let hi := if pad then b + (cdiv d.e0 side * cdiv d.e1 side * side * side * d.width : Nat) else last
      mk (b + c.1 + e.1) (hi + c.2 + e.2)
    | 4 =>
      let a := span n.n1 (d.s1 * d.unit 1)
      let hi := if pad then b + (cdiv d.e0 1024 * d.type.packBytes * 8 : Nat)
        else d.bitAddr { i0 := n.n0 - 1, i1 := 0, i2 := 0, i3 := 0 } + d.width
      mk (b + a.1 + c.1 + e.1) (hi + a.2 + c.2 + e.2)
    | 5 =>
      if n = d.ext then [d.mxData, (d.mxScales, d.mxScaleBytes)]
      else
        let last : Ix := { i0 := n.n0 - 1, i1 := n.n1 - 1, i2 := n.n2 - 1, i3 := n.n3 - 1 }
        let a := span n.n1 d.s1; let b := span n.n2 d.s2; let e := span n.n3 d.s3
        [if d.glob then (d.base + a.1 + b.1 + e.1, (a.2 + b.2 + e.2 - a.1 - b.1 - e.1).toNat + (n.n0 * d.width + 7) / 8)
         else (d.base, ((d.bitAddr last + d.width + 7) / 8 - d.base).toNat),
         (d.mxScales, (d.scaleAddr last + 1 - d.mxScales).toNat)]
    | 1 =>
      let x := span n.n1 (d.s0 * d.unit 0)
      let y := span n.n0 (d.s1 * d.unit 1)
      mk (b + x.1 + y.1 + c.1 + e.1) (b + x.2 + y.2 + c.2 + e.2 + d.width)
    | _ =>
      let x := span n.n0 (d.s0 * d.unit 0)
      let y := span n.n1 (d.s1 * d.unit 1)
      mk (b + x.1 + y.1 + c.1 + e.1) (b + x.2 + y.2 + c.2 + e.2 + d.width)

/-- Byte ranges that all elements of the descriptor span. -/
def Desc.ranges (d : Desc) (pad : Bool) : List VaRange := d.rangesIn d.ext pad

/-! ### The bytes that elements lie in (R171) -/

/-- Spans in the order of their addresses, those that touch or overlap joined. -/
def joinSpans : List VaRange → List VaRange
  | [] => []
  | r :: t =>
    match joinSpans t with
    | [] => [r]
    | x :: l => if x.1 ≤ r.1 + r.2 then (r.1, max r.2 (x.1 + x.2 - r.1).toNat) :: l else r :: x :: l

/-- The bytes of a bit span. -/
def bitBytes (lo : Int) (w : Nat) : VaRange := (lo / 8, ((lo + w + 7) / 8 - lo / 8).toNat)

def sortSpans (l : List VaRange) : List VaRange := joinSpans (mergeSort (fun a b => decide (a.1 ≤ b.1)) l)

/-- The bytes that elements at some indices lie in, their scale bytes included; bytes between them are not touched. -/
def Desc.spans (d : Desc) (l : List Ix) : List VaRange :=
  sortSpans (l.map (fun x => bitBytes (d.bitAddr x) d.width)
    ++ (if d.layout = 4 ∨ d.layout = 5 then l.map (fun x => (d.scaleAddr x, 1)) else []))

/-- The aligned 64-byte units that spans touch: what a transfer engine fetches (R171). -/
def unitsOf (l : List VaRange) : List VaRange :=
  joinSpans (l.map (fun r => (r.1 / 64 * 64, ((r.1 + r.2 + 63) / 64 * 64 - r.1 / 64 * 64).toNat)))

/-- Cluster scratchpad and core scratchpads of a window (R95). -/
def clusterVa (c : Nat) : Nat := spadBase + c * 2 ^ 24
def coreVa (c k : Nat) : Nat := clusterVa c + 0x800000 + k * 0x100000

def within? (r : VaRange) (base len : Nat) : Bool :=
  decide (r.2 = 0) || (decide ((base : Int) ≤ r.1) && decide (r.1 + r.2 ≤ base + len))

/-- Reach of the matrix engines: their core's scratchpad (R87). -/
def reachMe (c k : Nat) (r : VaRange) : Bool := within? r (coreVa c k) 0x100000

/-- Reach of the vector engine: its core's and its cluster's scratchpad; core 0's follows the cluster's (R87, R95). -/
def reachVe (c k : Nat) (r : VaRange) : Bool :=
  within? r (clusterVa c) 0x800000 || reachMe c k r || (decide (k = 0) && within? r (clusterVa c) 0x900000)

/-- Reach of the Mantle's scratchpad operands. -/
def reachMantle (c : Nat) (r : VaRange) : Bool := within? r (clusterVa c) 0x800000

/-- Reach of a transfer engine: every byte has a place in the partition's spaces. -/
def State.reachTe (s : State) (p : Nat) (P : Partition) (r : VaRange) : Bool :=
  decide (r.2 = 0) || (decide (0 ≤ r.1) && (s.segs p P r.1.toNat r.2).isSome)

/-- A range that a command may write: not in the pool range or the metadata area (R75, R231). -/
def Partition.writable (P : Partition) (r : VaRange) : Bool :=
  decide (r.2 = 0) || decide (r.1 < 0) || !P.protectedVa r.1.toNat r.2

/-! ### The write-aliasing check (R173) -/

/-- The innermost footprint, in the unit in which the strides count. -/
def Desc.footprint (d : Desc) : Nat :=
  match d.layout with
  | 2 | 3 =>
    let side := if d.layout = 2 then 64 else 32
    let n := cdiv d.e0 side * cdiv d.e1 side * side * side
    if d.glob then n * d.width / 8 else n
  | 4 => if d.glob then cdiv d.e0 1024 * d.type.packBytes else cdiv d.e0 1024
  | 5 => d.mxRow
  | 6 => 1
  | l =>
    if d.glob then
      (if d.sub then ((if l = 1 then d.e1 else d.e0) * d.type.width + 7) / 8 else d.type.width / 8)
    else 1

/-- Dimensions that remain to be checked: (dimension, extent, absolute stride). -/
def Desc.checked (d : Desc) : List (Nat × Nat × Nat) :=
  let dims : List (Nat × Nat × Nat) :=
    if d.layout = 1 then [(0, d.e0, d.s1.natAbs), (1, d.e1, d.s0.natAbs), (2, d.e2, d.s2.natAbs), (3, d.e3, d.s3.natAbs)]
    else [(0, d.e0, d.s0.natAbs), (1, d.e1, d.s1.natAbs), (2, d.e2, d.s2.natAbs), (3, d.e3, d.s3.natAbs)]
  let covered := fun (k : Nat) =>
    match d.layout with
    | 2 | 3 => decide (k < 2)
    | 4 | 5 => decide (k = 0)
    | 0 => d.glob && d.sub && decide (k = 0)
    | 1 => d.glob && d.sub && decide (k = 1)
    | _ => false
  dims.filter (fun e => !covered e.1 && decide (1 < e.2.1))

def aliasWalk : Nat → List (Nat × Nat × Nat) → Bool
  | _, [] => true
  | sp, (_, n, s) :: t => if s < sp then false else aliasWalk (sp + s * (n - 1)) t

/-- The descriptor passes the check. -/
def Desc.aliasOk (d : Desc) : Bool :=
  if d.empty || (decide (d.layout = 5) && !d.glob) then true
  else aliasWalk d.footprint (sortBy (fun a b => decide (a.2.2 < b.2.2) || (decide (a.2.2 = b.2.2) && decide (a.1 ≤ b.1))) d.checked)

/-! ### Reading and writing elements -/

/-- How a command reads: its partition, who it is, and the cluster whose read cache it uses, if it does. -/
structure Access where
  p : Nat
  P : Partition
  rdr : Reader
  cache : Option Nat
  deriving DecidableEq, Repr

/-- The lines of a cluster's cache that a stretch meets and that serve this reader: a cached read never returns a line older than a
write of its own engine that is still under way (R98). -/
def State.cached (s : State) (r : Reader) (c a n : Nat) : List CacheLine :=
  (tgetD s.caches c []).filter (fun l => overlaps a n l.addr 128
    && !s.unsettled.any (fun u => decide (u.space = .dram) && decide (u.scope = .own) && u.seenBy r && overlaps l.addr 128 u.addr 64))

/-- A stretch as a command reads it: each byte, and whether its word is bad. -/
def State.fetchSeg (s : State) (a : Access) (g : Seg) : List (Byte × Bool) :=
  match g.space with
  | .host => (s.hostBytes g.addr g.len).map (fun b => (b, false))
  | .spad => ((List.range g.len).zip (s.view a.rdr g)).map (fun e => (e.2, s.spad.badWord ((g.addr + e.1) / 8)))
  | .dram =>
    let lines := match a.cache with
      | some c => s.cached a.rdr c g.addr g.len
      | none => []
    ((List.range g.len).zip (s.view a.rdr g)).map (fun e =>
      let x := g.addr + e.1
      match lines.find? (fun l => decide (l.addr ≤ x) && decide (x < l.addr + 128)) with
      | some l => ((l.bytes[x - l.addr]?).getD 0, false)
      | none => (e.2, s.dram.badWord (x / 8)))

/-- n bytes from a virtual address: contents and poison. Bytes without a place read as zero (a bounds check goes before). -/
def State.fetch (s : State) (a : Access) (va n : Nat) : Bytes × Bool :=
  match s.segs a.p a.P va n with
  | none => (zeros n, false)
  | some l =>
    let r := l.flatMap (s.fetchSeg a)
    (r.map Prod.fst, r.any Prod.snd)

/-- The field of w bits at a bit address. -/
def State.fetchBits (s : State) (a : Access) (bitAddr : Int) (w : Nat) : Nat × Bool :=
  let n := bitAddr.toNat
  let r := s.fetch a (n / 8) ((n % 8 + w + 7) / 8)
  (bitsAt r.1 (n % 8) w, r.2)

/-- Element code and poison. -/
def State.elem (s : State) (a : Access) (d : Desc) (x : Ix) : Nat × Bool := s.fetchBits a (d.bitAddr x) d.width

/-- Scale byte and poison. -/
def State.scale (s : State) (a : Access) (d : Desc) (x : Ix) : Nat × Bool := s.fetchBits a (d.scaleAddr x * 8) 8

/-- The value of an element: times its group or block scale in layouts 4 and 5, formed in FP32 (R202). -/
def State.elemValue (s : State) (a : Access) (d : Desc) (x : Ix) : Num × Bool :=
  let e := s.elem a d x
  if d.layout = 4 ∨ d.layout = 5 then
    let c := s.scale a d x
    (((d.type.packValue e.1).mul (scaleValue (d.layout = 4 ∧ d.e4Scale) c.1)).r32, e.2 || c.2)
  else if d.layout = 6 ∧ 8 < d.type.width then
    -- a byte is no element of a wider type: the spec states no value (R178, R423; log 26)
    (d.type.value (Config.free s.free 85 (d.bitAddr x).toNat % 2 ^ d.type.width), e.2)
  else (d.type.value e.1, e.2)

/-- A value to be written: bit address, width, value, and whether a bad word has fed it. -/
structure BitPut where
  at? : Nat
  width : Nat
  val : Nat
  bad : Bool
  deriving DecidableEq, Repr

/-- What a write does to one byte: which bits it sets, and to what. -/
structure BytePut where
  va : Nat
  mask : Nat
  val : Nat
  bad : Bool
  deriving DecidableEq, Repr

/-- The bytes that a value touches. -/
def BitPut.bytes (w : BitPut) : List BytePut :=
  let v := w.val % 2 ^ w.width * 2 ^ (w.at? % 8)
  let m := (2 ^ w.width - 1) * 2 ^ (w.at? % 8)
  (List.range ((w.at? % 8 + w.width + 7) / 8)).map (fun i =>
    { va := w.at? / 8 + i, mask := m / 256 ^ i % 256, val := v / 256 ^ i % 256, bad := w.bad })

/-- Writes in the order of their addresses; writes of one byte are joined, the later one over the earlier. -/
def joinPuts : List BytePut → List BytePut
  | [] => []
  | w :: t =>
    match joinPuts t with
    | [] => [w]
    | x :: r =>
      if x.va = w.va then
        { va := w.va, mask := w.mask ||| x.mask, val := (w.val &&& (255 - x.mask)) ||| x.val, bad := w.bad || x.bad } :: r
      else w :: x :: r

/-- Runs of consecutive bytes that are written whole, with or without poison; a byte written in part stands alone. -/
def runsOf : List BytePut → List (List BytePut)
  | [] => []
  | w :: t =>
    match runsOf t with
    | [] => [[w]]
    | [] :: r => [w] :: r
    | (x :: l) :: r => if w.mask = 255 ∧ x.mask = 255 ∧ x.va = w.va + 1 ∧ x.bad = w.bad then (w :: x :: l) :: r else [w] :: (x :: l) :: r

/-- Write one run; a byte written in part is merged with what it holds (R176, R387). -/
def State.putRun (s : State) (wr : Writer) (P : Partition) (r : List BytePut) : State :=
  match r with
  | [] => s
  | w :: _ =>
    match s.segs wr.p P w.va r.length with
    | none => s.condition wr.cmd .bounds
    | some l =>
      let old := if w.mask = 255 then 0 else leNat (l.flatMap (fun g => match g.space with
        | .dram => s.dram.bytes g.addr g.len
        | .spad => s.spad.bytes g.addr g.len
        | .host => s.hostBytes g.addr g.len))
      s.writeAll { wr with bits := w.mask } l (r.map (fun x => BitVec.ofNat 8 (if w.mask = 255 then x.val else (old &&& (255 - x.mask)) ||| x.val)))
        w.bad

/-- Everything that a command writes, in runs: words wholly written lose their poison, words written in part keep it, words fed
by bad words get it (R144, R386, R387). -/
def State.putFields (s : State) (wr : Writer) (P : Partition) (l : List BitPut) : State :=
  let puts := joinPuts (mergeSort (fun a b => decide (a.va ≤ b.va)) (l.flatMap BitPut.bytes))
  let fed := nubRising ((puts.filter BytePut.bad).map (fun w => w.va / 8))
  s.each (runsOf (puts.map (fun w => { w with bad := fed.contains (w.va / 8) }))) (fun s r => s.putRun wr P r)

/-- Write w bits at a bit address. -/
def State.putBits (s : State) (wr : Writer) (P : Partition) (bitAddr : Int) (w v : Nat) (bad : Bool) : State :=
  s.putFields wr P [{ at? := bitAddr.toNat, width := w, val := v, bad := bad }]

/-- Write bytes at a virtual address. A page unmapped under the command leaves it no place: BOUNDS (R301). -/
def State.putVa (s : State) (wr : Writer) (P : Partition) (va : Nat) (b : Bytes) (bad : Bool) : State :=
  match s.segs wr.p P va b.length with
  | none => s.condition wr.cmd .bounds
  | some l => s.writeAll wr l b bad

/-- The write of one element. -/
def Desc.put (d : Desc) (x : Ix) (v : Nat) (bad : Bool) : BitPut :=
  { at? := (d.bitAddr x).toNat, width := d.width, val := v, bad := bad }

def State.putElem (s : State) (wr : Writer) (P : Partition) (d : Desc) (x : Ix) (v : Nat) (bad : Bool) : State :=
  s.putFields wr P [d.put x v bad]

/-- The words that a range touches are met by their reader: corrected, or poisoned and logged (R385, R386). -/
def State.meetVa (s : State) (p : Nat) (P : Partition) (r : VaRange) : State :=
  if r.2 = 0 ∨ r.1 < 0 then s
  else
    match s.segs p P r.1.toNat r.2 with
    | none => s
    | some l => s.meetAll l

/-- A command has read a range; one that has lost its place meanwhile gives BOUNDS (R301). -/
def State.readVa (s : State) (id p : Nat) (P : Partition) (r : VaRange) : State :=
  if r.2 = 0 ∨ r.1 < 0 then s
  else
    match s.segs p P r.1.toNat r.2 with
    | none => s.condition id .bounds
    | some l => s.readSegs id l

/-- What a command in flight starts from: seed, counters, step number, and what it reads, as it reads it now (R88, R262). -/
def State.begins (s : State) (id : Nat) (a : Access) (l : List Seg) (free : Nat) : State :=
  let seen := l.map (fun g =>
    let r := s.fetchSeg a g
    let bad := ((List.range g.len).zip r).filterMap (fun e => if e.2.2 then some ((g.addr + e.1) / 8) else none)
    ({ space := g.space, addr := g.addr, bytes := r.map Prod.fst, bad := nubRising bad } : Seen))
  s.updFlight id (fun f => { f with began := some { free := free, ctrs := ((s.queue? f.p f.q).map Queue.ctrs).getD [],
                                                    stepNo := a.P.stepNo, seen := seen } })

/-- The stretches of ranges of virtual addresses. -/
def State.segsOf (s : State) (p : Nat) (P : Partition) (l : List VaRange) : List Seg :=
  l.flatMap (fun r => if r.2 = 0 ∨ r.1 < 0 then [] else (s.segs p P r.1.toNat r.2).getD [])

/-- A command has read these ranges. -/
def State.readRanges (s : State) (id p : Nat) (P : Partition) (l : List VaRange) : State :=
  s.each l (fun s r => s.readVa id p P r)

/-- Does the range hold an uncorrectable or poisoned word (of a control operand, R144)? -/
def State.badVa (s : State) (p : Nat) (P : Partition) (va n : Nat) : Bool :=
  match s.segs p P va n with
  | none => false
  | some l => s.badAll l

/-- Does a range of virtual addresses touch the host window? -/
def inHost (va n : Nat) : Bool := decide (0 < n) && decide (hostBase ≤ va + n - 1)

/-- Bytes of which elements at some indices take bits only, with those bits. -/
def Desc.parts (d : Desc) (l : List Ix) : List (Int × Nat) :=
  if d.width % 8 = 0 then []
  else
    let puts := joinPuts (mergeSort (fun a b => decide (a.va ≤ b.va))
      (l.flatMap (fun x => BitPut.bytes { at? := (d.bitAddr x).toNat, width := d.width, val := 0, bad := false })))
    (puts.filter (fun w => decide (w.mask ≠ 255))).map (fun w => ((w.va : Int), w.mask))

/-- A range without some of its bytes, which stand alone with the bits that are written of them. -/
def Range.cut (r : Range) (parts : List (Space × Nat × Nat)) : List Range :=
  let mine := parts.filter (fun x => decide (x.1 = r.space) && decide (r.addr ≤ x.2.1) && decide (x.2.1 < r.addr + r.len))
  let c := mine.foldl (fun (acc : Nat × List Range) x =>
    (x.2.1 + 1, acc.2 ++ (if acc.1 < x.2.1 then [{ r with addr := acc.1, len := x.2.1 - acc.1 }] else [])
      ++ [{ r with addr := x.2.1, len := 1, bits := x.2.2 }])) (r.addr, [])
  c.2 ++ (if c.1 < r.addr + r.len then [{ r with addr := c.1, len := r.addr + r.len - c.1 }] else [])

/-- Where the ranges lie, for a command's record of what it writes. -/
def State.rangesOf (s : State) (p : Nat) (P : Partition) (l : List VaRange) : List Range :=
  l.flatMap (fun r => match s.segs p P r.1.toNat r.2 with
    | some g => g.map (fun g => { space := g.space, addr := g.addr, len := g.len })
    | none => [])

/-- Where the ranges lie, of which some bytes are written in part. -/
def State.rangesIn (s : State) (p : Nat) (P : Partition) (l : List VaRange) (parts : List (Int × Nat)) : List Range :=
  let at_ := parts.filterMap (fun x => (s.place p P x.1.toNat).map (fun a => (a.1, a.2, x.2)))
  (s.rangesOf p P l).flatMap (fun r => r.cut at_)

/-- The lowest to the highest byte of elements at some indices (R172). -/
def Desc.hull (d : Desc) (l : List Ix) : List VaRange :=
  match d.spans l with
  | [] => []
  | r :: t => [(r.1, (t.foldl (fun (m : Int) (x : VaRange) => max m (x.1 + (x.2 : Int))) (r.1 + (r.2 : Int)) - r.1).toNat)]

/-! ### Runs (R171) -/

def Desc.elemBytes (d : Desc) (x : Ix) : VaRange := bitBytes (d.bitAddr x) d.width

/-- Do the bits of y directly follow or precede those of x? -/
def Desc.adjacent (d : Desc) (x y : Ix) : Bool :=
  decide (d.bitAddr y = d.bitAddr x + d.width) || decide (d.bitAddr y = d.bitAddr x - d.width)

/-- A list of elements, in the order in which they are walked, cut into runs: within one the elements follow each other in one direction and
`same` holds of neighbours. -/
def Desc.runs (d : Desc) (same : Ix → Ix → Bool) : List Ix → List (List Ix)
  | [] => []
  | x :: t =>
    match d.runs same t with
    | [] => [[x]]
    | [] :: r => [x] :: r
    | (y :: l) :: r =>
      let straight := match l with
        | z :: _ => decide (d.bitAddr y - d.bitAddr x = d.bitAddr z - d.bitAddr y)
        | [] => true
      if same x y && d.adjacent x y && straight then (x :: y :: l) :: r else [x] :: (y :: l) :: r

/-- The distance that one step along a dimension makes, in bits. -/
def Desc.stepOf (d : Desc) : Nat → Nat
  | 0 => (d.bitAddr { i0 := 1, i1 := 0, i2 := 0, i3 := 0 } - d.bitAddr { i0 := 0, i1 := 0, i2 := 0, i3 := 0 }).natAbs
  | 1 => (d.bitAddr { i0 := 0, i1 := 1, i2 := 0, i3 := 0 } - d.bitAddr { i0 := 0, i1 := 0, i2 := 0, i3 := 0 }).natAbs
  | 2 => (d.bitAddr { i0 := 0, i1 := 0, i2 := 1, i3 := 0 } - d.bitAddr { i0 := 0, i1 := 0, i2 := 0, i3 := 0 }).natAbs
  | _ => (d.bitAddr { i0 := 0, i1 := 0, i2 := 0, i3 := 1 } - d.bitAddr { i0 := 0, i1 := 0, i2 := 0, i3 := 0 }).natAbs

def Desc.extOf (d : Desc) : Nat → Nat
  | 0 => d.e0
  | 1 => d.e1
  | 2 => d.e2
  | _ => d.e3

def Ix.set (x : Ix) : Nat → Nat → Ix
  | 0, i => { x with i0 := i }
  | 1, i => { x with i1 := i }
  | 2, i => { x with i2 := i }
  | _, i => { x with i3 := i }

/-- Dimensions in the order in which the source is walked, innermost first; those of no stride, which are fetched once, are left out. -/
def Desc.walk (d : Desc) : List Nat :=
  sortBy (fun a b => decide (d.stepOf a < d.stepOf b) || (decide (d.stepOf a = d.stepOf b) && decide (a ≤ b)))
    ((List.range 4).filter (fun k => decide (1 < d.extOf k) && decide (d.stepOf k ≠ 0)))

/-- The runs of a whole box, outermost dimension first. -/
def Desc.boxRuns (d : Desc) : List (List Ix) :=
  if d.empty then []
  else
    match d.walk with
    | [] => [[{ i0 := 0, i1 := 0, i2 := 0, i3 := 0 }]]
    | k :: outer =>
      let heads := outer.foldl (fun (l : List Ix) j => (List.range (d.extOf j)).flatMap (fun i => l.map (fun x => x.set j i)))
        [{ i0 := 0, i1 := 0, i2 := 0, i3 := 0 }]
      heads.flatMap (fun x => d.runs (fun _ _ => true) ((List.range (d.extOf k)).map (fun i => x.set k i)))

/-- The aligned 64-byte units that each run fetches, run after run; the scale bytes of layouts 4 and 5 are met once for each run. -/
def Desc.runUnits (d : Desc) (l : List (List Ix)) : List VaRange := l.flatMap (fun r => unitsOf (d.spans r))

/-- Set of a line in its cache (R97). -/
def cacheSet (addr : Nat) : Nat := Config.cacheSet (addr / 128) % 1024

/-- A line put into a cache, most recently used first: a set of 16 full ways loses one, which pseudo-LRU never takes to be the one used
last; which of the others is a free choice, for R97 does not give the tree (log 7). -/
def fillLine (seed : Nat) (c : List CacheLine) (l : CacheLine) : List CacheLine :=
  let c := c.filter (fun x => decide (x.addr ≠ l.addr))
  let ways := c.filter (fun x => decide (cacheSet x.addr = cacheSet l.addr))
  if ways.length < 16 then l :: c
  else
    match ways[1 + Config.free seed 7 l.addr % 15]? with
    | some v => l :: c.filter (fun x => decide (x.addr ≠ v.addr))
    | none => l :: c

/-- Lines of device memory that stretches of virtual addresses meet, each once for every stretch that meets it. -/
def State.linesOf (s : State) (p : Nat) (P : Partition) (l : List VaRange) : List Nat :=
  l.flatMap (fun r => match s.segs p P r.1.toNat r.2 with
    | some g => nubNat (g.flatMap (fun g => if g.space = .dram ∧ 0 < g.len
        then (List.range ((g.addr + g.len - 1) / 128 + 1 - g.addr / 128)).map (fun i => (g.addr / 128 + i) * 128) else []))
    | none => [])

/-- A cached read fetches a line: a hit is used again, a miss fills it. A line in which memory holds a bad word is discarded, which is counted, and
its data reach the command poisoned (R97, R99, R386). A line whose own SRAM has an uncorrectable error is discarded where it is found
(State.scrubCache), so that its next read is a miss. -/
def State.fetchLine (s : State) (a : Access) (c addr : Nat) : State :=
  match s.cached a.rdr c addr 1 with
  | l :: _ => ({ s with caches := tput s.caches c (fillLine s.free (tgetD s.caches c []) l) } : State).count 1 c 0x48 1
  | [] =>
    let s' := s.count 1 c 0x49 1
    if s.dram.bad addr 128 then s'.count 1 c 0x4A 1
    else
      let b := s.view a.rdr { space := .dram, addr := addr, len := 128 }
      { s' with caches := tput s.caches c (fillLine s.free (tgetD s.caches c []) { addr := addr, bytes := b }) }

/-- The lines that a cached transfer fetches: those in which the units of its source's runs lie, once for every run (R97, R171). -/
def State.installLines (s : State) (a : Access) (l : List VaRange) : State :=
  match a.cache with
  | none => s
  | some c => s.each (s.linesOf a.p a.P l) (fun s x => s.fetchLine a c x)

end Sys2Proof.Machine
end

