-- ==== Sys2Proof/Machine/Transfer.lean ====
section
/-! DEFINITION. Transfer.lean: LOAD, STORE, COPY, GATHER and SCATTER (R141, R148, R149, R175 to R187). Conversion, padding and
accumulation at the destination are shared by all of them. -/

namespace Sys2Proof.Machine

/-! ### Engine selector (R86, R141) -/

def selCore (b : Bytes) : Nat := bits (u8 b 8) 2 0
def selEngine (b : Bytes) : Nat := bits (u8 b 8) 4 3

/-- Byte 8 of a record that is not MMA or MMAQ. -/
def selectorOk (b : Bytes) : Nat × Bool := (8, decide (u8 b 8 < 8))

/-- The named core is usable (R86). -/
def State.coreOk (s : State) (d : Site) : Bool :=
  d.P.ownsCluster d.Q.cluster && !s.clusterFenced d.Q.cluster && !s.coreFenced d.Q.cluster (selCore d.b)

def teEngine (b : Bytes) : Nat := selCore b * 4 + 3
def veEngine (b : Bytes) : Nat := selCore b * 4 + 2

/-- The engine has no free place (R100). -/
def State.engineFull (s : State) (d : Site) (e depth : Nat) : Bool := decide (depth ≤ s.engineLoad d.Q.cluster e)

def Site.writer (d : Site) (id engine kind : Nat) : Writer :=
  { cmd := id, p := d.p, q := d.q, cluster := d.Q.cluster, engine := engine, kind := kind }

def Site.access (d : Site) (engine : Nat) (cache : Bool) : Access :=
  { p := d.p, P := d.P, rdr := .engine d.Q.cluster engine, cache := if cache then some d.Q.cluster else none }

/-! ### Conversion (R178, R179) -/

def plain (l : Nat) : Bool := decide (l ≤ 3)

def floatsNarrow : Dtype → Bool
  | .e4m3 | .e5m2 | .e3m2 | .e2m3 | .e2m1 | .int8 => true
  | _ => false

/-- Does the table of R178 hold this pair of types? -/
def typesConvert (a b : Dtype) : Bool :=
  decide (a = b) ||
    match b with
    | .fp32 => floatsNarrow a || decide (a = .bf16) || decide (a = .fp16)
    | .bf16 => floatsNarrow a || decide (a = .fp32) || decide (a = .fp16)
    | .fp16 => floatsNarrow a || decide (a = .fp32) || decide (a = .bf16)
    | _ => false

/-- Does the table of R178 hold this pair? `mxIn`, `mxOut`: a LOAD from MX, a STORE to MX (R179). FP4 and FP6 in layout 6 go with layout 6
of the same type alone (R423). -/
def convOk (src dst : Desc) (mxIn mxOut : Bool) : Bool :=
  let a := src.type
  let b := dst.type
  let six := fun (d : Desc) => decide (d.layout = 6) && d.sub
  if src.layout = 4 ∧ dst.layout = 4 then decide (a = b) && decide (src.param = dst.param)
  else if src.layout = 5 ∧ dst.layout = 4 then mxIn && decide (a = b) && decide (dst.param = 0)
  else if src.layout = 4 ∧ dst.layout = 5 then mxOut && decide (a = b) && !src.e4Scale
  else if src.layout = 4 then plain dst.layout && (decide (b = .fp32) || decide (b = .bf16) || decide (b = .fp16))
  else if src.layout = 5 ∨ dst.layout = 5 ∨ dst.layout = 4 then false
  else if six src || six dst then decide (src.layout = 6) && decide (dst.layout = 6) && decide (a = b)
  else typesConvert a b

/-- Are bits moved unchanged? -/
def rawMove (src dst : Desc) : Bool :=
  decide (src.type = dst.type) && !(decide (src.layout = 4) && plain dst.layout)

/-- A code as it fits an element of a destination. In layout 6 an element is a byte: for a wider type the spec states no byte (R423, log
26). -/
def State.fitIn (s : State) (dst : Desc) (x : Ix) (c : Nat) : Nat :=
  if dst.layout = 6 ∧ 8 < dst.type.width then Config.free s.free 88 (dst.bitAddr x).toNat % 256 else c

/-- The code of a value in a destination. -/
def State.codeIn (s : State) (dst : Desc) (x : Ix) (v : Num) : Nat := s.fitIn dst x (dst.type.encode v)

/-- The code that a source element x becomes at element y of the destination. -/
def State.moved (s : State) (a : Access) (src dst : Desc) (x y : Ix) : Nat × Bool :=
  if rawMove src dst && decide (src.width = dst.width) then s.elem a src x
  else
    let v := s.elemValue a src x
    (s.codeIn dst y v.1, v.2)

def State.converted (s : State) (a : Access) (src dst : Desc) (x : Ix) : Nat × Bool := s.moved a src dst x x

/-! ### Writing a destination -/

/-- An element write of a command, by value: where, what, poison. -/
structure Put where
  ix : Ix
  code : Nat
  bad : Bool
  deriving DecidableEq, Repr

/-- The destination index box, with pad positions (R180). -/
def Desc.padBox (d : Desc) : List Ix :=
  match d.layout with
  | 2 => box (roundUp d.e0 64) (roundUp d.e1 64) d.e2 d.e3
  | 3 => box (roundUp d.e0 32) (roundUp d.e1 32) d.e2 d.e3
  | 4 => box (roundUp d.e0 1024) d.e1 d.e2 d.e3
  | _ => d.all

def Ix.inside (x : Ix) (d : Desc) : Bool := decide (x.i0 < d.e0) && decide (x.i1 < d.e1) && decide (x.i2 < d.e2) && decide (x.i3 < d.e3)

/-- The scale bytes to be written: in packs that hold source elements, or any pack under PAD_FILL, groups with source elements take the
source's scale, groups wholly in pad positions 1.0 under PAD_FILL, and header bytes not in use are zero (R181, R193); in MX, one byte per
32 elements, from the group that covers them (R179). -/
def State.scalePuts (s : State) (a : Access) (src dst : Desc) (pad : Bool) : List (Int × Nat × Bool) :=
  if dst.layout = 4 then
    (box (cdiv dst.e0 1024) dst.e1 dst.e2 dst.e3).flatMap (fun x =>
      let first : Ix := { x with i0 := x.i0 * 1024 }
      let head := dst.scaleAddr first
      if !pad && !first.inside src then []
      else
        (List.range 32).filterMap (fun g =>
          let y : Ix := { x with i0 := x.i0 * 1024 + g * dst.group }
          if 1024 / dst.group ≤ g then some (head + g, 0, false)
          else if y.inside src then some (head + g, s.scale a src y)
          else if pad then some (head + g, if dst.e4Scale then 0x38 else 0x7F, false) else none))
  else if dst.layout = 5 then
    (box (cdiv dst.e0 32) dst.e1 dst.e2 dst.e3).map (fun x =>
      let y : Ix := { x with i0 := x.i0 * 32 }
      (dst.scaleAddr y, s.scale a src y))
  else []

/-- The bytes of those scales. -/
def scaleSpans (src dst : Desc) (pad : Bool) : List VaRange :=
  if dst.layout = 4 then
    (box (cdiv dst.e0 1024) dst.e1 dst.e2 dst.e3).flatMap (fun x =>
      let first : Ix := { x with i0 := x.i0 * 1024 }
      if !pad && !first.inside src then []
      else
        (List.range 32).filterMap (fun g =>
          let y : Ix := { x with i0 := x.i0 * 1024 + g * dst.group }
          if 1024 / dst.group ≤ g ∨ y.inside src ∨ pad then some (dst.scaleAddr first + g, 1) else none))
  else if dst.layout = 5 then
    (box (cdiv dst.e0 32) dst.e1 dst.e2 dst.e3).map (fun x => (dst.scaleAddr { x with i0 := x.i0 * 32 }, 1))
  else []

/-- Element writes; of two of one element the later one stands. -/
def State.putAll (s : State) (wr : Writer) (P : Partition) (d : Desc) (l : List Put) : State :=
  s.putFields wr P (l.map (fun w => d.put w.ix w.code w.bad))

/-- A free order: by free keys (R186). -/
def shuffle {α : Type} (seed : Nat) (l : List α) : List α :=
  let keyed := (List.range l.length).zip l
  (sortBy (fun a b => decide (Config.free seed 8 a.1 ≤ Config.free seed 8 b.1)) keyed).map Prod.snd

/-- ACCUM: the sum is formed in FP32, to nearest; a BF16 destination takes it rounded toward zero (R185). -/
def State.accumulate (s : State) (wr : Writer) (P : Partition) (d : Desc) (x : Ix) (v : Num) (bad : Bool) : State :=
  let n := (d.bitAddr x).toNat
  let old := match s.segs wr.p P (n / 8) (d.width / 8) with
    | some l => leNat (l.flatMap (fun g => s.spad.bytes g.addr g.len))
    | none => 0
  let sum := ((d.type.value old).add v).r32
  let code := if d.type = .bf16 then bf16.encode .zero false sum else fp32.encode .nearest false sum
  s.putElem { wr with unit := d.width / 8 } P d x code bad

/-! ### The shape shared by the transfers -/

/-- Does the write accumulate (R6, R149, R174)? -/
def State.accumulates (s : State) (b : Bytes) (dst : Desc) : Bool :=
  recAccum b && s.boot.licLive.getLsbD 0 && decide (dst.base / 2 ^ 44 = 2)

def anyMeet (a b : List VaRange) : Bool := a.any (fun x => b.any (rangesMeet x))

/-- A source in the host window while the link is lost, or whose data never comes, ends with HOST_TIMEOUT (R290, R311). -/
def rangesInHost (l : List VaRange) : Bool := l.any (fun r => decide (0 < r.2) && decide ((hostBase : Int) ≤ r.1 + r.2 - 1))

/-- What a transfer may write: with PAD_FILL clear no pad position, so that elements beyond the source extents are left out (R172, R181). -/
def writtenRanges (src dst : Desc) (pad : Bool) : List VaRange :=
  if pad then dst.ranges true
  else dst.rangesIn { n0 := min src.e0 dst.e0, n1 := min src.e1 dst.e1, n2 := min src.e2 dst.e2, n3 := min src.e3 dst.e3 } false

/-- Bounds of a transfer: the core, both descriptors' ranges, and a destination that may be written. R75 names NB_ATTEND, ATTN, LOAD and COPY
as readers of the pool range and says of no other reader what happens: as here, no command's read is turned away (DESIGN CHOICE, log 47). -/
def State.transferBounds (s : State) (d : Site) (src dst : Desc) (read written : List VaRange) : Option Nat :=
  firstBad
    [(8, s.coreOk d), (src.off, read.all (s.reachTe d.p d.P)),
     (dst.off, written.all (s.reachTe d.p d.P) && written.all d.P.writable)]

/-- Island of a transfer's end (R134). A GATHER may put its blocks into the host window too: R139's table gives it kind 0x1 alone, R134 gives
every transfer to the host window 0x5, which the model follows (DESIGN CHOICE, log 47). -/
def Site.endIsland (d : Site) (dst : Desc) : Nat := if hostBase ≤ dst.base then islPcie else islArith d.Q.cluster

/-- What a transfer's work is on: the elements it reads of its source, the bytes it writes, and further ranges it reads. -/
structure Moved where
  src : Desc
  dst : Desc
  /-- Bytes of the source that it reads, the units that its runs fetch, and bytes of the destination that it writes. -/
  reads : List VaRange
  units : List VaRange
  writes : List VaRange
  /-- Bytes of the destination that it writes in part, with the bits (R182). -/
  parts : List (Int × Nat) := []
  /-- The list that it reads before it moves any data (R148). -/
  list : List VaRange := []
  deriving DecidableEq, Repr

def Moved.idle (m : Moved) : Bool := m.src.empty || m.dst.empty

/-- Put a transfer into flight with its ranges; one with a zero extent reads and writes nothing (R142). -/
def State.launchTransfer (s : State) (d : Site) (m : Moved) : State × Nat :=
  let f := { d.flight (teEngine d.b) (d.endIsland m.dst) with
             writes := if m.idle then [] else s.rangesIn d.p d.P m.writes m.parts,
             reads := if m.idle then [] else s.rangesOf d.p d.P (m.list ++ m.reads),
             readsHost := !m.idle && rangesInHost m.reads,
             writesHost := !m.idle && rangesInHost m.writes }
  s.launch d f 0

/-- Run the work of a transfer unless it has none or its host reads fail at once; `bad`: a poisoned source element was moved. -/
def State.transferRun (s : State) (d : Site) (m : Moved) (cached : Bool)
    (work : State → Access → Writer → State × Bool) : State :=
  let (s, id) := s.launchTransfer d m
  if m.idle then s
  else if rangesInHost m.reads && s.linkGone then
    (s.scramble (s.rangesIn d.p d.P m.writes m.parts)).condition id .hostTimeout
  else
    let a := d.access (teEngine d.b) cached
    let wr := d.writer id (teEngine d.b) 1
    let s' := (s.installLines a m.units).begins id a (s.segsOf d.p d.P (m.list ++ m.reads)) s.free
    let (t, bad) := work s' a wr
    let t := if bad then t.condition id .poison else t
    let none := ((tget t.flight id).map (fun f => f.conds.contains .aliased || f.conds.contains .eccUncorr)).getD false
    let t := if none then t else t.count 0 (d.Q.cluster * 8 + selCore d.b) 0x07 (cdiv (sumNat (m.writes.map Prod.snd)) 64)
    (t.readRanges id d.p d.P m.units).tick

/-- The work of a LOAD, STORE or COPY: the source box, written with or without pad positions. -/
def boxMove (src dst : Desc) (pad : Bool) : Moved :=
  let put := if pad then dst.padBox else src.all
  { src := src, dst := dst, reads := src.spans src.all, units := src.runUnits src.boxRuns,
    writes := sortSpans (put.map (fun x => dst.elemBytes x) ++ scaleSpans src dst pad), parts := dst.parts put }

/-- Copy the source box into the destination, converting, padding and accumulating. Of a PAD_VALUE of a type wider than a byte, a destination in
layout 6 takes the low 8 bits; of a narrower type the code, zero above (R181 and R423 do not say which byte: DESIGN CHOICE, log 47). -/
def State.moveBox (s : State) (a : Access) (wr : Writer) (src dst : Desc) (pad : Bool) (padVal : Nat) (acc : Bool) :
    State × Bool :=
  if acc then
    let l := shuffle s.free (src.all.map (fun x => (x, s.elemValue a src x)))
    (s.each l (fun t e => t.accumulate wr a.P dst e.1 e.2.1 e.2.2), l.any (fun e => e.2.2))
  else
    let puts := ((if pad then dst.padBox else src.all).map (fun x =>
      if x.inside src then
        let c := s.converted a src dst x
        ({ ix := x, code := c.1, bad := c.2 } : Put)
      else { ix := x, code := padVal, bad := false }))
    let scales := s.scalePuts a src dst pad
    let t := s.putFields wr a.P (puts.map (fun w => dst.put w.ix w.code w.bad)
      ++ scales.map (fun e => { at? := (e.1 * 8).toNat, width := 8, val := e.2.1, bad := e.2.2 }))
    (t, puts.any Put.bad || scales.any (fun e => e.2.2))

/-! ### LOAD, STORE, COPY -/

/-- Requirements shared by LOAD, STORE and COPY. An ACCUM whose destination is in layout 6 is INCONSISTENT, whatever its type: R149, R174 and R185
name no layout, and an element of layout 6 is a byte (R423), which no FP32 or BF16 sum fits (DESIGN CHOICE, log 47). `pv` the PAD_VALUE, `ge`: destination extents at least the source's. -/
def State.transferVerdict (s : State) (d : Site) (src dst : Desc) (used : List (Nat × Nat)) (more : List (Nat × Bool))
    (ge mxIn mxOut : Bool) : Verdict :=
  let b := d.b
  let pad := recPadFill b
  let fields := firstBad ([selectorOk b] ++ more ++ src.fields ++ dst.fields ++ reservedZero b used)
  let ext := fun (x y : Nat) => if ge then decide (x ≤ y) else decide (x = y)
  let pos := fun (o : Nat) => if dst.glob then dst.off + 12 + o else dst.off + 8 + o
  let acc := s.accumulates b dst
  let cons := firstBad (src.consistent ++ dst.consistent ++
    [(pos 0, ext src.e0 dst.e0), (pos 2, ext src.e1 dst.e1), (pos 4, ext src.e2 dst.e2), (pos 6, ext src.e3 dst.e3),
     (if dst.glob then dst.off + 8 else dst.off + 4,
      if acc then (decide (dst.dtype = 1) || decide (dst.dtype = 2)) && plain dst.layout
          && convOk src { dst with dtype := 1 } false false
        else convOk src dst mxIn mxOut)])
  let written := writtenRanges src dst pad
  let al := if (acc || dst.aliasOk) && !anyMeet (src.ranges false) written then none else some 0xFF
  verdictOf fields cons al (s.transferBounds d src dst (src.ranges false) written) (s.engineFull d (teEngine b) 16)

def padValueOk (b : Bytes) (o : Nat) (dst : Desc) : Nat × Bool := (o, decide (u32 b o < 2 ^ dst.type.width))

def State.loadVerdict (s : State) (d : Site) : Verdict :=
  let dst := sdAt d.b 56
  s.transferVerdict d (gdAt d.b 16) dst [(8, 2), (12, 4), (16, 64)]
    [(9, decide (u8 d.b 9 ≤ 1)), padValueOk d.b 12 dst] true true false

def State.storeVerdict (s : State) (d : Site) : Verdict :=
  s.transferVerdict d (sdAt d.b 16) (gdAt d.b 40) [(8, 1), (16, 64)] [] false false true

def State.copyVerdict (s : State) (d : Site) : Verdict :=
  s.transferVerdict d (gdAt d.b 16) (gdAt d.b 56) [(8, 2), (16, 80)] [(9, decide (u8 d.b 9 ≤ 1))] false false false

/-- What a LOAD does. -/
def State.loadRun (s : State) (d : Site) : State :=
  let src := gdAt d.b 16
  let dst := sdAt d.b 56
  s.transferRun d (boxMove src dst (recPadFill d.b)) (u8 d.b 9 = 0)
    (fun s a wr => s.moveBox a wr src dst (recPadFill d.b) (u32 d.b 12) false)

def execLoad (p q : Nat) (s : State) : Host.Outcome State Fault Refusal :=
  s.dispatch p q (isOp 0x1001) noSkip s.loadVerdict State.loadRun

/-- What a STORE does. -/
def State.storeRun (s : State) (d : Site) : State :=
  let src := sdAt d.b 16
  let dst := gdAt d.b 40
  s.transferRun d (boxMove src dst false) false (fun s a wr => s.moveBox a wr src dst false 0 false)

def execStore (p q : Nat) (s : State) : Host.Outcome State Fault Refusal :=
  s.dispatch p q (isOp 0x1002) noSkip s.storeVerdict State.storeRun

/-- What a COPY does. -/
def State.copyRun (s : State) (d : Site) : State :=
  let src := gdAt d.b 16
  let dst := gdAt d.b 56
  s.transferRun d (boxMove src dst false) (u8 d.b 9 = 0)
    (fun s a wr => s.moveBox a wr src dst false 0 (s.accumulates d.b dst))

def execCopy (p q : Nat) (s : State) : Host.Outcome State Fault Refusal :=
  s.dispatch p q (isOp 0x1003) noSkip s.copyVerdict State.copyRun

/-! ### GATHER and SCATTER (R148, R183, R184) -/

/-- The list as read: pairs (row-block, column-block), and whether one of its words is bad. -/
def State.blockList (s : State) (a : Access) (b : Bytes) : List (Nat × Nat) × Bool :=
  let n := u16 b 10
  let r := s.fetch { a with cache := none } (spadBase + u32 b 96) (4 * n)
  ((List.range n).map (fun i => (u16 r.1 (4 * i), u16 r.1 (4 * i + 2))), r.2)

def listRange (b : Bytes) : VaRange := (spadBase + u32 b 96, 4 * u16 b 10)

/-- Block elements with the matrix element each stands for: (block index, matrix index). -/
def blockPairs (b : Bytes) (list : List (Nat × Nat)) : List (Ix × Ix) :=
  let rows := u16 b 12
  let cols := u16 b 14
  ((List.range list.length).zip list).flatMap (fun e =>
    (List.range rows).flatMap (fun r => (List.range cols).map (fun c =>
      ({ i0 := c, i1 := r, i2 := e.1, i3 := 0 }, { i0 := e.2.2 * cols + c, i1 := e.2.1 * rows + r, i2 := 0, i3 := 0 }))))

/-- Block elements of a GATHER or SCATTER with a matrix element inside the matrix. -/
def blockHits (b : Bytes) (list : List (Nat × Nat)) (m : Desc) : List (Ix × Ix) := (blockPairs b list).filter (fun e => e.2.inside m)

/-- Pad positions of a GATHER's destination: block elements outside the source, and those beyond the destination extents. -/
def gatherPads (b : Bytes) (list : List (Nat × Nat)) (m k : Desc) : List Ix :=
  (((blockPairs b list).filter (fun e => !e.2.inside m)).map Prod.fst) ++ k.padBox.filter (fun x => !x.inside k)

/-- Requirements shared by GATHER and SCATTER. The ranges of R172 and R175 are over the elements that the listed blocks name, and the pad positions
that are written (R148, R181); the list is read for them at the dispatch, and again for the work (log 26). -/
def State.blocksVerdict (s : State) (d : Site) (gather : Bool) : Verdict :=
  let b := d.b
  let m := gdAt b 16
  let k := gdAt b 56
  let src := if gather then m else k
  let dst := if gather then k else m
  let pad := recPadFill b
  let acc := !gather && s.accumulates b dst
  let fields := firstBad ([selectorOk b, (9, if gather then decide (u8 b 9 ≤ 1) else decide (u8 b 9 = 0)),
      (10, decide (u16 b 10 ≤ 4096)), (12, decide (1 ≤ u16 b 12) && decide (u16 b 12 ≤ 4096)),
      (14, decide (1 ≤ u16 b 14) && decide (u16 b 14 ≤ 4096)), (96, decide (u32 b 96 < 2 ^ 30))]
    ++ (if gather then [padValueOk b 100 dst] else []) ++ m.fields ++ k.fields
    ++ reservedZero b (if gather then [(8, 8), (16, 88)] else [(8, 8), (16, 84)]))
  let cons := firstBad (m.consistent ++ k.consistent ++
    [(25, decide (m.layout ≤ 1)), (32, decide (m.e2 = 1)), (34, decide (m.e3 = 1)), (65, plain k.layout),
     (68, decide (k.e0 = u16 b 14)), (70, decide (k.e1 = u16 b 12)), (72, decide (k.e2 = u16 b 10)), (74, decide (k.e3 = 1)),
     (96, decide (u32 b 96 % 4 = 0)),
     (dst.off + 8, if acc then (decide (dst.dtype = 1) || decide (dst.dtype = 2)) && convOk src { dst with dtype := 1 } false false
        else convOk src dst false false)])
  -- the elements that the listed blocks name; a list with a bad word names none, and ends the command later
  let listed := reachVe d.Q.cluster (selCore b) (listRange b)
  let l := s.blockList (d.access (teEngine b) false) b
  let hits := if listed ∧ !l.2 then blockHits b l.1 m else []
  let pads := if pad ∧ listed ∧ !l.2 then gatherPads b l.1 m k else []
  let read := if gather then m.hull (hits.map Prod.snd) else k.hull (hits.map Prod.fst)
  let written := if gather then k.hull (hits.map Prod.fst ++ pads) else m.hull (hits.map Prod.snd)
  let al := if (acc || dst.aliasOk) && !anyMeet read written then none else some 0xFF
  let bo := match s.transferBounds d src dst read written with
    | some o => some o
    | none => if u16 b 10 = 0 ∨ listed then none else some 96
  verdictOf fields cons al bo (s.engineFull d (teEngine b) 16)

/-- The runs of the elements of one side of a GATHER or SCATTER, block by block (R171). -/
def blockRuns (src : Desc) (n : Nat) (hits : List (Ix × Ix)) (pick : Ix × Ix → Ix) : List (List Ix) :=
  let inner := (src.walk.head?).getD 0
  (List.range n).flatMap (fun i =>
    let l := (hits.filter (fun e => decide (e.1.i2 = i))).map pick
    match l with
    | [] => []
    | x :: _ =>
      let l := l.filter (fun y => (decide (src.stepOf 0 ≠ 0) || decide (y.i0 = x.i0)) && (decide (src.stepOf 1 ≠ 0) || decide (y.i1 = x.i1)))
      if inner = 1 then
        src.runs (fun x y => decide (x.i0 = y.i0))
          (mergeSort (fun a b => decide (a.i0 < b.i0) || (decide (a.i0 = b.i0) && decide (a.i1 ≤ b.i1))) l)
      else src.runs (fun x y => decide (x.i1 = y.i1)) l)

/-- The work of a GATHER or SCATTER; a list that holds a bad word leaves the whole destination undefined (R144), and a SCATTER whose list names
a pair twice writes nothing (R148). -/
def State.blockMove (s : State) (d : Site) (gather pad acc : Bool) : Moved :=
  let m := gdAt d.b 16
  let k := gdAt d.b 56
  let n := u16 d.b 10
  let l := s.blockList (d.access (teEngine d.b) false) d.b
  let hits := blockHits d.b l.1 m
  let list := if n = 0 then [] else [listRange d.b]
  if gather then
    let put := if l.2 then k.all else hits.map Prod.fst ++ (if pad then gatherPads d.b l.1 m k else [])
    { src := m, dst := k, reads := if l.2 then [] else m.spans (hits.map Prod.snd),
      units := if l.2 then [] else m.runUnits (blockRuns m n hits Prod.snd), writes := k.spans put, parts := k.parts put, list := list }
  else
    let same := !acc && decide (¬ l.1.Nodup)
    let put := if l.2 then m.all else if same then [] else hits.map Prod.snd
    { src := k, dst := m, reads := if l.2 ∨ same then [] else k.spans (hits.map Prod.fst),
      units := if l.2 ∨ same then [] else k.runUnits (blockRuns k n hits Prod.fst), writes := m.spans put, parts := m.parts put, list := list }

/-- What a GATHER does. -/
def State.gatherRun (s : State) (d : Site) : State :=
  let src := gdAt d.b 16
  let dst := gdAt d.b 56
  let pad := recPadFill d.b
  s.transferRun d (s.blockMove d true pad false) (u8 d.b 9 = 0)
    (fun s a wr =>
      let l := s.blockList a d.b
      let s := s.meetVa d.p d.P (listRange d.b)
      if l.2 then (s.controlFails wr.cmd, false)
      else
        let puts := (blockHits d.b l.1 src).map (fun e =>
          let v := s.moved a src dst e.2 e.1
          ({ ix := e.1, code := v.1, bad := v.2 } : Put))
        let pads := if pad then (gatherPads d.b l.1 src dst).map (fun x => ({ ix := x, code := u32 d.b 100, bad := false } : Put))
          else []
        (s.putAll wr d.P dst (puts ++ pads), puts.any Put.bad))

def execGather (p q : Nat) (s : State) : Host.Outcome State Fault Refusal :=
  s.dispatch p q (isOp 0x1004) noSkip (fun d => s.blocksVerdict d true) State.gatherRun

/-- What a SCATTER does. -/
def State.scatterRun (s : State) (d : Site) : State :=
  let src := gdAt d.b 56
  let dst := gdAt d.b 16
  let acc := s.accumulates d.b dst
  s.transferRun d (s.blockMove d false false acc) false
    (fun s a wr =>
      let l := s.blockList a d.b
      let s := s.meetVa d.p d.P (listRange d.b)
      if l.2 then (s.controlFails wr.cmd, false)
      else if !acc && decide (¬ l.1.Nodup) then (s.condition wr.cmd .aliased, false)
      else
        let hits := blockHits d.b l.1 dst
        if acc then
          let vs := shuffle s.free (hits.map (fun e => (e.2, s.elemValue a src e.1)))
          (s.each vs (fun t e => t.accumulate wr d.P dst e.1 e.2.1 e.2.2), vs.any (fun e => e.2.2))
        else
          let puts := hits.map (fun e =>
            let v := s.moved a src dst e.1 e.2
            ({ ix := e.2, code := v.1, bad := v.2 } : Put))
          (s.putAll wr d.P dst puts, puts.any Put.bad))

def execScatter (p q : Nat) (s : State) : Host.Outcome State Fault Refusal :=
  s.dispatch p q (isOp 0x1005) noSkip (fun d => s.blocksVerdict d false) State.scatterRun

end Sys2Proof.Machine
end

