-- ==== Sys2Proof/Machine/Matrix.lean ====
section
/-! DEFINITION. Matrix.lean: MMA and MMAQ (R86, R89 to R91, R151, R169, R196). Products are exact and each addition rounds to
FP32, in an open order (log 13). -/

namespace Sys2Proof.Machine

/-- Types that pair freely in a product (R89). -/
def smallFloat : Dtype → Bool
  | .e4m3 | .e5m2 | .e3m2 | .e2m3 | .e2m1 => true
  | _ => false

def pairOk (a b : Dtype) : Bool :=
  (smallFloat a && smallFloat b)
    || (decide (a = b) && (decide (a = .int8) || decide (a = .bf16) || decide (a = .fp16)))

/-- The type of C that R91 permits. -/
def resultOk (quant : Bool) (a c : Dtype) : Bool :=
  if a = .int8 ∧ !quant then decide (c = .int32) else decide (c = .fp32) || decide (c = .bf16) || decide (c = .fp16)

def State.mmEngine (s : State) (d : Site) : Nat :=
  let base := selCore d.b * 4
  match selEngine d.b with
  | 0 => base
  | 1 => base + 1
  | _ => if s.engineLoad d.Q.cluster (base + 1) < s.engineLoad d.Q.cluster base then base + 1 else base

def State.matrixVerdict (s : State) (d : Site) (quant : Bool) : Verdict :=
  let b := d.b
  let A := sdAt b 16
  let B := sdAt b 40
  let C := sdAt b 64
  let fields := firstBad ([(8, decide (u8 b 8 < 32) && decide (selEngine b ≤ 2)), (9, decide (u8 b 9 ≤ 1)),
      (10, if quant then decide (u8 b 10 ≤ 2) else decide (u8 b 10 = 0)),
      (11, if quant then decide (u8 b 11 ≤ 1) else decide (u8 b 11 = 0))]
    ++ A.fields ++ B.fields ++ C.fields ++ reservedZero b [(8, 4), (16, 72)])
  let layoutOk := fun (x : Desc) => if quant then decide (x.layout = 4) else plain x.layout
  let param := u8 b 10 + 4 * u8 b 11
  let K := A.e0
  let cons := firstBad (A.consistent ++ B.consistent ++ C.consistent ++
    [(24, decide (K = if quant then B.e0 else B.e1)), (26, decide (A.e1 = C.e1)),
     (48, decide ((if quant then B.e1 else B.e0) = C.e0)),
     (28, decide (A.e2 = 1)), (30, decide (A.e3 = 1)), (52, decide (B.e2 = 1)), (54, decide (B.e3 = 1)),
     (76, decide (C.e2 = 1)), (78, decide (C.e3 = 1)),
     (20, pairOk A.type B.type), (68, resultOk quant A.type C.type),
     (21, layoutOk A), (45, layoutOk B), (69, decide (C.layout = 0) || decide (C.layout = 2)),
     (10, !quant || (decide (A.param = param) && decide (B.param = param) && decide (K % A.group = 0)))])
  let al := if C.aliasOk && !anyMeet (C.ranges false) (A.ranges false ++ B.ranges false) then none else some 0xFF
  let reach := fun (x : Desc) => (x.ranges false).all (reachMe d.Q.cluster (selCore b))
  let bo := firstBad [(8, s.coreOk d), (16, reach A), (40, reach B), (64, reach C)]
  verdictOf fields cons al bo (s.engineFull d (s.mmEngine d) 16)

/-- A row or a column of an operand: codes, and scale bytes by group, each with its poison. -/
structure OpLine where
  codes : List (Nat × Bool)
  scales : List (Nat × Bool)
  deriving DecidableEq, Repr

/-- Read n elements along an index, with the scales of their groups in layout 4. -/
def State.lane (s : State) (a : Access) (d : Desc) (ix : Nat → Ix) (n : Nat) : OpLine :=
  { codes := (List.range n).map (fun k => s.elem a d (ix k)),
    scales := if d.layout = 4 then (List.range (n / d.group)).map (fun g => s.scale a d (ix (g * d.group))) else [] }

/-- Rows of A and columns of B; in MMAQ dimension 0 of both runs along K. -/
def State.rowsOf (s : State) (a : Access) (A : Desc) : List OpLine :=
  (List.range A.e1).map (fun i => s.lane a A (fun k => { i0 := k, i1 := i, i2 := 0, i3 := 0 }) A.e0)

def State.colsOf (s : State) (a : Access) (B : Desc) (quant : Bool) : List OpLine :=
  if quant then s.rowsOf a B
  else (List.range B.e0).map (fun j => s.lane a B (fun k => { i0 := j, i1 := k, i2 := 0, i3 := 0 }) B.e1)

/-- The terms of the dot product of two lanes, each with poison (R90): MMAQ multiplies each product by both group scales; INT8 packs sum each
group in INT32 first, and the sum counts as an FP32 number (R196). Products and scales multiply exactly. -/
def dotTerms (A B : Desc) (quant : Bool) (x y : OpLine) : List (Num × Bool) :=
  let es := x.codes.zip y.codes
  let sc := x.scales.zip y.scales
  if quant && decide (A.type = .int8) then
    ((List.range sc.length).zip sc).map (fun g =>
      let part := (es.drop (g.1 * A.group)).take A.group
      let sum : Int := part.foldl (fun t e => t + signed 8 e.1.1 * signed 8 e.2.1) 0
      let f := ((scaleValue A.e4Scale g.2.1.1).mul (scaleValue B.e4Scale g.2.2.1)).shift (-12)
      ((Num.ofInt sum).r32.mul f, g.2.1.2 || g.2.2.2 || part.any (fun e => e.1.2 || e.2.2)))
  else if quant then
    (es.zip (sc.flatMap (List.replicate A.group))).map (fun e =>
      let prod := (A.type.packValue e.1.1.1).mul (B.type.packValue e.1.2.1)
      (prod.mul ((scaleValue A.e4Scale e.2.1.1).mul (scaleValue B.e4Scale e.2.2.1)), e.1.1.2 || e.1.2.2 || e.2.1.2 || e.2.2.2))
  else es.map (fun e => ((A.type.value e.1.1).mul (B.type.value e.2.1), e.1.2 || e.2.2))

/-- The dot product of two lanes onto an initial value: its terms added in FP32, in an order that R90 leaves open (log 13). Answers poison
too. -/
def dotFp (seed idx : Nat) (A B : Desc) (quant : Bool) (x y : OpLine) (init : Num × Bool) : Num × Bool :=
  let l := dotTerms A B quant x y
  (sumAny seed 96 idx (init.1 :: l.map Prod.fst), init.2 || l.any Prod.snd)

/-- The INT8 dot product of an MMA, modulo 2^32 (R90). -/
def dotInt (x y : OpLine) (init : Nat × Bool) : Nat × Bool :=
  let r := (x.codes.zip y.codes).foldl (fun (acc : Int × Bool) e =>
    (acc.1 + signed 8 e.1.1 * signed 8 e.2.1, acc.2 || e.1.2 || e.2.2)) (signed 32 init.1, init.2)
  ((r.1 % 2 ^ 32).toNat, r.2)

/-- C's elements as they are to be written. -/
def State.product (s : State) (a : Access) (A B C : Desc) (quant acc : Bool) : List Put :=
  if A.empty || B.empty || C.empty then []
  else
    let cols := s.colsOf a B quant
    ((List.range C.e1).zip (s.rowsOf a A)).flatMap (fun r => ((List.range C.e0).zip cols).map (fun c =>
      let x : Ix := { i0 := c.1, i1 := r.1, i2 := 0, i3 := 0 }
      if C.type = .int32 then
        let v := dotInt r.2 c.2 (if acc then s.elem a C x else (0, false))
        { ix := x, code := v.1, bad := v.2 }
      else
        let v := dotFp s.free (r.1 * 65536 + c.1) A B quant r.2 c.2 (if acc then s.elemValue a C x else (Num.zero, false))
        { ix := x, code := C.type.encode v.1, bad := v.2 }))

def State.matrixRun (s : State) (d : Site) (quant : Bool) : State :=
  let e := s.mmEngine d
  let A := sdAt d.b 16
  let B := sdAt d.b 40
  let C := sdAt d.b 64
  -- a zero extent: nothing is read or written (R142)
  let idle := A.empty || B.empty || C.empty
  let acc := u8 d.b 9 = 1
  let reads := if idle then [] else A.spans A.all ++ B.spans B.all ++ (if acc then C.spans C.all else [])
  let f := { d.flight e (islArith d.Q.cluster) with
             writes := if idle then [] else s.rangesOf d.p d.P (C.spans C.all), reads := s.rangesOf d.p d.P reads }
  let (s, id) := s.launch d f 0
  let s := if idle then s else s.begins id (d.access e false) (s.segsOf d.p d.P reads) s.free
  let puts := s.product (d.access e false) A B C quant acc
  let t := s.putAll (d.writer id e 1) d.P C puts
  let t := if puts.any Put.bad then t.condition id .poison else t
  (t.readRanges id d.p d.P reads).tick

def execMma (p q : Nat) (s : State) : Host.Outcome State Fault Refusal :=
  s.dispatch p q (isOp 0x2001) noSkip (fun d => s.matrixVerdict d false) (fun s d => s.matrixRun d false)

def execMmaq (p q : Nat) (s : State) : Host.Outcome State Fault Refusal :=
  s.dispatch p q (isOp 0x2002) noSkip (fun d => s.matrixVerdict d true) (fun s d => s.matrixRun d true)

end Sys2Proof.Machine
end

