-- ==== Sys2Proof/Machine/Vector.lean ====
section
/-! DEFINITION. Vector.lean: VOP, READ_CTR, VRED, VQUANT, VDEQ and VTOPK (R152 to R155, R195, R198 to R203, R404, R425). -/

namespace Sys2Proof.Machine

def zeroDesc (b : Bytes) (o : Nat) : Bool := allZero ((b.drop o).take 24)

/-- A float code of FP32, a NaN as the canonical one: what an engine writes where the spec states no value (R191). -/
def canonical (c : Nat) : Nat := if (fp32.decode (c % 2 ^ 32)).isNan then 0x7FC00000 else c % 2 ^ 32

/-- Layouts whose elements a vector command takes one by one: R188 counts layout 6 with the plain ones (log 26). -/
def elementwise (l : Nat) : Bool := plain l || decide (l = 6)

/-- A vector command at work: its place and island, the bytes it reads and writes, and its end; `idle`: it reads and writes nothing
(R142), and its engine ends it all the same (R134, R139). -/
def State.vectorRun (s : State) (d : Site) (idle : Bool) (reads writes : List VaRange)
    (work : State → Access → Writer → State × Bool) : State :=
  let e := veEngine d.b
  let f := { d.flight e (islArith d.Q.cluster) with
             writes := if idle then [] else s.rangesOf d.p d.P writes, reads := if idle then [] else s.rangesOf d.p d.P reads }
  let (s, id) := s.launch d f 0
  let a := d.access e false
  let s := if idle then s else s.begins id a (s.segsOf d.p d.P reads) s.free
  let (t, bad) := if idle then (s, false) else work s a (d.writer id e 1)
  let t := if bad then t.condition id .poison else t
  (if idle then t else t.readRanges id d.p d.P reads).tick

def State.veReach (_s : State) (d : Site) (l : List VaRange) : Bool := l.all (reachVe d.Q.cluster (selCore d.b))

/-! ### VOP (R152) -/

/-- The operations of VOP by their shape. -/
inductive VopKind where
  | binary | fma | imm | unary | func | rotary | convert
  deriving DecidableEq, Repr

def vopKind : Nat → Option VopKind
  | 0x00 | 0x01 | 0x02 | 0x04 | 0x05 => some .binary
  | 0x03 => some .fma
  | 0x06 | 0x07 => some .imm
  | 0x08 | 0x09 => some .unary
  | 0x10 | 0x11 | 0x12 | 0x13 | 0x14 | 0x15 => some .func
  | 0x16 => some .rotary
  | 0x20 => some .convert
  | _ => none

def VopKind.usesB : VopKind → Bool
  | .binary | .fma | .rotary => true
  | _ => false

def isFloat3 (t : Dtype) : Bool := decide (t = .fp32) || decide (t = .bf16) || decide (t = .fp16)
def isVopType (t : Dtype) : Bool := isFloat3 t || decide (t = .int8) || decide (t = .int32)

/-- Types an operation takes for A (R152). -/
def VopKind.takes (k : VopKind) (t : Dtype) : Bool :=
  match k with
  | .binary | .unary | .convert => isVopType t
  | .fma | .imm => isFloat3 t
  | .func | .rotary => decide (t = .fp32) || decide (t = .bf16)

/-- Requirements of a VOP. Packs (layout 4, which R188 opens to INT8) are no operands of it: an element of a pack counts with its group's
scale, and R152 says nothing of scales, so they are INCONSISTENT (DESIGN CHOICE, log 40). -/
def State.vopVerdict (s : State) (d : Site) : Verdict :=
  let b := d.b
  let A := sdAt b 16
  let B := sdAt b 40
  let D := sdAt b 64
  match vopKind (u8 b 9) with
  | none => .fail .illegal (firstBad [selectorOk b, (9, false)] |>.getD 9)
  | some k =>
    let fields := firstBad ([selectorOk b] ++ A.fields
      ++ (if k.usesB then B.fields else [(40, zeroDesc b 40)]) ++ D.fields ++ reservedZero b [(8, 2), (12, 76)])
    let same := fun (x : Desc) (o : Nat) =>
      [(o + 8, decide (x.e0 = D.e0)), (o + 10, decide (x.e1 = D.e1)), (o + 12, decide (x.e2 = D.e2)), (o + 14, decide (x.e3 = D.e3))]
    let cons := firstBad (A.consistent ++ (if k.usesB then B.consistent else []) ++ D.consistent
      ++ [(20, k.takes A.type && (decide (k = .convert) || decide (A.type = D.type))),
        (68, decide (k ≠ .convert) || isVopType D.type), (21, elementwise A.layout), (69, elementwise D.layout)] ++ same A 16
      ++ (match k with
        | .binary | .fma => [(44, decide (B.type = D.type)), (45, elementwise B.layout)] ++ same B 40
        | .rotary => [(44, decide (B.type = .fp32)), (45, elementwise B.layout), (24, decide (A.e0 % 2 = 0)),
            (48, decide (2 * B.e0 = A.e0)), (50, decide (B.e1 = A.e1)), (52, decide (B.e2 = A.e2)), (54, decide (B.e3 = A.e3))]
        | _ => []))
    let al := if D.aliasOk then none else some 0xFF
    let bo := firstBad [(8, s.coreOk d), (16, s.veReach d (A.ranges false)),
      (40, !k.usesB || s.veReach d (B.ranges false)), (64, s.veReach d (D.ranges false))]
    verdictOf fields cons al bo (s.engineFull d (veEngine b) 16)

/-- An integer operation, modulo 2^w (R152). -/
def intOp (op w a b : Nat) : Nat :=
  let x := signed w a
  let y := signed w b
  let r : Int := match op with
    | 0x00 => x + y
    | 0x01 => x - y
    | 0x02 => x * y
    | 0x04 => max x y
    | 0x05 => min x y
    | 0x08 => (x.natAbs : Int)
    | _ => -x
  (r % 2 ^ w).toNat

/-- A floating-point operation on two values of the type: exact, rounded to FP32, then to the type (R152, R203); for sums and products of
the narrower types that is the same as rounding once. -/
def floatOp (op : Nat) (a b : Num) : Num :=
  match op with
  | 0x00 | 0x07 => (a.add b).r32
  | 0x01 => (a.sub b).r32
  | 0x02 | 0x06 => (a.mul b).r32
  | 0x04 => a.max b
  | 0x05 => a.min b
  | 0x08 => a.abs
  | _ => a.neg

/-- SCALE and ADDI: the operand IMM is FP32 whatever the type. R203 states the rounding of FP32 alone: a narrower result is rounded once,
or through FP32, a free choice (log 13). -/
def immOp (op free : Nat) (a imm : Num) : Num :=
  let r := if op = 0x07 then a.add imm else a.mul imm
  if free % 2 = 0 then r.r32 else r

/-- A function of R203 as an FP32 code: within its bound of the exact value; where the spec states no result (infinities, a
logarithm or root of a negative number or zero, a reciprocal of zero, an overflow) any value, a NaN being the canonical one (R191, log
12). -/
def funcOp (op free : Nat) (x : Num) : Nat :=
  let any := canonical free
  match x with
  | .nan => 0x7FC00000
  | .inf _ => any
  | .fin neg m e =>
    match op with
    | 0x10 => if !neg && decide (m ≠ 0) && decide (7 ≤ e + (Nat.log2 m : Nat)) then any else within 2 free (exp2Num x)
    | 0x11 => if neg ∨ m = 0 then any else within 2 free (log2Num x)
    | 0x12 => if m = 0 then any else within 1 free (oneNum.div x)
    | 0x13 => if neg ∨ m = 0 then any else within 1 free (rsqrtNum x)
    | 0x14 => within 4 free (sigmoidNum x)
    | _ => within 4 free (geluNum x)

/-- A rotated pair (x cos θ − y sin θ, x sin θ + y cos θ), each within 4 units in the last place (R203, R213). -/
def rotate (f1 f2 : Nat) (x y θ : Num) : Nat × Nat :=
  if x.isNan || y.isNan || θ.isNan then (0x7FC00000, 0x7FC00000)
  else if x.isFin && y.isFin && θ.isFin then
    let sc := sinCos θ
    (within 4 f1 ((x.mul sc.2).sub (y.mul sc.1)), within 4 f2 ((x.mul sc.1).add (y.mul sc.2)))
  else (canonical f1, canonical f2)

/-- An FP32 code in the result's type. -/
def narrow (t : Dtype) (c : Nat) : Nat := if t = .fp32 then c else t.encode (fp32.decode c)

def Ix.number (x : Ix) : Nat := ((x.i3 * 65536 + x.i2) * 65536 + x.i1) * 65536 + x.i0

/-- Results of a VOP, in order. -/
def State.vopPuts (s : State) (a : Access) (b : Bytes) : List Put :=
  let A := sdAt b 16
  let B := sdAt b 40
  let D := sdAt b 64
  let op := u8 b 9
  if A.empty || D.empty then []
  else
    match vopKind op with
    | none => []
    | some .rotary =>
      (box B.e0 B.e1 B.e2 B.e3).flatMap (fun x =>
        let x0 : Ix := { x with i0 := 2 * x.i0 }
        let x1 : Ix := { x with i0 := 2 * x.i0 + 1 }
        let u := s.elemValue a A x0
        let v := s.elemValue a A x1
        let t := s.elemValue a B x
        let r := rotate (Config.free s.free 40 x0.number) (Config.free s.free 40 x1.number) u.1 v.1 t.1
        let bad := u.2 || v.2 || t.2
        [{ ix := x0, code := s.fitIn D x0 (narrow D.type r.1), bad := bad }, { ix := x1, code := s.fitIn D x1 (narrow D.type r.2), bad := bad }])
    | some k =>
      D.all.map (fun x =>
        let u := s.elem a A x
        let v := if k.usesB then s.elem a B x else (0, false)
        let w := if k = .fma then s.elem a D x else (0, false)
        let bad := u.2 || v.2 || w.2
        let val := fun (d : Desc) => (s.elemValue a d x).1
        let code : Nat :=
          match k with
          | .func => narrow D.type (funcOp op (Config.free s.free 41 x.number) (val A))
          | .convert =>
            if A.type = D.type ∧ ¬isFloat3 A.type ∧ A.width = D.width then u.1 else D.type.encode (val A)
          | .imm => D.type.encode (immOp op (Config.free s.free 89 x.number) (val A) (fp32.decode (u32 b 12)))
          | .fma =>
            -- rounded once, or through FP32, as immOp
            let r := ((val A).mul (val B)).add (val D)
            D.type.encode (if Config.free s.free 75 x.number % 2 = 0 then r.r32 else r)
          | _ =>
            if isFloat3 A.type then D.type.encode (floatOp op (val A) (val B))
            else intOp op A.type.width u.1 v.1
        { ix := x, code := s.fitIn D x code, bad := bad })

/-- What a VOP does. -/
def State.vopRun (s : State) (d : Site) : State :=
  let A := sdAt d.b 16
  let D := sdAt d.b 64
  let useB := ((vopKind (u8 d.b 9)).map VopKind.usesB).getD false
  let B := sdAt d.b 40
  let reads := A.spans A.all ++ (if useB then B.spans B.all else []) ++ (if u8 d.b 9 = 0x03 then D.spans D.all else [])
  s.vectorRun d (A.empty || D.empty) reads (D.spans D.all)
    (fun s a wr =>
      let puts := s.vopPuts a d.b
      (s.putAll wr d.P D puts, puts.any Put.bad))

def execVop (p q : Nat) (s : State) : Host.Outcome State Fault Refusal :=
  s.dispatch p q (fun b => isOp 0x3001 b && decide (u8 b 9 ≠ 0x30)) noSkip s.vopVerdict State.vopRun

/-! ### READ_CTR (R152, R402 to R404) -/

/-- Counters of each bank (R398). -/
def bankSize : Nat → Nat
  | 0 => 8
  | 1 => 16
  | 2 => 8
  | _ => 32

/-- A selector names a counter that exists. -/
def State.selectorLegal (s : State) (sel : Nat) : Bool :=
  let kind := bits sel 31 28
  let inst := bits sel 27 16
  decide (bits sel 15 5 = 0) && decide (kind ≤ 3) && decide (bits sel 4 0 < bankSize kind)
    && (match kind with
      | 0 => decide (inst < 512)
      | 1 => decide (inst < 64)
      | 2 => decide (inst < 768) && s.pcPresent inst
      | _ => decide (inst = 0) || (decide (inst = 1) && s.ident.part.hasX1))

/-- A tenant may read counters of units that its partition owns, while PERF_USER_EN is live (R404). -/
def State.tenantMay (s : State) (P : Partition) (sel : Nat) : Bool :=
  let inst := bits sel 27 16
  P.live.perfUser && s.selectorLegal sel
    && (match bits sel 31 28 with
      | 0 => P.ownsCluster (inst / 8)
      | 1 => P.ownsCluster inst
      | 2 => (tget P.pcs inst).isSome
      | _ => false)

/-- Events whose number depends on time or traffic in units that the model does not run: a free number of them has been
added since the last read (R399; log 19). -/
def timedEvent (ev : Nat) : Bool :=
  [0x01, 0x02, 0x03, 0x04, 0x05, 0x06, 0x08, 0x09, 0x41, 0x46, 0x47, 0x4C, 0x4E, 0x4F, 0x81, 0x82, 0x83, 0x84, 0x85, 0x86, 0x87,
   0xC1, 0xC2, 0xC9, 0xCB].contains ev

/-- A timed event happens at the unit of a counter: X1 has no host link and no brake, and no filter makes it another port's (R405). -/
def timedAt (sel : Nat) (c : Counter) : Bool :=
  timedEvent c.event && !(decide (bits sel 31 28 = 3) && decide (bits sel 27 16 = 1) && [0xC1, 0xC2, 0xCB].contains c.event)

def Counter.none : Counter := { event := 0, enable := false, filter := 0, filterKind := 0, count := 0, ovf := false }

/-- Sample a counter: timed events have gone on. -/
def State.sampleCounter (s : State) (sel : Nat) : Counter × State :=
  let c := tgetD s.perf.ctrs sel Counter.none
  let c := if c.enable && timedAt sel c then c.add (Config.free s.free 50 sel % 2 ^ 48) else c
  (c, ({ s with perf := { s.perf with ctrs := tput s.perf.ctrs sel c } } : State).tick)

/-- Requirements of READ_CTR (R152, R173, R197, R404). It writes 8 bytes at D's base, whatever D's extents, so those are the bytes whose
reach counts (R172). -/
def State.readCtrVerdict (s : State) (d : Site) : Verdict :=
  let b := d.b
  let D := sdAt b 64
  let fields := firstBad ([selectorOk b, (16, zeroDesc b 16), (40, zeroDesc b 40)] ++ D.fields ++ reservedZero b [(8, 2), (12, 76)])
  let cons := firstBad (D.consistent ++ [(64, decide (D.base % 8 = 0)), (69, decide (D.layout ≠ 5))])
  let al := if D.aliasOk then none else some 0xFF
  let bo := firstBad [(8, s.coreOk d), (12, s.tenantMay d.P (u32 b 12)), (64, D.empty || s.veReach d [(D.base, 8)])]
  verdictOf fields cons al bo (s.engineFull d (veEngine b) 16)

/-- What READ_CTR does. -/
def State.readCtrRun (s : State) (d : Site) : State :=
  let D := sdAt d.b 64
  s.vectorRun d D.empty [] [((D.base : Int), 8)]
    (fun s _ wr =>
      let (c, s) := s.sampleCounter (u32 d.b 12)
      (s.putVa wr d.P D.base (natLe 8 (c.count + b2n c.ovf * 2 ^ 63)) false, false))

def execReadCtr (p q : Nat) (s : State) : Host.Outcome State Fault Refusal :=
  s.dispatch p q (fun b => isOp 0x3001 b && decide (u8 b 9 = 0x30)) noSkip s.readCtrVerdict State.readCtrRun

/-! ### VRED (R153) -/

/-- SUM in an order that the spec leaves open (log 13), MAX or MIN, with poison. -/
def foldNum (seed idx op : Nat) (l : List (Num × Bool)) : Num × Bool :=
  (match op, l.map Prod.fst with
   | _, [] => .zero
   | 0, xs => sumAny seed 84 idx xs
   | 1, x :: t => t.foldl Num.max x
   | _, x :: t => t.foldl Num.min x,
   l.any Prod.snd)

/-- Segmented fields: directory, partials, slot size, elements, bags. -/
def segDir (b : Bytes) : Nat := spadBase + u32 b 64
def segPart (b : Bytes) : Nat := spadBase + u32 b 68
def segSlot (b : Bytes) : Nat := u32 b 72
def segElems (b : Bytes) : Nat := u16 b 76
def segBags (b : Bytes) : Nat := u32 b 12

def State.vredVerdict (s : State) (d : Site) : Verdict :=
  let b := d.b
  let seg := decide (u8 b 10 = 1)
  let A := sdAt b 16
  let D := sdAt b 40
  let fields := firstBad ([selectorOk b, (9, decide (u8 b 9 ≤ 2)), (10, decide (u8 b 10 ≤ 1))]
    ++ (if seg then [(16, zeroDesc b 16), (64, decide (u32 b 64 < 2 ^ 30)), (68, decide (u32 b 68 < 2 ^ 30)),
          (76, decide (1 ≤ segElems b) && decide (segElems b ≤ 4096))]
        else A.fields ++ [(12, decide (u32 b 12 = 0)), (64, decide (u32 b 64 = 0)), (68, decide (u32 b 68 = 0)),
          (72, decide (segSlot b = 0)), (76, decide (segElems b = 0))])
    ++ D.fields ++ reservedZero b (if seg then [(8, 3), (12, 66)] else [(8, 3), (12, 52)]))
  let cons := firstBad (D.consistent ++ [(44, isFloat3 D.type), (45, elementwise D.layout)] ++
    (if seg then
      [(48, decide (D.e0 = segElems b)), (50, decide (D.e1 = segBags b)), (52, decide (D.e2 = 1)), (54, decide (D.e3 = 1)),
       (72, decide (segSlot b % 32 = 0) && decide (16 + 4 * segElems b ≤ segSlot b))]
    else A.consistent ++
      [(20, isFloat3 A.type), (21, elementwise A.layout), (48, decide (D.e0 = 1)), (50, decide (D.e1 = A.e1)),
       (52, decide (D.e2 = A.e2)), (54, decide (D.e3 = A.e3))]))
  let al := if D.aliasOk then none else some 0xFF
  let bo := firstBad ([(8, s.coreOk d), (40, s.veReach d (D.ranges false))]
    ++ (if seg then [(64, s.veReach d [(segDir b, 8 * segBags b)])] else [(16, s.veReach d (A.ranges false))]))
  verdictOf fields cons al bo (s.engineFull d (veEngine b) 16)

/-- The partials that a segmented VRED reads: its directory names them. -/
def State.segSlots (s : State) (d : Site) : List VaRange :=
  let a := d.access (veEngine d.b) false
  (List.range (segBags d.b)).flatMap (fun bag =>
    let e := s.fetch a (segDir d.b + 8 * bag) 8
    let r : VaRange := ((segPart d.b + u32 e.1 0 * segSlot d.b : Nat), u16 e.1 4 * segSlot d.b)
    if s.veReach d [r] then [r] else [])

/-- What a VRED does. -/
def State.vredRun (s : State) (d : Site) : State :=
  let b := d.b
  let D := sdAt b 40
  let op := u8 b 9
  if u8 b 10 = 0 then
    let A := sdAt b 16
    s.vectorRun d (A.empty || D.empty) (A.spans A.all) (D.spans D.all)
      (fun s a wr =>
        if A.empty || D.empty then (s, false)
        else
          let puts := D.all.map (fun x =>
            let r := foldNum s.free x.number op ((List.range A.e0).map (fun k => s.elemValue a A { x with i0 := k }))
            ({ ix := x, code := s.codeIn D x r.1, bad := r.2 } : Put))
          (s.putAll wr d.P D puts, puts.any Put.bad))
  else
    s.vectorRun d (D.empty || decide (segBags b = 0)) (((segDir b : Int), 8 * segBags b) :: s.segSlots d) (D.spans D.all)
      (fun s a wr =>
        if !D.empty && (s.fetch a (segDir b) (8 * segBags b)).2 then (s.controlFails wr.cmd, false) else
        (List.range (if D.empty then 0 else segBags b)).foldl (fun (acc : State × Bool) bag =>
          let e := s.fetch a (segDir b + 8 * bag) 8
          -- directory entry: FIRST_SLOT, SLOT_COUNT, flags (R47)
          let first := u32 e.1 0
          let n := u16 e.1 4
          let flagged := bit (u8 e.1 6) 0
          let slots := (List.range n).map (fun i => segPart b + (first + i) * segSlot b)
          if slots.all (fun v => s.veReach d [(v, segSlot b)]) then
            let heads := slots.map (fun v => s.fetch a v 16)
            let bad0 := flagged || heads.any Prod.snd || heads.any (fun h => bit (u8 h.1 11) 0)
            let puts := (List.range (segElems b)).map (fun i =>
              let r := foldNum s.free (bag * 4096 + i) 0 (slots.map (fun v =>
                let x := s.fetch a (v + 16 + 4 * i) 4
                (fp32.decode (leNat x.1), x.2)))
              let x : Ix := { i0 := i, i1 := bag, i2 := 0, i3 := 0 }
              ({ ix := x, code := s.codeIn D x r.1, bad := bad0 || r.2 } : Put))
            ((acc.1.updFlight wr.cmd (fun f => { f with partialDone := true })).putAll wr d.P D puts, acc.2 || puts.any Put.bad)
          else (acc.1.condition wr.cmd .bounds, acc.2)) (s, false))

def execVred (p q : Nat) (s : State) : Host.Outcome State Fault Refusal :=
  s.dispatch p q (isOp 0x3002) noSkip s.vredVerdict State.vredRun

/-! ### VQUANT and VDEQ (R154, R195, R198 to R202, R425) -/

/-- Counts of a quantisation: converted, clipped, NaN, maximum. -/
structure QStat where
  converted : Nat
  clipped : Nat
  nans : Nat
  max : Num
  deriving DecidableEq, Repr

def QStat.zero : QStat := { converted := 0, clipped := 0, nans := 0, max := Num.zero }

def QStat.join (a b : QStat) : QStat :=
  { converted := a.converted + b.converted, clipped := a.clipped + b.clipped, nans := a.nans + b.nans, max := a.max.max b.max }

/-- The statistic record of R66. -/
def QStat.bytes (q : QStat) : Bytes :=
  natLe 8 q.converted ++ natLe 8 q.clipped ++ natLe 8 q.nans ++ natLe 4 (fp32.encode .nearest false q.max) ++ zeros 4

/-- One group: scale byte, element codes, statistics, poison (R198, R199, R425). -/
def quantGroup (t : Dtype) (e4 : Bool) (xs : List (Num × Bool)) : Nat × List Nat × QStat × Bool :=
  let good := xs.filter (fun x => !x.2)
  let amax := good.foldl (fun m x => if x.1.isFin && m.lt x.1.abs then x.1.abs else m) Num.zero
  let sb := chooseScale e4 t amax
  let sv := scaleValue e4 sb
  let r := xs.map (fun x => (quantise t sv x.1, x.2))
  (sb, r.map (fun x => x.1.1),
    { converted := xs.length, clipped := (r.filter (fun x => x.1.2.1 && !x.2)).length,
      nans := (r.filter (fun x => x.1.2.2 && !x.2)).length, max := amax },
    xs.any Prod.snd)

def gstatRange (b : Bytes) (D : Desc) : List VaRange :=
  if bit (u8 b 9) 0 ∧ !D.empty then [(spadBase + u32 b 64, 8 * (D.e0 / D.group * D.e1 * D.e2 * D.e3))] else []

/-- Requirements of a VQUANT (R154, R169, R200, R201). GSTATS counts with GROUP_STATS alone; without it the field is an SPA that nothing
uses (R142), and its alignment is not asked for (DESIGN CHOICE, log 40). -/
def State.vquantVerdict (s : State) (d : Site) : Verdict :=
  let b := d.b
  let A := sdAt b 16
  let D := sdAt b 40
  let gs := bit (u8 b 9) 0
  let fields := firstBad ([selectorOk b, (9, decide (u8 b 9 ≤ 3)), (10, decide (u8 b 10 ≤ 2)), (11, decide (u8 b 11 ≤ 1)),
      (12, decide (u32 b 12 < 2 ^ 30)), (64, decide (u32 b 64 < 2 ^ 30))]
    ++ A.fields ++ D.fields ++ reservedZero b [(8, 60)])
  let cons := firstBad (A.consistent ++ D.consistent ++
    [(9, gs || !bit (u8 b 9) 1), (10, decide (D.param = u8 b 10 + 4 * u8 b 11)), (12, decide (u32 b 12 % 32 = 0)),
     (20, decide (A.type = .fp32) || decide (A.type = .bf16)), (21, elementwise A.layout), (45, decide (D.layout = 4)),
     (48, decide (A.e0 = D.e0) && decide (D.e0 % D.group = 0)), (50, decide (A.e1 = D.e1)), (52, decide (A.e2 = D.e2)),
     (54, decide (A.e3 = D.e3)), (64, !gs || decide (u32 b 64 % 8 = 0))])
  let al := if D.aliasOk then none else some 0xFF
  let bo := firstBad [(8, s.coreOk d), (16, s.veReach d (A.ranges false)), (40, s.veReach d (D.ranges true)),
    (12, s.veReach d [(spadBase + u32 b 12, 32)]), (64, s.veReach d (gstatRange b D))]
  verdictOf fields cons al bo (s.engineFull d (veEngine b) 16)

/-- What the quantisation of a row writes: scales and elements; group statistics; the statistics so far; poison. -/
structure Quantised where
  puts : List BitPut
  groups : List (Nat × Bytes)
  stat : QStat
  bad : Bool
  deriving DecidableEq, Repr

/-- One group of a row of packs, or of its padding (R195). -/
def State.quantOne (s : State) (a : Access) (A D : Desc) (row : Ix) (gstat : Option Nat) (absmax : Bool) (acc : Quantised)
    (g : Nat) : Quantised :=
  let i0 := g * D.group
  let idx := fun (k : Nat) => ({ row with i0 := i0 + k } : Ix)
  let scale := fun (v : Nat) => ({ at? := (D.scaleAddr (idx 0) * 8).toNat, width := 8, val := v, bad := false } : BitPut)
  if i0 < D.e0 then
    let r := quantGroup D.type D.e4Scale ((List.range D.group).map (fun k => s.elemValue a A (idx k)))
    let n := (row.i1 + D.e1 * (row.i2 + D.e2 * row.i3)) * (D.e0 / D.group) + g
    let stat := natLe 2 r.2.2.1.clipped ++ natLe 2 r.2.2.1.nans
      ++ natLe 4 (if absmax then fp32.encode .nearest false r.2.2.1.max else 0)
    { puts := (scale r.1 :: ((List.range D.group).zip r.2.1).map (fun e => D.put (idx e.1) e.2 r.2.2.2)) ++ acc.puts,
      groups := match gstat with
                | none => acc.groups
                | some base => (base + 8 * n, stat) :: acc.groups,
      stat := acc.stat.join r.2.2.1, bad := acc.bad || r.2.2.2 }
  else
    { acc with puts := (scale (if D.e4Scale then 0x38 else 0x7F) :: (List.range D.group).map (fun k => D.put (idx k) 0 false))
                       ++ acc.puts }

/-- Header bytes that no group uses are zero (R193). -/
def Desc.headerZeros (D : Desc) : List BitPut :=
  (box (cdiv D.e0 1024) D.e1 D.e2 D.e3).flatMap (fun x =>
    let head := (D.scaleAddr { x with i0 := x.i0 * 1024 }).toNat
    (List.range (32 - 1024 / D.group)).map (fun i => { at? := 8 * (head + 1024 / D.group + i), width := 8, val := 0, bad := false }))

/-- Headers of the packs of a destination (R193). -/
def Desc.headers (D : Desc) : List VaRange :=
  (box (cdiv D.e0 1024) D.e1 D.e2 D.e3).map (fun x => (D.scaleAddr { x with i0 := x.i0 * 1024 }, 32))

/-- What a VQUANT does. -/
def State.vquantRun (s : State) (d : Site) : State :=
  let b := d.b
  let A := sdAt b 16
  let D := sdAt b 40
  let stats := spadBase + u32 b 12
  s.vectorRun d (A.empty || D.empty) (A.spans A.all) (D.spans D.padBox ++ D.headers ++ [((stats : Int), 32)] ++ gstatRange b D)
    (fun s a wr =>
      if A.empty || D.empty then (s, false)
      else
        let g := if bit (u8 b 9) 0 then some (spadBase + u32 b 64) else none
        let r := (box 1 D.e1 D.e2 D.e3).foldl (fun acc x =>
            (List.range (cdiv D.e0 1024 * (1024 / D.group))).foldl (s.quantOne a A D x g (bit (u8 b 9) 1)) acc)
          { puts := D.headerZeros, groups := [], stat := QStat.zero, bad := false }
        let s := s.putFields wr d.P r.puts
        let s := s.each r.groups (fun s e => s.putVa wr d.P e.1 e.2 false)
        (s.putVa wr d.P stats r.stat.bytes false, r.bad))

def execVquant (p q : Nat) (s : State) : Host.Outcome State Fault Refusal :=
  s.dispatch p q (isOp 0x3003) noSkip s.vquantVerdict State.vquantRun

/-- Requirements of VDEQ (R202). -/
def State.vdeqVerdict (s : State) (d : Site) : Verdict :=
  let b := d.b
  let A := sdAt b 16
  let D := sdAt b 40
  let fields := firstBad ([selectorOk b] ++ A.fields ++ D.fields ++ reservedZero b [(8, 1), (16, 48)])
  let cons := firstBad (A.consistent ++ D.consistent ++
    [(21, decide (A.layout = 4) || decide (A.layout = 5)), (45, elementwise D.layout),
     (44, decide (D.type = .fp32) || decide (D.type = .bf16)),
     (48, decide (A.e0 = D.e0) && (decide (A.layout ≠ 4) || decide (A.e0 % A.group = 0))), (50, decide (A.e1 = D.e1)),
     (52, decide (A.e2 = D.e2)), (54, decide (A.e3 = D.e3))])
  let al := if D.aliasOk then none else some 0xFF
  let bo := firstBad [(8, s.coreOk d), (16, s.veReach d (A.ranges false)), (40, s.veReach d (D.ranges false))]
  verdictOf fields cons al bo (s.engineFull d (veEngine b) 16)

/-- What a VDEQ does. -/
def State.vdeqRun (s : State) (d : Site) : State :=
  let A := sdAt d.b 16
  let D := sdAt d.b 40
  s.vectorRun d (A.empty || D.empty) (A.spans A.all) (D.spans D.all)
    (fun s a wr =>
      if A.empty || D.empty then (s, false)
      else
        let puts := D.all.map (fun x =>
          let v := s.elemValue a A x
          ({ ix := x, code := s.codeIn D x v.1, bad := v.2 } : Put))
        (s.putAll wr d.P D puts, puts.any Put.bad))

def execVdeq (p q : Nat) (s : State) : Host.Outcome State Fault Refusal :=
  s.dispatch p q (isOp 0x3004) noSkip s.vdeqVerdict State.vdeqRun

/-! ### VTOPK (R155) -/

/-- A candidate: score and index. -/
structure Cand where
  score : Num
  index : Nat
  deriving DecidableEq, Repr

/-- Larger scores first, lower indices first among equal ones. -/
def Cand.before (a b : Cand) : Bool := b.score.lt a.score || (!a.score.lt b.score && decide (a.index ≤ b.index))

/-- NaN and −∞ are dropped. -/
def Cand.counts (a : Cand) : Bool := !a.score.isNan && decide (a.score ≠ .inf true)

def keepBest (k : Nat) (l : List Cand) : List Cand := (sortBy Cand.before (l.filter Cand.counts)).take k

structure TopK where
  pairs : Bool
  logprob : Bool
  map : Bool
  k : Nat
  listLen : Nat
  src : Nat
  rowStride : Nat
  listStride : Nat
  wide : Nat
  rows : Nat
  type : Dtype
  out : Nat
  outStride : Nat
  deriving DecidableEq, Repr

def topkOf (b : Bytes) : TopK :=
  { pairs := decide (u8 b 9 = 1), logprob := bit (u8 b 10) 0, map := bit (u8 b 10) 1, k := u16 b 12, listLen := u16 b 14,
    src := spadBase + u32 b 16, rowStride := u32 b 20, listStride := u32 b 24, wide := u32 b 28, rows := u32 b 32,
    type := (Dtype.ofCode (u8 b 36)).getD .fp32, out := spadBase + u32 b 40, outStride := u32 b 44 }

def TopK.rowBytes (t : TopK) : Nat := if t.pairs then (t.wide - 1) * t.listStride + t.listLen * 8 else t.wide * t.type.width / 8

def TopK.srcRange (t : TopK) : VaRange := (t.src, if t.rows = 0 then 0 else (t.rows - 1) * t.rowStride + t.rowBytes)
def TopK.outRange (t : TopK) : VaRange := (t.out, if t.rows = 0 then 0 else (t.rows - 1) * t.outStride + 8 * t.k)

/-- The bytes of the rows that are read, and of those that are written. -/
def TopK.reads (t : TopK) : List VaRange :=
  sortSpans ((List.range t.rows).flatMap (fun r =>
    if t.pairs then (List.range t.wide).map (fun o => (((t.src + r * t.rowStride + o * t.listStride : Nat) : Int), t.listLen * 8))
    else [(((t.src + r * t.rowStride : Nat) : Int), t.wide * t.type.width / 8)]))

def TopK.writes (t : TopK) : List VaRange :=
  sortSpans ((List.range t.rows).map (fun r => (((t.out + r * t.outStride : Nat) : Int), 8 * t.k)))

/-- Candidates of a row, with poison. A pair whose index is at or above LIMIT or reserved counts as none; a bad word in it feeds the row's
result all the same (R144). -/
def State.candidates (s : State) (a : Access) (t : TopK) (b : Bytes) (r : Nat) : List (Cand × Bool) :=
  let base := t.src + r * t.rowStride
  if t.pairs then
    (List.range t.wide).flatMap (fun o => (List.range t.listLen).map (fun i =>
      let x := s.fetch a (base + o * t.listStride + 8 * i) 8
      let stored := u32 x.1 4
      let idx := if t.map then stored * u32 b 48 + u32 b 52 + o else stored
      if t.map && (decide (u32 b 56 ≠ 0) && decide (u32 b 56 ≤ idx) || decide (0xFFFFFFFF ≤ idx)) then ({ score := .nan, index := 0 }, x.2)
      else ({ score := fp32.decode (u32 x.1 0), index := idx }, x.2)))
  else
    (List.range t.wide).map (fun i =>
      let n := t.type.width / 8
      let x := s.fetch a (base + n * i) n
      ({ score := t.type.value (leNat x.1), index := i }, x.2))

/-- Natural log-sum-exp of finite scores about their maximum. -/
def logSumExp (xs : List Num) : Num :=
  let m := xs.foldl (fun m x => if m.lt x then x else m) (.inf true)
  let sum := xs.foldl (fun t x => if x.isFin then t.add (expNum (x.sub m)) else t) Num.zero
  let ln2 : Num := .fin false ln2Fix (-120)
  m.add ((log2Num sum).mul ln2)

/-- The score that is written: with LOGPROB minus the log-sum-exp of the row, to within 4 units in the last place; a row that
holds +∞ has no stated result (log 12). -/
def topScore (t : TopK) (free : Nat) (row : List Num) (x : Num) : Nat :=
  if t.logprob then
    let xs := row.filter (fun y => !y.isNan)
    if xs.contains (.inf false) then canonical free else within 4 free (x.sub (logSumExp xs))
  else fp32.encode .nearest false x

/-- Requirements of VTOPK (R155). -/
def State.vtopkVerdict (s : State) (d : Site) : Verdict :=
  let b := d.b
  let t := topkOf b
  let fields := firstBad ([selectorOk b, (9, decide (u8 b 9 ≤ 1)),
      (10, decide (u8 b 10 ≤ 3) && (!t.logprob || !t.pairs) && (!t.map || t.pairs)),
      (12, decide (1 ≤ t.k) && decide (t.k ≤ 256)),
      (14, if t.pairs then decide (1 ≤ t.listLen) && decide (t.listLen ≤ 4096) else decide (t.listLen = 0)),
      (16, decide (u32 b 16 < 2 ^ 30)), (24, t.pairs || decide (t.listStride = 0)),
      (28, decide (1 ≤ t.wide) && decide (t.wide ≤ (if t.pairs then 65536 else 1048576))),
      (32, decide (t.rows ≤ 65536)),
      (36, if t.pairs then decide (u8 b 36 = 0) else decide (u8 b 36 = 1) || decide (u8 b 36 = 2)),
      (40, decide (u32 b 40 < 2 ^ 30))] ++ reservedZero b [(8, 3), (12, 25), (40, 20)])
  let cons := firstBad [(20, decide (t.rowStride % 4 = 0)), (24, decide (t.listStride % 8 = 0)),
    (40, decide (u32 b 40 % 8 = 0)), (44, decide (8 * t.k ≤ t.outStride))]
  let al := if rangesMeet t.srcRange t.outRange then some 0xFF else none
  let bo := firstBad [(8, s.coreOk d), (16, s.veReach d [t.srcRange]), (40, s.veReach d [t.outRange])]
  verdictOf fields cons al bo (s.engineFull d (veEngine b) 16)

/-- What a VTOPK does. -/
def State.vtopkRun (s : State) (d : Site) : State :=
  let t := topkOf d.b
  s.vectorRun d (decide (t.rows = 0)) t.reads t.writes
    (fun s a wr =>
      (List.range t.rows).foldl (fun (acc : State × Bool) r =>
        let cs := s.candidates a t d.b r
        let bad := cs.any Prod.snd
        let best := keepBest t.k (cs.map Prod.fst)
        let row := cs.map (fun c => c.1.score)
        let out := ((List.range best.length).zip best).flatMap (fun e =>
          natLe 4 (topScore t (Config.free s.free 42 (r * 256 + e.1)) row e.2.score) ++ natLe 4 e.2.index)
        let fill := (List.replicate (t.k - best.length) (natLe 4 0xFF800000 ++ natLe 4 0xFFFFFFFF)).flatten
        (acc.1.putVa wr d.P (t.out + r * t.outStride) (out ++ fill) bad, acc.2 || bad)) (s, false))

def execVtopk (p q : Nat) (s : State) : Host.Outcome State Fault Refusal :=
  s.dispatch p q (isOp 0x3005) noSkip s.vtopkVerdict State.vtopkRun

end Sys2Proof.Machine
end

