-- ==== Sys2Proof/Machine/Mantle.lean ====
section
/-! DEFINITION. Mantle.lean: the length table, latents (R204 to R214), ATTN (R215 to R219), ATTN_MERGE (R157, R221, R222)
and HOSTOUT (R150, R245, R246). -/

namespace Sys2Proof.Machine

/-! ### Length table (R210, R211) -/

structure LtEntry where
  stream : Nat
  q : Nat
  n : Nat
  segment : Nat
  full : Bool
  skip : Bool
  out : Nat
  reserved : Bool
  deriving DecidableEq, Repr

def ltOf (b : Bytes) : LtEntry :=
  { stream := bits (u32 b 0) 19 0, q := bits (u32 b 0) 23 20 + 1, n := bits (u32 b 4) 23 0, segment := u16 b 8,
    full := bit (u16 b 10) 0, skip := bit (u16 b 10) 1, out := u32 b 12,
    reserved := decide (bits (u32 b 0) 31 24 ≠ 0) || decide (bits (u32 b 4) 31 24 ≠ 0) || decide (bits (u16 b 10) 15 2 ≠ 0) }

/-- First row of R211. -/
def State.ltFaulty (s : State) (e : LtEntry) : Bool :=
  e.reserved || decide (e.n < e.q) || (decide (4 < e.q) && !s.boot.licLive.getLsbD 4)

/-- The stream is outside the partition's granted range, or its entry belongs to another context (R161, R211). -/
def State.streamOutside (s : State) (P : Partition) (ctx st : Nat) : Bool :=
  match P.pool with
  | none => true
  | some o =>
    decide (st < o.firstStream) || decide (o.firstStream + o.streamCount ≤ st)
      || (match tget s.streams st with
        | some e => decide (e.state ≠ .free) && decide (e.ctx ≠ ctx)
        | none => false)

/-- The stream's entry lies in the partition's range and holds a poisoned word (R386). -/
def State.streamBad (s : State) (P : Partition) (st : Nat) : Bool :=
  (match P.pool with
    | some o => decide (o.firstStream ≤ st) && decide (st < o.firstStream + o.streamCount)
    | none => false)
    && s.sysBad (fun u => decide (u = .streamEntry st))

/-- Speculative length; 0 for a FREE stream. -/
def State.specLength (s : State) (st : Nat) : Nat :=
  match tget s.streams st with
  | some e => if e.state = .free then 0 else e.speculative
  | none => 0

/-! ### Latents (R194, R204, R207) -/

def Pool.layer (o : Pool) (l : Nat) : Layer :=
  (o.layers[l]?).getD { cache := 0, group := 0, scaleE4m3 := false, rotated := false }

/-- Bytes of a slot: the largest block among the layers (R231). -/
def Pool.blockBytes (o : Pool) : Nat := o.layers.foldl (fun m l => max m (o.groups * o.tokens * l.latentBytes)) 0

/-- Device-memory address of a slot. -/
def Pool.slotAddr (o : Pool) (bank slot : Nat) : Nat := bankAddr bank (o.base + slot * o.blockBytes)

/-- Element type of a layer's latents. -/
def Layer.type (L : Layer) : Dtype :=
  match L.cache with
  | 0 => .e4m3
  | 1 => .e5m2
  | 2 => .e2m1
  | _ => .bf16

/-- Elements under one scale: GROUP of stream.pool as a number of elements. -/
def Layer.groupSize (L : Layer) : Nat := L.group

/-- Elements of a half pack of a type, from its bytes, each with its scale applied in FP32 terms (R194, R202). -/
def halfPack (t : Dtype) (group : Nat) (e4 : Bool) (b : Bytes) : List Num :=
  let scales := (b.take 16).map (fun x => scaleValue e4 x.toNat)
  ((List.range 512).zip (codesOf t.width 512 (b.drop 16))).map (fun e => (t.packValue e.2).mul (scales.getD (e.1 / group) .zero))

/-- The 512 elements of a stored latent. -/
def Layer.latent (L : Layer) (b : Bytes) : List Num :=
  if L.cache = 3 then (codesOf 16 512 b).map bf16.decode
  else halfPack L.type L.groupSize L.scaleE4m3 b

/-- A read of device memory by address: contents and poison. -/
def State.viewDram (s : State) (r : Reader) (a n : Nat) : Bytes × Bool :=
  (s.view r { space := .dram, addr := a, len := n }, s.dram.bad a n)

/-- Block-table entry of range j and layer l of a stream, as a reader gets it; none where no table lies. -/
def State.blockEntry (s : State) (a : Access) (o : Pool) (st j l : Nat) : Nat × Bool :=
  let r := s.fetch a (o.entryVa (o.tableVa st) j l) 4
  (u32 r.1 0, r.2)

/-! ### ATTN -/

structure Attn where
  causal : Bool
  segmented : Bool
  rope : Bool
  outBf16 : Bool
  heads : Nat
  layer : Nat
  group : Nat
  table : Nat
  first : Nat
  entries : Nat
  q : Nat
  qStride : Nat
  upk : Nat
  upv : Nat
  out : Nat
  outStride : Nat
  sigma : Num
  ropeTable : Nat
  dim : Nat
  chunk : Nat
  deriving DecidableEq, Repr

def attnOf (b : Bytes) : Attn :=
  { causal := bit (u8 b 9) 0, segmented := bit (u8 b 9) 1, rope := bit (u8 b 9) 2, outBf16 := bit (u8 b 9) 3, heads := u8 b 10,
    layer := u8 b 11, group := u32 b 12, table := u64 b 16, first := u32 b 24, entries := u32 b 28, q := spadBase + u32 b 32,
    qStride := u32 b 36, upk := spadBase + u32 b 40, upv := spadBase + u32 b 44, out := spadBase + u32 b 48,
    outStride := u32 b 52, sigma := fp32.decode (u32 b 56), ropeTable := spadBase + u32 b 60, dim := u16 b 64, chunk := u16 b 66 }

/-- Output bytes of one head. -/
def Attn.headOut (t : Attn) : Nat := t.dim * (if t.outBf16 then 2 else 4)

/-- A finite positive FP32 (SIGMA of ATTN and NB_ATTEND). -/
def positive32 (c : Nat) : Bool :=
  match fp32.decode c with
  | .fin neg m _ => !neg && decide (m ≠ 0)
  | _ => false

/-- The range is in device memory: the striped or the bank-local view (R87, R156). -/
def inDevice (va n : Nat) : Bool := decide (n = 0) || (decide (va + n ≤ 2 ^ 40) || decide (va / 2 ^ 44 = 1))

/-- Requirements of ATTN (R156, R211, R215, R216). The operands whose size no entry fixes are checked whatever ENTRIES (R142). -/
def State.attnVerdict (s : State) (d : Site) : Verdict :=
  let b := d.b
  let t := attnOf b
  let upBytes := t.heads * t.dim * 452
  let fields := firstBad ([(9, decide (u8 b 9 < 16)), (10, decide (1 ≤ t.heads) && decide (t.heads ≤ 128)),
      (12, decide (t.group ≤ 255)), (16, decide (t.table < 2 ^ 48)), (28, decide (t.entries ≤ 16384)),
      (32, decide (u32 b 32 < 2 ^ 30)), (40, decide (u32 b 40 < 2 ^ 30)), (44, decide (u32 b 44 < 2 ^ 30)),
      (48, decide (u32 b 48 < 2 ^ 30)), (56, positive32 (u32 b 56)),
      (60, if t.rope then decide (u32 b 60 < 2 ^ 30) else decide (u32 b 60 = 0)),
      (64, decide (t.dim = 64) || decide (t.dim = 128)), (66, decide (t.chunk ≤ 4096))] ++ reservedZero b [(9, 59)])
  let cons := firstBad [(10, decide (t.heads * t.dim ≤ 8192)),
    (11, match d.P.pool with | some o => decide (t.layer < o.layers.length) | none => false),
    (12, match d.P.pool with | some o => decide (t.group < o.groups) | none => false), (16, decide (t.table % 16 = 0)),
    (36, decide (t.qStride % 32 = 0) && decide (t.heads * (t.dim + 64) * 2 ≤ t.qStride)), (40, decide (t.upk % 32 = 0)),
    (44, decide (t.upv % 32 = 0)), (52, decide (t.outStride % 32 = 0) && decide (t.heads * t.headOut ≤ t.outStride)),
    (60, !t.rope || decide (u32 b 60 ≠ 0))]
  let reach := fun (v n : Nat) => reachMantle d.Q.cluster (v, n)
  let bo := firstBad [(16, decide (t.entries = 0) || (inDevice (t.table + 16 * t.first) (16 * t.entries)
      && s.reachTe d.p d.P (t.table + 16 * t.first, 16 * t.entries))),
    (40, reach t.upk upBytes), (44, reach t.upv upBytes), (60, !t.rope || reach t.ropeTable 128)]
  verdictOf fields cons none bo (s.engineFull d 32 8)

/-- A row rounded to FP8 E4M3 with a power-of-two scale of its own (R217): codes and scale. -/
def quantRowFp8 (xs : List Num) : List Num × Num :=
  let r := quantGroup .e4m3 false (xs.map (fun x => (x, false)))
  (r.2.1.map e4m3.decode, scaleValue false r.1)

/-- Products in FP32, each times both scales, in an order that the spec leaves open (R217; log 13). -/
def dotScaled (seed idx : Nat) (x y : List Num × Num) : Num :=
  sumAny seed 79 idx (.zero :: (x.1.zip y.1).map (fun e => (e.1.mul e.2).mul (x.2.mul y.2)))

/-- exp2 in FP32 within its bound (R203); at −∞, the maximum of a row that no token has entered, it adds nothing (R56, R221;
log 12). -/
def exp2Free (free : Nat) (x : Num) : Num :=
  match x with
  | .inf true => .zero
  | _ => fp32.decode (funcOp 0x10 free x)

/-- Pairs of a positional part rotated at a position (R213). -/
def rotatePart (seed idx : Nat) (omega : List Num) (pos : Nat) (xs : List Num) : List Num :=
  (List.range 32).flatMap (fun i =>
    let θ := ((Num.fin false pos 0).mul ((omega[i]?).getD .zero)).r32
    let r := rotate (Config.free seed 43 (idx * 64 + 2 * i)) (Config.free seed 43 (idx * 64 + 2 * i + 1))
      ((xs[2 * i]?).getD .zero) ((xs[2 * i + 1]?).getD .zero) θ
    [fp32.decode r.1, fp32.decode r.2])

/-- Running state of an output row (R217). -/
structure Online where
  m : Num
  l : Num
  o : List Num
  deriving DecidableEq, Repr

/-- One key tile of a row: the new maximum, rescaled sums, then each token's weight (R217). -/
def Online.tile (seed idx : Nat) (r : Option Online) (scores : List (Nat × Num)) (vals : Nat → List Num × Num) (dim : Nat) :
    Option Online :=
  match scores with
  | [] => r
  | x :: t =>
    let top := t.foldl (fun m y => m.max y.2) x.2
    let start : Online :=
      match r with
      | none => { m := top, l := .zero, o := List.replicate dim .zero }
      | some r =>
        let m := r.m.max top
        let f := exp2Free (Config.free seed 44 idx) (r.m.sub m).r32
        { m := m, l := (r.l.mul f).r32, o := r.o.map (fun v => (v.mul f).r32) }
    let ps := scores.map (fun y =>
      let p := (exp2Free (Config.free seed 45 (idx * 2 ^ 24 + y.1)) (y.2.sub start.m).r32).min oneNum
      let v := vals y.1
      (p, e4m3.decode (e4m3.encode .zero true p), v.1.toArray, v.2))
    let at? := fun (k : Nat) => (idx * 2 ^ 24 + x.1) * 256 + k
    some { m := start.m, l := sumAny seed 80 (at? 255) (start.l :: ps.map Prod.fst),
           o := ((List.range dim).zip start.o).map (fun e =>
             sumAny seed 80 (at? e.1) (e.2 :: ps.map (fun y => (y.2.1.mul ((y.2.2.1[e.1]?).getD .zero)).mul y.2.2.2))) }

/-- Up-projection of a latent's content part for head h: one row per key or value element (R216). -/
def State.upProject (s : State) (a : Access) (t : Attn) (base h idx : Nat) (content : List Num) : List Num × Bool :=
  let rows := (List.range t.dim).map (fun d =>
    let w := s.fetch a (base + (h * t.dim + d) * 448) 448
    let sc := s.fetch a (base + t.heads * t.dim * 448 + 4 * (h * t.dim + d)) 4
    let sum := sumAny s.free 81 ((base * 128 + h) * 2 ^ 40 + idx * 128 + d)
      (.zero :: (w.1.zip content).map (fun e => (e4m3.decode e.1.toNat).mul e.2))
    (((fp32.decode (u32 sc.1 0)).mul sum).r32, w.2 || sc.2))
  (rows.map Prod.fst, rows.any Prod.snd)

/-- The entries of an ATTN before a given one, with the segment start of each. -/
def State.attnEntry (s : State) (a : Access) (t : Attn) (e : Nat) : LtEntry × Bool :=
  let r := s.fetch a (t.table + 16 * (t.first + e)) 16
  (ltOf r.1, r.2)

/-- Segment start of an entry; none where SEGMENT breaks its rule (R211, R213). -/
def State.segStart (s : State) (a : Access) (t : Attn) (e : Nat) (x : LtEntry) : Option Nat :=
  if t.segmented && decide (0 < x.segment) then
    if t.first + e = 0 then none
    else
      let y := ltOf (s.fetch a (t.table + 16 * (t.first + e - 1)) 16).1
      if y.stream = x.stream ∧ y.segment + 1 = x.segment then some y.n else none
  else some 0

/-- Segment start as the ordinals count it: the CONTEXT of the entry before, also where SEGMENT breaks its rule (R213, R215). -/
def State.segBase (s : State) (a : Access) (t : Attn) (e : Nat) (x : LtEntry) : Nat :=
  if t.segmented && decide (0 < x.segment) && decide (0 < t.first + e) then
    (ltOf (s.fetch a (t.table + 16 * (t.first + e - 1)) 16).1).n
  else 0

/-- Query tokens of an entry (R214). -/
def Attn.queries (t : Attn) (x : LtEntry) (a0 : Nat) : Nat :=
  if t.chunk ≠ 0 then t.chunk else if t.segmented then x.n - a0 else x.q

/-- What an entry comes to; a failed one may meet more than one fault (R211). -/
inductive EntryDone where
  | rows (l : List (Nat × List (Num × Bool)))
  | skipped
  | failed (sts : List Status)
  deriving DecidableEq, Repr

/-- Every output row of an entry, by query token ordinal within it: (ordinal × heads + head, elements). -/
def State.attnRows (s : State) (a : Access) (t : Attn) (o : Pool) (x : LtEntry) (a0 u0 : Nat) : List (Nat × List (Num × Bool)) :=
  let L := o.layer t.layer
  let base := match tget s.streams x.stream with | some e => e.positionBase.toNat | none => 0
  let pos := fun (tok : Nat) => (base + tok + 2 ^ 32 - a0 % 2 ^ 32) % 2 ^ 32
  let omegaRead := s.fetch a t.ropeTable 128
  let omega := (List.range 32).map (fun i => fp32.decode (u32 omegaRead.1 (4 * i)))
  let c := t.queries x a0
  -- latents of the tokens that some row attends
  let latents := (List.range (x.n - a0)).map (fun i =>
    let tok := a0 + i
    let e := (s.blockEntry a o x.stream (tok / o.tokens) t.layer).1
    let r := s.viewDram a.rdr (o.slotAddr (entryBank e) (entrySlot e) + (t.group * o.tokens + tok % o.tokens) * L.latentBytes)
      L.latentBytes
    (tok, (L.latent r.1, r.2)))
  (List.range t.heads).flatMap (fun h =>
    let kv := latents.map (fun z =>
      let k := s.upProject a t t.upk h z.1 (z.2.1.take 448)
      let v := s.upProject a t t.upv h z.1 (z.2.1.take 448)
      let part := z.2.1.drop 448
      let part := if t.rope && !L.rotated then rotatePart s.free (z.1 * 256 + 128) omega (pos z.1) part else part
      (z.1, (quantRowFp8 (k.1 ++ part), quantRowFp8 v.1, z.2.2 || k.2 || v.2)))
    (List.range c).map (fun j =>
      let tok := x.n - c + j
      let u := u0 + j
      let qr := s.fetch a (t.q + u * t.qStride + h * (t.dim + 64) * 2) ((t.dim + 64) * 2)
      let q := (codesOf 16 (t.dim + 64) qr.1).map bf16.decode
      let part := if t.rope then rotatePart s.free (u * 256 + h) omega (pos tok) (q.drop t.dim) else q.drop t.dim
      let q8 := quantRowFp8 (q.take t.dim ++ part)
      let keys := kv.filter (fun z => !t.causal || decide (z.1 ≤ tok))
      let scores := keys.map (fun z => (z.1, ((t.sigma.mul (dotScaled s.free ((u * 128 + h) * 2 ^ 24 + z.1) q8 z.2.1)).r32)))
      let vals := fun (k : Nat) => ((kv.find? (fun z => decide (z.1 = k))).map (fun z => z.2.2.1)).getD ([], .zero)
      let tiles := (List.range (x.n / 64 + 1)).map (fun k => scores.filter (fun y => decide (y.1 / 64 = k)))
      let r := tiles.foldl (fun r sc => Online.tile s.free (u * 128 + h) r sc vals t.dim) none
      let bad := qr.2 || keys.any (fun z => z.2.2.2) || (t.rope && omegaRead.2)
      let out := match r with
        | some r => r.o.map (fun v => match r.l with
            | .fin _ m _ => if m = 0 then (Num.nan, bad) else (if v.isFin then (v.div r.l).r32 else v, bad)
            | _ => (if v.isFin then Num.zero else .nan, bad))
        | none => List.replicate t.dim (Num.zero, bad)
      (u * t.heads + h, out)))

/-- The entry before, which SEGMENT looks at, holds a bad word (R211, R144). -/
def State.segBad (s : State) (a : Access) (t : Attn) (e : Nat) (x : LtEntry) : Bool :=
  t.segmented && decide (0 < x.segment) && decide (0 < t.first + e) && (s.fetch a (t.table + 16 * (t.first + e - 1)) 16).2

/-- INCONSISTENT of an entry by its own fields, its stream's length and its segment (R156, R211, R214). -/
def State.attnWrong (s : State) (a : Access) (t : Attn) (e : Nat) (x : LtEntry) (outside : Bool) : Bool :=
  s.ltFaulty x || (!outside && decide (s.specLength x.stream < x.n))
    || (match s.segStart a t e x with
        | none => true
        | some a0 => decide (x.n < a0) || decide (x.n - a0 < t.queries x a0))

/-- One entry of an ATTN (R211, R212, R156). -/
def State.attnEntryDone (s : State) (d : Site) (a : Access) (t : Attn) (o : Pool) (e u0 : Nat) : EntryDone :=
  let r := s.attnEntry a t e
  let x := r.1
  if r.2 || s.segBad a t e x || s.streamBad d.P x.stream then .failed [.eccUncorr]
  else
    let outside := s.streamOutside d.P d.Q.ctx x.stream
    let wrong := s.attnWrong a t e x outside
    if outside || wrong then .failed ((if outside then [.bounds] else []) ++ (if wrong then [.inconsistent] else []))
    else if x.skip then .skipped
    else
      let a0 := (s.segStart a t e x).getD 0
      let c := t.queries x a0
      if c = 0 then .rows []
      else
        let ranges := (List.range ((x.n - 1) / o.tokens + 1 - a0 / o.tokens)).map (fun i => a0 / o.tokens + i)
        let es := ranges.map (fun j => s.blockEntry a o x.stream j t.layer)
        let lost := ranges.any (fun j => (s.segs a.p a.P (o.entryVa (o.tableVa x.stream) j t.layer) 4).isNone)
        if es.any Prod.snd then .failed ([.eccUncorr] ++ (if lost then [.bounds] else []))
        -- a table in a page that is not mapped (R301)
        else if lost then .failed [.bounds]
        else if es.any (fun v => !entryValid v.1) then .failed [.inconsistent]
        else if reachMantle d.Q.cluster (t.q + u0 * t.qStride, (c - 1) * t.qStride + t.heads * (t.dim + 64) * 2)
            && reachMantle d.Q.cluster (t.out + u0 * t.outStride, (c - 1) * t.outStride + t.heads * t.headOut)
        then .rows (s.attnRows a t o x a0 u0) else .failed [.bounds]

/-- Stretches that an entry reads: its table entry and block table entries, and what its rows are formed from. -/
def State.attnReads (s : State) (a : Access) (t : Attn) (o : Pool) (e u0 : Nat) (done : EntryDone) : List Seg :=
  let seg := fun (va n : Nat) => (s.segs a.p a.P va n).getD []
  let r := s.attnEntry a t e
  let x := r.1
  let a0 := (s.segStart a t e x).getD 0
  let blocks := (List.range ((x.n - 1) / o.tokens + 1 - a0 / o.tokens)).flatMap (fun i =>
    seg (o.entryVa (o.tableVa x.stream) (a0 / o.tokens + i) t.layer) 4)
  let L := o.layer t.layer
  let latents := (List.range (x.n - a0)).map (fun i =>
    let v := (s.blockEntry a o x.stream ((a0 + i) / o.tokens) t.layer).1
    ({ space := .dram, addr := o.slotAddr (entryBank v) (entrySlot v) + (t.group * o.tokens + (a0 + i) % o.tokens) * L.latentBytes,
       len := L.latentBytes } : Seg))
  let c := t.queries x a0
  let up := t.heads * t.dim * 452
  seg (t.table + 16 * (t.first + e)) 16 ++ (if r.2 then [] else match done with
    | .failed [.eccUncorr] => blocks
    | .rows [] => []
    | .rows _ =>
      blocks ++ latents ++ (List.range c).flatMap (fun j => seg (t.q + (u0 + j) * t.qStride) (t.heads * (t.dim + 64) * 2))
        ++ seg t.upk up ++ seg t.upv up ++ (if t.rope then seg t.ropeTable 128 else [])
    | _ => [])

/-- Ordinals an entry takes (R212, R215). -/
def State.attnCount (s : State) (a : Access) (t : Attn) (e : Nat) : Nat :=
  let x := (s.attnEntry a t e).1
  t.queries x (s.segBase a t e x)

/-- A command that met a bad word in a control operand leaves its destination undefined (R144). -/
def State.endControl (s : State) (id : Nat) : State :=
  match tget s.flight id with
  | some f => if f.conds.contains .eccUncorr then s.scramble f.writes else s
  | none => s

/-- Stretches as the ranges of a command in flight. -/
def segRanges (l : List Seg) : List Range := l.map (fun g => { space := g.space, addr := g.addr, len := g.len })

/-- What an ATTN does. -/
def State.attnRun (s : State) (d : Site) : State :=
  let t := attnOf d.b
  match d.P.pool with
  | none => s
  | some o =>
    let a := d.access 32 false
    let firsts := (List.range t.entries).map (fun e => (e, sumNat ((List.range e).map (s.attnCount a t))))
    let outs := (firsts.map (fun e => (t.out + e.2 * t.outStride, s.attnCount a t e.1 * t.outStride))).filter
      (fun r => reachMantle d.Q.cluster ((r.1 : Int), r.2))
    let dones := firsts.map (fun e =>
      let done := s.attnEntryDone d a t o e.1 e.2
      (done, s.attnReads a t o e.1 e.2 done))
    -- the rows that it writes; a bad control operand leaves the whole destination undefined (R144)
    let ecc := dones.any (fun e => match e.1 with | .failed sts => sts.contains .eccUncorr | _ => false)
    let rows := dones.flatMap (fun e => match e.1 with
      | .rows rows => rows.map (fun r => (t.out + r.1 / t.heads * t.outStride + r.1 % t.heads * t.headOut, t.headOut))
      | _ => [])
    let f := { d.flight 32 (islArith d.Q.cluster) with
               writes := s.rangesOf d.p d.P ((if ecc then outs else rows).map (fun r => ((r.1 : Int), r.2))),
               reads := segRanges (dones.flatMap Prod.snd) }
    let seed := s.free
    let (s, id) := s.launch d f 0
    let s := s.begins id a (dones.flatMap Prod.snd) seed
    let wr := d.writer id 32 1
    let t' := dones.foldl (fun (acc : State) e =>
      let acc := acc.readSegs id e.2
      match e.1 with
      | .skipped => acc
      | .failed sts => sts.foldl (fun acc st => acc.condition id st) acc
      | .rows rows =>
        let acc := if rows.isEmpty then acc else acc.updFlight id (fun f => { f with partialDone := true })
        let acc := if rows.any (fun r => r.2.any Prod.snd) then acc.condition id .poison else acc
        rows.foldl (fun (acc : State) r =>
          let u := r.1 / t.heads
          let h := r.1 % t.heads
          let bytes := r.2.flatMap (fun v => if t.outBf16 then natLe 2 (bf16.encode .nearest false v.1)
            else natLe 4 (fp32.encode .nearest false v.1))
          acc.putVa wr d.P (t.out + u * t.outStride + h * t.headOut) bytes (r.2.any Prod.snd)) acc) s
    (t'.endControl id).tick

def execAttn (p q : Nat) (s : State) : Host.Outcome State Fault Refusal :=
  s.dispatch p q (isOp 0x4001) noSkip s.attnVerdict State.attnRun

/-! ### ATTN_MERGE -/

structure Merge where
  inBf16 : Bool
  outBf16 : Bool
  items : Nat
  dir : Nat
  part : Nat
  slotBase : Nat
  slotBytes : Nat
  out : Nat
  outStride : Nat
  deriving DecidableEq, Repr

def mergeOf (b : Bytes) : Merge :=
  { inBf16 := bit (u8 b 9) 0, outBf16 := bit (u8 b 9) 1, items := u32 b 12, dir := spadBase + u32 b 16,
    part := spadBase + u32 b 20, slotBase := u32 b 24, slotBytes := u32 b 28, out := spadBase + u32 b 32, outStride := u32 b 36 }

def Merge.rowOut (m : Merge) : Nat := 512 * (if m.outBf16 then 2 else 4)

/-- Header bytes of the pairs (m, l) of a partial of r rows (R56). -/
def partialHead (r : Nat) : Nat := roundUp (16 + 8 * r) 32

/-- Row i of a slot: m, l and the 512 outputs (R56). -/
def slotRow (b : Bytes) (bf : Bool) (r i : Nat) : Num × Num × List Num :=
  (fp32.decode (u32 b (16 + 8 * i)), fp32.decode (u32 b (20 + 8 * i)),
    if bf then (codesOf 16 512 (b.drop (partialHead r + i * 512 * 2))).map bf16.decode
    else (codesOf 32 512 (b.drop (partialHead r + i * 512 * 4))).map fp32.decode)

/-- Row i of the merge (R221). -/
def mergeRow (seed item i : Nat) (rows : List (Num × Num × List Num)) : List Num :=
  let M := rows.foldl (fun m r => if m.lt r.1 then r.1 else m) (.inf true)
  let w := ((List.range rows.length).zip rows).map (fun e =>
    if e.2.1 = M then oneNum else exp2Free (Config.free seed 46 ((item * 128 + i) * 65536 + e.1)) (e.2.1.sub M).r32)
  let at? := fun (k : Nat) => (item * 128 + i) * 1024 + k
  let term := fun (k n : Nat) (a b : Num) => mulAny (Config.free seed 83 (at? k * 65536 + n)) a b
  let ws := (List.range rows.length).zip (w.zip rows)
  let L := sumAny seed 82 (at? 512) (.zero :: ws.map (fun e => term 512 e.1 e.2.1 e.2.2.2.1))
  if L.isZero then List.replicate 512 .zero
  else
    (List.range 512).map (fun k =>
      let sum := sumAny seed 82 (at? k) (.zero :: ws.map (fun e => term k e.1 e.2.1 ((e.2.2.2.2[k]?).getD .zero)))
      if sum.isFin && L.isFin then (sum.div L).r32 else if L.isFin then sum else if sum.isFin then .zero else .nan)

/-- Outcome of an item: rows with poison, a status, or slots that disagree, with the bytes of its output that are its rows (R222). -/
inductive ItemDone where
  | rows (l : List (List Num)) (bad : Bool)
  | failed (st : Status)
  | wrong (bytes : Nat)
  deriving DecidableEq, Repr

/-- Stretches that a merge item reads. -/
def State.mergeReads (s : State) (a : Access) (m : Merge) (i : Nat) (done : ItemDone) : List Seg :=
  let seg := fun (va n : Nat) => (s.segs a.p a.P va n).getD []
  let e := (s.fetch a (m.dir + 8 * i) 8).1
  seg (m.dir + 8 * i) 8 ++ (match done with
    | .rows _ _ => seg (m.part + (u32 e 0 - m.slotBase) * m.slotBytes) (u16 e 4 * m.slotBytes)
    | .wrong _ => seg (m.part + (u32 e 0 - m.slotBase) * m.slotBytes) (u16 e 4 * m.slotBytes)
    | .failed _ => [])

def State.mergeItem (s : State) (d : Site) (a : Access) (m : Merge) (i : Nat) : ItemDone :=
  let e := s.fetch a (m.dir + 8 * i) 8
  let first := u32 e.1 0
  let n := u16 e.1 4
  let flagged := bit (u8 e.1 6) 0
  if e.2 then .failed .eccUncorr
  else if n = 0 then .rows (List.replicate (m.outStride / m.rowOut) (List.replicate 512 .zero)) flagged
  else if first < m.slotBase
      || !reachMantle d.Q.cluster (m.part + (first - m.slotBase) * m.slotBytes, n * m.slotBytes) then .failed .bounds
  else
    let at? := fun (k : Nat) => m.part + (first - m.slotBase + k) * m.slotBytes
    let r := u8 (s.fetch a (at? 0) 16).1 10
    -- a slot's rows, also where they run past SLOT_BYTES
    let size := max m.slotBytes (partialHead r + r * 512 * (if m.inBf16 then 2 else 4))
    let slots := (List.range n).map (fun k => s.fetch a (at? k) size)
    let bad := flagged || slots.any Prod.snd || slots.any (fun b => bit (u8 b.1 11) 0)
    let live := (slots.map Prod.fst).filter (fun b => !bit (u8 b 11) 1)
    if slots.any (fun b => decide (u8 b.1 10 ≠ r)) || slots.any (fun b => bit (u8 b.1 11) 2 != m.inBf16)
      || decide (m.outStride < r * m.rowOut) then
      -- its rows, as many as any of its slots counts, and never those of another item
      .wrong (min m.outStride (slots.foldl (fun n b => max n (u8 b.1 10)) 0 * m.rowOut))
    else if live.isEmpty then .rows (List.replicate r (List.replicate 512 .zero)) bad
    else .rows ((List.range r).map (fun k => mergeRow s.free i k (live.map (fun b => slotRow b m.inBf16 r k)))) bad

/-- Requirements of ATTN_MERGE (R156, R222). -/
def State.attnMergeVerdict (s : State) (d : Site) : Verdict :=
  let b := d.b
  let m := mergeOf b
  let fields := firstBad ([(9, decide (u8 b 9 ≤ 3)), (12, decide (m.items ≤ 1048576)), (16, decide (u32 b 16 < 2 ^ 30)),
    (20, decide (u32 b 20 < 2 ^ 30)), (32, decide (u32 b 32 < 2 ^ 30))] ++ reservedZero b [(9, 1), (12, 28)])
  let cons := firstBad [(16, decide (m.dir % 8 = 0)), (20, decide (m.part % 32 = 0)), (28, decide (m.slotBytes % 32 = 0)),
    (36, decide (m.outStride % 32 = 0))]
  let bo := firstBad [(16, reachMantle d.Q.cluster (m.dir, 8 * m.items)),
    (32, decide (m.items = 0) || reachMantle d.Q.cluster (m.out, m.items * m.outStride))]
  verdictOf fields cons none bo (s.engineFull d 32 8)

/-- What an ATTN_MERGE does. -/
def State.attnMergeRun (s : State) (d : Site) : State :=
  let m := mergeOf d.b
  let a := d.access 32 false
  let dones := (List.range m.items).map (fun i =>
    let done := s.mergeItem d a m i
    (i, done, s.mergeReads a m i done))
  let ecc := dones.any (fun e => decide (e.2.1 = .failed .eccUncorr))
  let rows := dones.map (fun e => (((m.out + e.1 * m.outStride : Nat) : Int), match e.2.1 with
    | .rows l _ => l.length * m.rowOut
    | .wrong n => n
    | .failed _ => 0))
  let f := { d.flight 32 (islArith d.Q.cluster) with
             writes := s.rangesOf d.p d.P (if ecc then [((m.out : Int), m.items * m.outStride)] else rows),
             reads := segRanges (dones.flatMap (fun e => e.2.2)) }
  let seed := s.free
  let (s, id) := s.launch d f 0
  let s := s.begins id a (dones.flatMap (fun e => e.2.2)) seed
  let wr := d.writer id 32 1
  let t := dones.foldl (fun (acc : State) e =>
    let i := e.1
    let acc := acc.readSegs id e.2.2
    match e.2.1 with
    | .wrong n =>
      -- its rows are undefined (R222)
      let acc := acc.putVa wr d.P (m.out + i * m.outStride) (freeBytes s.free 47 (i * 2 ^ 32) n) false
      acc.condition id .inconsistent
    | .failed st => acc.condition id st
    | .rows rows bad =>
      let acc := acc.updFlight id (fun f => { f with partialDone := true })
      let acc := if bad then acc.condition id .poison else acc
      ((List.range rows.length).zip rows).foldl (fun (acc : State) r =>
        let bytes := r.2.flatMap (fun v => if m.outBf16 then natLe 2 (bf16.encode .nearest false v)
          else natLe 4 (fp32.encode .nearest false v))
        acc.putVa wr d.P (m.out + i * m.outStride + r.1 * m.rowOut) bytes bad) acc) s
  (t.endControl id).tick

def execAttnMerge (p q : Nat) (s : State) : Host.Outcome State Fault Refusal :=
  s.dispatch p q (isOp 0x4002) noSkip s.attnMergeVerdict State.attnMergeRun

/-! ### HOSTOUT -/

structure HostOut where
  bf : Bool
  k : Nat
  entries : Nat
  table : Nat
  cand : Nat
  vocab : Nat
  logits : Nat
  ring : Nat
  slotBytes : Nat
  slots : Nat
  ctr : Nat
  deriving DecidableEq, Repr

def hostOutOf (b : Bytes) : HostOut :=
  { bf := bit (u8 b 9) 0, k := u16 b 10, entries := u32 b 12, table := u64 b 16, cand := spadBase + u32 b 24, vocab := u32 b 28,
    logits := u64 b 32, ring := u64 b 40, slotBytes := u32 b 48, slots := u32 b 52, ctr := u8 b 56 }

/-- Address of the ring slot that a counter value gives (R150). -/
def HostOut.slotVa (h : HostOut) (ctr : Nat) : Nat := h.ring + ctr % h.slots * h.slotBytes

def HostOut.rowBytes (h : HostOut) : Nat := h.vocab * (if h.bf then 2 else 4)

/-- A power of two? -/
def isPow2 (n : Nat) : Bool := decide (0 < n) && decide (2 ^ Nat.log2 n = n)

/-- Bytes of an entry's record (R246). -/
def HostOut.recordBytes (h : HostOut) (x : LtEntry) : Nat :=
  16 + (if x.skip then 0 else roundUp (if x.full then h.rowBytes else 8 * h.k) 16)

/-- One record of the batch (R245, R246), with poison. -/
def State.outRecord (s : State) (a : Access) (h : HostOut) (e : Nat) (x : LtEntry) : Bytes × Bool :=
  let body : Nat × Bytes × Bool :=
    if x.skip then (2, [], false)
    else if x.full then
      let r := s.fetch a (h.logits + e * h.rowBytes) h.rowBytes
      (1, r.1 ++ zeros (roundUp h.rowBytes 16 - h.rowBytes), r.2)
    else
      let r := s.fetch a (h.cand + e * 8 * h.k) (8 * h.k)
      (0, r.1 ++ zeros (roundUp (8 * h.k) 16 - 8 * h.k), r.2)
  (natLe 4 x.stream ++ natLe 3 (x.n - 1) ++ natLe 1 body.1 ++ natLe 4 x.out ++ natLe 4 body.2.1.length ++ body.2.1, body.2.2)

def HostOut.reads (h : HostOut) : List VaRange :=
  [((h.table : Int), 16 * h.entries)]

/-- Candidates or logit rows of the entries that are not skipped. -/
def HostOut.rowReads (h : HostOut) (es : List LtEntry) : List VaRange :=
  ((List.range es.length).zip es).filterMap (fun e =>
    if e.2.skip then none
    else if e.2.full then some (((h.logits + e.1 * h.rowBytes : Nat) : Int), h.rowBytes)
    else some (((h.cand + e.1 * 8 * h.k : Nat) : Int), 8 * h.k))

/-- Requirements of HOSTOUT (R150); the ring slot is checked whatever ENTRIES (R142). -/
def State.hostoutVerdict (s : State) (d : Site) : Verdict :=
  let b := d.b
  let h := hostOutOf b
  let fields := firstBad ([selectorOk b, (9, decide (u8 b 9 ≤ 1)), (10, decide (1 ≤ h.k) && decide (h.k ≤ 256)),
    (12, decide (h.entries ≤ 16384)), (16, decide (h.table < 2 ^ 48)), (24, decide (u32 b 24 < 2 ^ 30)),
    (28, decide (1 ≤ h.vocab) && decide (h.vocab ≤ 1048576)), (32, decide (h.logits < 2 ^ 48)),
    (40, decide (h.ring < 2 ^ 48)), (48, decide (h.slotBytes ≠ 0)),
    (52, isPow2 h.slots && decide (h.slots ≤ 65536)), (56, decide (h.ctr ≤ 15))] ++ reservedZero b [(8, 49)])
  let cons := firstBad [(16, decide (h.table % 16 = 0)), (24, decide (h.cand % 8 = 0)), (40, decide (h.ring % 4096 = 0)),
    (48, decide (h.slotBytes % 4096 = 0))]
  let bo := firstBad [(8, s.coreOk d), (16, s.reachTe d.p d.P (h.table, 16 * h.entries)),
    (24, s.reachTe d.p d.P (h.cand, 8 * h.k * h.entries)),
    (40, decide (hostBase ≤ h.ring) && s.reachTe d.p d.P (h.slotVa (d.Q.ctr h.ctr).toNat, h.slotBytes))]
  verdictOf fields cons none bo (s.engineFull d (teEngine b) 16)

/-- What a HOSTOUT does. -/
def State.hostoutRun (s : State) (d : Site) : State :=
  let h := hostOutOf d.b
  let slotVa := h.slotVa (d.Q.ctr h.ctr).toNat
  let a := d.access (teEngine d.b) false
  let table := s.fetch a h.table (16 * h.entries)
  let es := (List.range h.entries).map (fun e => ltOf ((table.1.drop (16 * e)).take 16))
  -- a logit row beyond the reach is found when the entry is read (R172)
  let logitsOk := ((List.range es.length).zip es).all (fun e =>
    e.2.skip || !e.2.full || s.reachTe d.p d.P (h.logits + e.1 * h.rowBytes, h.rowBytes))
  let size := 64 + sumNat (es.map h.recordBytes)
  let wrong := es.any s.ltFaulty || decide (h.slotBytes < size)
  -- the batch is read and written unless the table holds a fault or a bad word
  let batch := !table.2 && !wrong && logitsOk
  let reads := h.reads ++ (if batch then h.rowReads es else [])
  let out : VaRange := (slotVa, if h.entries = 0 then 0 else if batch then size else if table.2 then h.slotBytes else 0)
  let f := { d.flight (teEngine d.b) islPcie with
             writes := s.rangesOf d.p d.P [out], reads := s.rangesOf d.p d.P reads,
             readsHost := rangesInHost reads, writesHost := decide (0 < out.2) }
  let step := d.P.stepNo.toNat
  let (s, id) := s.launch d f 0
  let s := s.begins id a (s.segsOf d.p d.P reads) s.free
  let wr := d.writer id (teEngine d.b) 1
  if h.entries = 0 then s
  else if rangesInHost h.reads && s.linkGone then s.condition id .hostTimeout
  else if table.2 then (s.readRanges id d.p d.P h.reads).controlFails id
  else if wrong || !logitsOk then
    let t := if logitsOk then s else s.condition id .bounds
    (if wrong then t.condition id .inconsistent else t).readRanges id d.p d.P h.reads
  else if rangesInHost reads && s.linkGone then s.condition id .hostTimeout
  else
    let recs := ((List.range es.length).zip es).map (fun e => s.outRecord a h e.1 e.2)
    let head := natLe 8 step ++ natLe 4 h.entries ++ natLe 2 h.k ++ natLe 1 (b2n h.bf) ++ zeros 1
      ++ natLe 4 h.vocab ++ natLe 4 size ++ natLe 4 (d.Q.ctr h.ctr).toNat ++ zeros 36
    let t := s.putVa wr d.P slotVa (head ++ recs.flatMap Prod.fst) false
    let t := if recs.any Prod.snd then t.condition id .poison else t
    (t.readRanges id d.p d.P reads).tick

def execHostout (p q : Nat) (s : State) : Host.Outcome State Fault Refusal :=
  s.dispatch p q (isOp 0x1006) noSkip s.hostoutVerdict State.hostoutRun

end Sys2Proof.Machine
end

