-- ==== Sys2Proof/Machine/NearExpand.lean ====
section
/-! DEFINITION. NearExpand.lean: the checks that near-bank records meet at dispatch (R43, R158, R205, R429) and their
expansion into work-list entries, slots and directory items (R43 to R47, R53 to R66, R211, R212). -/

namespace Sys2Proof.Machine

/-! ### Where operands lie (R16, R26, R74) -/

/-- Striped memory, a bank-local bank or a scratchpad of the partition: what dispatchers and clusters read and write. -/
def State.deviceOk (s : State) (d : Site) (va n : Nat) : Bool :=
  decide (n = 0) || (decide (va + n ≤ hostBase) && s.reachTe d.p d.P (va, n))

/-- As above, for a range that is written: not in the pool range or the metadata area (R75). -/
def State.deviceOut (s : State) (d : Site) (va n : Nat) : Bool := s.deviceOk d va n && d.P.writable (va, n)

/-- Device-memory address of n bytes that lie wholly in one bank-local bank. -/
def State.bankPlace (s : State) (P : Partition) (va n : Nat) : Option Nat :=
  if va / 2 ^ 44 = 1 ∧ 0 < n ∧ va % bankStride + n ≤ bankBytes then s.localPlace P va else none

/-- Virtual address of an offset in a bank. -/
def bankVa (bank off : Nat) : Nat := localBase + bank * bankStride + off

/-! ### The shape of an expansion -/

/-- What an expansion has come to: entries (last first), slots and directory items, statuses met, and whether it stopped. -/
structure Exp where
  entries : List Entry
  slots : List (Nat × Nat × Nat)
  items : List (Nat × Nat × Nat)
  conds : List Status
  stopped : Bool
  deriving DecidableEq, Repr

def Exp.empty : Exp := { entries := [], slots := [], items := [], conds := [], stopped := false }

def Exp.meet (x : Exp) (st : Status) : Exp := if x.conds.contains st then x else { x with conds := x.conds ++ [st] }

/-- The expansion stops (R43). -/
def Exp.halt (x : Exp) (st : Status) : Exp := { x.meet st with stopped := true }

/-- One directory item, with no slot yet. -/
def Exp.item (x : Exp) (i : Nat) : Exp :=
  if (tget x.items i).isSome then x else { x with items := tput x.items i (x.slots.length, 0) }

/-- Slot of a (work item, Cuff) pair: the one it has, else the next one, if the partial area holds it (R47). -/
def Exp.slot (x : Exp) (i bank : Nat) (fits : Nat → Bool) : Option Exp :=
  if x.slots.any (fun e => decide (e.1 = i) && decide (e.2.1 = bank)) then some x
  else
    let n := x.slots.length
    if fits n then
      let (first, count) := tgetD x.items i (n, 0)
      some { x with slots := x.slots ++ [(i, bank, n)],
                    items := tput x.items i (if count = 0 then n else first, count + 1) }
    else none

/-- One entry of the list; its rows run from that of the first byte to that of the last. -/
def Exp.send (x : Exp) (cmd : Nat) (work : Work) (ranges : List (Nat × Nat)) : Exp :=
  let lo := ranges.foldl (fun m r => min m (addrRow r.1)) 65535
  let hi := ranges.foldl (fun m r => max m (addrRow (r.1 + r.2 - 1))) 0
  let bank := match ranges with | r :: _ => addrBank r.1 | [] => 0
  { x with entries := { cmd := cmd, bank := bank, work := work, rowLo := lo, rowHi := hi } :: x.entries }

/-- Runs over a list as long as the expansion has not stopped. -/
def Exp.over {α : Type} (x : Exp) (l : List α) (f : Exp → α → Exp) : Exp := l.foldl (fun x a => if x.stopped then x else f x a) x

/-- A control operand as the expanding cluster reads it: its bytes, or the status its read ends with (R70, R144); one in no mapped page ends it
with BOUNDS (R301). -/
def State.control (s : State) (a : Access) (va n : Nat) : Except Status Bytes :=
  if inHost va n && s.linkGone then .error .hostTimeout
  else if (s.segs a.p a.P va n).isNone then .error .bounds
  else
    let r := s.fetch a va n
    if ((s.segs a.p a.P va n).getD []).any (fun g => decide (g.space = .dram) && s.pcOffline (addrBank g.addr / 16))
    then .error .timeoutCdc
    else if r.2 then .error .eccUncorr else .ok r.1

def nearAccess (p : Nat) (P : Partition) : Access := { p := p, P := P, rdr := .device, cache := none }

/-! ### NB_ATTEND (R52 to R57) -/

structure NbAttend where
  cache : Nat
  outBf16 : Bool
  heads : Nat
  layer : Nat
  first : Nat
  groups : Nat
  table : Nat
  entries : Nat
  sigma : Num
  query : Nat
  stride : Nat
  slots : Nat
  part : Nat
  dir : Nat
  deriving DecidableEq, Repr

def nbAttendOf (b : Bytes) : NbAttend :=
  { cache := u8 b 8, outBf16 := bit (u8 b 9) 0, heads := u8 b 10, layer := u8 b 11, first := u16 b 12, groups := u16 b 14,
    table := u64 b 16, entries := u32 b 24, sigma := fp32.decode (u32 b 28), query := u64 b 32, stride := u32 b 40,
    slots := u32 b 44, part := u64 b 48, dir := u64 b 56 }

/-- Bytes of a query row (R204). -/
def NbAttend.rowBytes (t : NbAttend) : Nat := if t.cache = 2 then 1024 else 528

/-- r_max of R56. -/
def NbAttend.rMax (t : NbAttend) (spec16 : Bool) : Nat :=
  min (min (128 / max t.heads 1) (t.stride / max (t.heads * t.rowBytes) 1)) (if spec16 then 16 else 4) * t.heads

/-- Slot size of R56. -/
def NbAttend.slotBytes (t : NbAttend) (spec16 : Bool) : Nat :=
  partialHead (t.rMax spec16) + t.rMax spec16 * 512 * (if t.outBf16 then 2 else 4)

/-- CACHE code of a layer (R204). -/
def Layer.code (L : Layer) : Nat :=
  match L.cache with
  | 0 | 1 => 0
  | 2 => 1
  | _ => 2

def vaOk (v : Nat) : Bool := decide (v < 2 ^ 48)

def State.nbAttendVerdict (s : State) (d : Site) : Verdict :=
  let b := d.b
  let t := nbAttendOf b
  let fields := firstBad ([(8, decide (t.cache ≤ 2)), (9, decide (u8 b 9 ≤ 1)), (10, decide (1 ≤ t.heads) && decide (t.heads ≤ 128)),
      (12, decide (t.first ≤ 255)), (14, decide (t.groups ≤ 256)), (16, vaOk t.table), (24, decide (t.entries ≤ 16384)),
      (28, positive32 (u32 b 28)), (32, vaOk t.query), (48, vaOk t.part), (56, vaOk t.dir)] ++ reservedZero b [(8, 56)])
  let L := match d.P.pool with | some o => o.layers[t.layer]? | none => none
  let cons := firstBad [(8, match L with | some l => decide (l.code = t.cache) | none => true),
    (11, match L with | some l => l.rotated | none => false),
    (12, match d.P.pool with | some o => decide (t.first + t.groups ≤ o.groups) | none => decide (t.first + t.groups = 0)),
    (16, decide (t.table % 16 = 0)), (32, decide (t.query % 32 = 0)),
    (40, decide (t.stride % 32 = 0) && decide (t.heads * t.rowBytes ≤ t.stride)), (48, decide (t.part % 32 = 0)),
    (56, decide (t.dir % 8 = 0))]
  let n := t.entries * t.groups
  let bo := firstBad [(16, s.deviceOk d t.table (16 * t.entries)), (32, s.deviceOk d t.query (n * t.stride)),
    (56, s.deviceOut d t.dir (8 * n))]
  verdictOf fields cons none bo false

/-- The blocks of one (stream, group) of an entry. -/
def State.expandPair (s : State) (d : Site) (cmd : Nat) (a : Access) (t : NbAttend) (o : Pool) (e g : Nat) (x : LtEntry)
    (acc : Exp) : Exp :=
  let L := o.layer t.layer
  let i := e * t.groups + g
  let spec := s.boot.licLive.getLsbD 4
  let pair : Pair := { item := i, stream := x.stream, group := t.first + g, n := x.n, q := x.q, query := t.query + i * t.stride }
  let fits := fun (k : Nat) => decide (k < t.slots) && s.deviceOut d (t.part + k * t.slotBytes spec) (t.slotBytes spec)
  acc.over (List.range (cdiv x.n o.tokens)) (fun acc j =>
    match s.control a (o.entryVa (o.tableVa x.stream) j t.layer) 4 with
    | .error st => acc.halt st
    | .ok v =>
      let v := u32 v 0
      if !entryValid v then acc.halt .inconsistent
      -- the block lies in the bank that its entry names (R16, R26)
      else if !d.P.localBank (entryBank v) || decide (bankBytes < o.base + entrySlot v * o.blockBytes
          + (pair.group * o.tokens + min o.tokens (x.n - j * o.tokens)) * L.latentBytes) then acc.meet .bounds
      else
        match acc.slot i (entryBank v) fits with
        | none => acc.meet .bounds
        | some acc =>
          let addr := o.slotAddr (entryBank v) (entrySlot v)
          let from? := addr + pair.group * o.tokens * L.latentBytes
          acc.send cmd (.attend pair j addr) [(from?, min o.tokens (x.n - j * o.tokens) * L.latentBytes)])

def State.expandAttend (s : State) (d : Site) (cmd : Nat) : Exp :=
  let t := nbAttendOf d.b
  let a := nearAccess d.p d.P
  match d.P.pool with
  | none => Exp.empty.halt .inconsistent
  | some o =>
    Exp.empty.over (List.range t.entries) (fun acc e =>
      match s.control a (t.table + 16 * e) 16 with
      | .error st => acc.halt st
      | .ok w =>
        let x := ltOf w
        let acc := (List.range t.groups).foldl (fun acc g => acc.item (e * t.groups + g)) acc
        let outside := s.streamOutside d.P d.Q.ctx x.stream
        if s.streamBad d.P x.stream then acc.halt .eccUncorr
        else if s.ltFaulty x || decide (128 < x.q * t.heads) || decide (t.stride < x.q * t.heads * t.rowBytes) then
          (if outside then acc.meet .bounds else acc).halt .inconsistent
        else if outside then acc.meet .bounds
        else if s.specLength x.stream < x.n then acc.halt .inconsistent
        else if x.skip then acc
        else acc.over (List.range t.groups) (fun acc g => s.expandPair d cmd a t o e g x acc))

/-! ### NB_POOL (R58, R59) -/

structure NbPool where
  type : Dtype
  dim : Nat
  count : Nat
  bags : Nat
  list : Nat
  slots : Nat
  part : Nat
  dir : Nat
  deriving DecidableEq, Repr

def nbPoolOf (b : Bytes) : NbPool :=
  { type := (Dtype.ofCode (u8 b 8)).getD .fp32, dim := u16 b 12, count := u32 b 16, bags := u32 b 20, list := u64 b 24,
    slots := u32 b 32, part := u64 b 48, dir := u64 b 56 }

def NbPool.rowBytes (t : NbPool) : Nat := (t.dim * t.type.width + 7) / 8
def NbPool.slotBytes (t : NbPool) : Nat := roundUp (16 + 4 * t.dim) 32

def poolType (c : Nat) : Bool :=
  match Dtype.ofCode c with
  | some .e4m3 | some .e5m2 | some .int8 | some .e2m1 | some .bf16 | some .fp32 => true
  | _ => false

def State.nbPoolVerdict (s : State) (d : Site) : Verdict :=
  let b := d.b
  let t := nbPoolOf b
  let fields := firstBad ([(8, poolType (u8 b 8)), (12, decide (1 ≤ t.dim) && decide (t.dim ≤ 4096)), (24, vaOk t.list),
    (48, vaOk t.part), (56, vaOk t.dir)] ++ reservedZero b [(8, 1), (12, 2), (16, 20), (48, 16)])
  -- slots begin on 32-byte boundaries (R47; log 34)
  let cons := firstBad [(20, decide (t.count = 0) || decide (0 < t.bags)), (24, decide (t.list % 16 = 0)),
    (48, decide (t.part % 32 = 0))]
  let bo := firstBad [(24, s.deviceOk d t.list (16 * t.count)), (56, s.deviceOut d t.dir (8 * t.bags))]
  verdictOf fields cons none bo false

/-- Entries in list order, with the bag of the entry before. -/
def State.expandPool (s : State) (d : Site) (cmd : Nat) : Exp :=
  let t := nbPoolOf d.b
  let a := nearAccess d.p d.P
  let fits := fun (k : Nat) => decide (k < t.slots) && s.deviceOut d (t.part + k * t.slotBytes) t.slotBytes
  ((List.range t.count).foldl (fun (acc : Exp × Nat) i =>
    if acc.1.stopped then acc
    else
      match s.control a (t.list + 16 * i) 16 with
      | .error st => (acc.1.halt st, acc.2)
      | .ok w =>
        let row := u64 w 0
        let bag := u32 w 8
        if bag < acc.2 ∨ t.bags ≤ bag then (acc.1.halt .inconsistent, acc.2)
        else
          let x := acc.1.item bag
          match (if row % 32 = 0 then s.bankPlace d.P row t.rowBytes else none) with
          | none => (x.meet .bounds, bag)
          | some addr =>
            match x.slot bag (addrBank addr) fits with
            | none => (x.meet .bounds, bag)
            | some x => (x.send cmd (.pool bag addr (BitVec.ofNat 32 (u32 w 12))) [(addr, t.rowBytes)], bag))
    (Exp.empty, 0)).1

/-! ### NB_SCAN (R60 to R62) -/

structure NbScan where
  type : Dtype
  q : Nat
  k : Nat
  dim : Nat
  g : Nat
  threshold : Num
  sigma : Num
  query : Nat
  off : Nat
  n : Nat
  stride : Nat
  slots : Nat
  banks : Nat
  part : Nat
  deriving DecidableEq, Repr

def nbScanOf (b : Bytes) : NbScan :=
  { type := (Dtype.ofCode (u8 b 8)).getD .e4m3, q := u8 b 9, k := u8 b 10, dim := u16 b 12, g := u16 b 14,
    threshold := fp32.decode (u32 b 16), sigma := fp32.decode (u32 b 20), query := u64 b 24, off := u32 b 32, n := u32 b 36,
    stride := u32 b 40, slots := u32 b 44, banks := u64 b 48, part := u64 b 56 }

/-- Type of the queries (R60). -/
def NbScan.qType (t : NbScan) : Dtype := if t.type = .e2m1 then .e4m3 else t.type
def NbScan.rowBytes (t : NbScan) : Nat := (t.dim * t.type.width + 7) / 8
def NbScan.queryBytes (t : NbScan) : Nat := t.dim * t.qType.width / 8
def NbScan.slotBytes (t : NbScan) : Nat := roundUp (16 + 8 * t.k) 32
/-- Bytes from row 0 to the end of the last row. -/
def NbScan.span (t : NbScan) : Nat := if t.n = 0 then 0 else (t.n - 1) * t.stride + t.rowBytes

def scanType (c : Nat) : Bool :=
  match Dtype.ofCode c with
  | some .e4m3 | some .e5m2 | some .int8 | some .e2m1 | some .bf16 => true
  | _ => false

def State.nbScanVerdict (s : State) (d : Site) : Verdict :=
  let b := d.b
  let t := nbScanOf b
  let fields := firstBad ([(8, scanType (u8 b 8)), (9, decide (1 ≤ t.q) && decide (t.q ≤ 8)),
    (10, decide (1 ≤ t.k) && decide (t.k ≤ 128)), (11, decide (u8 b 11 = 0)), (12, decide (1 ≤ t.dim) && decide (t.dim ≤ 4096)),
    (14, decide (t.g ≤ 12288)), (20, t.sigma.isFin), (24, vaOk t.query), (48, vaOk t.banks), (56, vaOk t.part)])
  let cons := firstBad [(9, decide (t.q * t.queryBytes ≤ 8192)), (24, decide (t.query % 32 = 0)),
    (32, decide (t.off % 32 = 0) && decide (t.off + t.span ≤ bankBytes)),
    (40, decide (t.stride % 32 = 0) && decide (t.rowBytes ≤ t.stride)), (48, decide (t.banks % 2 = 0)),
    (56, decide (t.part % 32 = 0))]
  let bo := firstBad [(24, s.deviceOk d t.query (t.q * t.queryBytes)), (48, s.reachTe d.p d.P (t.banks, 2 * t.g))]
  verdictOf fields cons none bo false

/-- One entry per bank of a bank set, where its range lies in a bank of the partition. -/
def State.expandBanks (s : State) (d : Site) (banks g off len : Nat) (f : Exp → Nat → Nat → Exp) : Exp :=
  match s.control (nearAccess d.p d.P) banks (2 * g) with
  | .error st => Exp.empty.halt st
  | .ok w =>
    Exp.empty.over (List.range g) (fun acc i =>
      let bank := u16 w (2 * i)
      if bank / 2 ^ 14 ≠ 0 ∨ bankBytes < off + len then acc.meet .bounds
      else
        match s.bankPlace d.P (bankVa bank off) len with
        | none => acc.meet .bounds
        | some addr => f acc i addr)

def State.expandScan (s : State) (d : Site) (cmd : Nat) : Exp :=
  let t := nbScanOf d.b
  s.expandBanks d t.banks t.g t.off t.span (fun acc i addr =>
    if (i + 1) * t.q ≤ t.slots ∧ s.deviceOut d (t.part + i * t.q * t.slotBytes) (t.q * t.slotBytes)
    then acc.send cmd (.scan i addr) [(addr, t.span)] else acc.meet .bounds)

/-! ### NB_FILL (R63) -/

structure NbFill where
  zero : Bool
  g : Nat
  off : Nat
  len : Nat
  banks : Nat
  pattern : Bytes
  deriving DecidableEq, Repr

def nbFillOf (b : Bytes) : NbFill :=
  { zero := bit (u8 b 8) 0, g := u16 b 10, off := u32 b 12, len := u32 b 16, banks := u64 b 24, pattern := (b.drop 32).take 32 }

def State.nbFillVerdict (s : State) (d : Site) : Verdict :=
  let b := d.b
  let t := nbFillOf b
  let fields := firstBad ([(8, decide (u8 b 8 ≤ 1)), (10, decide (t.g ≤ 12288)), (24, vaOk t.banks),
    (32, !t.zero || allZero t.pattern)] ++ reservedZero b [(8, 1), (10, 10), (24, 40)])
  let cons := firstBad [(12, decide (t.off % 32 = 0)), (16, decide (t.len % 32 = 0)), (24, decide (t.banks % 2 = 0))]
  let bo := firstBad [(24, s.reachTe d.p d.P (t.banks, 2 * t.g))]
  verdictOf fields cons none bo false

def State.expandFill (s : State) (d : Site) (cmd : Nat) : Exp :=
  let t := nbFillOf d.b
  s.expandBanks d t.banks t.g t.off t.len (fun acc _ addr =>
    if d.P.protectedVa (bankVa (addrBank addr) t.off) t.len then acc.meet .bounds
    else acc.send cmd (.fill addr t.len) [(addr, t.len)])

/-! ### NB_AXPY and NB_QUANT (R64, R65, R429) -/

/-- A span entry: source or x, destination or y, length. -/
structure Span where
  src : Nat
  dst : Nat
  len : Nat
  rest : Nat
  deriving DecidableEq, Repr

def spansOf (w : Bytes) (n : Nat) : List Span :=
  (List.range n).map (fun i => { src := u64 w (24 * i), dst := u64 w (24 * i + 8), len := u32 w (24 * i + 16), rest := u32 w (24 * i + 20) })

/-- COUNT and LIST of a span command. -/
def spanCount (b : Bytes) : Nat := if recOp b = 0x5005 then u32 b 16 else u32 b 12
def spanList (b : Bytes) : Nat := u64 b 24

/-- The list as the cluster reads it at dispatch; one that cannot be reached fails its bounds check later (R118). -/
def State.spans (s : State) (d : Site) : Except Status (List Span) :=
  let n := spanCount d.b
  if n ≤ 4096 ∧ s.reachTe d.p d.P (spanList d.b, 24 * n) then
    (s.control (nearAccess d.p d.P) (spanList d.b) (24 * n)).map (fun w => spansOf w n)
  else .ok []

/-- Pack or unit bytes of a type: BF16 units are plain (R65). -/
def unitBytes (t : Dtype) : Nat := if t = .bf16 then 2048 else t.packBytes

/-- Bytes that a span reads and writes. -/
def spanBytes (b : Bytes) (x : Span) : Nat × Nat :=
  if recOp b = 0x5005 then (x.len, x.len)
  else (x.len * unitBytes ((Dtype.ofCode (u8 b 8)).getD .bf16), x.len * unitBytes ((Dtype.ofCode (u8 b 9)).getD .e4m3))

/-- Overlap that R64 and R65 allow: one range twice, in NB_QUANT with a destination unit no larger than the source's. -/
def spanAlias (b : Bytes) (x : Span) : Bool :=
  let n := spanBytes b x
  overlaps x.src n.1 x.dst n.2 && !(decide (x.src = x.dst) && decide (n.2 ≤ n.1))

def quantSrc (c : Nat) : Bool :=
  match Dtype.ofCode c with
  | some .e4m3 | some .e5m2 | some .e3m2 | some .e2m3 | some .e2m1 | some .bf16 => true
  | _ => false

def quantDst (c : Nat) : Bool := quantSrc c && decide (c ≠ 2)

/-- A span lies on the boundaries that its command asks for: x and y of NB_AXPY, and packs, on 32 bytes (R64, R166, R193); of the units of
plain BF16 that NB_QUANT reads nothing is asked (R65). -/
def spanEven (b : Bytes) (x : Span) : Bool :=
  decide (x.dst % 32 = 0) && ((decide (recOp b = 0x5006) && decide (u8 b 8 = 2)) || decide (x.src % 32 = 0))

/-- Steps 3 to 6 of R118 for a span command, once its list is read. -/
def spanVerdict (b : Bytes) (fields cons bo : Option Nat) (l : List Span) : Verdict :=
  let rest := if l.all (fun x => decide (x.rest = 0)) then none else some 0xFF
  let fields := match fields with | some o => some o | none => rest
  let cons := match cons with | some o => some o | none => if l.all (spanEven b) then none else some 0xFF
  verdictOf fields cons (if l.any (spanAlias b) then some 0xFF else none) bo false

/-- Operand fields of NB_AXPY and of NB_QUANT (chapter 07, tables of class 0x5). -/
def axpyFields (b : Bytes) : Option Nat :=
  firstBad ([(8, decide (u8 b 8 = 1) || decide (u8 b 8 = 2)), (16, decide (u32 b 16 ≤ 4096)), (24, vaOk (spanList b))]
    ++ reservedZero b [(8, 1), (12, 8), (24, 8)])

def quantFields (b : Bytes) : Option Nat :=
  firstBad ([(8, quantSrc (u8 b 8)), (9, quantDst (u8 b 9)), (10, decide (u8 b 10 ≤ 1)), (11, decide (u8 b 11 ≤ 2)),
    (12, decide (u32 b 12 ≤ 4096)), (24, vaOk (spanList b)), (32, vaOk (u64 b 32))] ++ reservedZero b [(8, 8), (24, 16)])

/-- A span list that the checks of a record read from host memory (R428): its own fields are legal, and the list is in reach and not
empty. -/
def State.readsSpans (s : State) (d : Site) : Bool :=
  (if recOp d.b = 0x5005 then (axpyFields d.b).isNone else decide (recOp d.b = 0x5006) && (quantFields d.b).isNone)
    && decide (0 < spanCount d.b) && s.reachTe d.p d.P (spanList d.b, 24 * spanCount d.b)
    && inHost (spanList d.b) (24 * spanCount d.b)

def State.nbAxpyVerdict (s : State) (d : Site) : Verdict :=
  let b := d.b
  let fields := axpyFields b
  let cons := firstBad [(24, decide (spanList b % 8 = 0))]
  let bo := firstBad [(24, s.reachTe d.p d.P (spanList b, 24 * u32 b 16))]
  match fields, s.spans d with
  | none, .error st => .fail st 0xFF
  | _, .error _ => spanVerdict b fields cons bo []
  | _, .ok l => spanVerdict b fields cons bo l

def State.nbQuantVerdict (s : State) (d : Site) : Verdict :=
  let b := d.b
  let fields := quantFields b
  let cons := firstBad [(24, decide (spanList b % 8 = 0)), (32, decide (u64 b 32 % 32 = 0))]
  let bo := firstBad [(24, s.reachTe d.p d.P (spanList b, 24 * u32 b 12)), (32, s.deviceOut d (u64 b 32) 32)]
  match fields, s.spans d with
  | none, .error st => .fail st 0xFF
  | _, .error _ => spanVerdict b fields cons bo []
  | _, .ok l => spanVerdict b fields cons bo l

/-- Spans in list order: both ranges in one bank, the destination one that may be written. -/
def State.expandSpans (s : State) (d : Site) (cmd : Nat) (l : List Span) : Exp :=
  Exp.empty.over l (fun acc x =>
    if x.len = 0 then acc
    else
      let n := spanBytes d.b x
      match s.bankPlace d.P x.src n.1, s.bankPlace d.P x.dst n.2 with
      | some a, some c =>
        if addrBank a ≠ addrBank c ∨ d.P.protectedVa x.dst n.2 then acc.meet .bounds
        else acc.send cmd (if recOp d.b = 0x5005 then .axpy a c x.len else .quant a c x.len) [(a, n.1), (c, n.2)]
      | _, _ => acc.meet .bounds)

/-- The expansion of a near-bank record. The cluster reads the lists of NB_AXPY and NB_QUANT at dispatch: `l`. -/
def State.expansion (s : State) (d : Site) (cmd : Nat) (l : List Span) : Exp :=
  match recOp d.b with
  | 0x5001 => s.expandAttend d cmd
  | 0x5002 => s.expandPool d cmd
  | 0x5003 => s.expandScan d cmd
  | 0x5004 => s.expandFill d cmd
  | _ => s.expandSpans d cmd l

/-- Records whose count fields leave no work at all (R142). -/
def nearEmpty (b : Bytes) : Bool :=
  match recOp b with
  | 0x5001 => decide (u32 b 24 = 0) || decide (u16 b 14 = 0)
  | 0x5002 => decide (u32 b 16 = 0)
  | 0x5003 => decide (u16 b 14 = 0) || decide (u32 b 36 = 0)
  | 0x5004 => decide (u16 b 10 = 0) || decide (u32 b 16 = 0)
  | _ => decide (spanCount b = 0)

end Sys2Proof.Machine
end

