-- ==== Sys2Proof/Machine/NearBank.lean ====
section
/-! DEFINITION. NearBank.lean: dispatch of near-bank records, the bank dispatchers, the work of the Cuffs, partials, leases and
the end of a near-bank command (R42 to R70, R81, R425), and the commands EXPANSION_RESUME, CUFF_ENTRY, PARTIAL_EGRESS. -/

namespace Sys2Proof.Machine

/-! ### Dispatchers (R44, R45, R81) -/

/-- The writer of a near-bank command. -/
def Flight.nearWriter (f : Flight) (cmd : Nat) : Writer :=
  { cmd := cmd, p := f.p, q := f.q, cluster := f.cluster, engine := 33, kind := 1 }

/-- Entries that a pseudo-channel's dispatcher holds, and the commands with work outstanding there. -/
def State.heldAt (s : State) (pc : Nat) : List Entry := s.near.entries.filter (fun e => decide (e.bank / 16 = pc))

def State.commandsAt (s : State) (pc : Nat) : List Nat :=
  nubNat ((s.heldAt pc).map Entry.cmd
    ++ (s.near.cuffs.filter (fun e => decide (e.1 % 2 ^ 14 / 16 = pc))).map (fun e => e.2.cmd)
    ++ (s.near.finished.filter (fun r => decide (r.bank / 16 = pc))).map PartialRec.cmd)

/-- Has the dispatcher of the entry's bank room for it (R45)? -/
def State.dispatcherRoom (s : State) (e : Entry) : Bool :=
  let pc := e.bank / 16
  decide ((s.heldAt pc).length < 2048)
    && ((s.commandsAt pc).contains e.cmd || decide ((s.commandsAt pc).length < 8))

/-- The lease of a command on a bank begins or grows with an accepted entry (R81). -/
def growLease (l : List Lease) (e : Entry) : List Lease :=
  if l.any (fun x => decide (x.bank = e.bank) && decide (x.cmd = e.cmd)) then
    l.map (fun x => if x.bank = e.bank ∧ x.cmd = e.cmd
      then { x with rowLo := min x.rowLo e.rowLo, rowHi := max x.rowHi e.rowHi } else x)
  else l ++ [{ bank := e.bank, cmd := e.cmd, rowLo := e.rowLo, rowHi := e.rowHi }]

def State.accept (s : State) (e : Entry) : State :=
  { s with near := { s.near with entries := s.near.entries ++ [e], leases := growLease s.near.leases e } }

def State.updNb (s : State) (id : Nat) (g : Nb → Nb) : State := s.updFlight id (fun f => { f with nb := f.nb.map g })

/-- Entries leave for their dispatchers in order until one has no room (R45). -/
def State.sendEntries (s : State) (id : Nat) : Nat → State
  | 0 => s
  | k + 1 =>
    match s.nb? id with
    | none => s
    | some (_, n) =>
      match n.toSend with
      | [] => s
      | e :: t =>
        if s.pcOffline (e.bank / 16) then
          ((s.condition id .timeoutCdc).updNb id (fun n => { n with toSend := t })).sendEntries id k
        else if s.dispatcherRoom e then ((s.accept e).updNb id (fun n => { n with toSend := t })).sendEntries id k else s

/-! ### Expansion (R43, R44) -/

/-- Bytes of one slot of a command's partial area. -/
def partialBytes (b : Bytes) (spec16 : Bool) : Nat :=
  match recOp b with
  | 0x5001 => (nbAttendOf b).slotBytes spec16
  | 0x5002 => (nbPoolOf b).slotBytes
  | _ => (nbScanOf b).slotBytes

/-- Address of the partial area, and of the directory with its bytes. -/
def partialArea (b : Bytes) : Nat := if recOp b = 0x5003 then u64 b 56 else u64 b 48

def directory (b : Bytes) : Nat × Nat :=
  match recOp b with
  | 0x5001 => (u64 b 56, 8 * u32 b 24 * u16 b 14)
  | 0x5002 => (u64 b 56, 8 * u32 b 20)
  | _ => (0, 0)

/-- Directory of a command, and the bytes of its partial area that records take, as (slot, bytes). -/
def State.nearOutputs (s : State) (b : Bytes) (slots : List (Nat × Nat)) : List VaRange :=
  let spec := s.boot.licLive.getLsbD 4
  let dir := directory b
  ((dir.1 : Int), dir.2) :: slots.map (fun k => (((partialArea b + k.1 * partialBytes b spec : Nat) : Int), k.2))

/-- Bytes of the record of a pair (R56). -/
def pairBytes (b : Bytes) (pair : Pair) : Nat :=
  let r := pair.q * (nbAttendOf b).heads
  partialHead r + r * 512 * (if (nbAttendOf b).outBf16 then 2 else 4)

/-- Slots that an expansion has given, those of the pairs, or Q for each entry of a scan, each with the bytes of its record (R56, R59,
R62): what lies beyond is not written. -/
def Exp.slotSpans (x : Exp) (b : Bytes) : List (Nat × Nat) :=
  match recOp b with
  | 0x5001 => x.slots.map (fun e => (e.2.2, (x.entries.findSome? (fun y => match y.work with
      | .attend pair _ _ => if pair.item = e.1 then some (pairBytes b pair) else none
      | _ => none)).getD 0))
  | 0x5003 => x.entries.flatMap (fun e => match e.work with
      | .scan i _ => (List.range (u8 b 9)).map (fun j => (i * u8 b 9 + j, 16 + 8 * (nbScanOf b).k))
      | _ => [])
  | _ => x.slots.map (fun e => (e.2.2, 16 + 4 * (nbPoolOf b).dim))

/-- What the entries write in place. -/
def Exp.targets (x : Exp) (b : Bytes) : List Range :=
  x.entries.filterMap (fun e => match e.work with
    | .fill a n => some { space := .dram, addr := a, len := n }
    | .axpy _ y n => some { space := .dram, addr := y, len := n }
    | .quant _ c u => some { space := .dram, addr := c, len := u * unitBytes ((Dtype.ofCode (u8 b 9)).getD .e4m3) }
    | _ => none)

/-- The record of a command in flight with its queue, as its expansion sees it, under the settings it keeps (R288). -/
def State.siteOf (s : State) (f : Flight) : Option Site :=
  match s.partOf f with
  | none => none
  | some P =>
    match tget P.queues f.q with
    | none => none
    | some Q => some { p := f.p, q := f.q, P := P, Q := Q, rcd := { pos := f.pos, bytes := f.bytes } }

/-- An expansion's result goes into its command in flight. -/
def State.expanded (s : State) (id : Nat) (f : Flight) (d : Site) (x : Exp) : State :=
  let s := s.updNb id (fun n => { n with waiting := false, toSend := x.entries.reverse, slots := x.slots, items := x.items })
  let s := s.updFlight id (fun f =>
    { f with conds := x.conds.foldl (fun l c => if l.contains c then l else l ++ [c]) f.conds,
             partialDone := f.partialDone || !x.entries.isEmpty,
             writes := s.rangesOf d.p d.P (s.nearOutputs f.bytes (x.slotSpans f.bytes)) ++ x.targets f.bytes })
  (s.countFor ((tget s.flight id).getD f) 1 f.cluster 0x4D x.entries.length).tick

/-- The expansion of a command begins. -/
def State.beginExpansion (s : State) (id : Nat) (f : Flight) (l : List Span) : State :=
  match s.siteOf f with
  | none => s.updNb id (fun n => { n with waiting := false })
  | some d => s.expanded id f d (s.expansion d id l)

/-- The near-bank command of a cluster that is expanding or expands next: dispatch order is that of the numbers. -/
def State.expander (s : State) (c : Nat) : Option (Nat × Flight × Nb) :=
  s.flight.findSome? (fun e =>
    if e.2.cluster = c then
      match e.2.nb with
      | some n => if n.waiting || !n.toSend.isEmpty then some (e.1, e.2, n) else none
      | none => none
    else none)

/-! ### Which entry a Cuff starts (R35, R46, R277) -/

/-- Entries of one bank in order of arrival: the first whose class is admitted, none of an earlier entry's cluster passed. -/
def pickEntry (isOpen : Entry → Bool) (cluster : Entry → Nat) : List Entry → List Nat → Option Entry
  | [], _ => none
  | e :: t, seen => if isOpen e && !seen.contains (cluster e) then some e else pickEntry isOpen cluster t (cluster e :: seen)

def State.entryCluster (s : State) (e : Entry) : Nat := match tget s.flight e.cmd with | some f => f.cluster | none => 64

def State.entryOpen (s : State) (e : Entry) : Bool :=
  match tget s.flight e.cmd with
  | none => false
  | some f =>
    match s.partOf f with
    | some P => P.sched.admits (72 + e.bank / 16) (P.classOf f.ctx)
    | none => false

/-- A Cuff runs unless its stack is at level 5 or above, or the module rests in WATCH. -/
def State.cuffRuns (s : State) (bank : Nat) : Bool :=
  decide (tgetD s.thermal.levels (4 + bank / 1024) 0 < 5) && decide (s.power.state ≠ .watch) && !s.thermal.tripped

def State.nextEntry (s : State) (bank : Nat) : Option Entry :=
  if s.cuffRuns bank then
    pickEntry s.entryOpen s.entryCluster (s.near.entries.filter (fun e => decide (e.bank = bank))) []
  else none

/-! ### Partials (R47, R56, R59, R62) -/

/-- Header of a partial record. -/
def partialHeader (item count bank n : Nat) (poison empty bf : Bool) : Bytes :=
  natLe 4 item ++ natLe 4 count ++ natLe 2 bank ++ natLe 1 n ++ natLe 1 (b2n poison + 2 * b2n empty + 4 * b2n bf) ++ zeros 4

def f32Bytes (x : Num) : Bytes := natLe 4 (fp32.encode .nearest false x)

/-- Record of an attention pair with all its rows. -/
def AttHold.record (h : AttHold) (rows : List AttRow) (bank : Nat) (bf : Bool) : Bytes :=
  let r := rows.length
  let empty := rows.all (fun x => !x.started)
  let pairs := rows.flatMap (fun x => if x.started then natLe 4 x.m.toNat ++ natLe 4 x.l.toNat else natLe 4 0xFF800000 ++ zeros 4)
  let head := partialHeader (h.pair.stream + h.pair.group % 256 * 2 ^ 20) h.count bank r h.poison empty bf ++ pairs
  let outs := rows.flatMap (fun x => (if x.started then x.o else List.replicate 512 0).flatMap (fun v =>
    if bf then natLe 2 (bf16.encode .zero false (fp32.decode v.toNat)) else natLe 4 v.toNat))
  padTo (partialHead r) head ++ outs

def BagHold.record (h : BagHold) (bank : Nat) : Bytes :=
  partialHeader h.bag h.count bank 0 h.poison false false ++ h.acc.flatMap (fun v => natLe 4 v.toNat)

/-- A partial is finished: it goes to the dispatcher; a poisoned one marks its item and the command (R68). -/
def State.finishPartial (s : State) (r : PartialRec) : State :=
  let s := { s with near := { s.near with finished := s.near.finished ++ [r] } }
  if r.poison then
    (s.updNb r.cmd (fun n => { n with poisonedItems := addNat n.poisonedItems r.item })).condition r.cmd .poison
  else s

def Nb.slotOf (n : Nb) (item bank : Nat) : Nat :=
  ((n.slots.find? (fun e => decide (e.1 = item) && decide (e.2.1 = bank))).map (fun e => e.2.2)).getD 0

/-- Key of a Cuff's work for a command. -/
def cuffKey (cmd bank : Nat) : Nat := cmd * 2 ^ 14 + bank

/-- A Cuff's work for a command. A Cuff has one set of accumulators, and R46 leaves the entries of two clusters' commands without order at
it: where they alternate, what it holds for each is kept apart here, as if it had set the other aside (DESIGN CHOICE, log 38). -/
def State.cuff (s : State) (cmd bank : Nat) : Cuff :=
  tgetD s.near.cuffs (cuffKey cmd bank) { cmd := cmd, att := none, bags := [] }

/-- Digest of the microcode image of the running firmware (R69, R331). -/
def State.cuffImage (s : State) : BitVec 512 := (s.running.map FwCopy.cuffDigest).getD 0

/-- SRAM of a bank's Cuff. -/
def State.sram (s : State) (bank : Nat) : Sram := tgetD s.near.sram bank (Sram.loaded s.cuffImage)

def State.setSram (s : State) (bank : Nat) (m : Sram) : State := { s with near := { s.near with sram := tput s.near.sram bank m } }

def State.setCuff (s : State) (bank : Nat) (c : Cuff) : State :=
  { s with near := { s.near with cuffs := tput s.near.cuffs (cuffKey c.cmd bank) c } }

/-- A Cuff meets the words of a stretch: those it corrects are its own to write back (R67). -/
def State.cuffMeet (s : State) (cmd : Nat) (g : Seg) : State :=
  let mine := (s.dram.errWords g.addr g.len).filter (fun w => decide (tgetD s.dram.errs w 0 ≤ 2) && !s.near.cuffBacks.contains (cmd, w)
    && !s.dram.poison.contains w)
  ({ s with near := { s.near with cuffBacks := s.near.cuffBacks ++ mine.map (fun w => (cmd, w)) } } : State).meetSeg g

/-- The bags in a Cuff's accumulators are finished. -/
def State.finishBags (s : State) (cmd bank : Nat) (n : Nb) : State :=
  let c := s.cuff cmd bank
  (s.setCuff bank { c with bags := [] }).each c.bags (fun s h => s.finishPartial
    { cmd := cmd, bank := bank, slot := n.slotOf h.bag bank, item := h.bag, bytes := h.record bank, poison := h.poison })

/-! ### NB_ATTEND in a Cuff (R53, R54) -/

/-- One token met by one row. -/
def attStep (seed idx : Nat) (x : AttRow) (score : Num) (lat : List Num) : AttRow :=
  let m0 := if x.started then fp32.decode x.m.toNat else score
  let o0 := if x.started then x.o.map (fun v => fp32.decode v.toNat) else List.replicate 512 Num.zero
  let l0 := if x.started then fp32.decode x.l.toNat else Num.zero
  let raise := ((m0.add (.fin false 8 0)).r32).lt score
  let m := if raise then score else m0
  let factor := exp2Free (Config.free seed 60 (2 * idx)) (m0.sub score).r32
  let l1 := if raise then (l0.mul factor).r32 else l0
  let o1 := if raise then o0.map (fun v => (v.mul factor).r32) else o0
  let w := exp2Free (Config.free seed 60 (2 * idx + 1)) (score.sub m).r32
  let w8 := e4m3.decode (e4m3.encode .zero true w)
  { started := true, m := enc32 m, l := enc32 (l1.add w), o := (o1.zip lat).map (fun e => enc32 (e.1.add (w8.mul e.2))) }

/-- Dot product in FP32, in an order that the spec leaves open (R42; log 13). -/
def dotR32 (seed site idx : Nat) (a b : List Num) : Num := sumAny seed site idx (.zero :: (a.zip b).map (fun e => e.1.mul e.2))

/-- Query rows of a pair, delivered once per pseudo-channel (R52). -/
def State.deliver (s : State) (f : Flight) (n : Nb) (id : Nat) (pair : Pair) (pc : Nat) : State × Bytes × Bool :=
  match n.delivered.find? (fun e => decide (e.1 = pair.item) && decide (e.2.1 = pc)) with
  | some e => (s, e.2.2.1, e.2.2.2)
  | none =>
    match s.partOf f with
    | none => (s, [], false)
    | some P =>
      let t := nbAttendOf f.bytes
      let len := pair.q * t.heads * t.rowBytes
      let r := s.fetch (nearAccess f.p P) pair.query len
      let s := s.readVa id f.p P (pair.query, len)
      (s.updNb id (fun n => { n with delivered := n.delivered ++ [(pair.item, pc, r.1, r.2)] }), r.1, r.2)

/-- What the query buffer holds in the pass that begins with row `lo`: its rows, and of an FP8 or FP4 cache the first seven of the next pass (R55). -/
def NbAttend.buffer (t : NbAttend) (rows : Bytes) (lo : Nat) : Bytes :=
  (rows.drop (lo * t.rowBytes)).take ((if t.cache = 2 then 8 else 15) * t.rowBytes)

/-- Query rows as numbers, from the row `lo` on, at most 8: those of one pass (R55). -/
def passQueries (t : NbAttend) (L : Layer) (rows : Bytes) (lo r : Nat) : List (List Num) :=
  (List.range (min 8 (r - lo))).map (fun i =>
    let b := (rows.drop ((lo + i) * t.rowBytes)).take t.rowBytes
    if t.cache = 2 then (codesOf 16 512 b).map bf16.decode else halfPack .e4m3 L.groupSize L.scaleE4m3 b)

/-- One block met by the rows of a pass, which begin with row `lo`: the Cuff reads it as far as the highest limit among them (R53). Answers
the rows, whether a word was bad, and the bytes read. -/
def State.passBlock (s : State) (f : Flight) (t : NbAttend) (o : Pool) (bank : Nat) (pair : Pair) (lo : Nat) (queries : List (List Num))
    (rows : List AttRow) (j addr : Nat) : List AttRow × Bool × Nat × Nat :=
  let L := o.layer t.layer
  let first := j * o.tokens
  let limit := fun (i : Nat) => pair.n - pair.q + (lo + i) / max t.heads 1
  let count := min (min o.tokens (pair.n - first)) (limit (rows.length - 1) + 1 - first)
  let base := addr + pair.group * o.tokens * L.latentBytes
  let r := (List.range count).foldl (fun (acc : List AttRow × Bool) k =>
    let v := s.viewDram (.cuff f.cluster) (base + k * L.latentBytes) L.latentBytes
    let lat := L.latent v.1
    let tok := first + k
    (((List.range rows.length).zip (acc.1.zip queries)).map (fun x =>
      if tok ≤ limit x.1 then
        let idx := (bank * 128 + lo + x.1) * 2 ^ 24 + tok
        attStep s.free idx x.2.1 ((t.sigma.mul (dotR32 s.free 76 idx x.2.2 lat)).r32) lat
      else x.2.1), acc.2 || v.2)) (rows, false)
  (r.1, r.2, base, count * L.latentBytes)

def AttRow.fresh : AttRow := { started := false, m := 0, l := 0, o := [] }

/-- The later passes of a pair: each reads every block of the pair that the Cuff holds, and works 8 rows (R55). Answers the rows of all
of them. -/
def State.passes (s : State) (f : Flight) (t : NbAttend) (o : Pool) (bank cmd : Nat) (h : AttHold) (rows : Bytes) :
    Nat → Nat → State × List AttRow × Bool
  | 0, _ => (s, [], false)
  | k + 1, lo =>
    let r := h.pair.q * t.heads
    let qs := passQueries t (o.layer t.layer) rows lo r
    let s := s.setSram bank { s.sram bank with query := t.buffer rows lo }
    let x := h.blocks.foldl (fun (acc : State × List AttRow × Bool) e =>
      let y := acc.1.passBlock f t o bank h.pair lo qs acc.2.1 e.1 e.2
      ((acc.1.cuffMeet cmd { space := .dram, addr := y.2.2.1, len := y.2.2.2 }).tick, y.1, acc.2.2 || y.2.1))
      (s, List.replicate qs.length AttRow.fresh, false)
    let rest := x.1.passes f t o bank cmd h rows k (lo + 8)
    (rest.1, x.2.1 ++ rest.2.1, x.2.2 || rest.2.2)

/-- The pair in a Cuff's hands is finished (R57): its later passes run, and its partial goes to the dispatcher. -/
def State.finishPair (s : State) (f : Flight) (cmd bank : Nat) (n : Nb) : State :=
  let c := s.cuff cmd bank
  match c.att, (s.partOf f).bind Partition.pool with
  | some h, some o =>
    let t := nbAttendOf f.bytes
    let q := s.deliver f n cmd h.pair (bank / 16)
    let x := q.1.passes f t o bank cmd h q.2.1 ((h.pair.q * t.heads - h.rows.length + 7) / 8) 8
    let poison := h.poison || x.2.2
    (x.1.setCuff bank { c with att := none }).finishPartial
      { cmd := cmd, bank := bank, slot := n.slotOf h.pair.item bank, item := h.pair.item,
        bytes := { h with poison := poison }.record (h.rows ++ x.2.1) bank t.outBf16, poison := poison }
  | _, _ => s

/-- One block of a pair: the first pass of its rows; the later ones follow when the pair is finished. -/
def State.attendEntry (s : State) (f : Flight) (n : Nb) (e : Entry) (pair : Pair) (j addr : Nat) (hurt : Bool) : State :=
  let t := nbAttendOf f.bytes
  match (s.partOf f).bind Partition.pool with
  | none => s
  | some o =>
    let L := o.layer t.layer
    let s := match (s.cuff e.cmd e.bank).att with
      | some h => if h.pair = pair then s else s.finishPair f e.cmd e.bank n
      | none => s
    let (s, rows, qbad) := s.deliver f n e.cmd pair (e.bank / 16)
    let r := pair.q * t.heads
    let qs := passQueries t L rows 0 r
    let h := ((s.cuff e.cmd e.bank).att).getD
      { pair := pair, rows := List.replicate qs.length AttRow.fresh, count := 0, poison := false }
    let y := s.passBlock f t o e.bank pair 0 qs h.rows j addr
    let h := { h with rows := y.1, count := h.count + min o.tokens (pair.n - j * o.tokens), poison := h.poison || y.2.1 || qbad || hurt,
                      blocks := h.blocks ++ [(j, addr)] }
    let s := s.setCuff e.bank { (s.cuff e.cmd e.bank) with att := some h }
    let s := s.setSram e.bank { s.sram e.bank with query := t.buffer rows 0,
                                                   token := s.view (.cuff f.cluster) { space := .dram, addr := y.2.2.1, len := min y.2.2.2 L.latentBytes } }
    (s.cuffMeet e.cmd { space := .dram, addr := y.2.2.1, len := y.2.2.2 }).tick

/-! ### NB_POOL in a Cuff (R59) -/

/-- What the token buffer holds of bytes that have gone through it: the last 2 KiB (R41). -/
def inHand (b : Bytes) : Bytes := b.drop (b.length - min 2048 b.length)

/-- A row into its bag. `hurt`: the row in the token buffer is bad; `acc`: bad words of the accumulators, which poison the bags that they
hold, in order of arrival (R68). -/
def State.poolEntry (s : State) (f : Flight) (n : Nb) (e : Entry) (bag addr : Nat) (weight : W32) (hurt : Bool) (acc : List Nat) : State :=
  let t := nbPoolOf f.bytes
  let c := s.cuff e.cmd e.bank
  -- a bag that does not fit sends the held ones away
  let s := if c.bags.any (fun h => decide (h.bag = bag)) || decide (c.bags.length < 4096 / max t.dim 1) then s
    else s.finishBags e.cmd e.bank n
  let c := s.cuff e.cmd e.bank
  let v := s.viewDram (.cuff f.cluster) addr t.rowBytes
  let w := fp32.decode weight.toNat
  let row := (codesOf t.type.width t.dim v.1).map t.type.value
  let bags := if c.bags.any (fun h => decide (h.bag = bag)) then c.bags
    else c.bags ++ [{ bag := bag, acc := List.replicate t.dim 0, count := 0, poison := false }]
  let free := fun (h : BagHold) (i : Nat) => Config.free s.free 77 ((e.bank * 2 ^ 32 + h.count) * 4096 + i)
  let add := fun (h : BagHold) =>
    { h with acc := ((List.range h.acc.length).zip (h.acc.zip row)).map (fun x =>
               enc32 ((fp32.decode x.2.1.toNat).add (mulAny (free h x.1) w x.2.2))),
             count := h.count + 1, poison := h.poison || v.2 || hurt }
  let bags := ((List.range bags.length).zip bags).map (fun x =>
    let h := if x.2.bag = bag then add x.2 else x.2
    { h with poison := h.poison || acc.any (fun i => decide (2 * i / max t.dim 1 = x.1) || decide ((2 * i + 1) / max t.dim 1 = x.1)) })
  let s := s.setCuff e.bank { c with bags := bags }
  let s := s.setSram e.bank { s.sram e.bank with token := inHand v.1 }
  s.cuffMeet e.cmd { space := .dram, addr := addr, len := t.rowBytes }

/-! ### NB_SCAN in a Cuff (R60 to R62) -/

/-- Candidates of one query in a bank. -/
def scanQuery (seed idx : Nat) (t : NbScan) (query : List Num) (rows : List (Nat × List Num × Bool)) : List Cand :=
  let all := rows.filterMap (fun r =>
    if r.2.2 then none
    else
      let dot := if t.type = .int8 then ((query.zip r.2.1).foldl (fun acc x => acc.add (x.1.mul x.2)) Num.zero).r32
        else dotR32 seed 78 (idx * 2 ^ 32 + r.1) query r.2.1
      let score := (t.sigma.mul dot).r32
      if score.isNan || t.threshold.isNan || score.lt t.threshold then none else some ({ score := score, index := r.1 } : Cand))
  (sortBy Cand.before all).take t.k

def scanBody (k : Nat) (l : List Cand) : Bytes :=
  l.flatMap (fun c => f32Bytes c.score ++ natLe 4 c.index)
    ++ (List.replicate (k - l.length) ()).flatMap (fun _ => natLe 4 0xFF800000 ++ natLe 4 0xFFFFFFFF)

/-- `hurt`: a bad word of the Cuff's buffers poisons every query's partial; `row`: the row that was in the token buffer when a word of it was bad
enters no candidate list (R68). -/
def State.scanEntry (s : State) (f : Flight) (e : Entry) (ordinal addr : Nat) (hurt : Bool) (row : Option Nat) : State :=
  let t := nbScanOf f.bytes
  match s.partOf f with
  | none => s
  | some P =>
    let qr := s.fetch (nearAccess f.p P) t.query (t.q * t.queryBytes)
    let elems := fun (ty : Dtype) (b : Bytes) => (codesOf ty.width t.dim b).map ty.value
    let rows := (List.range t.n).map (fun u =>
      let v := s.viewDram (.cuff f.cluster) (addr + u * t.stride) t.rowBytes
      (u, elems t.type v.1, v.2 || decide (row.map (· % max t.n 1) = some u)))
    let bad := qr.2 || hurt || rows.any (fun r => r.2.2)
    let best := (List.range t.q).map (fun j =>
      (j, scanQuery s.free (e.bank * 8 + j) t (elems t.qType (qr.1.drop (j * t.queryBytes))) rows))
    let s := s.readVa e.cmd f.p P (t.query, t.q * t.queryBytes)
    let s := s.each (List.range t.n) (fun s u => s.cuffMeet e.cmd { space := .dram, addr := addr + u * t.stride, len := t.rowBytes })
    let last := s.view (.cuff f.cluster) { space := .dram, addr := addr + (t.n - 1) * t.stride, len := t.rowBytes }
    let s := s.setSram e.bank { s.sram e.bank with query := qr.1, token := inHand last, topk := best.map (fun x => x.2.map (fun c => (enc32 c.score, c.index))) }
    s.each best (fun s x =>
      let j := x.1
      let l := x.2
      s.finishPartial { cmd := e.cmd, bank := e.bank, slot := ordinal * t.q + j, item := j,
                        bytes := partialHeader j t.n e.bank l.length bad false false ++ scanBody t.k l, poison := bad })

/-! ### Writes of a Cuff (R63 to R67) -/

/-- A Cuff writes bytes of its bank; words of `bad` are poisoned. It does not pass the leases (R83). -/
def State.cuffWrite (s : State) (w : Writer) (addr : Nat) (b : Bytes) (bad : List Nat) : State :=
  let words := wordsOf addr b.length
  let g : Seg := { space := .dram, addr := addr, len := b.length }
  let s := (s.mixReaders w g b bad.contains).unsettle w g
  { s with dram := (bad.filter words.contains).foldl Mem.poisonWord (s.dram.write addr b),
           near := s.near.dropBacks (fun st x => decide (st = Store.dram) && words.contains x) }

def State.fillEntry (s : State) (f : Flight) (e : Entry) (addr len : Nat) : State :=
  let t := nbFillOf f.bytes
  let line := if t.zero then zeros 32 else t.pattern
  let s := s.setSram e.bank { s.sram e.bank with token := (List.range (min 64 (len / 32))).flatMap (fun _ => line) }
  if t.zero then
    let w := f.nearWriter e.cmd
    let g : Seg := { space := .dram, addr := addr, len := len }
    let s := if s.flight.any (fun x => x.2.touches .dram addr len) then s.mixReaders w g (zeros len) (fun _ => false) else s
    let s := s.unsettle w g
    { s with dram := s.dram.clear addr len,
             near := s.near.dropBacks (fun st x => decide (st = Store.dram) && coversWord addr len x) }
  else s.cuffWrite (f.nearWriter e.cmd) addr ((List.range (len / 32)).flatMap (fun _ => line)) []

/-- y + a × x element by element: product and sum rounded in FP32, then to the type (R64). Bytes of a span that make no whole element are
not stated (log 21): `rest`. -/
def axpyBytes (bf : Bool) (a : Num) (x y rest : Bytes) : Bytes :=
  let w := if bf then 2 else 4
  let dec := fun (b : Bytes) => (codesOf (8 * w) (y.length / w) b).map (fun c => if bf then bf16.decode c else fp32.decode c)
  (((dec x).zip (dec y)).flatMap (fun e =>
    let sum := (e.2.add ((a.mul e.1).r32)).r32
    if bf then natLe 2 (bf16.encode .nearest false sum) else natLe 4 (fp32.encode .nearest false sum)))
    ++ rest.take (y.length % w)

/-- `hurt`: words of the span, by number, that a bad word of the token buffer or of the accumulators has fed (R68). -/
def State.axpyEntry (s : State) (f : Flight) (e : Entry) (x y len : Nat) (hurt : List Nat) : State :=
  let vx := s.viewDram (.cuff f.cluster) x len
  let vy := s.viewDram (.cuff f.cluster) y len
  let bad := (List.range ((len + 7) / 8)).filter (fun i =>
    hurt.contains i || s.dram.badWord (x / 8 + i) || s.dram.badWord (y / 8 + i))
  let out := axpyBytes (decide (u8 f.bytes 8 = 2)) (fp32.decode (u32 f.bytes 12)) vx.1 vy.1 (freeBytes s.free 90 y 4)
  let s := s.cuffMeet e.cmd { space := .dram, addr := x, len := len }
  let s := s.cuffMeet e.cmd { space := .dram, addr := y, len := len }
  let s := s.cuffWrite (f.nearWriter e.cmd) y out (bad.map (fun i => y / 8 + i))
  let chunk := out.drop (out.length - min 256 out.length)
  let s := s.setSram e.bank { s.sram e.bank with token := chunk, chunk := chunk }
  if bad.isEmpty then s else s.condition e.cmd .poison

/-- Elements of a unit, each with whether a word it is read from is bad, in memory or (`hurt`, by number within the unit) in the token buffer.
Packs carry scales of the record's SCALE and GROUP (R192; DEDUCED for the group size, log 21). -/
def State.unitElems (s : State) (r : Reader) (t : Dtype) (group : Nat) (e4 : Bool) (addr : Nat) (hurt : List Nat) : List (Num × Bool) :=
  let v := (s.viewDram r addr (unitBytes t)).1
  let bad := fun (o n : Nat) => s.dram.bad (addr + o) n || (wordsOf o n).any hurt.contains
  if t = .bf16 then
    ((List.range 1024).zip (codesOf 16 1024 v)).map (fun e => (bf16.decode e.2, bad (2 * e.1) 2))
  else
    ((List.range 1024).zip (codesOf t.width 1024 (v.drop 32))).map (fun e =>
      let i := e.1
      let g := i / group
      (((t.packValue e.2).mul (scaleValue e4 (u8 v g))).r32,
        bad (32 + i * t.width / 8) ((i * t.width % 8 + t.width + 7) / 8) || bad g 1))

/-- A destination pack: its bytes, its poisoned words (from its first word on), its statistics (R65, R425). -/
def packUnit (t : Dtype) (group : Nat) (e4 : Bool) (xs : List (Num × Bool)) : Bytes × List Nat × QStat :=
  let n := 1024 / group
  let gs := (List.range n).map (fun g => quantGroup t e4 ((xs.drop (g * group)).take group))
  let codes := gs.flatMap (fun g => g.2.1)
  let value := codes.foldr (fun c acc => c % 2 ^ t.width + acc * 2 ^ t.width) 0
  let bad := ((List.range n).zip gs).flatMap (fun g =>
    if g.2.2.2.2 then (wordsOf (32 + g.1 * group * t.width / 8) ((group * t.width + 7) / 8)) else [])
  (padTo 32 (gs.map (fun g => BitVec.ofNat 8 g.1)) ++ natLe (1024 * t.width / 8) value, nubNat bad,
    gs.foldl (fun acc g => acc.join g.2.2.1) QStat.zero)

/-- `hurt`: bad words of the token buffer while it held a unit, as (unit, word). -/
def State.quantEntry (s : State) (f : Flight) (e : Entry) (src dst units : Nat) (hurt : List (Nat × Nat)) : State :=
  let st := (Dtype.ofCode (u8 f.bytes 8)).getD .bf16
  let dt := (Dtype.ofCode (u8 f.bytes 9)).getD .e4m3
  let group := 32 * 2 ^ u8 f.bytes 11
  let e4 := decide (u8 f.bytes 10 = 1)
  let outs := (List.range units).map (fun u =>
    (u, packUnit dt group e4 (s.unitElems (.cuff f.cluster) st group e4 (src + u * unitBytes st)
      ((hurt.filter (fun x => decide (x.1 = u))).map Prod.snd))))
  let s := s.cuffMeet e.cmd { space := .dram, addr := src, len := units * unitBytes st }
  let s := s.each outs (fun s o =>
    let at_ := dst + o.1 * unitBytes dt
    s.cuffWrite (f.nearWriter e.cmd) at_ o.2.1 (o.2.2.1.map (fun w => at_ / 8 + w)))
  let s := s.setSram e.bank { s.sram e.bank with token := inHand ((outs.getLast?.map (fun o => o.2.1)).getD []) }
  let q := outs.foldl (fun acc o => acc.join o.2.2.2) QStat.zero
  let s := s.updNb e.cmd (fun n => { n with stat := (n.stat.1 + q.converted, n.stat.2.1 + q.clipped, n.stat.2.2.1 + q.nans,
                                                      max32 n.stat.2.2.2 (enc32 q.max)) })
  if outs.any (fun o => !o.2.2.1.isEmpty) then s.condition e.cmd .poison else s

/-! ### Fences, the end of a bank's work, leases (R69, R81) -/

/-- A Cuff is fenced, once, with its first cause (R73, R307). -/
def State.fenceCuff (s : State) (bank cause : Nat) : State :=
  if s.cuffFenced bank then s
  else
    let s := { s with boot := { s.boot with fencedCuffs := tput s.boot.fencedCuffs bank cause } }
    s.logErr { cls := 10, islandA := islCuff (bank / 16), loc := natLe 2 bank ++ zeros 6, detail := natLe 1 cause }

/-- The bank's work of a command has ended: what the Cuff holds is finished (R57). A Cuff fenced meanwhile runs no work (R73): what it holds is lost,
and the command ends with ECC_UNCORR (R69). -/
def State.closeBank (s : State) (id bank : Nat) (f : Flight) (n : Nb) : State :=
  let c := s.cuff id bank
  let s := if s.cuffFenced bank then (if c.att.isSome || !c.bags.isEmpty then s.condition id .eccUncorr else s)
    else (s.finishPair f id bank n).finishBags id bank n
  ({ s with near := { s.near with cuffs := tdel s.near.cuffs (cuffKey id bank) } } : State).endLeases

/-- Cuffs whose work of a command has ended without an entry, because the last ones could not be sent (R57). -/
def State.closeBanks (s : State) (id : Nat) : State :=
  s.each ((s.near.cuffs.filter (fun e => decide (e.2.cmd = id))).map (fun e => e.1 % 2 ^ 14)) (fun s bank =>
    match s.nb? id with
    | some (f, n) => if s.bankDone id bank n then s.closeBank id bank f n else s
    | none => s)

/-- After an entry: when the bank's work of the command has ended, what the Cuff holds is finished (R57). -/
def State.afterEntry (s : State) (id bank : Nat) : State :=
  let s := s.updNb id (fun n => { n with groups := bank / 16 :: n.groups.filter (fun g => decide (g ≠ bank / 16)) })
  match s.nb? id with
  | none => s
  | some (f, n) => if s.bankDone id bank n then s.closeBank id bank f n else s.endLeases

/-! ### Dispatch of near-bank records (R43 to R45) -/

/-- Expansions of a cluster go on, one at a time, until one stalls (R44, R45). -/
def State.runExpansions (s : State) (c : Nat) : Nat → State
  | 0 => s
  | k + 1 =>
    match s.expander c with
    | none => s
    | some (id, f, n) =>
      let s := if n.waiting then s.beginExpansion id f [] else s
      let len := match s.nb? id with | some (_, n) => n.toSend.length | none => 0
      let s := s.sendEntries id (len + 1)
      match s.nb? id with
      | some (_, n) => if n.toSend.isEmpty then s.runExpansions c k else s
      | none => s

/-- The list that the expansion of a command reads after dispatch. -/
def nearList (b : Bytes) : Nat × Nat :=
  match recOp b with
  | 0x5001 => (u64 b 16, 16 * u32 b 24)
  | 0x5002 => (u64 b 24, 16 * u32 b 16)
  | 0x5003 => (u64 b 48, 2 * u16 b 14)
  | 0x5004 => (u64 b 24, 2 * u16 b 10)
  | _ => (0, 0)

/-- Where a near-bank record that passed its checks begins. The cluster reads span lists at dispatch, so the entries of
NB_AXPY and NB_QUANT are fixed there. -/
def State.nearRun (s : State) (d : Site) : State :=
  if nearEmpty d.b then s.endAtDispatch d .ok 0xFF 0
  else
    let n : Nb :=
      { record := d.b, waiting := true, toSend := [], slots := [], items := [], poisonedItems := [], stat := (0, 0, 0, 0),
        groups := [], ended := [], delivered := [] }
    let f := { d.flight 33 (islControl d.Q.cluster) with nb := some n, readsHost := inHost (nearList d.b).1 (nearList d.b).2 }
    let free := (s.expander d.Q.cluster).isNone
    let l := match s.spans d with | .ok l => l | .error _ => []
    let (s, id) := s.launch d f 0
    let s := if recOp d.b = 0x5005 ∨ recOp d.b = 0x5006 then s.beginExpansion id f l else s
    if free then s.runExpansions d.Q.cluster (s.flight.length + 1) else s

/-- The words of a span list are met when the record at the head of the queue is one of that kind (R386). -/
def State.meetSpans (s : State) (p q : Nat) (op : Nat) : State :=
  match s.site? p q with
  | none => s
  | some d =>
    if isOp op d.b && (headerBad d.b).isNone && d.Q.predicate d.b && decide (spanCount d.b ≤ 4096)
    then s.meetVa p d.P (spanList d.b, 24 * spanCount d.b) else s

def execNbAttend (p q : Nat) (s : State) : Host.Outcome State Fault Refusal :=
  s.dispatch p q (isOp 0x5001) noSkip s.nbAttendVerdict State.nearRun

def execNbPool (p q : Nat) (s : State) : Host.Outcome State Fault Refusal :=
  s.dispatch p q (isOp 0x5002) noSkip s.nbPoolVerdict State.nearRun

def execNbScan (p q : Nat) (s : State) : Host.Outcome State Fault Refusal :=
  s.dispatch p q (isOp 0x5003) noSkip s.nbScanVerdict State.nearRun

def execNbFill (p q : Nat) (s : State) : Host.Outcome State Fault Refusal :=
  s.dispatch p q (isOp 0x5004) noSkip s.nbFillVerdict State.nearRun

def execNbAxpy (p q : Nat) (s : State) : Host.Outcome State Fault Refusal :=
  let u := s.meetSpans p q 0x5005
  u.dispatch p q (isOp 0x5005) noSkip u.nbAxpyVerdict State.nearRun

def execNbQuant (p q : Nat) (s : State) : Host.Outcome State Fault Refusal :=
  let u := s.meetSpans p q 0x5006
  u.dispatch p q (isOp 0x5006) noSkip u.nbQuantVerdict State.nearRun

def execExpansionResume (cluster : Nat) (s : State) : Host.Outcome State Fault Refusal :=
  .next (if s.working then s.runExpansions cluster (s.flight.length + 1) else s)

/-! ### Entries (R41, R68) -/

/-- Parts of the SRAM that an entry's work goes through, its sequencer's microcode apart (R41). -/
def Work.parts : Work → List CuffPart
  | .attend .. => [.query, .token, .accumulators, .rowRegisters]
  | .pool .. => [.token, .accumulators]
  | .scan .. => [.query, .token, .topk]
  | .fill .. => [.token]
  | .axpy .. => [.token, .accumulators]
  | .quant .. => [.token]

/-- Number of a word among those of the SRAM: 512 of microcode, 1,024 of queries, 256 of the token buffer, 2,048 of accumulators, 8 row
registers, 1,024 of the top-k buffer (R41). -/
def partFirst : CuffPart → Nat
  | .microcode => 0
  | .query => 512
  | .token => 1536
  | .accumulators => 1792
  | .rowRegisters => 3840
  | .topk => 3848

def partSize : CuffPart → Nat
  | .microcode => 512
  | .query => 1024
  | .token => 256
  | .accumulators => 2048
  | .rowRegisters => 8
  | .topk => 1024

/-- Words of a part that hold more wrong bits than its code corrects, by their place in the part. -/
def Sram.badWords (m : Sram) (p : CuffPart) : List Nat :=
  (m.errs.filter (fun e => decide (3 ≤ e.2) && decide (partFirst p ≤ e.1) && decide (e.1 < partFirst p + partSize p))).map (fun e => e.1 - partFirst p)

/-- Wrong bits strike a word. -/
def Sram.strike (m : Sram) (p : CuffPart) (index wrong : Nat) : Sram :=
  let w := partFirst p + index % partSize p
  if wrong = 0 then m else { m with errs := tput m.errs w (min 3 (tgetD m.errs w 0 + wrong)) }

/-- Words of some parts are read and corrected, or written anew. -/
def Sram.settle (m : Sram) (ps : List CuffPart) : Sram :=
  { m with errs := m.errs.filter (fun e => !ps.any (fun p => decide (partFirst p ≤ e.1) && decide (e.1 < partFirst p + partSize p))) }

/-- The work of an entry; `bad`: the uncorrectable words that it meets in its SRAM, and the piece it is at (R68). The buffers it fills anew
hide what struck them before. An error in the token buffer while NB_FILL runs has no effect: R68 gives none for it, and R63 has every word
written with valid check bits and a clear poison bit (DESIGN CHOICE, log 38). -/
def State.runEntry (s : State) (f : Flight) (n : Nb) (e : Entry) (bad : CuffPart → List Nat) (piece : Nat) : State :=
  let any := fun (l : List CuffPart) => l.any (fun p => !(bad p).isEmpty)
  match e.work with
  | .attend pair j addr => s.attendEntry f n e pair j addr (any e.work.parts)
  | .pool bag addr w => s.poolEntry f n e bag addr w (any [.token]) (bad .accumulators)
  | .scan i addr => s.scanEntry f e i addr (any e.work.parts) (if (bad .token).isEmpty then none else some piece)
  | .fill addr len => s.fillEntry f e addr len
  | .axpy x y len => s.axpyEntry f e x y len ((bad .token ++ bad .accumulators).map (fun i => 32 * piece + i % 32))
  | .quant a c u => s.quantEntry f e a c u ((bad .token).map (fun i => (piece, i)))

/-- The microcode of a Cuff fails within a command (R69): its held work and later entries of the command are dropped, and the microcode is
loaded again. -/
def State.microcodeFault (s : State) (e : Entry) (reloadOk : Bool) : State :=
  let mine := fun (x : Entry) => decide (x.cmd = e.cmd) && decide (x.bank = e.bank)
  let s := { s with near := { s.near with entries := s.near.entries.filter (fun x => !mine x),
                                          cuffs := tdel s.near.cuffs (cuffKey e.cmd e.bank) } }
  let s := s.updNb e.cmd (fun n => { n with toSend := n.toSend.filter (fun x => !mine x), ended := addNat n.ended e.bank })
  let s := s.condition e.cmd .eccUncorr
  let s := s.setSram e.bank { s.sram e.bank with microcode := if reloadOk then some s.cuffImage else none }
  if reloadOk then s else s.fenceCuff e.bank 2

/-- A Cuff starts on an entry: what its buffers held before is overwritten; then the error strikes, if one does; the words that the entry
goes through are corrected, or found bad. -/
def State.startEntry (s : State) (e : Entry) (fault : CuffFault) : State × (CuffPart → List Nat) :=
  let held := s.cuff e.cmd e.bank
  let fresh := held.att.isNone && held.bags.isEmpty
  let m := (s.sram e.bank).settle ([.query, .token, .topk] ++ (if fresh then [.accumulators, .rowRegisters] else []))
  let m := match fault with
    | .none => m
    | .word p i wrong _ _ => m.strike p i wrong
  let used := CuffPart.microcode :: e.work.parts
  (if (s.sram e.bank).errs.isEmpty && m.errs.isEmpty then s else s.setSram e.bank (m.settle used),
    fun p => if used.contains p then m.badWords p else [])

/-- CUFF_ENTRY: the Cuff of a bank runs its next entry whole. -/
def execCuffEntry (bank : Nat) (fault : CuffFault) (s : State) : Host.Outcome State Fault Refusal :=
  match s.nextEntry bank with
  | none => .next s
  | some e =>
    let s := { s with near := { s.near with entries := s.near.entries.erase e } }
    match s.nb? e.cmd with
    | none => .next s
    | some (f, n) =>
      let s :=
        if s.cuffFenced bank then
          (s.condition e.cmd .eccUncorr).logErr
            { cls := 10, islandA := islCuff (bank / 16), part := f.p, queue := f.q, tag := recTag f.bytes,
              status := Status.eccUncorr.code, loc := natLe 2 bank ++ zeros 6 }
        else if n.ended.contains bank then s
        else
          let (s, bad) := s.startEntry e fault
          let (piece, ok) := match fault with
            | .none => (0, true)
            | .word _ _ _ piece ok => (piece, ok)
          if (bad .microcode).isEmpty then s.runEntry f n e bad piece else s.microcodeFault e ok
      .next (s.afterEntry e.cmd bank)

/-! ### Egress and the end of a command (R47, R51, R57, R66) -/

/-- PARTIAL_EGRESS: the dispatcher of a pseudo-channel carries out the partial finished first. R82 checks every write over a link against the leases,
and R83 says that near-bank commands do not check one another's: here partials, directory and statistic record are checked, against every lease,
the command's own included, as writes of a cluster (DESIGN CHOICE, log 47). -/
def execPartialEgress (pc : Nat) (s : State) : Host.Outcome State Fault Refusal :=
  match s.near.finished.find? (fun r => decide (r.bank / 16 = pc)) with
  | none => .next s
  | some r =>
    if !s.working then .next s
    else
      let s := { s with near := { s.near with finished := s.near.finished.erase r } }
      match tget s.flight r.cmd with
      | none => .next s
      | some f =>
        match s.partOf f with
        | none => .next s
        | some P =>
          let spec := s.boot.licLive.getLsbD 4
          .next (s.putVa (f.nearWriter r.cmd) P (partialArea f.bytes + r.slot * partialBytes f.bytes spec) r.bytes false)

/-- Every entry has run and every partial has left. -/
def State.nearDone (s : State) (id : Nat) (n : Nb) : Bool :=
  !n.waiting && n.toSend.isEmpty && !s.near.entries.any (fun e => decide (e.cmd = id))
    && !s.near.cuffs.any (fun e => decide (e.2.cmd = id)) && !s.near.finished.any (fun r => decide (r.cmd = id))
    && !s.near.leases.any (fun l => decide (l.cmd = id) && s.leaseWriteBack l)

/-- Directory entries of a command: of every item reached by NB_ATTEND, of every bag by NB_POOL. FIRST_SLOT of an item with no
slot is free (log 8). -/
def Nb.directory (n : Nb) (seed : Nat) : List (Nat × Bytes) :=
  let entry := fun (i : Nat) =>
    let (first, count) := tgetD n.items i (0, 0)
    let first := if count = 0 then Config.free seed 62 i else first
    (i, natLe 4 first ++ natLe 2 count ++ natLe 1 (b2n (n.poisonedItems.contains i)) ++ zeros 1)
  match recOp n.record with
  | 0x5001 => n.items.map (fun e => entry e.1)
  | 0x5002 => (List.range (u32 n.record 20)).map entry
  | _ => []

/-- The last writes of a near-bank command, its island, and the end of its leases. Outside OK and POISON its directory and
partials are not valid (R47). -/
def State.nearClose (s : State) (id : Nat) (f : Flight) (n : Nb) : State :=
  match s.partOf f with
  | none => s
  | some P =>
    let w := f.nearWriter id
    let dir := directory f.bytes
    let seed := s.free
    let s := s.each (n.directory seed) (fun s e => s.putVa w P (dir.1 + 8 * e.1) e.2 false)
    let s := if recOp f.bytes = 0x5006 then
        s.putVa w P (u64 f.bytes 32) (natLe 8 n.stat.1 ++ natLe 8 n.stat.2.1 ++ natLe 8 n.stat.2.2.1
          ++ natLe 4 n.stat.2.2.2.toNat ++ zeros 4) false
      else s
    let s := match n.groups with
      | g :: _ => s.updFlight id (fun f => { f with island := islCuff g })
      | [] => s
    let s := { s with near := { s.near with leases := s.near.leases.filter (fun l => decide (l.cmd ≠ id)) } }
    let st := ((tget s.flight id).map Flight.final).getD .ok
    if st = .ok ∨ st = .poison ∨ 0x5004 ≤ recOp f.bytes then s.tick else s.scramble f.writes

end Sys2Proof.Machine
end

