-- ==== Sys2Proof/Machine/Serve.lean ====
section
/-! DEFINITION. Serve.lean: how the firmware takes up a message: header, mailbox, readiness, partition, reserved bytes (R302 to
R307). -/

namespace Sys2Proof.Machine

/-- Mailboxes that R307 allows a message. -/
inductive Box where
  | either | operator | partition
  deriving DecidableEq, Repr

/-- A row of R307: its code; the mailboxes; whether it is accepted before READY (R306), and by the boot ROM (R331); whether it
acts on a partition, and on one that exists; which OP it is; the fields of its body (offset, length); and the size of its layout where bytes
without a field end it. -/
structure MsgRow where
  code : Nat
  box : Box
  early : Bool := false
  rom : Bool := false
  acts : Bytes → Bool := fun _ => false
  /-- Requests of this code are taken up in their order of arrival on whatever mailbox (R406). -/
  inOrder : Bool := false
  /-- Refused on a partition mailbox while PERF_USER_EN is clear, whatever else it says (R406, R410). -/
  user : Bool := false
  exists? : Bytes → Bool := fun _ => false
  mine : Bytes → Bool := fun _ => true
  used : Bytes → List (Nat × Nat) := fun _ => []
  size : Bytes → Nat := fun _ => 0

/-- A message taken up: its mailbox, the partition it acts on, its body. -/
structure Msg where
  fn : Nat
  p : Nat
  body : Bytes
  deriving DecidableEq, Repr

/-- Codes of R307. -/
def knownCodes : List Nat :=
  [0x0001, 0x0002, 0x0003, 0x0010, 0x0011, 0x0012, 0x0013, 0x0014, 0x0020, 0x0021, 0x0022, 0x0030, 0x0031, 0x0040, 0x0041,
   0x0050, 0x0051, 0x0060, 0x0061, 0x0070]
  ++ [0x0080, 0x0081, 0x0082, 0x0090, 0x0091, 0x00A0, 0x00B0, 0x00B1, 0x00B2, 0x00C0, 0x00C1, 0x00D0, 0x00E0]

/-- Fields of a request header. -/
def reqMajor (h : Bytes) : Nat := u8 h 6
def reqMinor (h : Bytes) : Nat := u8 h 7
def reqPartition (h : Bytes) : Nat := u8 h 8
def reqIndirect (h : Bytes) : Bool := bit (u8 h 9) 1

/-- A message with an OP field: a row takes its own OP, and an OP that no row has. -/
def opIs (k last : Nat) (b : Bytes) : Bool := decide (u8 b 0 = k) || decide (last < u8 b 0)

/-- Bytes of the request buffer after the header. -/
def State.reqBody (s : State) (fn : Nat) : Bytes := cbytes (s.func fn).req 16 (u16 (s.reqHeader fn) 2)

/-- The request body, read from host memory where INDIRECT is set (R305). -/
def State.msgBody (s : State) (fn : Nat) : Bytes :=
  let b := s.reqBody fn
  if reqIndirect (s.reqHeader fn) then s.hostBytes (hostKey fn (u64 b 0)) (min (u32 b 8) (2 ^ 20)) else b

/-- The partition that the request in a mailbox names. -/
def State.msgPartition (s : State) (fn : Nat) : Nat := if fn = 0 then reqPartition (s.reqHeader 0) else fn - 1

/-- Mailboxes whose request was handed over before that of fn. -/
def earlierThan (fn : Nat) : List Nat → List Nat
  | [] => []
  | f :: t => if f = fn then [] else f :: earlierThan fn t

/-- Messages that act on one partition take effect one at a time, in the order they were handed over (R303). -/
def State.mustWait (s : State) (fn p : Nat) : Bool :=
  (earlierThan fn s.handed).any (fun f => decide (s.msgPartition f = p))
    || (match s.part? p with | some P => P.zeroing.isSome | none => false)

/-- An earlier request of this code waits in another mailbox. -/
def State.behind (s : State) (fn code : Nat) : Bool := (earlierThan fn s.handed).any (fun f => decide (s.reqCode f = code))

/-- PERF_USER_EN, on a partition mailbox. -/
def State.perfUser (s : State) (fn p : Nat) : Bool :=
  decide (fn = 0) || (match s.part? p with | some P => P.live.perfUser | none => false)

/-- Why the header of a request ends its message, if it does (R303 to R307). -/
def State.headerEnds (s : State) (fn : Nat) (row : MsgRow) : Option (Answer × Bytes) :=
  let h := s.reqHeader fn
  let F := s.func fn
  let off := fun (o : Nat) => some (Answer.badField, refusalBody (some o))
  if u16 h 4 ≠ F.reqSeq.toNat then some (.seqMismatch, [])
  else if reqMajor h ≠ 1 then some (.protoUnsupported, [])
  else if (decide (row.box = .operator) && decide (fn ≠ 0)) || (decide (row.box = .partition) && decide (fn = 0))
    then some (.wrongMailbox, [])
  else if 4080 < u16 h 2 then off 2
  else if u8 h 9 ≠ 0 ∧ u8 h 9 ≠ 2 then off 9
  else if u16 h 10 ≠ 0 then off 10
  else if u32 h 12 ≠ 0 then off 12
  else if reqPartition h ≠ 0xFF ∧ (31 < reqPartition h ∨ (fn ≠ 0 ∧ reqPartition h ≠ fn - 1)) then off 8
  else if (s.boot.rom && !row.rom) || (!s.boot.rom && decide (s.boot.readiness = .notReady) && (decide (fn ≠ 0) || !row.early))
    then some (.notReady, [])
  else if reqIndirect h then
    let b := s.reqBody fn
    if u16 h 2 < 16 then off 2
    else if 2 ^ 20 < u32 b 8 then off 24
    else if u32 b 12 ≠ 0 then off 28
    else if s.linkGone then some (.hostAccess, [])
    else none
  else none

/-- The first byte of a body that no field covers and that is not zero; whether it lies beyond the layout (R304). -/
def strayByte (b : Bytes) (used : List (Nat × Nat)) (size : Nat) : Option (Nat × Bool) :=
  let last := used.foldl (fun m u => max m (u.1 + u.2)) size
  ((List.range b.length).find? (fun o =>
    !used.any (fun u => decide (u.1 ≤ o) && decide (o < u.1 + u.2)) && decide (u8 b o ≠ 0))).map (fun o => (o, decide (last ≤ o)))

/-- A read of host memory that a message needs fails: the message ends with HOST_ACCESS, and the failure is logged (R290, R296). -/
def State.hostFails (s : State) (fn : Nat) : State :=
  (s.logErr { cls := 3, islandA := islPcie, part := if fn = 0 then 0xFF else fn - 1 }).respond fn .hostAccess []

/-- The end of a message at its header. -/
def State.endAtHeader (s : State) (fn : Nat) (e : Answer × Bytes) : State :=
  if e.1 = .hostAccess then s.hostFails fn else s.respond fn e.1 e.2

/-- The firmware serves the request in a mailbox, if it is this row's. Pewter is clock-gated in WATCH (R354), and nothing
completes after a trip (R364). -/
def State.serve (s : State) (fn : Nat) (row : MsgRow) (run : State → Msg → State) : Host.Outcome State Fault Refusal :=
  let F := s.func fn
  if !F.busy || F.waitFor.isSome || decide (s.power.state = .watch) || s.thermal.tripped || decide (s.reqCode fn ≠ row.code) then .next s
  else
    let b := s.msgBody fn
    if !row.mine b then .next s
    else
      match s.headerEnds fn row with
      | some e => .next (s.endAtHeader fn e)
      | none =>
        let p := s.msgPartition fn
        if (row.acts b && s.mustWait fn p) || (row.inOrder && s.behind fn row.code) then .next s
        else if row.exists? b && (s.part? p).isNone then .next (s.respond fn .badPartition [])
        else if row.user && !s.perfUser fn p then .next (s.respond fn .refused (refusalBody none))
        else
          match strayByte b (row.used b) (row.size b) with
          | some (o, beyond) =>
            if beyond && decide (0 < reqMinor (s.reqHeader fn)) then .next (s.respond fn .protoUnsupported [])
            else .next (s.respond fn .badField (refusalBody (some (16 + o))))
          | none => .next (run s { fn := fn, p := p, body := b })

/-- Fields outside their legal values give BAD_FIELD, conditions that fail REFUSED, each with the offset of the field at
fault; else the message takes effect. Offsets are those of the body. -/
def State.checked (s : State) (m : Msg) (fields : List (Nat × Bool)) (conds : List (Option Nat × Bool)) (go : State) : State :=
  match fields.find? (fun f => !f.2) with
  | some f => s.respond m.fn .badField (refusalBody (some (16 + f.1)))
  | none =>
    match conds.find? (fun c => !c.2) with
    | some c => s.respond m.fn .refused (refusalBody (c.1.map (fun o => 16 + o)))
    | none => go

/-- The response OK. -/
def State.okay (s : State) (m : Msg) (body : Bytes) : State := s.respond m.fn .ok body

end Sys2Proof.Machine
end

