-- ==== Sys2Proof/Machine/Topology.lean ====
section
/-! DEFINITION. Topology.lean: the topology check and readiness, dev.info, dev.topology, dev.licences (R7, R8, R381 to R383). -/

namespace Sys2Proof.Machine

/-! ### Identity (R8, R292) -/

/-! ### The check (R381, R383) -/

/-- Causes of a pseudo-channel held offline, as the model tells them apart; the code that DETAIL gives them is open (log 8). -/
def offlineLanes : Nat := 0
def offlineUnit : Nat := 1
def offlineManager : Nat := 2
def offlineCrossing : Nat := 3

/-- Can the operator accept a mismatch? -/
def Mismatch.acceptable (m : Mismatch) : Bool :=
  match m.kind with
  | 0x02 => !systemPc m.locA
  | 0x03 => decide (2 ≤ m.locA)
  | 0x06 | 0x07 | 0x0A => true
  | _ => false

def State.accepted (s : State) (m : Mismatch) : Bool := m.acceptable && s.flash.accepted.contains (m.kind, m.locA, m.locB)

/-- STATE of a mismatch entry. -/
def State.mismatchState (s : State) (m : Mismatch) : Nat := if !m.acceptable then 2 else if s.accepted m then 1 else 0

/-- Links of INCLUDED peers that are not up with a matching identity. -/
def State.linkMismatches (s : State) : List Mismatch :=
  (s.peers.manifest.links.filter (fun l =>
    (((s.peers.manifest.peers[l.peer]?).map PeerEntry.included).getD false)
      && decide ((tget s.peers.ports l.port).map Port.state ≠ some .up))).map (fun l =>
    { kind := 0x07, locA := l.port, locB := l.peer,
      detail := (((tget s.peers.ports l.port).map (fun x => x.farSerial.toNat)).getD 0) % 2 ^ 64 })

/-- What the check finds: what bring-up and crossings left, and what stands now; the peer comparison only where it runs. -/
def State.findMismatches (s : State) (peers : Bool) : List Mismatch :=
  let kept := s.boot.mismatches.filter (fun m =>
    decide (m.kind ≠ 0x02) && decide (m.kind ≠ 0x0A) && (decide (m.kind ≠ 0x07) || !peers))
  let pcs := (s.boot.offline.filter (fun e => decide (e.2 ≠ offlineManager) && s.pcPresent e.1)).map (fun e =>
    ({ kind := 0x02, locA := e.1, locB := 0, detail := Config.free 0 65 e.2 % 2 ^ 64 } : Mismatch))
  let dies := s.thermal.heldDies.map (fun d =>
    ({ kind := 0x0A, locA := d, locB := ((s.thermal.failed.find? (fun x => decide (x / 128 = d))).getD 0) % 128, detail := 0 } : Mismatch))
  kept ++ pcs ++ dies ++ (if peers then s.linkMismatches else [])

/-- READINESS of a set of mismatches. -/
def State.readinessOf (s : State) (l : List Mismatch) : Readiness :=
  if l.isEmpty then .ready else if l.all s.accepted then .degraded else .notReady

/-- READINESS set anew; a change raises the event. -/
def State.setReadiness (s : State) (r : Readiness) : State :=
  if s.boot.readiness = r then s else ({ s with boot := { s.boot with readiness := r } } : State).raiseEvent 0 6

/-- The topology check. An offline pseudo-channel that has been mapped out is a mismatch no longer, so that READINESS can be READY then, as R381
and R383 form it, where R31 speaks of DEGRADED (DESIGN CHOICE, log 47). -/
def State.topologyCheck (s : State) (peers : Bool) : State :=
  let l := s.findMismatches peers
  ({ s with boot := { s.boot with mismatches := l } } : State).setReadiness (s.readinessOf l)

/-- TOPOLOGY_RECHECK: 1 s after an accepted manifest, once for each (R383). -/
def execTopologyRecheck (s : State) : Host.Outcome State Fault Refusal :=
  if s.boot.served && !s.boot.rom && decide (0 < s.peers.rechecks) then
    .next (({ s with peers := { s.peers with rechecks := s.peers.rechecks - 1 } } : State).topologyCheck true)
  else .next s

/-! ### dev.info, dev.licences -/

def Readiness.code : Readiness → Nat
  | .notReady => 0
  | .degraded => 1
  | .ready => 2

/-- Body of the response of dev.info. DEVICE_ID is that of the function asked (log 23). -/
def State.infoBody (s : State) (fn : Nat) : Bytes :=
  natLe 8 s.ident.word ++ natLe 16 s.ident.serial.toNat ++ natLe 2 s.ident.vendor.toNat
    ++ natLe 2 (s.ident.part.code + (if fn = 0 then 0 else 1))
    ++ natLe 4 (if s.boot.rom then Config.free 0 66 0 else ((s.running.map FwCopy.version).getD 0))
    ++ natLe 1 s.boot.readiness.code ++ natLe 1 (b2n s.link.cxl) ++ natLe 1 (b2n s.boot.slot) ++ zeros 1 ++ natLe 4 3

def execDevInfo (fn : Nat) (s : State) : Host.Outcome State Fault Refusal :=
  s.serve fn { code := 0x0001, box := .either, early := true, rom := true } (fun s m => s.okay m (s.infoBody m.fn))

def execDevLicences (fn : Nat) (s : State) : Host.Outcome State Fault Refusal :=
  s.serve fn { code := 0x0003, box := .either, early := true }
    (fun s m => s.okay m (natLe 1 s.boot.licLive.toNat ++ natLe 1 s.boot.licPending.toNat))

/-! ### dev.topology (R307, R382) -/

/-- Number of the partition that a test picks, as a mailbox sees it. -/
def State.ownerByte (s : State) (fn : Nat) (own : Partition → Bool) : Nat :=
  match s.parts.find? (fun e => own e.2) with
  | none => 0xFF
  | some e => if fn = 0 ∨ e.1 + 1 = fn then e.1 else 0xFE

/-- A test runs on the pseudo-channel (R38). -/
def State.underTest (s : State) (pc : Nat) : Bool := match tget s.tests pc with | some t => !t.done | none => false

def State.pcState (s : State) (i : Nat) : Nat :=
  if !s.stackFitted (i / 64) then 6
  else if s.mappedOut i then 5
  else if s.pcOffline i then 4
  else if s.underTest i then 3
  else if s.parts.any (fun e => (tget e.2.pcs i).isSome) then 2
  else if systemPc i then 1
  else 0

/-- Fenced Cuffs with the cause of their first fence; a mapped-out pseudo-channel takes its Cuffs with it (R33). -/
def State.cuffEntries (s : State) : Bytes :=
  (s.boot.fencedCuffs.filter (fun e => !s.mappedOut (e.1 / 16))).flatMap (fun e => natLe 2 e.1 ++ natLe 1 (if s.fuse.cuffFences.contains e.1 then 0 else e.2) ++ zeros 1)

/-- The record lists two kinds of path; a Girdle link's spares are in the fuse record alone. -/
def State.laneEntries (s : State) : Bytes :=
  (s.boot.lanes.filter (fun l => decide (l.path ≠ .girdle) && !s.mappedOut l.pc)).flatMap (fun l => natLe 1 (b2n (decide (l.path = .column))) ++ zeros 1 ++ natLe 2 l.pc ++ natLe 1 l.bank ++ natLe 1 l.lane
    ++ natLe 1 l.spare ++ zeros 1)

def State.mismatchEntries (s : State) : Bytes :=
  s.boot.mismatches.flatMap (fun m => natLe 1 m.kind ++ natLe 1 (s.mismatchState m) ++ natLe 2 m.locA ++ natLe 2 m.locB ++ zeros 2
    ++ natLe 8 m.detail)

/-- The topology record as a mailbox gets it. -/
def State.topologyRecord (s : State) (fn : Nat) : Bytes :=
  let cuffs := s.cuffEntries
  let lanes := s.laneEntries
  let miss := s.mismatchEntries
  let mask := fun (n : Nat) (f : Nat → Bool) => sumNat ((List.range n).map (fun i => b2n (f i) * 2 ^ i))
  natLe 4 (1728 + cuffs.length + lanes.length + miss.length) ++ natLe 1 s.boot.readiness.code ++ zeros 1
    ++ natLe 2 (mask 12 s.stackFitted) ++ natLe 8 (mask 64 (fun c => !s.clusterFenced c))
    ++ natLe 4 (cuffs.length / 4) ++ natLe 4 (lanes.length / 8) ++ natLe 4 (miss.length / 16) ++ zeros 36
    ++ (List.range 64).flatMap (fun c => natLe 1 (mask 8 (fun k => !s.clusterFenced c && !s.coreFenced c k)))
    ++ (List.range 768).flatMap (fun i => natLe 1 (s.pcState i))
    ++ (List.range 64).flatMap (fun c => natLe 1 (s.ownerByte fn (fun P => P.ownsCluster c)))
    ++ (List.range 768).flatMap (fun i => natLe 1 (s.ownerByte fn (fun P => (tget P.pcs i).isSome)))
    ++ cuffs ++ lanes ++ miss

/-- The record goes to ADDR, cut to BYTES (log 23). -/
def State.writeTopology (s : State) (m : Msg) : State :=
  let r := (s.topologyRecord m.fn).take (u32 m.body 8)
  (s.hostWriteFw m.fn (u64 m.body 0) r).okay m (natLe 4 r.length)

def topologyRow (accept : Bool) : MsgRow :=
  { code := 0x0002, box := .either, early := true, mine := fun b => decide (u8 b 12 = 1) == accept, used := fun _ => [(0, 13)] }

def execDevTopology (fn : Nat) (s : State) : Host.Outcome State Fault Refusal :=
  s.serve fn (topologyRow false) (fun s m => s.checked m [(12, decide (u8 m.body 12 = 0))] [] (s.writeTopology m))

/-- DEV_TOPOLOGY_ACCEPT: every open, acceptable mismatch at once, in a list of at most 64 (R382). -/
def execDevTopologyAccept (fn : Nat) (s : State) : Host.Outcome State Fault Refusal :=
  s.serve fn (topologyRow true) (fun s m =>
    let new := (s.boot.mismatches.filter (fun x => decide (s.mismatchState x = 0))).map (fun x => (x.kind, x.locA, x.locB))
    let list := new.foldl (fun l k => if l.contains k then l else l ++ [k]) s.flash.accepted
    s.checked m [] [(some 12, decide (m.fn = 0)), (some 12, decide (list.length ≤ 64))]
      (let s := { s with flash := { s.flash with accepted := list } }
       (s.setReadiness (s.readinessOf s.boot.mismatches)).writeTopology m))

end Sys2Proof.Machine
end

