-- ==== Sys2Proof/Machine/Maintain.lean ====
section
/-! DEFINITION. Maintain.lean: refresh, scrub, write-back of corrected words, repairs, map-outs and the tests of pseudo-channels
(R28, R32 to R40, R67, R72, R73, R376, R377, R389 to R391). -/

namespace Sys2Proof.Machine

/-! ### Write-back, refresh, scrub -/

/-- Banks and scrub go on: the module runs and its stacks are not in self-refresh (R352, R389). -/
def State.stacksRun (s : State) : Bool := s.alive && !s.thermal.tripped && decide (s.power.state ≠ .watch)

/-- CORRECTED_WRITE_BACK: the corrected value, which the array holds already, with valid check bits (R385). -/
def execCorrectedWriteBack (store : Store) (word : Nat) (s : State) : Host.Outcome State Fault Refusal :=
  if s.stacksRun && s.near.writeBacks.contains (store, word) then
    let m := s.store store
    let m := if tgetD m.errs word 0 ≤ 2 then m.setErrs word 0 else m
    let s := s.setStore store m
    .next ({ s with near := { s.near with writeBacks := s.near.writeBacks.erase (store, word),
                                          cuffBacks := s.near.cuffBacks.filter (fun x => !(decide (store = .dram) && decide (x.2 = word))) } } : State).endLeases
  else .next s

/-- BANK_REFRESH: five rows; 8,192 refreshes cover the bank. No content and no status depends on it (R28, R29). Stacks keep refreshing after
a trip (R420). -/
def execBankRefresh (bank : Nat) (s : State) : Host.Outcome State Fault Refusal :=
  if s.alive && decide (s.power.state ≠ .watch) && s.pcPresent (bank / 16) then
    .next { s with near := { s.near with refresh := tput s.near.refresh bank ((tgetD s.near.refresh bank 0 + 1) % 8192) } }
  else .next s

/-- A word that scrub reads: of a present bank whose row no lease covers, or of a scratchpad (R389). -/
def State.scrubs (s : State) (st : Store) (w : Nat) : Bool :=
  match st with
  | .dram => s.pcPresent (addrBank (8 * w) / 16) && decide (8 * w % bankStride < bankBytes) && (s.near.leasesHit (8 * w) 8).isEmpty
  | .spad => decide (8 * w < 2 ^ 30)

/-- The entry of an uncorrectable word of an SRAM that is no array of the address space: its island and the word (R386). -/
def State.logUnit (s : State) (island part word : Nat) : State :=
  s.logErr { cls := 1, islandA := island, part := part, loc := natLe 8 word }

/-- A cached line with an uncorrectable word is discarded, and counted; the next read of it is a miss and fetches it again (R99). -/
def State.scrubCache (s : State) (c word : Nat) : State :=
  let l := tgetD s.caches c []
  if l.any (fun x => decide (x.addr = 8 * word / 128 * 128)) then
    (({ s with caches := tput s.caches c (l.filter (fun x => decide (x.addr ≠ 8 * word / 128 * 128))) } : State).count 1 c 0x4A 1).logUnit
      (islArith c) (((s.parts.find? (fun e => e.2.ownsCluster c)).map Prod.fst).getD 0xFF) word
  else s

/-- Words of a queue's run-ahead buffer. -/
def Queue.frontWords (Q : Queue) : Nat :=
  sumNat ((Q.ahead ++ ((Q.loops.getLast?).map LoopFrame.body).getD []).map (fun r => r.bytes.length / 8))

/-- A record of a run-ahead buffer is lost: the queue breaks, as for a poisoned slot (R386). -/
def State.scrubFront (s : State) (p q word : Nat) : State :=
  match s.queue? p q with
  | none => s
  | some Q => if !Q.broken && decide (word < Q.frontWords) then (s.logUnit (islControl Q.cluster) p word).breakQueue p q else s

/-- An entry that a dispatcher holds is lost: it is dropped, and its command completes with ECC_UNCORR, as one that needs a control word which is
uncorrectable (R144; DESIGN CHOICE, log 29). -/
def State.scrubDispatcher (s : State) (pc word : Nat) : State :=
  match (s.near.entries.filter (fun e => decide (e.bank / 16 = pc)))[word]? with
  | none => s
  | some e =>
    let s := s.logUnit (islCuff pc) (((tget s.flight e.cmd).map Flight.p).getD 0xFF) word
    (({ s with near := { s.near with entries := s.near.entries.erase e } } : State).condition e.cmd .eccUncorr).afterEntry e.cmd e.bank

/-- An uncorrectable word of a Cuff stays until the entry that meets it (R68, R69). -/
def State.scrubCuff (s : State) (bank : Nat) (part : CuffPart) (word wrongBits : Nat) : State :=
  let m := s.sram bank
  if (m.badWords part).contains (word % partSize part) then s
  else (s.setSram bank (m.strike part word wrongBits)).logUnit (islCuff (bank / 16)) 0xFF (partFirst part + word % partSize part)

/-- A poisoned word of Pewter's memory, the Brass island's or an I/O die's; what the firmware makes of it the spec does not say (log 29). -/
def State.scrubUnit (s : State) (island word : Nat) : State :=
  if s.boot.unitPoison.contains (island, word) then s
  else ({ s with boot := { s.boot with unitPoison := s.boot.unitPoison ++ [(island, word)] } } : State).logUnit island 0xFF word

/-- Islands that hold such a memory: Pewter, Brass, and the Girdles of the two I/O dies. -/
def State.unitIsland (s : State) (island : Nat) : Bool :=
  decide (island = 0xA000) || decide (island = 0xB000) || decide (island = 0x7010) || (decide (island = 0x7011) && s.ident.part.hasX1)

/-- PATROL_SCRUB: a word is read and found with so many wrong bits of its 80; corrected, or poisoned and logged (R385, R386, R389). A word of an
SRAM with one or two wrong bits is corrected and written back by its bank at once. -/
def execPatrolScrub (at_ : Scrubbed) (word wrongBits : Nat) (s : State) : Host.Outcome State Fault Refusal :=
  if !s.stacksRun then .next s
  else
    match at_ with
    | .array store =>
      let m := s.store store
      if s.scrubs store word && !m.poison.contains word then
        let n := max wrongBits (tgetD m.errs word 0)
        .next ((s.setStore store (m.setErrs word n)).meetWord store word true)
      else .next s
    | .cache c => if 3 ≤ wrongBits then .next (s.scrubCache c word) else .next s
    | .front p q => if 3 ≤ wrongBits then .next (s.scrubFront p q word) else .next s
    | .dispatcher pc => if 3 ≤ wrongBits then .next (s.scrubDispatcher pc word) else .next s
    | .cuff bank part => if 3 ≤ wrongBits && s.pcPresent (bank / 16) then .next (s.scrubCuff bank part word wrongBits) else .next s
    | .unit island => if 3 ≤ wrongBits && s.unitIsland island then .next (s.scrubUnit island word) else .next s

/-! ### The fuse record (R376, R377) -/

def Fuse.entries (f : Fuse) : Nat :=
  f.rowRepairs.length + f.columnRepairs.length + f.spareLanes.length + f.mapouts.length + f.cuffFences.length

def Fuse.hasRoom (f : Fuse) : Bool := decide (f.entries < 16384)

/-! ### Repairs (R36, R37) -/

/-- The pseudo-channel is in maintenance. -/
def State.inMaintenance (s : State) (pc : Nat) : Bool :=
  s.pcPresent pc
    && (if systemPc pc then s.parts.isEmpty else !s.parts.any (fun e => (tget e.2.pcs pc).isSome) && !s.underTest pc)

/-- Words of the row or column group of a candidate; row r lies in subarray r mod 40 (R48). -/
def Candidate.holds (c : Candidate) (w : Nat) : Bool :=
  decide (addrBank (8 * w) = c.bank)
    && (if c.column then decide (addrRow (8 * w) % 40 = c.unit / 256) && decide (w % 256 = c.unit % 256)
        else decide (addrRow (8 * w) = c.unit))

/-- Spares of a bank's rows, or of a subarray's column groups, in use. -/
def Fuse.sparesUsed (f : Fuse) (c : Candidate) : Nat :=
  if c.column then (f.columnRepairs.filter (fun r => decide (r.bank = c.bank) && decide (r.unit / 256 = c.unit / 256))).length
  else (f.rowRepairs.filter (fun r => decide (r.bank = c.bank))).length

def Candidate.spares (c : Candidate) : Nat := if c.column then 8 else 64

def Fuse.spareLeft (f : Fuse) (c : Candidate) : Bool := decide (f.sparesUsed c < c.spares)

/-- The contents go through the code into the spare: correctable words clean, others poisoned (and logged by their first
reader); the fuse record says so. -/
def State.applyRepair (s : State) (c : Candidate) : State :=
  let words := (s.dram.errs.map Prod.fst).filter c.holds
  let s := s.each words (fun s w =>
    if tgetD s.dram.errs w 0 ≤ 2 then { s with dram := s.dram.setErrs w 0 } else s.meetWord .dram w true)
  let r : Repair := { bank := c.bank, unit := c.unit, spare := s.fuse.sparesUsed c }
  let inRow := fun (key : Nat) => decide (key / 2 ^ 16 = c.bank)
    && (if c.column then decide (key % 2 ^ 16 % 40 = c.unit / 256) else decide (key % 2 ^ 16 = c.unit))
  { s with fuse := if c.column then { s.fuse with columnRepairs := s.fuse.columnRepairs ++ [r] }
             else { s.fuse with rowRepairs := s.fuse.rowRepairs ++ [r] },
           near := s.near.dropBacks (fun st x => decide (st = Store.dram) && c.holds x),
           rowHits := s.rowHits.filter (fun e => !inRow e.1) }

/-- The pending repairs of a pseudo-channel in maintenance: applied, dropped and logged for want of spares, or left pending for
want of a fuse entry (R377, R391). -/
def State.applyPending (s : State) (pc : Nat) : State :=
  if s.inMaintenance pc then
    s.each (s.flash.pendingRepairs.filter (fun c => decide (c.bank / 16 = pc))) (fun s c =>
      let drop := fun (s : State) =>
        ({ s with flash := { s.flash with pendingRepairs := s.flash.pendingRepairs.erase c } } : State)
      if !s.fuse.spareLeft c then
        (drop s).logErr { cls := 0x10A, islandA := 0x9000 + pc / 64, loc := natLe 2 c.bank ++ natLe 4 c.unit ++ zeros 2 }
      else if s.fuse.hasRoom then drop (s.applyRepair c)
      else s)
  else s

/-- PENDING_REPAIR_APPLY: a running module in ACTIVE or IDLE. -/
def execPendingRepairApply (pc : Nat) (s : State) : Host.Outcome State Fault Refusal :=
  if s.stacksRun then .next (s.applyPending pc) else .next s

/-- Response of mem.repair: spare rows left in the bank, spare column groups left in the subarray. -/
def State.sparesBody (s : State) (c : Candidate) : Bytes :=
  let sub := if c.column then c.unit / 256 else c.unit % 40
  natLe 1 (64 - s.fuse.sparesUsed { column := false, bank := c.bank, unit := 0 })
    ++ natLe 1 (8 - s.fuse.sparesUsed { column := true, bank := c.bank, unit := sub * 256 })

/-- The candidate a mem.repair names. -/
def repairOf (b : Bytes) : Candidate :=
  { column := decide (u8 b 0 = 1), bank := u16 b 2 * 16 + u8 b 1,
    unit := if u8 b 0 = 1 then u8 b 8 * 256 + u16 b 10 else u32 b 4 }

def repairRow (kind : Nat) : MsgRow :=
  { code := 0x00B2, box := .operator, early := true, mine := opIs kind 1, used := fun _ => [(0, 9), (10, 2)] }

/-- mem.repair (R36, R37, R377). -/
def State.memRepair (s : State) (m : Msg) : State :=
  let b := m.body
  let c := repairOf b
  let pc := u16 b 2
  s.checked m
    [(0, decide (u8 b 0 ≤ 1)), (1, decide (u8 b 1 ≤ 15)), (2, decide (pc < 768) && s.stackFitted (pc / 64)),
     (4, c.column || decide (u32 b 4 ≤ 40959)), (8, !c.column || decide (u8 b 8 ≤ 39)), (10, !c.column || decide (u16 b 10 ≤ 255))]
    [(some 2, s.inMaintenance pc), (none, s.fuse.spareLeft c), (none, s.fuse.hasRoom)]
    (let s := s.applyRepair c
     s.okay m (s.sparesBody c))

def execMemRepairRow (fn : Nat) (s : State) : Host.Outcome State Fault Refusal := s.serve fn (repairRow 0) State.memRepair

def execMemRepairColumn (fn : Nat) (s : State) : Host.Outcome State Fault Refusal := s.serve fn (repairRow 1) State.memRepair

/-! ### mem.mapout (R32, R33) -/

/-- A partition whose VF is locked owns the pseudo-channel (R341). -/
def State.lockedPc (s : State) (pc : Nat) : Bool :=
  s.parts.any (fun e => (tget e.2.pcs pc).isSome
    && (match tget s.trust.tdi e.1 with | some .locked | some .run => true | _ => false))

/-- What lay in a pseudo-channel is gone: contents, poison, stored errors, write-backs that waited, and what a debugger wrote. -/
def State.emptyPc (s : State) (pc : Nat) : State :=
  let s := s.clearArray .dram (pc * 16 * bankStride) (16 * bankStride)
  (({ s with near := s.near.dropBacks (fun st x => decide (st = Store.dram) && decide (addrBank (8 * x) / 16 = pc)) } : State)).dropPokes pc

/-- The pseudo-channel leaves the device for good: its memory, its Cuffs' work and its counters with it, and the results of an earlier test on
it, which no request can name any more (DESIGN CHOICE, log 47; R40 names the next test alone). -/
def State.mapOut (s : State) (pc : Nat) : State :=
  let s := s.emptyPc pc
  let s := ({ s with fuse := { s.fuse with mapouts := addNat s.fuse.mapouts pc },
                     boot := { s.boot with offline := tdel s.boot.offline pc },
                     tests := tdel s.tests pc } : State)
  (s.resetCounters (pcUnit pc)).topologyCheck false

/-- MEM_MAPOUT (R32). One that is mapped out already is refused (DESIGN CHOICE, log 47; R32 lists no such condition). -/
def execMemMapout (fn : Nat) (s : State) : Host.Outcome State Fault Refusal :=
  s.serve fn { code := 0x00B1, box := .operator, early := true, used := fun _ => [(0, 2)] } (fun s m =>
    let pc := u16 m.body 0
    s.checked m [(0, decide (pc < 768) && s.stackFitted (pc / 64))]
      [(some 0, !s.lockedPc pc), (none, s.parts.isEmpty), (some 0, !systemPc pc), (some 0, !s.mappedOut pc),
       (some 0, decide ((s.fuse.mapouts.filter (fun x => decide (x / 64 = pc / 64))).length < 2)), (some 0, !s.underTest pc),
       (none, s.fuse.hasRoom)]
      ((s.mapOut pc).okay m []))

/-! ### mem.test (R38 to R40, R72, R73) -/

def testRow (op : Nat) : MsgRow :=
  { code := 0x00B0, box := .operator, early := true, mine := opIs op 3,
    used := fun b => [(0, 18), (24, 2 * u16 b 16)], size := fun _ => 24 }

/-- Pseudo-channels that a request names, in its order. -/
def testPcs (b : Bytes) : List Nat := (List.range (u16 b 16)).map (fun i => u16 b (24 + 2 * i))

/-- A test may start on the pseudo-channel: assigned to nobody, no system one, not mapped out, no test running. -/
def State.testable (s : State) (pc : Nat) : Bool :=
  !s.lockedPc pc && !systemPc pc && !s.mappedOut pc && !s.parts.any (fun e => (tget e.2.pcs pc).isSome) && !s.underTest pc

def State.pcFields (s : State) (b : Bytes) : List (Nat × Bool) :=
  (16, decide (1 ≤ u16 b 16)) :: (List.range (u16 b 16)).map (fun i =>
    (24 + 2 * i, decide (u16 b (24 + 2 * i) < 768) && s.stackFitted (u16 b (24 + 2 * i) / 64)))

def BankCounts.zero : BankCounts := { wordsRead := 0, lanes := List.replicate 40 0, corrected := 0, uncorrectable := 0, firstFail := 0 }

/-- A test under way. -/
def newTest (b : Bytes) (self : Bool) : TestRun :=
  { selfTest := self, done := false, pattern := u8 b 1, walk := u8 b 2, check := u8 b 3, passes := u16 b 4, banks := u16 b 6,
    passesDone := 0, counts := [], steps := [] }

/-- Tests start on every pseudo-channel named, or on none. The traffic replaces the contents with all their poison and stored errors; what it puts
there nobody reads before the zeroisation at the next assignment but the debug port (R38, R72; TestRun.leaves). -/
def State.startTests (s : State) (m : Msg) (self : Bool) : State :=
  let b := m.body
  let params := if self then [] else
    [(1, decide (u8 b 1 ≤ 7)), (2, decide (u8 b 2 ≤ 4)), (3, decide (u8 b 3 ≤ 1)), (4, decide (1 ≤ u16 b 4)), (6, decide (u16 b 6 ≠ 0))]
  s.checked m ((0, decide (u8 b 0 ≤ 3)) :: params ++ s.pcFields b)
    ((List.range (u16 b 16)).map (fun i => (some (24 + 2 * i), s.testable (u16 b (24 + 2 * i)))))
    (let s := s.each (testPcs b) (fun s pc =>
      { s.emptyPc pc with tests := tput s.tests pc (newTest b self), boot := { s.boot with tested := addNat s.boot.tested pc } })
     s.okay m [])

def execMemTestTraffic (fn : Nat) (s : State) : Host.Outcome State Fault Refusal :=
  s.serve fn (testRow 0) (fun s m => s.startTests m false)

def execMemTestSelfTest (fn : Nat) (s : State) : Host.Outcome State Fault Refusal :=
  s.serve fn (testRow 1) (fun s m => s.startTests m true)

/-- The byte that a traffic test leaves at a device address once a pass has been written, where R39 gives the data of its pattern: all zeros, all
ones, and each word's own bank offset (in bytes, least significant byte first: DEDUCED, log 24). What the other patterns and the self-test leave is
open, and so is what banks outside the mask hold, whose contents R38 says are overwritten too. -/
def TestRun.leaves (t : TestRun) (a : Nat) : Option Nat :=
  let off := a % bankStride
  if t.selfTest || decide (t.passesDone = 0) || !bit t.banks (addrBank a % 16) then none
  else
    match t.pattern with
    | 0 => some 0
    | 1 => some 255
    | 7 => some (off / 8 * 8 / 256 ^ (off % 8) % 256)
    | _ => none

/-- Counts as the check mode keeps them, 48 bits each, of the banks tested. -/
def TestRun.keep (t : TestRun) (bank : Nat) (c : BankCounts) : BankCounts :=
  let k := fun (n : Nat) => n % 2 ^ 48
  if !bit t.banks bank then BankCounts.zero
  else if t.check = 0 then
    { wordsRead := k c.wordsRead, lanes := List.replicate 40 0, corrected := k c.corrected, uncorrectable := k c.uncorrectable,
      firstFail := c.firstFail % 2 ^ 27 }
  else
    { wordsRead := k c.wordsRead, lanes := (List.range 40).map (fun i => k ((c.lanes[i]?).getD 0)), corrected := 0,
      uncorrectable := 0, firstFail := c.firstFail % 2 ^ 27 }

/-- A Cuff that fails its self-test is fenced for the life of the module, or for this boot when the fuse record is full. -/
def State.fenceTested (s : State) (bank : Nat) : State :=
  if s.fuse.cuffFences.contains bank then s
  else
    let s := s.fenceCuff bank 0
    if s.fuse.hasRoom then { s with fuse := { s.fuse with cuffFences := addNat s.fuse.cuffFences bank } }
    else s.logErr { cls := 0x10A, islandA := islCuff (bank / 16), loc := natLe 2 bank ++ zeros 6 }

/-- A test ends with what it has found. -/
def State.endTest (s : State) (pc : Nat) (t : TestRun) (found : TestFindings) : State :=
  match found with
  | .traffic passes banks =>
    let counts := (List.range 16).map (fun b => t.keep b ((banks[b]?).getD BankCounts.zero))
    { s with tests := tput s.tests pc { t with done := true, passesDone := min passes t.passes, counts := counts } }
  | .selfTest steps =>
    let steps := (List.range 16).map (fun i => min ((steps[i]?).getD 0) 5)
    let s := { s with tests := tput s.tests pc { t with done := true, steps := steps } }
    s.each (List.range 16) (fun s i => if (steps[i]?).getD 0 = 0 then s else s.fenceTested (pc * 16 + i))

/-- MEM_TEST_END: the passes, or the steps, of the test on a pseudo-channel have ended. In WATCH the banks and the Cuffs stand still (R352). -/
def execMemTestEnd (pc : Nat) (found : TestFindings) (s : State) : Host.Outcome State Fault Refusal :=
  match tget s.tests pc with
  | none => .next s
  | some t =>
    let fits := match found with | .traffic _ _ => !t.selfTest | .selfTest _ => t.selfTest
    if s.stacksRun && !t.done && fits then .next (s.endTest pc t found) else .next s

/-- What a test has found when it is stopped: free counts (log 8). -/
def stoppedFindings (seed pc : Nat) (t : TestRun) : TestFindings :=
  let v := fun (k n : Nat) => Config.free seed 67 ((pc * 16 + k) * 64 + n)
  if t.selfTest then .selfTest ((List.range 16).map (fun i => v i 0 % 6))
  else .traffic (v 16 0 % (t.passes + 1)) ((List.range 16).map (fun i =>
    { wordsRead := v i 1, lanes := (List.range 40).map (fun l => v i (2 + l)), corrected := v i 42, uncorrectable := v i 43,
      firstFail := v i 44 }))

/-- A test that runs on a pseudo-channel stops. -/
def State.stopTest (s : State) (pc : Nat) : State :=
  match tget s.tests pc with
  | some t => if t.done then s else (s.endTest pc t (stoppedFindings s.free pc t)).tick
  | none => s

/-- A pseudo-channel of a locked partition is named in no message of this kind (R341). -/
def State.unlockedPcs (s : State) (b : Bytes) : List (Option Nat × Bool) :=
  (List.range (u16 b 16)).map (fun i => (some (24 + 2 * i), !s.lockedPc (u16 b (24 + 2 * i))))

/-- MEM_TEST_STOP: the tests that run on the pseudo-channels named stop. -/
def execMemTestStop (fn : Nat) (s : State) : Host.Outcome State Fault Refusal :=
  s.serve fn (testRow 2) (fun s m =>
    s.checked m ((0, decide (u8 m.body 0 ≤ 3)) :: s.pcFields m.body) (s.unlockedPcs m.body)
      (let s := s.each (testPcs m.body) State.stopTest
       s.okay m []))

/-- One record of the results (R307). While the test runs it has no counts to return (R40), and its record shows DONE 0, PASSES_DONE 0 and all
counts zero (DESIGN CHOICE, log 47). -/
def TestRun.record (t : TestRun) (pc : Nat) : Bytes :=
  natLe 2 pc ++ natLe 1 (b2n t.selfTest) ++ natLe 1 (b2n t.done) ++ natLe 2 t.passesDone ++ zeros 10
    ++ (if t.selfTest then (List.range 16).flatMap (fun i => natLe 1 ((t.steps[i]?).getD 0))
        else (List.range 16).flatMap (fun i =>
          let c := (t.counts[i]?).getD BankCounts.zero
          natLe 8 c.wordsRead ++ (List.range 40).flatMap (fun l => natLe 8 ((c.lanes[l]?).getD 0)) ++ natLe 8 c.corrected
            ++ natLe 8 c.uncorrectable ++ natLe 8 c.firstFail))

/-- MEM_TEST_RESULTS: one record per pseudo-channel named; one that no test has run on is refused (log 23). -/
def execMemTestResults (fn : Nat) (s : State) : Host.Outcome State Fault Refusal :=
  s.serve fn (testRow 3) (fun s m =>
    let b := m.body
    s.checked m ((0, decide (u8 b 0 ≤ 3)) :: s.pcFields b)
      (s.unlockedPcs b
        ++ (List.range (u16 b 16)).map (fun i => (some (24 + 2 * i), (tget s.tests (u16 b (24 + 2 * i))).isSome)))
      (let r := (testPcs b).flatMap (fun pc => match tget s.tests pc with | some t => t.record pc | none => [])
       (s.hostWriteFw m.fn (u64 b 8) r).okay m (natLe 4 r.length)))

end Sys2Proof.Machine
end

