-- ==== Sys2Proof/Machine/Peer.lean ====
section
/-! DEFINITION. Peer.lean: the transport of the peer links, collectives and point-to-point commands, loss of a peer (R159, R160,
R312 to R327, R427). What a frame belongs to and the schedule of a collective are the model's (log 18). -/

namespace Sys2Proof.Machine

/-! ### Connections (R314) -/

def seqMod : Nat := 2 ^ 24

/-- Peer at the far end of a port. -/
def State.portPeer (s : State) (n : Nat) : Option Nat :=
  (s.peers.manifest.links.find? (fun l => decide (l.port = n))).map LinkEntry.peer

/-- PORTS of a header: sending port, receiving port (R313). -/
def Port.pair (x : Port) (n : Nat) : Nat := n % 16 + 16 * (x.farPort % 16)

/-- Frames that wait go out while the link carries frames and the window of 512 has room. -/
def State.pump (s : State) (n : Nat) : Nat → State
  | 0 => s
  | k + 1 =>
    let x := s.port n
    match x.backlog with
    | [] => s
    | f :: t =>
      if !s.carries n || decide (512 ≤ x.unacked.length) then s
      else
        let f := { f with seq := x.nextSeq, ack := x.expected, ports := x.pair n }
        let s := s.setPort n { x with backlog := t, unacked := x.unacked ++ [f], nextSeq := (x.nextSeq + 1) % seqMod }
        let s := s.countIo 3 (n / 8) 0xC6 (cdiv f.payload.length 64) f.part n
        (s.emit (.frame n f)).pump n k

/-- A frame joins a port's connection. -/
def State.enqueue (s : State) (n : Nat) (f : OutFrame) : State :=
  let x := s.port n
  (s.setPort n { x with backlog := x.backlog ++ [f] }).pump n (x.backlog.length + 1)

/-- Frames before an acknowledged number leave the window. -/
def Port.acked (x : Port) (a : Nat) : Port :=
  match x.unacked with
  | [] => x
  | f :: _ =>
    let k := (a + seqMod - f.seq) % seqMod
    if k ≤ x.unacked.length then { x with unacked := x.unacked.drop k } else x

/-- An acknowledgement: the commands whose frames it confirms have finished last on this port (R134). -/
def State.takeAck (s : State) (n a : Nat) : State :=
  let x := s.port n
  let gone := x.unacked.take (x.unacked.length - (x.acked a).unacked.length)
  let s := s.each (gone.filterMap OutFrame.job) (fun s id => s.updFlight id (fun f => { f with island := islPeer n }))
  (s.setPort n (x.acked a)).pump n (x.backlog.length + 1)

/-- Go-back-N: every unacknowledged frame again, from the oldest; its payload is sent, and counted, again (log 19). -/
def State.resend (s : State) (n : Nat) : State :=
  let x := s.port n
  let s := s.setPort n { x with retransmits := x.retransmits + BitVec.ofNat 32 x.unacked.length }
  let s := s.countIo 3 (n / 8) 0xC8 x.unacked.length 0 n
  s.each x.unacked (fun s f => (s.countIo 3 (n / 8) 0xC6 (cdiv f.payload.length 64) f.part n).emit (.frame n { f with ack := x.expected }))

/-- Frames of a transfer to a member: pieces of at most 4,096 bytes, striped across the parallel links by their place in the transfer; a relayed
frame names its destination to the next hop (R318). `ends`: the transfer ends with these bytes, so that their last frame is its last one. -/
def State.sendTo (s : State) (g : GroupEntry) (rank : Nat) (inner : Carries) (base : Nat) (data : Bytes) (bad : List Nat)
    (job : Option Nat) (ends : Bool := true) : State :=
  let ports := s.routePorts g rank
  let r := s.relayOf g rank
  let carries := match r.2 with | none => inner | some (gr, to_) => .relay r.1 gr to_ inner
  let n := cdiv data.length 4096
  if ports.isEmpty then s
  else
    s.each (List.range n) (fun s i =>
      match ports[(base / 4096 + i) % ports.length]? with
      | none => s
      | some port =>
        let piece := (data.drop (4096 * i)).take 4096
        s.enqueue port
          { seq := 0, last := ends && decide (i + 1 = n), offset := base + 4096 * i, carries := carries, payload := piece,
            poison := (bad.filter (fun w => decide (512 * i ≤ w) && decide (w < 512 * (i + 1)))).map (fun w => w - 512 * i),
            job := job, part := g.partition })

/-! ### The schedule of a collective (R324) -/

/-- Bytes i of n equal cuts of a length, in units of 64 bytes. -/
def cut (len n i : Nat) : Nat × Nat :=
  let u := len / 64
  (u * i / n * 64, (u * (i + 1) / n - u * i / n) * 64)

/-- Bytes of the buffer in which a collective forms its results. -/
def collectiveBytes (opcode bytes members : Nat) : Nat := if opcode = 0x6003 then bytes else members * bytes

/-- Chunk c of half h: of CAR's buffer cut into P, of CRS's and CAG's slice c. -/
def chunk (opcode bytes members h c : Nat) : Nat × Nat :=
  if opcode = 0x6003 then
    let half := cut bytes 2 h
    let x := cut half.2 members c
    (half.1 + x.1, x.2)
  else
    let x := cut bytes 2 h
    (c * bytes + x.1, x.2)

/-- One half of a ring as a member sees it: the first chunk it sends, and what it then expects. -/
def ringHalf (opcode bytes members rank h : Nat) : (Nat × Nat × Nat) × List Phase :=
  let n := members
  let up := decide (h = 0)
  let next := if up then (rank + 1) % n else (rank + n - 1) % n
  let prev := if up then (rank + n - 1) % n else (rank + 1) % n
  let ρ := if up then rank else (n - rank) % n
  let c := fun (i : Nat) => chunk opcode bytes members h (if up then i % n else (n - i % n) % n)
  let phase := fun (reduce : Bool) (i : Nat) (on : Bool) =>
    let x := c i
    ({ from? := prev, reduce := reduce, offset := x.1, len := x.2, onward := if on then [next] else [] } : Phase)
  let first := c (if opcode = 0x6002 then ρ + n - 1 else ρ)
  let steps := List.range (n - 1)
  ((next, first.1, first.2),
    match opcode with
    | 0x6003 => steps.map (fun t => phase true (ρ + 2 * n - 1 - t) true)
        ++ steps.map (fun t => phase false (ρ + n - t) (decide (t + 2 < n)))
    | 0x6002 => steps.map (fun t => phase true (ρ + 2 * n - 2 - t) (decide (t + 2 < n)))
    | _ => steps.map (fun t => phase false (ρ + 2 * n - 1 - t) (decide (t + 2 < n))))

def treeChildren (members rank : Nat) : List Nat := [2 * rank + 1, 2 * rank + 2].filter (fun c => decide (c < members))
def treeParent (rank : Nat) : Nat := (rank - 1) / 2

/-- Is x in the subtree of r? -/
def inSubtree (r : Nat) : Nat → Nat → Bool
  | 0, _ => false
  | k + 1, x => decide (x = r) || (decide (0 < x) && inSubtree r k (treeParent x))

/-- The binary tree with rank 0 as root: first sends, and what is expected. -/
def treePlan (opcode bytes members rank : Nat) : List (Nat × Nat × Nat) × List Phase :=
  let kids := treeChildren members rank
  let total := collectiveBytes opcode bytes members
  let up := if rank = 0 then kids else [treeParent rank]
  let down := if rank = 0 then []
    else [({ from? := treeParent rank, reduce := false, offset := 0, len := total, onward := kids } : Phase)]
  if opcode = 0x6001 then
    (up.map (fun r => (r, rank * bytes, bytes)),
      kids.flatMap (fun k => ((List.range members).filter (fun m => inSubtree k members m)).map (fun m =>
        ({ from? := k, reduce := false, offset := m * bytes, len := bytes, onward := up } : Phase))) ++ down)
  else
    (if kids.isEmpty then up.map (fun r => (r, 0, total)) else [],
      kids.map (fun k => ({ from? := k, reduce := true, offset := 0, len := total, onward := up } : Phase)) ++ down)

def collectivePlan (opcode bytes members rank : Nat) (tree : Bool) : List (Nat × Nat × Nat) × List Phase :=
  if tree then treePlan opcode bytes members rank
  else
    let a := ringHalf opcode bytes members rank 0
    let b := ringHalf opcode bytes members rank 1
    ([a.1, b.1].filter (fun x => decide (0 < x.2.2)), (a.2 ++ b.2).filter (fun x => decide (0 < x.len)))

/-- The expected stretch that holds [off, off + len) from a rank, and the stretches that then remain. -/
def takePhase (rank off len : Nat) : List Phase → Option (Phase × List Phase)
  | [] => none
  | x :: t =>
    if x.from? = rank ∧ x.offset ≤ off ∧ off + len ≤ x.offset + x.len then
      let left := if x.offset < off then [{ x with len := off - x.offset }] else []
      let right := if off + len < x.offset + x.len then
          [{ x with offset := off + len, len := x.offset + x.len - (off + len) }] else []
      some (x, left ++ right ++ t)
    else (takePhase rank off len t).map (fun r => (r.1, x :: r.2))

/-! ### Reduction (R325) -/

/-- Two operands combined element by element, in FP32, a BF16 result rounded to nearest. -/
def combine (bf max : Bool) (a b : Bytes) : Bytes :=
  let w := if bf then 2 else 4
  let dec := fun (x : Bytes) => (codesOf (8 * w) (a.length / w) x).map (fun c => if bf then bf16.decode c else fp32.decode c)
  ((dec a).zip (dec b)).flatMap (fun e =>
    let v := if max then e.1.max e.2 else (e.1.add e.2).r32
    if bf then natLe 2 (bf16.encode .nearest false v) else natLe 4 (fp32.encode .nearest false v))

/-- Bytes with a stretch replaced. -/
def splice (b : Bytes) (off : Nat) (x : Bytes) : Bytes := b.take off ++ x ++ b.drop (off + x.length)

def PeerJob.shape (j : PeerJob) (type : Nat) : Shape :=
  { opcode := j.opcode, bytes := j.bytes, type := type, max := j.max, tree := j.tree }

/-- What a job sends on from its buffer to a rank; whether a chunk ends with it. -/
def State.sendStretch (s : State) (id : Nat) (f : Flight) (j : PeerJob) (rank off len : Nat) (ends : Bool) : State :=
  match j.kind with
  | .collective g op r _ =>
    match s.groupEntry? f.p g with
    | none => s
    | some G =>
      s.sendTo G rank (.collective (G.partitionOf rank) g op r (j.shape (u8 f.bytes 10))) off ((j.acc.drop off).take len)
        ((j.bad.filter (fun w => decide (off / 8 ≤ w) && decide (8 * w < off + len))).map (fun w => w - off / 8)) (some id) ends
  | _ => s

def State.updJob (s : State) (id : Nat) (h : PeerJob → PeerJob) : State := s.updFlight id (fun f => { f with peer := f.peer.map h })

def State.job? (s : State) (id : Nat) : Option (Flight × PeerJob) :=
  match tget s.flight id with
  | some f => f.peer.map (fun j => (f, j))
  | none => none

/-- A chunk that a job expects from a rank ends at this offset. -/
def PeerJob.chunkEnds (j : PeerJob) (src at_ : Nat) : Bool :=
  match j.kind with
  | .collective _ _ rank members => (collectivePlan j.opcode j.bytes members rank j.tree).2.any (fun x => decide (x.from? = src) && decide (x.offset + x.len = at_))
  | _ => true

/-- A stretch reaches a collective: combined or copied into the buffer, and sent on once nothing else is to be combined there. -/
def State.collectiveData (s : State) (id src off : Nat) (data : Bytes) (bad : List Nat) : State :=
  match s.job? id with
  | none => s
  | some (f, j) =>
    match takePhase src off data.length j.phases with
    | none => s
    | some (x, rest) =>
      let words := wordsOf off data.length
      let came := bad.map (fun w => off / 8 + w)
      let mine := (j.acc.drop off).take data.length
      let acc := splice j.acc off (if x.reduce then combine j.bf16 j.max mine data else data)
      let kept := if x.reduce then j.bad else j.bad.filter (fun w => !words.contains w)
      let j := { j with acc := acc, bad := came.foldl addNat kept, phases := rest }
      let s := s.updJob id (fun _ => j)
      let more := x.reduce && rest.any (fun y => y.reduce && overlaps y.offset y.len off data.length)
      let s := if j.bad.isEmpty then s else s.condition id .poison
      if more then s else s.each x.onward (fun s r => s.sendStretch id f j r off data.length (j.chunkEnds src (off + data.length)))

/-! ### Loss and abort (R319 to R322) -/

/-- Does a job belong to a group, or run to or from a peer? -/
def PeerJob.ofGroup (j : PeerJob) (g : Nat) : Bool :=
  match j.kind with
  | .collective g' _ _ _ => decide (g' = g)
  | _ => false

def PeerJob.withPeer (j : PeerJob) (k : Nat) : Bool :=
  match j.kind with
  | .send k' _ _ | .recv k' _ _ | .copyOut k' _ | .copyIn k' _ => decide (k' = k)
  | _ => false

/-- Destinations that a command has not confirmed: of a CRECV and of a PEERCOPY that reads, what has not arrived (R160). -/
def State.unconfirmed (s : State) (f : Flight) (j : PeerJob) : List Range :=
  match j.kind, s.partOf f with
  | .recv _ _ _, some P | .copyIn _ _, some P => s.rangesOf f.p P (j.phases.map (fun x => (((j.dst + x.offset : Nat) : Int), x.len)))
  | _, _ => f.writes

/-- A peer command ends before its data are complete: its unconfirmed destinations are undefined (R160, R319). -/
def State.losePeer (s : State) (id : Nat) (st : Status) : State :=
  match s.job? id with
  | none => s
  | some (f, j) => (s.updFlight id (fun x => { x with writes := s.unconfirmed f j })).cutShort id st

/-- Commands in flight that a test picks end with PEER_LOST. -/
def State.losePeerJobs (s : State) (test : Flight → PeerJob → Bool) : State :=
  s.each ((s.flight.filter (fun e => match e.2.peer with | some j => test e.2 j | none => false)).map Prod.fst)
    (fun s id => s.losePeer id .peerLost)

/-- A collective differs from its match on another member: it ends with INCONSISTENT, and every other member is told so (R159, R323; that the
notice has the form of an abort notice is a DESIGN CHOICE, log 43). -/
def State.mismatch (s : State) (id : Nat) : State :=
  match s.job? id with
  | none => s
  | some (f, j) =>
    match j.kind with
    | .collective g op _ _ =>
      match s.groupEntry? f.p g with
      | none => s.cutShort id .inconsistent
      | some G => (s.abortAll G [.mismatch g op]).cutShort id .inconsistent
    | _ => s

/-- One group fails for the loss of a member. -/
def State.failGroup (s : State) (p g k : Nat) : State :=
  let s := s.setGroup p g { (s.group p g) with state := .failed }
  let s := (s.forgetGroup p g).forgetCopies (fun p' k' => decide (p' = p) && decide (k' = k))
  let s := s.losePeerJobs (fun f j => decide (f.p = p) && (j.ofGroup g || j.withPeer k))
  (s.raiseEvent (p + 1) 3).raiseEvent 0 3

def State.exclude (s : State) (k : Nat) : State :=
  { s with peers := { s.peers with manifest := { s.peers.manifest with
                                                 peers := ((List.range s.peers.manifest.peers.length).zip s.peers.manifest.peers).map (fun e =>
        if e.1 = k then { e.2 with included := false } else e.2) } } }

/-- Loss of a peer is logged: DETAIL byte 0 the peer's index; PARTITION the partition of the group, if it is of one. -/
def State.logLoss (s : State) (p port k : Nat) : State :=
  s.logErr { cls := 4, islandA := islPeer port, part := p, detail := natLe 1 k }

/-- A device declares a peer lost (R319). -/
def State.declareLost (s : State) (k port : Nat) : State :=
  let gs := s.peers.manifest.groups.filter (fun g => (g.peers.contains k)
    && decide ((s.group g.partition g.group).state ≠ .failed))
  let s := (s.exclude k).forgetCopies (fun _ k' => decide (k' = k))
  let s := s.each gs (fun s g => s.failGroup g.partition g.group k)
  let s := (s.losePeerJobs (fun _ j => j.withPeer k)).raiseEvent 0 3
  let s := if gs.isEmpty then s.logLoss 0xFF port k
    else s.each (nubNat (gs.map GroupEntry.partition)) (fun s p => s.logLoss p port k)
  s.each gs (fun s g => s.each ((s.groupPorts g).filter s.carries) (fun s port => s.emit (.lossNotice port g.partition g.group k)))

/-- A notice about a group that this device holds and that has not failed yet: as R319 for that group, and forwarded once on
the group's other links (R320, R322). -/
def State.noticed (s : State) (port p group k : Nat) (reset : Bool) : State :=
  match s.groupEntry? p group with
  | none => s
  | some g =>
    if (s.group p group).state = .failed then s
    else
      let s := if reset then s else s.exclude k
      let s := s.failGroup p group k
      let s := s.logLoss p port k
      s.each ((s.groupPorts g).filter (fun o => decide (o ≠ port) && s.carries o))
        (fun s o => s.emit (if reset then .resetNotice o p group k else .lossNotice o p group k))

def execLossNotice (port p group peer : Nat) (s : State) : Host.Outcome State Fault Refusal :=
  if s.carries port then .next ((s.wake .peer).noticed port p group peer false) else .next s

def execGroupResetNotice (port p group peer : Nat) (s : State) : Host.Outcome State Fault Refusal :=
  if s.carries port then .next ((s.wake .peer).noticed port p group peer true) else .next s

/-- The command in flight that a collective's frame is for. -/
def State.collectiveJob (s : State) (p g op : Nat) : Option (Nat × Flight × PeerJob) :=
  s.flight.findSome? (fun e => match e.2.peer with
    | some j => (match j.kind with
      | .collective g' op' _ _ => if e.2.p = p ∧ g' = g ∧ op' = op then some (e.1, e.2, j) else none
      | _ => none)
    | none => none)

def State.recvJob (s : State) (p k ch n : Nat) : Option (Nat × Flight × PeerJob) :=
  s.flight.findSome? (fun e => match e.2.peer with
    | some j => (match j.kind with
      | .recv k' c m => if e.2.p = p ∧ k' = k ∧ c = ch ∧ m = n then some (e.1, e.2, j) else none
      | _ => none)
    | none => none)

def State.sendJob (s : State) (p k ch n : Nat) : Option (Nat × Flight × PeerJob) :=
  s.flight.findSome? (fun e => match e.2.peer with
    | some j => (match j.kind with
      | .send k' c m => if e.2.p = p ∧ k' = k ∧ c = ch ∧ m = n then some (e.1, e.2, j) else none
      | _ => none)
    | none => none)

def channelKey (k ch : Nat) : Nat := k * 65536 + ch

/-- One item of a notice about the match of a command of this device: it ends the command, now or at its dispatch; a command that has completed
is past it (R159, R322). -/
def State.abortItem (s : State) (p peer : Nat) (a : Abandoned) : State :=
  match s.part? p with
  | none => s
  | some P =>
    let keep := fun (x : Nat × Nat × Nat × Nat) => if P.aborts.contains x then s else s.setPart p { P with aborts := P.aborts ++ [x] }
    let ahead := fun (g op kind : Nat) =>
      if (s.group p g).opSeq.toNat ≤ op ∧ (s.group p g).state ≠ .failed then keep (g, op, 0, kind) else s
    let collective := fun (g op : Nat) (st : Status) (kind : Nat) =>
      match s.collectiveJob p g op with
      | some (id, _, _) => s.losePeer id st
      | none => ahead g op kind
    match a with
    | .collective g op => collective g op .peerLost 0
    | .mismatch g op => collective g op .inconsistent 3
    | .empty g op =>
      match s.collectiveJob p g op with
      | some (id, _, _) => s.mismatch id
      | none => ahead g op 4
    | .message true ch n =>
      match s.recvJob p peer ch n with
      | some (id, _, _) => s.losePeer id .peerLost
      | none => if tgetD P.recvs (channelKey peer ch) 0 ≤ n then keep (peer, ch, n, 2) else s
    | .message false ch n =>
      match s.sendJob p peer ch n with
      | some (id, _, _) => s.losePeer id .peerLost
      | none => if tgetD P.sends (channelKey peer ch) 0 ≤ n then keep (peer, ch, n, 1) else s
    | .copy _ => s

/-- ABORT_NOTICE: for this device, or relayed to the member it is for. -/
def execAbortNotice (port p peer : Nat) (items : List Abandoned) (relay : Option (Nat × Nat)) (s : State) :
    Host.Outcome State Fault Refusal :=
  if !s.carries port then .next s
  else
    let s := s.wake .peer
    match relay with
    | some (g, rank) =>
      match s.groupEntry? p g with
      | none => .next s
      | some G => if (s.group p g).state = .failed then .next s else .next (s.sendAbort G rank items)
    | none => .next (s.each items (fun s a => s.abortItem p peer a))

def execPeerSilenceTimeout (peer : Nat) (s : State) : Host.Outcome State Fault Refusal :=
  match s.portsTo peer with
  | [] => .next s
  | port :: _ => .next (s.declareLost peer port)

/-! ### Links (R315, R319) -/

/-- A link goes down: what it held is gone, and its peer is lost. -/
def execPeerLinkDown (port : Nat) (s : State) : Host.Outcome State Fault Refusal :=
  let x := s.port port
  match x.state, s.portPeer port with
  | .disabled, _ | .loopback, _ | .down, _ | _, none => .next s
  | _, some k =>
    let s := s.setPort port { x with state := .down, unacked := [], backlog := [], sinceAck := 0, nextSeq := 0, expected := 0 }
    .next (s.declareLost k port)

/-- An identity frame: serial, port, IDENT (R315). -/
def State.sendIdentity (s : State) (port : Nat) : State := s.emit (.identity port s.ident.serial s.ident.word)

/-- A link's physical layer locks: it trains, and the ends exchange identity frames. -/
def execPeerLinkUp (port : Nat) (s : State) : Host.Outcome State Fault Refusal :=
  let x := s.port port
  if s.portsRun && decide (x.state = .down) then .next ((s.setPort port { x with state := .training }).sendIdentity port) else .next s

/-- An identity frame: the link is up, or held in MISMATCH. What waits goes out on a link that comes up, and the groups that come up with it
exchange their digests (R317). -/
def execIdentityFrame (port serial farPort : Nat) (s : State) : Host.Outcome State Fault Refusal :=
  match (Instr.identityFrame port serial farPort).illFormed with
  | some _ => .next s
  | none =>
    let x := s.port port
    match s.peers.manifest.links.find? (fun l => decide (l.port = port)) with
    | none => .next s
    | some l =>
      if !s.portsRun ∨ x.state = .disabled ∨ x.state = .loopback ∨ x.state = .down then .next s
      else
        let far := ((s.peers.manifest.peers[l.peer]?).map PeerEntry.serial).getD 0
        let ok := decide (far.toNat = serial) && decide (l.remotePort = farPort)
        let s := s.setPort port { x with state := if ok then .up else .mismatch, farSerial := BitVec.ofNat 128 serial, farPort := farPort }
        if ok && decide (x.state ≠ .up) then .next (s.pump port (x.backlog.length + 1)).offerDigests else .next s

def execKeepaliveTimer (port : Nat) (s : State) : Host.Outcome State Fault Refusal :=
  let x := s.port port
  if s.portsRun ∧ (x.state = .up ∨ x.state = .mismatch) then .next (s.emit (.keepalive port)) else .next s

def execIdentityTimer (port : Nat) (s : State) : Host.Outcome State Fault Refusal :=
  let x := s.port port
  if s.portsRun ∧ (x.state = .up ∨ x.state = .mismatch ∨ x.state = .training) then .next (s.sendIdentity port) else .next s

/-- A keepalive counts as traffic and does nothing else; silence is an event of its own (log 9). -/
def execKeepaliveFrame (_port : Nat) (s : State) : Host.Outcome State Fault Refusal := .next s

def execAckTimer (port : Nat) (s : State) : Host.Outcome State Fault Refusal :=
  let x := s.port port
  if s.carries port && decide (0 < x.sinceAck) then
    .next ((s.setPort port { x with sinceAck := 0 }).emit (.ackFrame port x.expected))
  else .next s

def execRetransmitTimeout (port : Nat) (s : State) : Host.Outcome State Fault Refusal :=
  if s.carries port then .next (s.resend port) else .next s

def execPeerAckFrame (port ack : Nat) (s : State) : Host.Outcome State Fault Refusal :=
  match (Instr.peerAckFrame port ack).illFormed with
  | some _ => .next s
  | none => if s.carries port then .next (s.takeAck port ack) else .next s

def execPeerNakFrame (port expected : Nat) (s : State) : Host.Outcome State Fault Refusal :=
  match (Instr.peerNakFrame port expected).illFormed with
  | some _ => .next s
  | none => if s.carries port then .next ((s.takeAck port expected).resend port) else .next s

/-! ### What frames do -/

/-- Memory that a peer command may name: striped memory or the scratchpad window (chapter 07, class 0x6). -/
def State.peerReach (s : State) (p : Nat) (P : Partition) (va n : Nat) : Bool :=
  decide (n = 0) || ((decide (va + n ≤ 2 ^ 40) || decide (va / 2 ^ 44 = 2)) && (s.segs p P va n).isSome)

/-- Bytes written by the peer side, poisoned words among them. -/
def State.peerPut (s : State) (w : Writer) (P : Partition) (va : Nat) (data : Bytes) (bad : List Nat) : State :=
  s.each (List.range (cdiv data.length 8)) (fun s i =>
    s.putVa w P (va + 8 * i) ((data.drop (8 * i)).take 8) (bad.contains i))

/-- Bytes read by the peer side, with their poisoned words. -/
def State.peerGet (s : State) (p : Nat) (P : Partition) (va n : Nat) : Bytes × List Nat :=
  let a : Access := { p := p, P := P, rdr := .device, cache := none }
  let r := (List.range (cdiv n 8)).map (fun i => (i, s.fetch a (va + 8 * i) (min 8 (n - 8 * i))))
  (r.flatMap (fun e => e.2.1), (r.filter (fun e => e.2.2)).map Prod.fst)

def peerWriter (p q cluster cmd : Nat) : Writer := { cmd := cmd, p := p, q := q, cluster := cluster, engine := 35, kind := 3 }

/-- An answer to a peer's PEERCOPY. -/
def State.answerCopy (s : State) (p peer : Nat) (inner : Carries) (data : Bytes) (bad : List Nat) : State :=
  match s.pairing p peer with
  | none => s
  | some (G, _) =>
    match G.rankOf peer with
    | none => s
    | some r => s.sendTo G r inner 0 data bad none

/-- Bytes that arrive for a buffer of a command in flight. -/
def State.arrive (s : State) (id port : Nat) (f : Flight) (j : PeerJob) (off : Nat) (data : Bytes) (bad : List Nat) : State :=
  match s.partOf f, takePhase 0 off data.length j.phases with
  | some P, some (_, rest) =>
    let s := s.peerPut (peerWriter f.p f.q f.cluster id) P (j.dst + off) data bad
    let s := if bad.isEmpty then s else s.condition id .poison
    (s.updJob id (fun j => { j with phases := rest })).updFlight id (fun f => { f with island := islPeer port })
  | _, _ => s

/-- The writer of what a peer's PEERCOPY puts into local memory: the peer and the number of its command. -/
def remoteWriter (p k id : Nat) : Writer := peerWriter p 64 0 (2 ^ 64 * (k + 2) + id)

/-- A frame of a collective that this device has run already: one of no bytes here, so that its match differs (R159). -/
def State.contradicted (s : State) (p g op : Nat) : State :=
  match s.groupEntry? p g with
  | some G => if (s.group p g).empties.contains op then s.abortAll G [.mismatch g op] else s
  | none => s

/-- Every group through which a partition reaches a peer is FAILED: frames that arrive for them are discarded (R393). -/
def State.peerShut (s : State) (p k : Nat) : Bool :=
  let gs := (s.groupsOf p).filter (fun g => g.peers.contains k)
  !gs.isEmpty && gs.all (fun g => decide ((s.group p g.group).state = .failed))

/-- Bytes of a peer's PEERCOPY arrive: each frame is checked against the whole of REMOTE (R326); a failure is reported at once. When all have come,
by whichever of the parallel links, all are readable at DEVICE scope, and success is reported (R260). -/
def State.remoteWrite (s : State) (p k id va total off : Nat) (data : Bytes) (bad : List Nat) : State :=
  let mine := fun (e : Nat × Nat × Nat × Nat) => decide (e.1 = p) && decide (e.2.1 = k) && decide (e.2.2.1 = id)
  let came := sumNat ((s.peers.copies.filter mine).map (fun e => e.2.2.2)) + data.length
  let s := { s with peers := { s.peers with copies := s.peers.copies.filter (fun e => !mine e) } }
  match s.part? p with
  | none => s.answerCopy p k (.copyReport id false) (zeros 64) []
  | some P =>
    let w := remoteWriter p k id
    let ok := P.zeroing.isNone && s.peerReach p P va total && P.writable (va, total) && decide (off + data.length ≤ total)
      && (s.pairing p k).isSome
    if !ok then s.answerCopy p k (.copyReport id false) (zeros 64) []
    else
      let s := s.peerPut w P (va + off) data bad
      if total ≤ came then
        (s.raiseScope (fun u => if u.cmd = w.cmd ∧ u.p = p ∧ u.kind = 3 then { u with scope := .device } else u)).answerCopy p k (.copyReport id true)
          (zeros 64) []
      else { s with peers := { s.peers with copies := s.peers.copies ++ [(p, k, id, came)] } }

/-- An accepted payload reaches what it belongs to. -/
def State.deliverFrame (s : State) (port : Nat) (c : Carries) (last : Bool) (off : Nat) (data : Bytes) (bad : List Nat) : State :=
  match c with
  | .collective p g op src shape =>
    if (s.group p g).state ≠ .active ∨ (s.groupEntry? p g).isNone then s
    else
      match s.collectiveJob p g op with
      | some (id, f, j) =>
        let s := s.updFlight id (fun f => { f with island := islPeer port })
        if shape = j.shape (u8 f.bytes 10) then s.collectiveData id src off data bad else s.mismatch id
      | none =>
        if (s.group p g).opSeq.toNat ≤ op then
          { s with peers := { s.peers with early := s.peers.early ++ [{ carries := c, offset := off, data := data, bad := bad, port := port }] } }
        else s.contradicted p g op
  | .message p k ch n total =>
    match s.recvJob p k ch n with
    | none => s
    | some (id, f, j) =>
      if total = j.bytes then s.arrive id port f j off data bad
      else (s.condition id .inconsistent).updJob id (fun j => { j with phases := [], open? := true })
  | .remoteWrite p k id va total => if s.peerShut p k then s else s.remoteWrite p k id va total off data bad
  | .remoteRead p k id va total =>
    if s.peerShut p k then s
    else
    match s.part? p with
    | none => s.answerCopy p k (.copyReport id false) (zeros 64) []
    | some P =>
      if P.zeroing.isNone && s.peerReach p P va total && (s.pairing p k).isSome then
        let r := s.peerGet p P va total
        (s.meetVa p P (va, total)).answerCopy p k (.copyData id) r.1 r.2
      else s.answerCopy p k (.copyReport id false) (zeros 64) []
  | .copyData id =>
    match s.job? id with
    | some (f, j) => (match j.kind with | .copyIn _ _ => s.arrive id port f j off data bad | _ => s)
    | none => s
  | .copyReport id ok =>
    match s.job? id with
    | some (_, j) =>
      match j.kind with
      | .copyOut _ _ | .copyIn _ _ =>
        let s := if ok then s else s.condition id .bounds
        (s.updJob id (fun j => { j with phases := [] })).updFlight id (fun f => { f with island := islPeer port })
      | _ => s
    | none => s
  | .relay p g rank inner =>
    match s.groupEntry? p g with
    | none => s
    | some G =>
      if (s.group p g).state = .failed then s
      else
        let ports := s.routePorts G rank
        let r := s.relayOf G rank
        let carries := match r.2 with | none => inner | some (gr, to_) => .relay r.1 gr to_ inner
        match ports[off / 4096 % max ports.length 1]? with
        | none => s
        | some o => s.enqueue o { seq := 0, last := last, offset := off, carries := carries, payload := data, poison := bad, job := none, part := p }

/-- Partition whose payload a frame is, for the partition filter of the counters. -/
def carriesPart : Carries → Nat
  | .collective p _ _ _ _ | .message p _ _ _ _ | .remoteWrite p _ _ _ _ | .remoteRead p _ _ _ _ | .relay p _ _ _ => p
  | _ => 0xFF

/-- PEER_DATA_FRAME (R314): checked, numbered, acknowledged and delivered. -/
def execPeerDataFrame (port : Nat) (frame : Frame) (s : State) : Host.Outcome State Fault Refusal :=
  match (Instr.peerDataFrame port frame).illFormed with
  | some _ => .next s
  | none =>
    let x := s.port port
    if !s.portsRun then .next s
    else if x.state = .loopback then
      -- PRBS payload of its own: words that came back changed are counted (R327)
      .next ((s.setPort port { x with loopErrors := x.loopErrors
                                      + BitVec.ofNat 32 (Config.free s.free 63 port % (frame.payload.length / 8 + 1)) }).tick)
    else if x.state ≠ .up then .next s
    else if !frame.fcsOk then .next (s.setPort port { x with fcsErrors := x.fcsErrors + 1 })
    -- in WATCH no data frame is acknowledged: it is sent again after the exit (R354)
    else if s.power.state = .watch then .next (s.wake .peer)
    else if frame.seq ≠ x.expected then .next ((s.wake .peer).emit (.nakFrame port x.expected))
    else
      let s := s.wake .peer
      let expected := (x.expected + 1) % seqMod
      let n := x.sinceAck + 1
      let s := s.setPort port { x with expected := expected, sinceAck := if 16 ≤ n then 0 else n }
      let s := if 16 ≤ n then s.emit (.ackFrame port expected) else s
      let s := s.takeAck port frame.ack
      let s := s.countIo 3 (port / 8) 0xC7 (cdiv frame.payload.length 64) (carriesPart frame.carries) port
      .next (s.deliverFrame port frame.carries frame.last frame.offset frame.payload frame.poison)

/-! ### Dispatch of peer records (R159, R160, R326, R427) -/

/-- Steps 3 to 6 for a peer record, with the check of R427 between steps 3 and 4. -/
def peerVerdict (fields : Option Nat) (who : Option Status) (cons al bo : Option Nat) : Verdict :=
  match fields with
  | some o => .fail .illegal o
  | none =>
    match who with
    | some st => .fail st 8
    | none => verdictOf none cons al bo false

/-- The group of a collective record. -/
def State.groupStatus (s : State) (p g : Nat) : Option Status :=
  if (s.groupEntry? p g).isNone then some .bounds
  else if (s.group p g).state ≠ .active then some .peerLost else none

/-- The group through which a point-to-point record goes: an ACTIVE one, if there is one. -/
def State.peerGroup (s : State) (p k : Nat) : Option GroupEntry :=
  (s.groupsOf p).find? (fun g => (g.peers.contains k) && decide ((s.group p g.group).state = .active))

def State.peerStatus (s : State) (p k : Nat) : Option Status :=
  if (s.pairing p k).isNone then some .bounds else if (s.peerGroup p k).isNone then some .peerLost else none

/-- Reads and writes of a collective (R159). -/
def collectiveRanges (b : Bytes) (members : Nat) : (Nat × Nat) × (Nat × Nat) :=
  let n := u64 b 32
  match recOp b with
  | 0x6003 => ((u64 b 16, n), (u64 b 24, n))
  | 0x6002 => ((u64 b 16, members * n), (u64 b 24, n))
  | _ => ((u64 b 16, n), (u64 b 24, members * n))

def State.members (s : State) (p g : Nat) : Nat := ((s.groupEntry? p g).map (fun G => G.members.length)).getD 0

def State.collectiveVerdict (s : State) (d : Site) : Verdict :=
  let b := d.b
  let cag := decide (recOp b = 0x6001)
  let fields := firstBad ([(8, decide (u8 b 8 ≤ 15)), (9, decide (u8 b 9 ≤ 2)),
    (10, if cag then (Dtype.ofCode (u8 b 10)).isSome else decide (u8 b 10 = 1) || decide (u8 b 10 = 2)),
    (11, if cag then decide (u8 b 11 = 0) else decide (u8 b 11 ≤ 1)), (16, vaOk (u64 b 16)), (24, vaOk (u64 b 24))]
    ++ reservedZero b [(8, 4), (16, 24)])
  let cons := firstBad [(16, decide (u64 b 16 % 64 = 0)), (24, decide (u64 b 24 % 64 = 0)), (32, decide (u64 b 32 % 64 = 0))]
  let r := collectiveRanges b (s.members d.p (u8 b 8))
  let same := decide (recOp b = 0x6003) && decide (r.1.1 = r.2.1)
  let al := if overlaps r.1.1 r.1.2 r.2.1 r.2.2 && !same then some 0xFF else none
  let bo := firstBad [(16, s.peerReach d.p d.P r.1.1 r.1.2), (24, s.peerReach d.p d.P r.2.1 r.2.2 && d.P.writable (r.2.1, r.2.2))]
  peerVerdict fields (s.groupStatus d.p (u8 b 8)) cons al bo

/-- A new peer command in flight, in the island of the port that it works through first (log 25). -/
def Site.peerFlight (d : Site) (j : PeerJob) (ports : List Nat) (writes : List Range) : Flight :=
  { d.flight 35 (match ports with | n :: _ => islPeer n | [] => islControl d.Q.cluster) with peer := some j, writes := writes }

/-- Is a notice kept for this match? The partition without it. -/
def Partition.takeAbort (P : Partition) (a : Nat × Nat × Nat × Nat) : Option Partition :=
  if P.aborts.contains a then some { P with aborts := P.aborts.erase a } else none

/-- Is it a stretch of this collective? -/
def earlyOf (p g op : Nat) (e : Early) : Bool :=
  match e.carries with
  | .collective p' g' op' _ _ => decide (p' = p) && decide (g' = g) && decide (op' = op)
  | _ => false

/-- The stretches that came before the dispatch of their collective are given up. -/
def State.dropEarly (s : State) (p g op : Nat) : State :=
  { s with peers := { s.peers with early := s.peers.early.filter (fun e => !earlyOf p g op e) } }

/-- Stretches that came before the dispatch of their collective are taken in order of arrival. -/
def State.takeEarly (s : State) (id p g op : Nat) (shape : Shape) : State :=
  let l := s.peers.early.filter (earlyOf p g op)
  let s := s.dropEarly p g op
  s.each l (fun s e => match e.carries with
    | .collective _ _ _ src sh =>
      let s := s.updFlight id (fun f => { f with island := islPeer e.port })
      if sh = shape then s.collectiveData id src e.offset e.data e.bad else s.mismatch id
    | _ => s)

/-- A collective of no bytes does no work (R142): its match differs if a stretch of it has come, and the other members are told then, as they
are when one comes later; and it tells them that it has no bytes, so that one with bytes finds that its match differs (R159, log 43). -/
def State.emptyCollective (s : State) (d : Site) (G : GroupEntry) (g op : Nat) : State :=
  if s.peers.early.any (earlyOf d.p g op) then
    ((s.dropEarly d.p g op).abortAll G [.mismatch g op]).endAtDispatch d .inconsistent 0xFF 0
  else
    let gr := s.group d.p g
    ((s.setGroup d.p g { gr with empties := gr.empties ++ [op] }).abortAll G [.empty g op]).endAtDispatch d .ok 0xFF 0

/-- The partition without the word of a member that its match has no bytes, and whether there was one. -/
def Partition.takeEmpty (P : Partition) (g op : Nat) : Partition × Bool :=
  match P.takeAbort (g, op, 0, 4) with
  | some P => (P, true)
  | none => (P, false)

/-- CAG, CRS and CAR: the local operand is read, the first stretches go out. -/
def State.collectiveRun (s : State) (d : Site) : State :=
  let b := d.b
  let g := u8 b 8
  match s.groupEntry? d.p g with
  | none => s
  | some G =>
    let gr := s.group d.p g
    let op := gr.opSeq.toNat
    let s := s.setGroup d.p g { gr with opSeq := gr.opSeq + 1 }
    match d.P.takeAbort (g, op, 0, 0), d.P.takeAbort (g, op, 0, 3) with
    | some P, _ => ((s.dropEarly d.p g op).setPart d.p P).endAtDispatch { d with P := P } .peerLost 8 0
    | none, some P => ((s.dropEarly d.p g op).setPart d.p P).endAtDispatch { d with P := P } .inconsistent 0xFF 0
    | none, none =>
      let n := u64 b 32
      let members := G.members.length
      let told := d.P.takeEmpty g op
      let s := if told.2 then s.setPart d.p told.1 else s
      let d := { d with P := told.1 }
      if n = 0 then s.emptyCollective d G g op
      else if told.2 then ((s.dropEarly d.p g op).abortAll G [.mismatch g op]).endAtDispatch d .inconsistent 0xFF 0
      else
        let code := recOp b
        let tree := decide (u8 b 9 = 2) || (decide (u8 b 9 = 0) && decide (n * members < 2 ^ 20))
        let r := collectiveRanges b members
        let src := s.peerGet d.p d.P r.1.1 r.1.2
        let own := G.rank * n
        let plan := collectivePlan code n members G.rank tree
        let j : PeerJob :=
          { kind := .collective g op G.rank members, src := r.1.1, dst := r.2.1, bytes := n, opcode := code,
            bf16 := decide (u8 b 10 = 2), max := decide (u8 b 11 = 1), tree := tree,
            acc := if code = 0x6001 then zeros own ++ src.1 ++ zeros (members * n - own - n) else src.1,
            bad := if code = 0x6001 then src.2.map (fun w => own / 8 + w) else src.2, phases := plan.2, open? := true }
        let f := d.peerFlight j (s.groupPorts G) (s.rangesOf d.p d.P [((r.2.1 : Int), r.2.2)])
        let (s, id) := s.launch d f 0
        let s := s.readVa id d.p d.P (r.1.1, r.1.2)
        let s := if src.2.isEmpty then s else s.condition id .poison
        let s := s.each plan.1 (fun s x => s.sendStretch id f j x.1 x.2.1 x.2.2 true)
        (s.takeEarly id d.p g op (j.shape (u8 b 10))).tick

def execCag (p q : Nat) (s : State) : Host.Outcome State Fault Refusal :=
  s.dispatch p q (isOp 0x6001) noSkip s.collectiveVerdict State.collectiveRun

def execCrs (p q : Nat) (s : State) : Host.Outcome State Fault Refusal :=
  s.dispatch p q (isOp 0x6002) noSkip s.collectiveVerdict State.collectiveRun

def execCar (p q : Nat) (s : State) : Host.Outcome State Fault Refusal :=
  s.dispatch p q (isOp 0x6003) noSkip s.collectiveVerdict State.collectiveRun

/-- CSEND and CRECV. -/
def State.messageVerdict (s : State) (d : Site) (recv : Bool) : Verdict :=
  let b := d.b
  let buf := u64 b 16
  let n := u64 b 24
  let fields := firstBad ([(8, decide (u8 b 8 ≤ 254)), (16, vaOk buf)] ++ reservedZero b [(8, 1), (10, 2), (16, 16)])
  let cons := firstBad [(16, decide (buf % 64 = 0)), (24, decide (n % 64 = 0))]
  let bo := firstBad [(16, s.peerReach d.p d.P buf n && (!recv || d.P.writable (buf, n)))]
  peerVerdict fields (s.peerStatus d.p (u8 b 8)) cons none bo

/-- A point-to-point job. A CRECV of no bytes waits for the sender's word on its own BYTES (R160, log 43). -/
def messageJob (b : Bytes) (kind : PeerKind) : PeerJob :=
  let recv := decide (recOp b = 0x6005) && decide (u64 b 24 ≠ 0)
  { kind := kind, src := u64 b 16, dst := u64 b 16, bytes := u64 b 24, opcode := recOp b, bf16 := false, max := false,
    tree := false, acc := [], bad := [],
    phases := if recv then [{ from? := 0, reduce := false, offset := 0, len := u64 b 24, onward := [] }] else [],
    open? := recv }

/-- The sender's word on its BYTES, to the receiver's rank. -/
def State.sendSize (s : State) (G : GroupEntry) (r ch n bytes : Nat) : State :=
  let h := s.relayOf G r
  match s.noticePort G r with
  | some port => s.emit (.sizeNotice port h.1 ch n bytes h.2)
  | none => s

/-- The receiver's notice that its CRECV is dispatched, to the sender's rank (R326). -/
def State.sendReady (s : State) (G : GroupEntry) (r ch n bytes : Nat) : State :=
  let h := s.relayOf G r
  match s.noticePort G r with
  | some port => s.emit (.recvNotice port h.1 ch n bytes h.2)
  | none => s

/-- The receiver's notice opens a CSEND: unequal sizes end it, equal ones let its data flow; of no bytes there are none, and the sender says so
(R160, R326). -/
def State.openSend (s : State) (id bytes : Nat) : State :=
  match s.job? id with
  | none => s
  | some (f, j) =>
    match j.kind with
    | .send k ch n =>
      match s.peerGroup f.p k, s.partOf f with
      | some G, some P =>
        match G.rankOf k with
        | none => s
        | some r =>
          let s := s.updJob id (fun j => { j with open? := true })
          if bytes ≠ j.bytes then (s.condition id .inconsistent).sendSize G r ch n j.bytes
          else if bytes = 0 then s.sendSize G r ch n 0
          else
            let data := s.peerGet f.p P j.src j.bytes
            let s := (s.readVa id f.p P (j.src, j.bytes)).sendTo G r (.message (G.partitionOf r) k ch n j.bytes) 0 data.1 data.2 (some id)
            if data.2.isEmpty then s else s.condition id .poison
      | _, _ => s
    | _ => s

/-- The ports toward a peer, in a group through which a partition reaches it. -/
def State.peerPorts (s : State) (p k : Nat) : List Nat :=
  match s.peerGroup p k with
  | none => []
  | some G => match G.rankOf k with | some r => s.routePorts G r | none => []

def execCsend (p q : Nat) (s : State) : Host.Outcome State Fault Refusal :=
  s.dispatch p q (isOp 0x6004) noSkip (fun d => s.messageVerdict d false)
    (fun s d =>
      let k := u8 d.b 8
      let ch := u16 d.b 10
      let key := channelKey k ch
      let n := tgetD d.P.sends key 0
      let mine := fun (e : Nat × Nat × Nat) => decide (e.1 = key) && decide (e.2.1 = n)
      let note := d.P.notices.find? mine
      let P := { d.P with sends := tput d.P.sends key (n + 1), notices := d.P.notices.filter (fun e => !mine e) }
      match P.takeAbort (k, ch, n, 1) with
      | some P => (s.setPart p P).endAtDispatch { d with P := P } .peerLost 8 0
      | none =>
        let s := s.setPart p P
        let (s, id) := s.launch d (d.peerFlight (messageJob d.b (.send k ch n)) (s.peerPorts p k) []) 0
        match note with
        | some e => s.openSend id e.2.2
        | none => s)

/-- The sender says how many bytes its CSEND has: other than the receiver's, the CRECV ends with INCONSISTENT and writes nothing; both none, it
has ended well (R160). -/
def State.takeSize (s : State) (port p peer ch n bytes : Nat) : State :=
  match s.recvJob p peer ch n with
  | none => s
  | some (id, _, j) =>
    let s := s.updFlight id (fun f => { f with island := islPeer port })
    let s := if bytes = j.bytes then s else s.condition id .inconsistent
    if bytes = j.bytes ∧ bytes ≠ 0 then s else s.updJob id (fun j => { j with phases := [], open? := true })

/-- The receiver says that its CRECV is dispatched: the matching CSEND opens, or the notice is kept for it (R326). -/
def State.takeNotice (s : State) (port p peer ch n bytes : Nat) : State :=
  match s.sendJob p peer ch n with
  | some (id, _, j) => if j.open? then s else (s.updFlight id (fun f => { f with island := islPeer port })).openSend id bytes
  | none =>
    s.updPart p (fun P =>
      if tgetD P.sends (channelKey peer ch) 0 ≤ n then { P with notices := P.notices ++ [(channelKey peer ch, n, bytes)] } else P)

/-- RECEIVER_NOTICE, and the sender's answer that the sizes differ, which takes the same way (log 18): for this device, or relayed (R318). -/
def execReceiverNotice (p peer channel : Nat) (notice : MatchNotice) (s : State) : Host.Outcome State Fault Refusal :=
  if !s.carries notice.port then .next s
  else
    let s := s.wake .peer
    match notice.relay with
    | some (g, rank) =>
      match s.groupEntry? p g with
      | none => .next s
      | some G =>
        if (s.group p g).state = .failed then .next s
        else if notice.size then .next (s.sendSize G rank channel notice.number notice.bytes)
        else .next (s.sendReady G rank channel notice.number notice.bytes)
    | none =>
      .next (if notice.size then s.takeSize notice.port p peer channel notice.number notice.bytes
        else s.takeNotice notice.port p peer channel notice.number notice.bytes)

def execCrecv (p q : Nat) (s : State) : Host.Outcome State Fault Refusal :=
  s.dispatch p q (isOp 0x6005) noSkip (fun d => s.messageVerdict d true)
    (fun s d =>
      let k := u8 d.b 8
      let ch := u16 d.b 10
      let key := channelKey k ch
      let n := tgetD d.P.recvs key 0
      let P := { d.P with recvs := tput d.P.recvs key (n + 1) }
      match P.takeAbort (k, ch, n, 2) with
      | some P => (s.setPart p P).endAtDispatch { d with P := P } .peerLost 8 0
      | none =>
        let s := s.setPart p P
        let f := d.peerFlight (messageJob d.b (.recv k ch n)) (s.peerPorts p k) (s.rangesOf d.p d.P [((u64 d.b 16 : Int), u64 d.b 24)])
        let (s, _) := s.launch d f 0
        match s.peerGroup p k with
        | none => s
        | some G =>
          match G.rankOf k with
          | none => s
          | some r => s.sendReady G r ch n (u64 d.b 24))

/-- Requirements of PEERCOPY (R160). -/
def State.peercopyVerdict (s : State) (d : Site) : Verdict :=
  let b := d.b
  let loc := u64 b 16
  let n := u64 b 32
  let fields := firstBad ([(8, decide (u8 b 8 ≤ 254)), (9, decide (u8 b 9 ≤ 1)), (16, vaOk loc), (24, vaOk (u64 b 24))]
    ++ reservedZero b [(8, 2), (16, 24)])
  let cons := firstBad [(16, decide (loc % 64 = 0)), (24, decide (u64 b 24 % 64 = 0)), (32, decide (n % 64 = 0))]
  let bo := firstBad [(16, s.peerReach d.p d.P loc n && (decide (u8 b 9 = 0) || d.P.writable (loc, n)))]
  peerVerdict fields (s.peerStatus d.p (u8 b 8)) cons none bo

def execPeercopy (p q : Nat) (s : State) : Host.Outcome State Fault Refusal :=
  s.dispatch p q (isOp 0x6006) noSkip s.peercopyVerdict
    (fun s d =>
      let b := d.b
      let k := u8 b 8
      let loc := u64 b 16
      let remote := u64 b 24
      let n := u64 b 32
      let out := decide (u8 b 9 = 0)
      if n = 0 then s.endAtDispatch d .ok 0xFF 0
      else
        match s.peerGroup p k with
        | none => s
        | some G =>
          match G.rankOf k with
          | none => s
          | some r =>
            let j : PeerJob :=
              { kind := if out then .copyOut k remote else .copyIn k remote, src := loc, dst := loc, bytes := n, opcode := 0x6006,
                bf16 := false, max := false, tree := false, acc := [], bad := [],
                phases := [{ from? := 0, reduce := false, offset := 0, len := n, onward := [] }], open? := true }
            let f := d.peerFlight j (s.routePorts G r) (if out then [] else s.rangesOf d.p d.P [((loc : Int), n)])
            let (s, id) := s.launch d f 0
            let rp := G.partitionOf r
            if out then
              let data := s.peerGet p d.P loc n
              let s := (s.readVa id p d.P (loc, n)).sendTo G r (.remoteWrite rp 0xFF id remote n) 0 data.1 data.2 (some id)
              if data.2.isEmpty then s else s.condition id .poison
            else s.sendTo G r (.remoteRead rp 0xFF id remote n) 0 (zeros 64) [] (some id))

/-- A peer command's own work has ended: nothing is expected, nothing unacknowledged, and its data may flow. -/
def State.peerDone (s : State) (id : Nat) (j : PeerJob) : Bool :=
  j.open? && j.phases.isEmpty
    && !s.peers.ports.any (fun e => (e.2.unacked ++ e.2.backlog).any (fun f => decide (f.job = some id)))

/-- The last write of a collective: DST from the buffer (R159). -/
def State.peerClose (s : State) (id : Nat) (f : Flight) (j : PeerJob) : State :=
  match j.kind, s.partOf f with
  | .collective _ _ rank _, some P =>
    let off := if j.opcode = 0x6002 then rank * j.bytes else 0
    let len := if j.opcode = 0x6001 then j.acc.length else j.bytes
    s.peerPut (peerWriter f.p f.q f.cluster id) P j.dst ((j.acc.drop off).take len)
      ((j.bad.filter (fun w => decide (off / 8 ≤ w))).map (fun w => w - off / 8))
  | _, _ => s

/-- A member's digest of a group entry is held, also one that comes before this device has the entry or while the group is FAILED; a later one takes
the place of an earlier one. -/
def State.report (s : State) (p group : Nat) (x : Nat × BitVec 512) : State :=
  let key := groupKey p group
  { s with peers := { s.peers with digests := (key, x.1, x.2) :: s.peers.digests.filter (fun y => !(decide (y.1 = key) && decide (y.2.1 = x.1))) } }

/-- Every other member has reported the digest of this device's own entry (R317). -/
def State.digestsAgree (s : State) (g : GroupEntry) : Bool :=
  (List.range g.members.length).all (fun r =>
    decide (r = g.rank) || s.peers.digests.contains (groupKey g.partition g.group, r, s.groupDigest g))

/-- GROUP_ACTIVATION (R317): digests come from members, some of them to be relayed (R318); a PENDING group whose members are INCLUDED, whose
links are up and whose members have all reported the same digest becomes ACTIVE. In WATCH frames are not taken in: they wake (R354). -/
def execGroupActivation (p group : Nat) (reports : DigestReports) (s : State) : Host.Outcome State Fault Refusal :=
  let came := !(reports.own.isEmpty && reports.relayed.isEmpty)
  if !s.portsRun then .next s
  else if s.power.state = .watch then .next (if came then s.wake .peer else s)
  else
    let s := if came then s.wake .peer else s
    let s := s.each reports.own (fun s x => s.report p group x)
    match s.groupEntry? p group with
    | none => .next s
    | some g =>
      let s := s.each reports.relayed (fun s x => s.sendDigest g x.1 x.2.1 x.2.2)
      let G := s.group p group
      if decide (G.state = .pending) && s.groupLinked g && s.digestsAgree g then .next (s.setGroup p group { G with state := .active })
      else .next s

end Sys2Proof.Machine
end

