-- ==== Sys2Proof/Machine/Replay.lean ====
section
/-! DEFINITION. Replay.lean: the end of an engine command whose reads or writes other agents have met while it was in flight (R88, R144, R148,
R153, R157, R176, R262). The command is worked once more from what it read, with each granule that another agent has written old or new by a
free choice; what it puts takes the place of what it had put, but for the bytes that a later command of its engine has written since. -/

namespace Sys2Proof.Machine

/-- What the command of a record does, by its opcode (R139); none for a record that no engine runs. -/
def engineRun (b : Bytes) : Option (State → Site → State) :=
  match recOp b with
  | 0x1001 => some State.loadRun
  | 0x1002 => some State.storeRun
  | 0x1003 => some State.copyRun
  | 0x1004 => some State.gatherRun
  | 0x1005 => some State.scatterRun
  | 0x1006 => some State.hostoutRun
  | 0x2001 => some (fun s d => s.matrixRun d false)
  | 0x2002 => some (fun s d => s.matrixRun d true)
  | 0x3001 => if u8 b 9 = 0x30 then some State.readCtrRun else some State.vopRun
  | 0x3002 => some State.vredRun
  | 0x3003 => some State.vquantRun
  | 0x3004 => some State.vdeqRun
  | 0x3005 => some State.vtopkRun
  | 0x4001 => some State.attnRun
  | 0x4002 => some State.attnMergeRun
  | _ => none

/-! ### The granules of a record of writes -/

/-- The 64 bytes of a granule as one number. -/
def State.granuleNat (s : State) (sp : Space) (a : Nat) : Nat :=
  leNat (match sp with
    | .host => s.hostBytes a 64
    | .dram => s.dram.bytes a 64
    | .spad => s.spad.bytes a 64)

/-- Bits of x that are not in y. -/
def without (x y : Nat) : Nat := x - (x &&& y)

/-- Bytes of a granule that a mask of bits touches, as a mask of bytes. -/
def byteMask (bits : Nat) : Nat := sumNat ((List.range 64).map (fun i => if bits / 256 ^ i % 256 = 0 then 0 else 2 ^ i))

/-- After bits of a granule of an array have been set: a word that takes a bad value is poisoned, one written whole is clean, one merged while bad
stays bad (R144, R386, R387). -/
def Mem.settleBits (m : Mem) (a bits bad : Nat) : Mem :=
  (List.range 8).foldl (fun m k =>
    let w := a / 8 + k
    let part := bits / 2 ^ (64 * k) % 2 ^ 64
    if part = 0 then m
    else if bad.testBit k then m.poisonWord w
    else if part = 2 ^ 64 - 1 then m.cleanWord w
    else if m.badWord w then m.poisonWord w else m.setErrs w 0) m

/-- Set bits of a granule. -/
def State.setBits (s : State) (sp : Space) (a bits val bad : Nat) : State :=
  let new := natLe 64 (without (s.granuleNat sp a) bits ||| (val &&& bits))
  match sp with
  | .dram => { s with dram := { s.dram with cells := cwrite s.dram.cells a new }.settleBits a bits bad }
  | .spad => { s with spad := { s.spad with cells := cwrite s.spad.cells a new }.settleBits a bits bad }
  | .host =>
    if s.linkGone then s
    else
      s.each ((List.range 64).zip new) (fun s e =>
        if (byteMask bits).testBit e.1 then { s with hostMem := hostWriteAll s.hostMem (a + e.1) [e.2] } else s)

/-! ### What it reads again -/

/-- Of the writes of others that have met its reads, those that it sees: of a granule (or unit) the first k of them, by a free choice, and what
earlier commands of its own engine have put (R88, R153, R262). -/
def seenMixes (seed id : Nat) (l : List Mix) : List Mix :=
  let same := fun (x y : Mix) => decide (y.by_ = .other) && decide (x.space = y.space) && decide (x.addr = y.addr) && decide (x.unit = y.unit)
    && (decide (x.unit = 64) || decide (Nat.log2 x.bits / (8 * x.unit) = Nat.log2 y.bits / (8 * y.unit)))
  ((List.range l.length).zip l).filterMap (fun e =>
    match e.2.by_ with
    | .later => none
    | .earlier => some e.2
    | .other =>
      let k := Config.free seed 86 (id * 2 ^ 80 + e.2.addr * 128 + Nat.log2 e.2.bits / (8 * e.2.unit)) % ((l.filter (same e.2)).length + 1)
      if ((l.take e.1).filter (same e.2)).length < k then some e.2 else none)

/-- The arrays as the command read them. -/
def State.asSeen (s : State) (l : List Seen) : State :=
  s.each l (fun s x =>
    let settle := fun (m : Mem) =>
      ((wordsOf x.addr x.bytes.length).foldl (fun m w => if x.bad.contains w then m.poisonWord w else m.cleanWord w) m)
    match x.space with
    | .dram => { s with dram := settle { s.dram with cells := cwrite s.dram.cells x.addr x.bytes } }
    | .spad => { s with spad := settle { s.spad with cells := cwrite s.spad.cells x.addr x.bytes } }
    | .host => { s with hostMem := hostWriteAll s.hostMem x.addr x.bytes })

/-- A command in flight that notes every write: what a command worked once more puts. -/
def Flight.witness (f : Flight) : Flight :=
  { f with cluster := 64, engine := 0, writes := [], began := none, mixed := [],
           reads := [{ space := .dram, addr := 0, len := 2 ^ 256 }, { space := .spad, addr := 0, len := 2 ^ 256 },
                     { space := .host, addr := 0, len := 2 ^ 256 }] }

/-- The command worked once more, over the writes of others that it sees: what it puts, in order, and what it has met. -/
def State.workAgain (s : State) (f : Flight) (b : Began) (run : State → Site → State) (d : Site) (see : List Mix) : List Mix × Flight :=
  let v := { s with unsettled := [], caches := [], flight := [(s.nextId, f.witness)], nextId := s.nextId + 1, free := b.free,
                    near := { s.near with leases := [] }, perf := { s.perf with samplers := [] } }
  let v := (v.asSeen b.seen).each see (fun v x => v.setBits x.space x.addr x.bits x.val x.bad)
  let t := run v d
  (((tget t.flight s.nextId).map Flight.mixed).getD [], (tget t.flight (s.nextId + 1)).getD f)

/-! ### What it puts -/

/-- Bits of a granule that some of the writes have set. -/
def bitsBy (l : List Mix) (by_ : MixBy) (x : Mix) : Nat :=
  (l.filter (fun y => decide (y.by_ = by_) && decide (y.space = x.space) && decide (y.addr = x.addr))).foldl (fun m y => m ||| y.bits) 0

/-- A write of the command takes its place: not where a later command of its engine has written since, and where another agent has, by a free
choice (R176). A command that writes elements of no whole byte makes one choice for all, so that each keeps one writer's value. -/
def State.putAgain (s : State) (id : Nat) (f : Flight) (wr : Writer) (one : Bool) (x : Mix) : State :=
  let others := bitsBy f.mixed .other x
  let late := decide (Config.free s.free 87 (id * 2 ^ 80 + (if one then 0 else x.addr)) % 2 = 1)
  let m := without (without x.bits (bitsBy f.mixed .later x)) (if late then 0 else others)
  let cur := s.granuleNat x.space x.addr
  let badNow := fun (k : Nat) => match x.space with
    | .dram => s.dram.badWord (x.addr / 8 + k)
    | .spad => s.spad.badWord (x.addr / 8 + k)
    | .host => false
  let same := decide (cur &&& m = x.val &&& m)
    && (List.range 8).all (fun k => decide (m / 2 ^ (64 * k) % 2 ^ 64 = 0) || decide (badNow k = x.bad.testBit k))
  if m = 0 ∨ same then s
  else
    let top := byteMask (m &&& others)
    let s := if top = 0 ∨ x.space = .host then s else s.unsettleOne wr x.space x.addr top
    let s := s.setBits x.space x.addr m x.val x.bad
    { s with flight := s.flight.map (fun e =>
        if e.1 ≠ id ∧ e.2.engine < 33 ∧ e.2.touches x.space x.addr 64 then
          let by_ : MixBy := if e.2.cluster = f.cluster ∧ e.2.engine = f.engine then (if id < e.1 then .earlier else .later) else .other
          (e.1, e.2.meet by_ [{ x with bits := m, val := x.val &&& m }])
        else e) }

/-- Of an accumulating command worked with old and with new sources: the adds that differ leave their elements open, for the order of the adds
is (R185, R186, R262). -/
def addsChanged (seed : Nat) (old new : List Mix) : List Mix :=
  let differ := fun (a b : List Mix) => ((List.range a.length).zip a).filter (fun e => b[e.1]? ≠ some e.2)
  (differ old new ++ differ new old).map (fun e => { e.2 with val := Config.free seed 97 (e.2.addr * 4096 + e.1) % 2 ^ 512 })

/-- Statuses that the work itself meets. -/
def Status.ofWork : Status → Bool
  | .poison | .bounds | .aliased | .inconsistent | .eccUncorr => true
  | _ => false

/-- The site at which a command in flight was dispatched, with what it started from. -/
def State.beganSite (s : State) (f : Flight) (b : Began) : Option Site :=
  match s.partOf f, s.queue? f.p f.q with
  | some P, some Q =>
    some { p := f.p, q := f.q, P := { P with stepNo := b.stepNo }, Q := { Q with ctrs := b.ctrs, ctx := f.ctx, cluster := f.cluster },
           rcd := { pos := f.pos, bytes := f.bytes } }
  | _, _ => none

/-- An engine command has done all its reading and writing: what others have written meanwhile is taken account of, once. -/
def State.settleMix (s : State) (id : Nat) : State :=
  match tget s.flight id with
  | none => s
  | some f =>
    if f.mixed.isEmpty then s
    else
      match f.began with
      | none => s
      | some b =>
        match s.beganSite f b, engineRun f.bytes with
        | some d, some run =>
          let wr := d.writer id f.engine 1
          let r := s.workAgain f b run d (seenMixes s.free id f.mixed)
          let acc := recAccum f.bytes && s.boot.licLive.getLsbD 0
          let puts := if acc then addsChanged s.free (s.workAgain f b run d []).1 r.1 else r.1
          let one := puts.any (fun x => (List.range 64).any (fun i => decide (x.bits / 256 ^ i % 256 ≠ 0) && decide (x.bits / 256 ^ i % 256 ≠ 255)))
          let g := if acc then { f with mixed := [] } else f
          let s := s.each puts (fun s x => s.putAgain id g wr one x)
          (s.updFlight id (fun h => { h with conds := h.conds.filter (fun st => !st.ofWork) ++ r.2.conds.filter Status.ofWork,
                                             partialDone := r.2.partialDone, reads := [], mixed := [] })).tick
        | _, _ => s

/-- Before a command ends, it and the earlier commands of its engine are settled, in the order of their dispatch: it sees what they put (R88). -/
def State.settleEngine (s : State) (id : Nat) (f : Flight) : State :=
  if f.engine < 33 then
    let mine := (s.flight.filter (fun e => decide (e.1 ≤ id) && decide (e.2.cluster = f.cluster) && decide (e.2.engine = f.engine))).map Prod.fst
    s.each mine State.settleMix
  else s

end Sys2Proof.Machine
end

