-- ==== Sys2Proof/Machine/Sleeve.lean ====
section
/-! DEFINITION. Sleeve.lean: bytes that reach the Sleeve, sealing, fetch, the end of commands and the timers of a queue (R101,
R107 to R115, R119, R133 to R136). -/

namespace Sys2Proof.Machine

/-! ### Ring positions (R109 to R111) -/

def windowSlots : Nat := 1024
def ringSlots : Nat := 4096

/-- The ring position that window slot w stands for. -/
def Queue.position (Q : Queue) (w : Nat) : Nat :=
  Q.fpos + (w + windowSlots - Q.fpos % windowSlots) % windowSlots

/-- Bytes that have arrived at a position. -/
def Queue.arrived (Q : Queue) (pos : Nat) : List Host.Cell := tgetD Q.slots pos []

def Queue.sealed (Q : Queue) (pos : Nat) : Bool := decide ((Q.arrived pos).length = 64)

/-- The 64 bytes of a sealed slot. -/
def Queue.slotBytes (Q : Queue) (pos : Nat) : Bytes := (Q.arrived pos).map Prod.snd

/-- The seal frontier moves past sealed positions. -/
def Queue.raiseFrontier (Q : Queue) : Nat → Queue
  | 0 => Q
  | k + 1 => if Q.sealed Q.fpos then ({ Q with fpos := Q.fpos + 1 } : Queue).raiseFrontier k else Q

/-- The record at a position, when all its slots are sealed (R110). -/
def Queue.recordAt (Q : Queue) (pos : Nat) : Option Rec :=
  if Q.sealed pos then
    let b := Q.slotBytes pos
    if recLong b then
      if Q.sealed (pos + 1) then some { pos := pos, bytes := b ++ Q.slotBytes (pos + 1) } else none
    else some { pos := pos, bytes := b }
  else none

/-- Have the bytes that arrived at a position sealed a record (R110)? A slot that is sealed belongs to the record that begins there, or to
a LONG one that begins a slot before; which slots begin a record follows from C on. -/
def Queue.sealsRecord (Q : Queue) (pos : Nat) : Bool :=
  Q.sealed pos && (starts Q (pos + 1 - Q.cpos) Q.cpos)
where
  /-- Walk the records from a position on: the slot `pos` is the last one missing of a whole record. A slot not yet sealed before it hides
  where records begin, so that either is possible and the slot counts. -/
  starts (Q : Queue) : Nat → Nat → Bool
    | 0, _ => false
    | k + 1, at_ =>
      if at_ = pos then (if recLong (Q.slotBytes at_) then Q.sealed (at_ + 1) else true)
      else if !Q.sealed at_ then true
      else if recLong (Q.slotBytes at_) then (if at_ + 1 = pos then true else starts Q k (at_ + 2))
      else starts Q k (at_ + 1)

/-- Host writes that came before the last byte of a record are readable at DEVICE scope before that record dispatches (R257). -/
def State.settleHost (s : State) : State :=
  s.raiseScope (fun u => if u.kind = 0 then { u with scope := .device } else u)

/-- The record at C holds the queue (R113). -/
def Queue.holding (Q : Queue) : Bool := decide (Q.cpos < Q.hpos) && (Q.recordAt Q.cpos).isNone

/-- A held queue whose record at C is sealed now goes on, and says so if it had said STALLED (R113). -/
def State.unstall (s : State) (p q : Nat) : State :=
  match s.queue? p q with
  | none => s
  | some Q =>
    if Q.stalled && !Q.holding then (s.updQueue p q (fun Q => { Q with stalled := false })).writeCredit p q else s

/-- The words of a ring slot that n bytes from `off` cover whole; all of it for 64 bytes from 0 (R386). -/
def slotWords (p q slot off n : Nat) : SysUse → Bool
  | .ringSlot p' q' k w => decide (p' = p) && decide (q' = q) && decide (k = slot) && coversWord off n w
  | _ => false

/-- Bytes for a position: taken, or discarded because the position is sealed and not consumed (R110, R111). -/
def State.slotWrite (s : State) (p q w off : Nat) (data : Bytes) : State :=
  match s.queue? p q with
  | none => s.logErr { cls := 0x100, islandA := islPcie, part := p, queue := q }
  | some Q =>
    if Q.broken || Q.destroying then s.logErr { cls := 0x100, islandA := islPcie, part := p, queue := q }
    else
      let pos := Q.position w
      if Q.sealed pos || decide (Q.cpos + ringSlots ≤ pos) then
        let s := s.updQueue p q (fun Q => { Q with overwrites := Q.overwrites + 1 })
        let s := s.countIo 3 0 0xC4 1 p 0
        s.logErr { cls := 9, islandA := islPcie, part := p, queue := q, loc := natLe 8 pos }
      else
        let s := s.sysWritten (slotWords p q (pos % ringSlots) off data.length)
        let Q' : Queue := { Q with slots := tput Q.slots pos (hostWriteAll (Q.arrived pos) off data), hpos := max Q.hpos (pos + 1) }
        let s := if Q'.sealed pos then s.countIo 3 0 0xC3 1 p 0 else s
        let s := s.updQueue p q (fun _ => Q'.raiseFrontier (Q'.slots.length))
        let s := if Q'.sealsRecord pos then (s.settleHost).wake .host else s
        s.unstall p q

/-- The pieces of an access, slot by slot: queue, window slot, offset and bytes (R108). -/
def slotPieces (offset : Nat) (data : Bytes) : Nat → List (Nat × Nat × Nat × Bytes)
  | 0 => []
  | k + 1 =>
    if data.isEmpty then []
    else
      let n := 64 - offset % 64
      (offset / 65536, offset % 65536 / 64, offset % 64, data.take n) :: slotPieces (offset + n) (data.drop n) k

/-- Host accesses reach the device. -/
def State.hostReaches (s : State) : Bool := decide (s.link.state = .up) && !s.boot.perstLow && s.boot.switchClosed

/-- SLEEVE_WRITE: VF BAR2 of partition p (R108). In WATCH the PCIe controller holds the bytes; nothing reads the ring before
the exit, so that they take their places on arrival (log 22). -/
def execSleeveWrite (p offset : Nat) (data : Bytes) (via : Via) (s : State) : Host.Outcome State Fault Refusal :=
  match (Instr.sleeveWrite p offset data via).illFormed with
  | some _ => .next s
  | none =>
    if !s.hostReaches || decide (32 ≤ p) || decide (0x400000 < offset + data.length) || s.streamDrops via || !s.barOpen p via then .next s
    else
      let s := s.countIo 3 0 0xC2 (cdiv data.length 64) p 0
      let s := if s.power.state = .watch then s.wake .host else s
      .next (s.each (slotPieces offset data (data.length / 64 + 2)) (fun s x => s.slotWrite p x.1 x.2.1 x.2.2.1 x.2.2.2))

/-! ### Fetch (R114, R115, R119) -/

/-- Consume one slot: C moves on, and the credit word is written where R114 asks, with the value of that moment. -/
def State.consumeSlot (s : State) (p q : Nat) : State :=
  match s.queue? p q with
  | none => s
  | some Q =>
    let c := Q.cpos + 1
    let s := s.updQueue p q (fun Q => { Q with cpos := c, slots := Q.slots.filter (fun e => decide (c ≤ e.1)) })
    let low := decide (2048 ≤ Q.hpos - Q.cpos) && decide (Q.hpos - c < 2048)
    if decide (c % 64 = 0) || low then s.writeCredit p q else s

/-- Consume one record: its slots leave the ring, one after the other. -/
def State.consume (s : State) (p q : Nat) (Q : Queue) (r : Rec) : State :=
  let s := s.updQueue p q (fun Q => { Q with ahead := Q.ahead ++ [r] })
  let s := s.count 1 Q.cluster 0x42 1
  s.each (List.range (recSlots r)) (fun s _ => s.consumeSlot p q)

/-- Records in the run-ahead buffer: those fetched and not yet dispatched, and the body of the loop being run, which is held there (R115, R119). -/
def Queue.buffered (Q : Queue) : Nat := Q.ahead.length + ((Q.loops.getLast?).map (fun f => f.body.length)).getD 0

/-- A Command Front may fetch from the queue: not while the host link is lost (R311), in WATCH, or once the queue goes. -/
def State.mayFetch (s : State) (Q : Queue) : Bool :=
  !s.linkGone && decide (s.power.state ≠ .watch) && !s.thermal.tripped && !Q.broken && !Q.destroying
    && decide (Q.buffered < 512)

/-- One of the n ring slots from a position on holds a poisoned word (R386). -/
def State.slotsBad (s : State) (p q pos n : Nat) : Bool :=
  (List.range n).any (fun i => s.sysBad (slotWords p q ((pos + i) % ringSlots) 0 64))

/-- Fetch whole records as far as a burst of slots goes; a poisoned slot breaks the queue. -/
def State.fetchBurst (s : State) (p q : Nat) : Nat → Nat → State
  | 0, _ => s
  | k + 1, slots =>
    match s.queue? p q with
    | none => s
    | some Q =>
      match Q.recordAt Q.cpos with
      | none => s
      | some r =>
        if s.mayFetch Q && decide (recSlots r ≤ slots) then
          if s.slotsBad p q Q.cpos (recSlots r) then s.breakQueue p q
          else (s.consume p q Q r).fetchBurst p q k (slots - recSlots r)
        else s

/-- RECORD_FETCH: a burst of up to 16 consecutive sealed slots of one queue. -/
def execRecordFetch (p q slots : Nat) (s : State) : Host.Outcome State Fault Refusal :=
  .next (s.fetchBurst p q 16 (min slots 16))

/-- STALL_TIMER: a hold has lasted 1 s without C advancing (R113, log 9). -/
def execStallTimer (p q : Nat) (s : State) : Host.Outcome State Fault Refusal :=
  match s.queue? p q with
  | none => .next s
  | some Q =>
    if Q.holding && !Q.stalled then .next ((s.updQueue p q (fun Q => { Q with stalled := true })).writeCredit p q)
    else .next s

/-! ### The end of commands (R101, R51, R159) -/

/-- Does the work of a command go on? -/
def State.atWork (s : State) (id : Nat) (f : Flight) : Bool :=
  match f.nb, f.peer with
  | some n, _ => !s.nearDone id n
  | none, some j => !s.peerDone id j
  | none, none => false

/-- Pages of host memory that a command reaches, as far as translations can be held. -/
def Flight.hostPages (f : Flight) : List Nat :=
  nubNat ((f.reads ++ f.writes).flatMap (fun r =>
    if r.space = .host then (List.range (min 4097 ((r.addr + r.len + 4095) / 4096 - r.addr / 4096))).map (fun i => r.addr / 4096 + i) else []))

def State.holdsAll (s : State) (fn : Nat) (pages : List Nat) : Bool := pages.all (fun x => (s.cfgSpace fn).translations.contains x)

/-- The translations that a command used are held from then on, as far as there is room (R291): the last used stay (DESIGN CHOICE, log 41). -/
def State.holdTranslations (s : State) (f : Flight) : State :=
  let c := s.cfgSpace (f.p + 1)
  if !c.ats || f.hostPages.isEmpty then s
  else s.setCfg (f.p + 1) { c with translations := (f.hostPages ++ c.translations.filter (fun x => !f.hostPages.contains x)).take 4096 }

/-- COMMAND_COMPLETE: a command whose last write is acknowledged ends. In WATCH the engines are off and nothing ends (R352). -/
def execCommandComplete (id : Nat) (s : State) : Host.Outcome State Fault Refusal :=
  match tget s.flight id with
  | none => .next s
  | some f =>
    if !s.working || s.atWork id f then .next s
    else
      let s := match f.nb, f.peer with
        | some n, _ => s.nearClose id f n
        | none, some j => s.peerClose id f j
        | none, none => (s.settleEngine id f).fenceDone id f
      .next ((s.holdTranslations f).complete id)

/-! ### The completion ring (R135, R136) -/

/-- A read of the consumer word fails: HOST_TIMEOUT is logged and the queue breaks. -/
def State.consumerFails (s : State) (p q : Nat) : State :=
  (s.logErr { cls := 3, islandA := islPcie, part := p, queue := q, status := Status.hostTimeout.code }).breakQueue p q

/-- CQ_CONSUMER_REREAD: the consumer word of a full ring is read again; its value is the host's. -/
def execCqConsumerReread (p q value : Nat) (s : State) : Host.Outcome State Fault Refusal :=
  match s.queue? p q with
  | none => .next s
  | some Q =>
    if (Q.full || !Q.held.isEmpty) && s.working then
      if s.linkGone then .next (s.consumerFails p q)
      else
        let s := s.updQueue p q (fun Q => { Q with consumed := value % 2 ^ 64 })
        .next ((s.ringDrain p q (Q.held.length + 1)).settleDestroy p q)
    else .next s

/-- COALESCE_TIMER: COALESCE_TIME after the first entry not yet signalled. -/
def execCoalesceTimer (p q : Nat) (s : State) : Host.Outcome State Fault Refusal :=
  match s.queue? p q with
  | none => .next s
  | some Q =>
    if 0 < Q.coTime ∧ 0 < Q.unsignalled ∧ s.thermal.tripped = false then
      .next ((s.updQueue p q (fun Q => { Q with unsignalled := 0 })).raiseVector (p + 1) Q.vector)
    else .next s

/-- QUEUE_DESTROY_TIMEOUT: 100 ms have passed and a command is still in flight. The queue is BROKEN and can be destroyed
again. -/
def execQueueDestroyTimeout (p q : Nat) (s : State) : Host.Outcome State Fault Refusal :=
  match s.queue? p q with
  | none => .next s
  | some Q =>
    if Q.destroying && decide ((s.func (p + 1)).waitFor = some (.queueDestroy p q)) then
      let s := s.updQueue p q (fun Q => { Q with destroying := false })
      .next ((s.respond (p + 1) .timeout []).breakQueue p q)
    else .next s

end Sys2Proof.Machine
end

