-- ==== Sys2Proof/Machine/Streams.lean ====
section
/-! DEFINITION. Streams.lean: the stream commands of class 0x7, allocation and eviction of blocks, publication and lookup of
prefixes, the sweep and the return of blocks (R76, R161, R162, R205 to R208, R226 to R244, R248). -/

namespace Sys2Proof.Machine

/-! ### Allocation (R76, R231, R244) -/

def Pool.slotsPerBank (o : Pool) : Nat := if o.blockBytes = 0 then 0 else o.size / o.blockBytes

/-- Slots of the pool not allocated. -/
def Pool.freeSlots (o : Pool) : Nat := o.slotsPerBank * o.banks.length - o.used.length

/-- The lowest free slot of a bank. -/
def Pool.freeSlot (o : Pool) (bank : Nat) : Option Nat :=
  (List.range o.slotsPerBank).find? (fun k => !o.used.any (fun u => decide (u.bank = bank) && decide (u.slot = k)))

/-- Slots of a layer in a bank. -/
def Pool.count (o : Pool) (layer bank : Nat) : Nat :=
  (o.used.filter (fun u => decide (u.layer = layer) && decide (u.bank = bank))).length

/-- The hash of R76, modulo 2^64. -/
def spreadHash (st layer j : Nat) : Nat :=
  let x := (st * 2 ^ 28) ||| (layer * 2 ^ 20) ||| j
  let x := x ^^^ (x / 2 ^ 31)
  let x := x * 0x9E3779B97F4A7C15 % 2 ^ 64
  x ^^^ (x / 2 ^ 29)

/-- Places of the pool list in the order in which R76 tries them. -/
def Pool.order (o : Pool) (st layer j : Nat) : List Nat :=
  let n := o.banks.length
  if n = 0 then []
  else
    let x := spreadHash st layer j
    let a := x % 2 ^ 32 % n
    let b0 := x / 2 ^ 32 % n
    let b := if b0 = a then (a + 1) % n else b0
    let bank := fun (i : Nat) => (o.banks[i]?).getD 0
    let two := if o.count layer (bank a) ≤ o.count layer (bank b) then [a, b] else [b, a]
    (two ++ (List.range n).map (fun k => (a + 1 + k) % n)).map bank

/-- The slot that R76 takes, if any bank has one free. -/
def Pool.choose (o : Pool) (st layer j : Nat) : Option (Nat × Nat) :=
  (o.order st layer j).findSome? (fun bank => (o.freeSlot bank).map (fun k => (bank, k)))

/-- Why a record is evicted (R244). -/
inductive Evict where
  | alloc | publish | low
  deriving DecidableEq, Repr

def StreamStats.evicted (t : StreamStats) : Evict → StreamStats
  | .alloc => { t with evictAlloc := (t.evictAlloc + 1) % 2 ^ 48 }
  | .publish => { t with evictPublish := (t.evictPublish + 1) % 2 ^ 48 }
  | .low => { t with evictLow := (t.evictLow + 1) % 2 ^ 48 }

/-- What reading the REFS of the records that eviction looks at ends with, if badly (R144, R301). -/
def State.refsFault (s : State) (p : Nat) (P : Partition) (o : Pool) : Option Status :=
  s.prefixes.findSome? (fun e => if e.2.partition = p then s.recordFault p P o e.2.record else none)

/-- The command meets the status of a read, if that ended badly. -/
def State.meetFault (s : State) (id : Nat) (st : Option Status) : State :=
  match st with
  | some st => s.condition id st
  | none => s

/-- The unreferenced record to evict: lowest priority, then smallest LAST_USE, then lowest number; `bucket` limits the choice. -/
def State.victim (s : State) (p : Nat) (P : Partition) (o : Pool) (bucket : Option Nat) : Option (Nat × PrefixEntry) :=
  let mine := s.prefixes.filter (fun e => decide (e.2.partition = p)
    && (match bucket with | some b => decide (e.1 / 8 = b) | none => true)
    && (s.recordFault p P o e.2.record).isNone && decide (s.recordRefs p P o e.2.record = 0))
  let before := fun (a b : Nat × PrefixEntry) =>
    decide (a.2.priority < b.2.priority)
      || (decide (a.2.priority = b.2.priority) && (decide (a.2.lastUse.toNat < b.2.lastUse.toNat)
        || (decide (a.2.lastUse = b.2.lastUse) && decide (a.2.record ≤ b.2.record))))
  (sortBy before mine).head?

/-- Evict a record: its index entry and itself are cleared, its slots return to the pool (R244). -/
def State.evict (s : State) (w : Writer) (o : Pool) (e : Nat × PrefixEntry) (why : Evict) : State :=
  match s.part? w.p with
  | none => s
  | some P =>
    let entries := (List.range o.layers.length).map (fun l => (l, u32 (s.rawVa w.p P (o.recordVa e.2.record + 16 + 4 * l) 4) 0))
    let slots := (entries.filter (fun x => entryValid x.2)).map (fun x =>
      ({ bank := entryBank x.2, slot := entrySlot x.2, layer := x.1 } : SlotUse))
    let s := { s with prefixes := tdel s.prefixes e.1 }
    let s := s.smWrite w (o.recordVa e.2.record) (zeros o.recordBytes)
    s.updPart w.p (fun P =>
      { P with pool := P.pool.map (fun o => { o with used := o.used.filter (fun u => !slots.contains u) }),
               stats := P.stats.evicted why })

/-- Background eviction while fewer than LOW_WATER slots are free. -/
def State.refill (s : State) (w : Writer) : Nat → State
  | 0 => s
  | k + 1 =>
    match s.part? w.p with
    | none => s
    | some P =>
      match P.pool with
      | none => s
      | some o =>
        if o.lowWater ≤ o.freeSlots then s
        else
          match s.victim w.p P o none with
          | none => s
          | some e => (s.evict w o e .low).refill w k

/-- A slot for range j of a layer of a stream, with eviction where none is free. -/
def State.allocate (s : State) (w : Writer) (st layer j : Nat) : Nat → State × Option (Nat × Nat)
  | 0 => (s, none)
  | k + 1 =>
    match s.part? w.p with
    | none => (s, none)
    | some P =>
      match P.pool with
      | none => (s, none)
      | some o =>
        match o.choose st layer j with
        | some (bank, slot) =>
          let s := s.setPart w.p { P with pool := some { o with used := o.used ++ [{ bank := bank, slot := slot, layer := layer }] } }
          (s, some (bank, slot))
        | none =>
          let s := s.meetFault w.cmd (s.refsFault w.p P o)
          match s.victim w.p P o none with
          | none => (s, none)
          | some e => (s.evict w o e .alloc).allocate w st layer j k

/-! ### The record of a stream command -/

structure StreamCmd where
  stream : Nat
  length : Nat
  table : Nat
  entries : Nat
  layer : Nat
  domain : Nat
  priority : Nat
  data : Nat
  stride : Nat
  result : Nat
  deriving DecidableEq, Repr

def streamCmdOf (b : Bytes) : StreamCmd :=
  { stream := u32 b 8, length := u32 b 12, table := u64 b 16, entries := u32 b 24, layer := u8 b 28, domain := u8 b 29,
    priority := u8 b 30, data := u64 b 32, stride := u32 b 40, result := u64 b 48 }

/-- One stream that a command names: its number, LENGTH or n, q in the table form, first ordinal, place in the table, and
whether its length-table entry is faulty (R211). -/
structure StreamItem where
  st : Nat
  val : Nat
  q : Option Nat
  ordinal : Nat
  index : Nat
  faulty : Bool
  deriving DecidableEq, Repr

/-- Does a range meet the metadata area, which no command's write may (R231)? -/
def Partition.inMetadata (P : Partition) (va n : Nat) : Bool :=
  match P.pool with
  | none => false
  | some o => overlaps va n o.metaVa o.metaBytes

/-- Requirements of class 0x7 (RESULT may lie in the pool range, which these commands alone may write, R75): which commands have a table form, and what only one command uses. -/
def State.streamVerdict (s : State) (d : Site) : Verdict :=
  let b := d.b
  let t := streamCmdOf b
  let op := recOp b
  let single := decide (op = 0x7001) || decide (op = 0x7006)
  let fields := firstBad ([(8, decide (t.stream < 2 ^ 20)),
    (12, decide (op ≠ 0x7005) || decide (t.table ≠ 0) || decide (t.length = 0)),
    (16, if single then decide (t.table = 0) else vaOk t.table),
    (24, if t.table = 0 then decide (t.entries = 0) else decide (t.entries ≤ 16384)),
    (28, decide (op = 0x7002) || decide (t.layer = 0)), (29, decide (op = 0x7001) || decide (t.domain = 0)),
    (30, if op = 0x7001 then decide (t.priority ≤ 7) else decide (t.priority = 0)), (32, vaOk t.data), (48, vaOk t.result)]
    ++ reservedZero b [(8, 23), (32, 12), (48, 8)])
  let cons := firstBad [(16, decide (t.table % 16 = 0)),
    (28, decide (op ≠ 0x7002) || (match d.P.pool with | some o => decide (t.layer < o.layers.length) | none => false)),
    (40, (decide (t.stride % 32 = 0) || decide (t.stride = 4))
      && (decide (op ≠ 0x7002) || (decide (t.stride % 32 = 0) && (match d.P.pool with
        | some o => decide (o.groups * 1024 ≤ t.stride)
        | none => true)))
      && ((decide (op ≠ 0x7006) && decide (op ≠ 0x7007)) || decide (t.table ≠ 0) || decide (t.stride = 4))),
    (48, decide (t.result % 8 = 0))]
  let bo := firstBad [(16, decide (t.table = 0) || s.reachTe d.p d.P (t.table, 16 * t.entries)),
    (32, decide (op ≠ 0x7007) || decide (t.table = 0) || s.deviceOk d t.data (8 * t.entries)),
    (48, decide (t.result = 0) || (s.deviceOk d t.result 8 && !d.P.inMetadata t.result 8))]
  verdictOf fields cons none bo false

/-- What one stream's work comes to: the state and the two result counts, or a status with the state as it is then. -/
abbrev Worked := State × Except Status (Nat × Nat)

/-- A stream that a command may act on: within the pool's range, of this context (R161). -/
def State.ownStream (s : State) (d : Site) (P : Partition) (st : Nat) : Option (Option Stream) :=
  if s.streamOutside P d.Q.ctx st then none else some ((tget s.streams st).filter (fun e => decide (e.state ≠ .free)))

/-- A live stream: ACTIVE or IDLE. -/
def Stream.live (e : Stream) : Bool := decide (e.state = .active) || decide (e.state = .idle)

/-- A stream command touches an entry: IDLE becomes ACTIVE, and the first touch of a step sets APPEND_BASE (R228, R234). -/
def Stream.touch (e : Stream) (stepNo : W64) : Stream :=
  { e with state := .active, appendBase := if e.lastStep.toNat < stepNo.toNat then e.speculative else e.appendBase,
           lastStep := stepNo }

def State.setStream (s : State) (st : Nat) (e : Stream) : State := { s with streams := tput s.streams st e }

/-- The work on a live stream, or why it fails. -/
def State.onLive (s : State) (d : Site) (st : Nat) (f : Partition → Pool → Stream → Worked) : Worked :=
  match s.part? d.p with
  | none => (s, .error .bounds)
  | some P =>
    match s.ownStream d P st, P.pool with
    | none, _ | _, none => (s, .error .bounds)
    | some none, _ => (s, .error .inconsistent)
    | some (some e), some o => if e.live then f P o e else (s, .error .inconsistent)

/-- ST_OPEN (R228, R232). -/
def State.stOpen (s : State) (d : Site) (w : Writer) (t : StreamCmd) (x : StreamItem) : Worked :=
  match s.part? d.p with
  | none => (s, .error .bounds)
  | some P =>
    match s.ownStream d P x.st, P.pool with
    | none, _ | _, none => (s, .error .bounds)
    | some (some _), _ => (s, .error .inconsistent)
    | some none, some o =>
      let e : Stream :=
        { state := .active, priority := t.priority, partition := d.p, ctx := d.Q.ctx, domain := t.domain, committed := 0,
          speculative := 0, appendBase := 0, positionBase := BitVec.ofNat 32 x.val, blocks := 0, chainValid := false, shared := 0,
          published := 0, blockTable := o.tableVa x.st, lastStep := P.stepNo, chainHash := 0 }
      -- the block table must lie in mapped pages (R301)
      if (s.segs d.p P e.blockTable o.tableBytes).isNone then (s, .error .bounds)
      else ((s.smWrite w e.blockTable (zeros o.tableBytes)).setStream x.st e, .ok (0, 0))

/-- ST_COMMIT (R235). -/
def State.stCommit (s : State) (d : Site) (_w : Writer) (_t : StreamCmd) (x : StreamItem) : Worked :=
  s.onLive d x.st (fun P _ e =>
    if e.committed ≤ x.val ∧ x.val ≤ e.speculative then (s.setStream x.st { (e.touch P.stepNo) with committed := x.val }, .ok (0, 0))
    else (s, .error .inconsistent))

/-- ST_ROLLBACK (R236). -/
def State.stRollback (s : State) (d : Site) (w : Writer) (_t : StreamCmd) (x : StreamItem) : Worked :=
  s.onLive d x.st (fun P o e =>
    if e.committed ≤ x.val ∧ x.val ≤ e.speculative then
      let lo := cdiv x.val o.tokens
      match s.rowsFault d.p P o e.blockTable lo e.blocks with
      | some st => (s.readVa w.cmd d.p P (o.entryVa e.blockTable lo 0, (e.blocks - lo) * o.layers.length * 4), .error st)
      | none =>
      let (own, _, _) := s.rowsFrom d.p P o e.blockTable lo e.blocks
      let n := e.blocks - lo
      let s := if n = 0 then s else s.smWrite w (o.entryVa e.blockTable lo 0) (zeros (n * o.layers.length * 4))
      let s := if own.isEmpty then s else s.freeLater d.p ((s.inFlight d.p).filter (fun i => decide (i ≠ w.cmd))) own []
      (s.setStream x.st { (e.touch P.stepNo) with speculative := x.val, appendBase := x.val, blocks := min e.blocks lo },
        .ok (own.length, 0))
    else (s, .error .inconsistent))

/-- ST_RELEASE (R248). -/
def State.stRelease (s : State) (d : Site) (w : Writer) (_t : StreamCmd) (x : StreamItem) : Worked :=
  s.onLive d x.st (fun P o e =>
    -- the whole table is cleared, so all of it must lie in mapped pages (R301)
    if (s.segs d.p P e.blockTable o.tableBytes).isNone then (s, .error .bounds)
    else
    match s.rowsFault d.p P o e.blockTable 0 e.blocks with
    | some st => (s.readVa w.cmd d.p P (e.blockTable, e.blocks * o.layers.length * 4), .error st)
    | none =>
    let r := s.releaseStream w x.st ((s.inFlight d.p).filter (fun i => decide (i ≠ w.cmd)))
    (r.1, .ok (r.2, 0)))

/-! ### ST_APPEND (R208, R234) -/

/-- One latent in its cache form: bytes, poisoned words, statistics. -/
def Layer.store (L : Layer) (b : Bytes) (bad : List Nat) : Bytes × List Nat × QStat :=
  if L.cache = 3 then (b, bad, QStat.zero)
  else
    let n := 512 / L.groupSize
    let gs := (List.range n).map (fun g => quantGroup L.type L.scaleE4m3
      ((codesOf 16 L.groupSize (b.drop (2 * (g * L.groupSize)))).map (fun c => (bf16.decode c, false))))
    let hurt := fun (g : Nat) => bad.any (fun w => decide (w * 4 / L.groupSize = g))
    let codes := gs.flatMap (fun g => g.2.1)
    let value := codes.foldr (fun c acc => c % 2 ^ L.type.width + acc * 2 ^ L.type.width) 0
    let words := (List.range n).flatMap (fun g => if hurt g then
        g / 8 :: wordsOf (16 + g * L.groupSize * L.type.width / 8) (L.groupSize * L.type.width / 8) else [])
    (padTo 16 (gs.map (fun g => BitVec.ofNat 8 g.1)) ++ natLe (512 * L.type.width / 8) value, nubNat words,
      gs.foldl (fun acc g => acc.join g.2.2.1) QStat.zero)

/-- A read of the Stream Manager, with the bad words of each latent. -/
def State.latentData (s : State) (a : Access) (va : Nat) : Bytes × List Nat :=
  let r := (List.range 128).map (fun i => (i, s.fetch a (va + 8 * i) 8))
  (r.flatMap (fun e => e.2.1), (r.filter (fun e => e.2.2)).map Prod.fst)

/-- Write the latents of one token. -/
def State.appendToken (s : State) (d : Site) (w : Writer) (o : Pool) (L : Layer) (addr tok : Nat) (data : List (Bytes × List Nat)) :
    State :=
  s.each ((List.range data.length).zip data) (fun s g =>
    let r := L.store g.2.1 g.2.2
    let at_ := addr + (g.1 * o.tokens + tok % o.tokens) * L.latentBytes
    let s := s.writeSeg w { space := .dram, addr := at_, len := r.1.length } r.1 false
    let s := { s with dram := (r.2.1.map (fun k => at_ / 8 + k)).foldl Mem.poisonWord s.dram }
    let s := if r.2.1.isEmpty then s else s.condition w.cmd .poison
    s.updPart d.p (fun P => { P with stats := { P.stats with converted := (P.stats.converted + r.2.2.converted) % 2 ^ 48,
                                                             clipped := (P.stats.clipped + r.2.2.clipped) % 2 ^ 48,
                                                             nans := (P.stats.nans + r.2.2.nans) % 2 ^ 48 } }))

/-- Slots for the ranges that need one, as (range, bank, slot); false where the pool is exhausted. -/
def State.allocAll (s : State) (w : Writer) (st layer : Nat) (need : List Nat) : State × Bool × List (Nat × Nat × Nat) :=
  need.foldl (fun acc j =>
    if acc.2.1 then
      match acc.1.allocate w st layer j (acc.1.prefixes.length + 1) with
      | (s, some x) => (s, true, acc.2.2 ++ [(j, x.1, x.2)])
      | (s, none) => (s, false, acc.2.2)
    else acc) (s, true, [])

/-- An append that finds no slot gives back what it took; records evicted stay evicted (R161, R244). -/
def State.exhausted (s : State) (p layer : Nat) (got : List (Nat × Nat × Nat)) : State :=
  let taken := got.map (fun g => ({ bank := g.2.1, slot := g.2.2, layer := layer } : SlotUse))
  s.updPart p (fun P =>
    { P with stats := { P.stats with exhausted := (P.stats.exhausted + 1) % 2 ^ 48 },
             pool := P.pool.map (fun o => { o with used := o.used.filter (fun u => !taken.contains u) }) })

def State.stAppend (s : State) (d : Site) (w : Writer) (t : StreamCmd) (x : StreamItem) : Worked :=
  s.onLive d x.st (fun P o e =>
    let e' := e.touch P.stepNo
    let first := match x.q with | some q => x.val - q | none => e'.appendBase
    let count := match x.q with | some q => q | none => x.val
    let L := o.layer t.layer
    let src := t.data + x.ordinal * t.stride
    if first < e.committed ∨ e.speculative < first then (s, .error .inconsistent)
    else if count = 0 then (s.setStream x.st e', .ok (0, 0))
    else if o.maxBlocks ≤ (first + count - 1) / o.tokens then (s, .error .bounds)
    else if !s.deviceOk { d with P := P } src ((count - 1) * t.stride + o.groups * 1024) then (s, .error .bounds)
    else
      let ranges := (List.range ((first + count - 1) / o.tokens + 1 - first / o.tokens)).map (fun i => first / o.tokens + i)
      let entryAt := fun (s : State) (j : Nat) => u32 (s.rawVa d.p P (o.entryVa e.blockTable j t.layer) 4) 0
      match ranges.findSome? (fun j => s.rawFault d.p P (o.entryVa e.blockTable j t.layer) 4) with
      | some st => (s, .error st)
      | none =>
        let need := ranges.filter (fun j => !entryValid (entryAt s j))
        let r := s.allocAll w x.st t.layer need
        let got := r.2.2
        if !r.2.1 then (r.1.exhausted d.p t.layer got, .error .bounds)
        else
          let s := r.1.each got (fun s g => s.smWrite w (o.entryVa e.blockTable g.1 t.layer) (natLe 4 (entryOf g.2.1 g.2.2 false)))
          let a := nearAccess d.p P
          let slotOf := fun (s : State) (j : Nat) => match got.find? (fun g => decide (g.1 = j)) with
            | some g => o.slotAddr g.2.1 g.2.2
            | none => o.slotAddr (entryBank (entryAt s j)) (entrySlot (entryAt s j))
          let s := s.each (List.range count) (fun s k =>
            let data := (List.range o.groups).map (fun g => s.latentData a (src + k * t.stride + g * 1024))
            let s := s.readVa w.cmd d.p P (src + k * t.stride, o.groups * 1024)
            s.appendToken d w o L (slotOf s ((first + k) / o.tokens)) (first + k) data)
          let s := s.setStream x.st { e' with speculative := max e.speculative (first + count),
                                              blocks := max e.blocks ((first + count - 1) / o.tokens + 1) }
          (if need.isEmpty then s else s.refill w (s.prefixes.length + 1), .ok (count, need.length)))

/-! ### Prefixes (R237 to R242) -/

/-- H(j) from H(j − 1) and the token identifiers of range j. -/
def rangeHash (P : Partition) (domain : Nat) (prev : BitVec 128) (tokens : Bytes) : BitVec 128 :=
  Config.kmac256 (Config.domainKey P.keys domain) (natLe 16 prev.toNat ++ tokens)

/-- Token identifiers of range j of a list: 4 bytes each. -/
def State.rangeTokens (s : State) (p : Nat) (P : Partition) (o : Pool) (list j : Nat) : Bytes :=
  (s.fetch (nearAccess p P) (list + 4 * j * o.tokens) (4 * o.tokens)).1

/-- The chain from token 0 over ranges 0 to n − 1. -/
def State.chain (s : State) (p : Nat) (P : Partition) (o : Pool) (domain list n : Nat) : BitVec 128 :=
  (List.range n).foldl (fun h j => rangeHash P domain h (s.rangeTokens p P o list j)) 0

/-- The index entry of a hash in its bucket. -/
def State.findPrefix (s : State) (p domain : Nat) (h : BitVec 128) : Option (Nat × PrefixEntry) :=
  s.prefixes.find? (fun e => decide (e.1 / 8 = h.toNat % 2 ^ 20) && decide (e.2.partition = p) && decide (e.2.domain = domain)
    && decide (e.2.hash = h))

/-- The bucket of a hash holds a poisoned word (R239, R386). -/
def State.bucketBad (s : State) (h : BitVec 128) : Bool := s.sysBad (fun u => decide (u = .prefixBucket (h.toNat % 2 ^ 20)))

/-- Token identifiers that a record stores. -/
def State.recordTokens (s : State) (p : Nat) (P : Partition) (o : Pool) (r : Nat) : Bytes :=
  s.rawVa p P (o.recordVa r + 16 + 4 * o.layers.length) (4 * o.tokens)

/-- Table entries of a record, as bytes. -/
def State.recordRow (s : State) (p : Nat) (P : Partition) (o : Pool) (r : Nat) : Bytes :=
  s.rawVa p P (o.recordVa r + 16) (4 * o.layers.length)

/-- Row j of a stream takes a record's entries, and the record one more reference. -/
def State.attach (s : State) (w : Writer) (P : Partition) (o : Pool) (table j : Nat) (e : Nat × PrefixEntry) : State :=
  let row := s.recordRow w.p P o e.2.record
  let s := s.smWrite w (o.entryVa table j 0) row
  let s := s.bumpRefs w o e.2.record true
  { s with prefixes := tput s.prefixes e.1 { e.2 with lastUse := P.stepNo } }

def validIn (row : Bytes) (layers : Nat) : Nat := ((List.range layers).filter (fun l => entryValid (u32 row (4 * l)))).length

/-- A free place in a bucket. -/
def State.freeEntry (s : State) (bucket : Nat) : Option Nat :=
  ((List.range 8).map (fun k => bucket * 8 + k)).find? (fun i => (tget s.prefixes i).isNone)

/-- A free shared-group record. -/
def State.freeRecord (s : State) (p : Nat) (P : Partition) (o : Pool) : Option Nat :=
  (List.range o.sharedGroups).find? (fun r => (s.recordFault p P o r).isNone && !s.recordValid p P o r)

/-- What confirming a hash against a record ends with, if its reads of head, entries and tokens end badly (R144, R301). -/
def State.confirmFault (s : State) (p : Nat) (P : Partition) (o : Pool) (r : Nat) : Option Status := s.rawFault p P (o.recordVa r) o.recordBytes

/-- Fill a record from row j of a stream (third case of R241). -/
def State.fillRecord (s : State) (w : Writer) (P : Partition) (o : Pool) (e : Stream) (j : Nat) (h : BitVec 128)
    (tokens : Bytes) (entry record : Nat) : State :=
  let row := s.rawVa w.p P (o.entryVa e.blockTable j 0) (4 * o.layers.length)
  let row := (List.range o.layers.length).flatMap (fun l =>
    let v := u32 row (4 * l)
    natLe 4 (if entryValid v && !entryShared v then v + 2 ^ 30 else v))
  let s := s.smWrite w (o.recordVa record) (natLe 4 1 ++ natLe 4 entry ++ [1] ++ zeros 7 ++ row ++ tokens)
  let s := s.smWrite w (o.entryVa e.blockTable j 0) row
  { s with prefixes := tput s.prefixes entry
             { hash := h, record := record, partition := w.p, domain := e.domain, priority := e.priority, lastUse := P.stepNo } }

/-- Room for one more published group: an index entry and a record, evicting where that helps; answers the two. -/
def State.roomFor (s : State) (w : Writer) (bucket : Nat) : State × Option (Nat × Nat) :=
  match s.part? w.p with
  | none => (s, none)
  | some P =>
    match P.pool with
    | none => (s, none)
    | some o =>
      let s := if (s.freeEntry bucket).isSome && (s.freeRecord w.p P o).isSome then s
               else s.meetFault w.cmd ((s.refsFault w.p P o).or ((List.range o.sharedGroups).findSome? (s.recordFault w.p P o)))
      let quotaOk := decide ((s.prefixes.filter (fun e => decide (e.2.partition = w.p))).length < P.live.prefixQuota)
      let s' :=
        match s.freeEntry bucket, s.freeRecord w.p P o with
        | some _, some _ => s
        | none, _ => (match s.victim w.p P o (some bucket) with | some v => s.evict w o v .publish | none => s)
        | _, none => (match s.victim w.p P o none with | some v => s.evict w o v .publish | none => s)
      match s'.freeEntry bucket, s'.freeRecord w.p P o with
      | some i, some r => if quotaOk || decide (s' ≠ s) then (s', some (i, r)) else (s, none)
      | _, _ => (s, none)

/-- What publishing one range comes to: published, or stopped. -/
def State.publishRange (s : State) (w : Writer) (st j list : Nat) : State × Bool :=
  match s.part? w.p, tget s.streams st with
  | some P, some e =>
    match P.pool with
    | none => (s, false)
    | some o =>
      let prev := if j = 0 then 0 else if e.chainValid then e.chainHash else s.chain w.p P o e.domain list j
      let tokens := s.rangeTokens w.p P o list j
      let h := rangeHash P e.domain prev tokens
      if s.bucketBad h then (s.condition w.cmd .eccUncorr, false) else
      let up := fun (s : State) => s.setStream st { e with published := j + 1, shared := e.shared + 1, chainHash := h, chainValid := true }
      match s.findPrefix w.p e.domain h with
      | some x =>
        match (s.confirmFault w.p P o x.2.record).or (s.rowsFault w.p P o e.blockTable j (j + 1)) with
        | some st => ((s.readVa w.cmd w.p P (o.recordVa x.2.record, o.recordBytes)).condition w.cmd st, false)
        | none =>
        if s.recordTokens w.p P o x.2.record = tokens then
          let (own, _, _) := s.rowsFrom w.p P o e.blockTable j (j + 1)
          let s := s.attach w P o e.blockTable j x
          let s := s.freeLater w.p ((s.inFlight w.p).filter (fun i => decide (i ≠ w.cmd))) own []
          (up s, true)
        else (s.updPart w.p (fun P => { P with stats := { P.stats with collisions := (P.stats.collisions + 1) % 2 ^ 48 } }), false)
      | none =>
        match s.roomFor w (h.toNat % 2 ^ 20) with
        | (s, some (i, r)) =>
          match s.rowsFault w.p P o e.blockTable j (j + 1) with
          | some st => ((s.readVa w.cmd w.p P (o.entryVa e.blockTable j 0, o.layers.length * 4)).condition w.cmd st, false)
          | none => (up (s.fillRecord w P o e j h tokens i r), true)
        | (s, none) => (s.updPart w.p (fun P => { P with stats := { P.stats with noRoom := (P.stats.noRoom + 1) % 2 ^ 48 } }), false)
  | _, _ => (s, false)

/-- PREFIX_PUBLISH (R241). -/
def State.prefixPublish (s : State) (d : Site) (w : Writer) (t : StreamCmd) (x : StreamItem) : Worked :=
  s.onLive d x.st (fun P o e =>
    let a := nearAccess d.p P
    let where_ := if t.table = 0 then (zeros 0, false) else s.fetch a (t.data + 8 * x.index) 8
    let list := if t.table = 0 then t.data else u64 where_.1 0
    let n := x.val / max o.tokens 1
    if e.committed < x.val then (s, .error .inconsistent)
    else if where_.2 then (s, .error .eccUncorr)
    else if !s.deviceOk { d with P := P } list (4 * n * o.tokens) then (s, .error .bounds)
    else if (s.fetch a list (4 * n * o.tokens)).2 then (s.readVa w.cmd d.p P (list, 4 * n * o.tokens), .error .eccUncorr)
    else
      let s := (s.setStream x.st (e.touch P.stepNo)).readVa w.cmd d.p P (list, 4 * n * o.tokens)
      let r := (List.range (n - e.published)).foldl (fun (acc : State × Nat × Bool) i =>
        if acc.2.2 then acc
        else
          let r := acc.1.publishRange w x.st (e.published + i) list
          (r.1, acc.2.1 + b2n r.2, !r.2)) (s, 0, false)
      (r.1, .ok (r.2.1, 0)))

/-- One range of a lookup. -/
def State.lookupRange (s : State) (w : Writer) (st j list : Nat) (prev : BitVec 128) : State × Option (BitVec 128 × Nat) :=
  match s.part? w.p, tget s.streams st with
  | some P, some e =>
    match P.pool with
    | none => (s, none)
    | some o =>
      let tokens := s.rangeTokens w.p P o list j
      let h := rangeHash P e.domain prev tokens
      if s.bucketBad h then (s.condition w.cmd .eccUncorr, none) else
      match s.findPrefix w.p e.domain h with
      | none => (s, none)
      | some x =>
        match (s.confirmFault w.p P o x.2.record).or (s.rawFault w.p P (o.entryVa e.blockTable j 0) (4 * o.layers.length)) with
        | some st => ((s.readVa w.cmd w.p P (o.recordVa x.2.record, o.recordBytes)).condition w.cmd st, none)
        | none =>
        if s.recordTokens w.p P o x.2.record = tokens then
          let n := validIn (s.recordRow w.p P o x.2.record) o.layers.length
          (s.attach w P o e.blockTable j x, some (h, n))
        else (s.updPart w.p (fun P => { P with stats := { P.stats with collisions := (P.stats.collisions + 1) % 2 ^ 48 } }), none)
  | _, _ => (s, none)

/-- PREFIX_LOOKUP (R242). -/
def State.prefixLookup (s : State) (d : Site) (w : Writer) (t : StreamCmd) (x : StreamItem) : Worked :=
  s.onLive d x.st (fun P o e =>
    let n := min ((x.val - 1) / max o.tokens 1) o.maxBlocks
    let a := nearAccess d.p P
    if e.speculative ≠ 0 then (s, .error .inconsistent)
    else if !s.deviceOk { d with P := P } t.data (4 * x.val) then (s, .error .bounds)
    else if (s.fetch a t.data (4 * n * o.tokens)).2 then (s.readVa w.cmd d.p P (t.data, 4 * n * o.tokens), .error .eccUncorr)
    else
      let s := (s.setStream x.st (e.touch P.stepNo)).readVa w.cmd d.p P (t.data, 4 * n * o.tokens)
      let r := (List.range n).foldl (fun (acc : State × BitVec 128 × Nat × Nat × Bool) j =>
        if acc.2.2.2.2 then acc
        else
          match acc.1.lookupRange w x.st j t.data acc.2.1 with
          | (s, some (h, k)) => (s, h, acc.2.2.1 + 1, acc.2.2.2.1 + k, false)
          | (s, none) => (s, acc.2.1, acc.2.2.1, acc.2.2.2.1, true)) (s, 0, 0, 0, false)
      let m := r.2.2.1
      let e' := e.touch P.stepNo
      (r.1.setStream x.st { e' with committed := m * o.tokens, speculative := m * o.tokens, appendBase := m * o.tokens, blocks := m,
                                    shared := m, published := m, chainHash := r.2.1, chainValid := decide (0 < m) },
        .ok (m * o.tokens, r.2.2.2.1)))

/-! ### A stream command -/

/-- The streams that a record names, in table order, and whether the table holds a bad word. -/
def State.streamItems (s : State) (d : Site) (t : StreamCmd) : List StreamItem × Bool :=
  if t.table = 0 then ([{ st := t.stream, val := t.length, q := none, ordinal := 0, index := 0, faulty := false }], false)
  else
    let r := s.fetch (nearAccess d.p d.P) t.table (16 * t.entries)
    let es := (List.range t.entries).map (fun i => ltOf ((r.1.drop (16 * i)).take 16))
    (((List.range t.entries).zip es).map (fun e =>
      { st := e.2.stream, val := e.2.n, q := some e.2.q, ordinal := sumNat ((es.take e.1).map LtEntry.q), index := e.1,
        faulty := s.ltFaulty e.2 }), r.2)

/-- Does the command have a result? -/
def hasResult (op : Nat) : Bool := decide (op ≠ 0x7001) && decide (op ≠ 0x7003)

/-- A command in the single form has touched a live stream on which it then failed: the stream is ACTIVE all the same (R228). In the table
form a failed entry changes nothing (R161). -/
def State.touched (s : State) (d : Site) (st : Nat) : State :=
  match s.part? d.p with
  | none => s
  | some P =>
    match s.ownStream d P st with
    | some (some e) => if e.live then s.setStream st (e.touch P.stepNo) else s
    | _ => s

/-- All streams of a record, one after the other; a failed one leaves the others, and the skip log then says PARTIAL (R161). -/
def State.streamRun (work : State → Site → Writer → StreamCmd → StreamItem → Worked) (s : State) (d : Site) : State :=
  let t := streamCmdOf d.b
  if t.table ≠ 0 ∧ t.entries = 0 then s.endAtDispatch d .ok 0xFF 0
  else
    let (items, bad) := s.streamItems d t
    let shards := items.map (fun x => x.st % 4)
    let shard := (shards[Config.free s.free 64 0 % max shards.length 1]?).getD 0
    let lost := decide (t.table ≠ 0) && inHost t.table (16 * t.entries) && s.linkGone
    let f := { d.flight 36 (islStream shard) with writes := s.rangesOf d.p d.P [((t.result : Int), if t.result = 0 then 0 else 8)],
                                                  readsHost := decide (t.table ≠ 0) && inHost t.table (16 * t.entries) }
    let (s, id) := s.launch d f 0
    let s := s.readVa id d.p d.P (t.table, if t.table = 0 then 0 else 16 * t.entries)
    if lost then s.condition id .hostTimeout
    else if bad then s.controlFails id
    else
      let r := items.foldl (fun (acc : State × Nat × Nat) x =>
        let w : Writer := { cmd := id, p := d.p, q := d.q, cluster := d.Q.cluster, engine := 36 + x.st % 4, kind := 2 }
        if s.streamBad d.P x.st then (acc.1.condition id .eccUncorr, acc.2)
        else if x.faulty then
          ((if s.streamOutside d.P d.Q.ctx x.st then acc.1.condition id .bounds else acc.1).condition id .inconsistent, acc.2)
        else
          match work acc.1 d w t x with
          | (s, .ok (a, b)) => (s, acc.2.1 + a, acc.2.2 + b)
          | (s, .error st) => ((if t.table = 0 then s.touched d x.st else s).condition id st, acc.2)) (s, 0, 0)
      let s := r.1
      let s := if t.table = 0 then s else s.updFlight id (fun f => { f with partialDone := true })
      let w : Writer := { cmd := id, p := d.p, q := d.q, cluster := d.Q.cluster, engine := 36 + shard, kind := 2 }
      let s := if t.result ≠ 0 ∧ hasResult (recOp d.b) then s.smWrite w t.result (natLe 4 r.2.1 ++ natLe 4 r.2.2) else s
      -- an uncorrectable control operand leaves the destination undefined (R144)
      let s := if (tget s.flight id).any (fun f => f.conds.contains .eccUncorr) then s.controlFails id else s
      (s.endControl id).tick

def execStOpen (p q : Nat) (s : State) : Host.Outcome State Fault Refusal :=
  s.dispatch p q (isOp 0x7001) noSkip s.streamVerdict (State.streamRun State.stOpen)

def execStAppend (p q : Nat) (s : State) : Host.Outcome State Fault Refusal :=
  s.dispatch p q (isOp 0x7002) noSkip s.streamVerdict (State.streamRun State.stAppend)

def execStCommit (p q : Nat) (s : State) : Host.Outcome State Fault Refusal :=
  s.dispatch p q (isOp 0x7003) noSkip s.streamVerdict (State.streamRun State.stCommit)

def execStRollback (p q : Nat) (s : State) : Host.Outcome State Fault Refusal :=
  s.dispatch p q (isOp 0x7004) noSkip s.streamVerdict (State.streamRun State.stRollback)

def execStRelease (p q : Nat) (s : State) : Host.Outcome State Fault Refusal :=
  s.dispatch p q (isOp 0x7005) noSkip s.streamVerdict (State.streamRun State.stRelease)

def execPrefixLookup (p q : Nat) (s : State) : Host.Outcome State Fault Refusal :=
  s.dispatch p q (isOp 0x7006) noSkip s.streamVerdict (State.streamRun State.prefixLookup)

def execPrefixPublish (p q : Nat) (s : State) : Host.Outcome State Fault Refusal :=
  s.dispatch p q (isOp 0x7007) noSkip s.streamVerdict (State.streamRun State.prefixPublish)

/-! ### The sweep and the return of blocks (R162, R228) -/

/-- STREAM_SWEEP: a shard looks at all its entries. -/
def execStreamSweep (shard : Nat) (s : State) : Host.Outcome State Fault Refusal :=
  .next { s with streams := s.streams.map (fun e =>
    if e.1 % 4 = shard % 4 ∧ e.2.state = .active then
      match s.part? e.2.partition with
      | none => e
      | some P =>
        match P.pool with
        | none => e
        | some o => if o.idleSteps ≠ 0 ∧ e.2.lastStep.toNat + o.idleSteps ≤ P.stepNo.toNat then (e.1, { e.2 with state := .idle }) else e
    else e) }

def execBlockReturn (p : Nat) (s : State) : Host.Outcome State Fault Refusal := .next (s.returnBlocks p)

end Sys2Proof.Machine
end

