-- ==== Sys2Proof/Machine/Partitions.lean ====
section
/-! DEFINITION. Partitions.lean: partitions, their configuration and page tables, queues and contexts as Clonar makes and removes
them (R105 to R107, R138, R264 to R273, R283, R284, R301), and zeroisation (R266, R344). -/

namespace Sys2Proof.Machine

/-! ### part.create (R264 to R266) -/

/-- Pseudo-channels of a request with their bank-local counts. -/
def createPcs (b : Bytes) : List (Nat × Nat) := (List.range (u16 b 24)).map (fun i => (u16 b (32 + 4 * i), u8 b (34 + 4 * i)))

/-- Some bank of 0 to L − 1 has a fenced Cuff (R24). -/
def State.fencedLocal (s : State) (e : Nat × Nat) : Bool := (List.range e.2).any (fun b => s.cuffFenced (e.1 * 16 + b))

/-- The pseudo-channel can be assigned: fitted, not a system one, free, not under test, neither mapped out nor offline. -/
def State.pcFree (s : State) (pc : Nat) : Bool :=
  s.pcPresent pc && !systemPc pc && !s.parts.any (fun e => (tget e.2.pcs pc).isSome) && !s.underTest pc && !s.pcOffline pc

/-- A repair that is due on the pseudo-channel holds its assignment back (R391). -/
def State.repairDue (s : State) (pc : Nat) : Bool :=
  s.flash.pendingRepairs.any (fun c => decide (c.bank / 16 = pc) && (!s.fuse.spareLeft c || s.fuse.hasRoom))

def StreamStats.zero : StreamStats :=
  { evictAlloc := 0, evictPublish := 0, evictLow := 0, collisions := 0, noRoom := 0, exhausted := 0, converted := 0, clipped := 0,
    nans := 0 }

/-- A partition right after part.create (R265, R283). -/
def Partition.fresh (live : Settings) (pcs : Tab Nat) (keys : Nat) : Partition :=
  { live := live, staged := live, applyCount := 0, rejectCount := 0, pcs := pcs, stepNo := 0, pages := [],
    ctxs := [(0, { cls := 0, ranges := [] })], queues := [], pool := none, stats := StreamStats.zero, sched := Sched.none,
    zeroing := none, keys := keys, sends := [], recvs := [], notices := [], aborts := [] }

def createSettings (b : Bytes) : Settings :=
  { clusters := BitVec.ofNat 64 (u64 b 8), streamBase := u32 b 16, streamCount := u32 b 20, prefixQuota := u32 b 4,
    policyPartition := decide (u8 b 0 = 1), perfUser := false }

/-- The partition exists: its resources are zeroised, its counters begin anew (R266, R344, R401). -/
def State.createPartition (s : State) (p : Nat) (b : Bytes) : State :=
  let pcs := (createPcs b).foldl (fun t e => tput t e.1 e.2) []
  let P := Partition.fresh (createSettings b) pcs s.keyDraws
  let s := s.zeroise P
  let s := s.each pcs (fun s e => s.resetCounters (pcUnit e.1))
  let s := s.each P.clusterList (fun s c => s.resetCounters (clusterUnit c))
  { s with parts := tput s.parts p P, keyDraws := s.keyDraws + 1 }

def createRow : MsgRow :=
  { code := 0x0010, box := .operator, acts := fun _ => true,
    used := fun b => [(0, 1), (4, 22)] ++ (List.range (u16 b 24)).map (fun i => (32 + 4 * i, 3)),
    size := fun b => 32 + 4 * u16 b 24 }

def execPartCreate (fn : Nat) (s : State) : Host.Outcome State Fault Refusal :=
  s.serve fn createRow (fun s m =>
    let b := m.body
    let n := u16 b 24
    let pcs := createPcs b
    let clusters := (List.range 64).filter (fun c => bit (u64 b 8) c)
    if 31 < m.p ∨ (s.part? m.p).isSome then s.respond m.fn .refused (refusalBody (some 8))
    else if pcs.any (fun e => s.repairDue e.1 && s.inMaintenance e.1) then s
    else
      s.checked m
        ([(0, decide (u8 b 0 ≤ 1)), (4, decide (u32 b 4 ≤ 8388608)), (16, decide (u32 b 16 < 2 ^ 20)),
          (20, decide (1 ≤ u32 b 20) && decide (u32 b 20 ≤ 2 ^ 20))]
          ++ (List.range n).flatMap (fun i => [(32 + 4 * i, decide (u16 b (32 + 4 * i) < 768) && s.stackFitted (u16 b (32 + 4 * i) / 64)),
            (34 + 4 * i, decide (u8 b (34 + 4 * i) ≤ 16))]))
        ([(none, decide (s.parts.length < 8) || bit s.boot.licLive.toNat 2), (some 8, !clusters.isEmpty), (some 24, decide (1 ≤ n)),
          (some 8, clusters.all (fun c => !s.clusterFenced c && !s.parts.any (fun e => e.2.ownsCluster c)))]
          ++ (List.range n).flatMap (fun i =>
            [(some (32 + 4 * i), s.pcFree (u16 b (32 + 4 * i)) && !((pcs.take i).map Prod.fst).contains (u16 b (32 + 4 * i))),
             (some (34 + 4 * i), !s.fencedLocal (u16 b (32 + 4 * i), u8 b (34 + 4 * i)))])
          ++ [(some 16, s.rangeOk m.p (u32 b 16) (u32 b 20)), (some 4, decide (s.quotaTotal m.p + u32 b 4 ≤ 8388608))])
        ((s.createPartition m.p b).okay m []))

/-! ### part.destroy, part.reset, zeroisation (R266, R272, R293) -/

/-- A message whose answer waits for the zeroisation of its partition. -/
def State.awaitZeroing (s : State) (m : Msg) (destroy : Bool) : State :=
  let s := s.updFunc m.fn (fun F => { F with waitFor := some (.zeroing m.p) })
  s.beginZeroing m.p destroy (some m.fn)

def execPartDestroy (fn : Nat) (s : State) : Host.Outcome State Fault Refusal :=
  s.serve fn { code := 0x0011, box := .operator, acts := fun _ => true, exists? := fun _ => true } (fun s m =>
    s.checked m [] [(none, (tget s.link.decoders m.p).isNone)] (s.awaitZeroing m true))

def execPartReset (fn : Nat) (s : State) : Host.Outcome State Fault Refusal :=
  s.serve fn { code := 0x0013, box := .either, acts := fun _ => true, exists? := fun _ => true } (fun s m => s.awaitZeroing m false)

/-- Everything of a destroyed partition is gone, a decoder committed to it too; its units' counters are reset (R266, R300, R344, R401). -/
def State.removePartition (s : State) (p : Nat) (P : Partition) : State :=
  let s := s.each P.pcs (fun s e => s.resetCounters (pcUnit e.1))
  let s := s.each P.clusterList (fun s c => s.resetCounters (clusterUnit c))
  { s with parts := tdel s.parts p, link := { s.link with decoders := tdel s.link.decoders p } }

/-- A partition after its reset: new keys, context 0 as it was or made afresh (R272). -/
def Partition.afterReset (P : Partition) (keys : Nat) : Partition :=
  { P with zeroing := none, keys := keys,
           ctxs := if (tget P.ctxs 0).isSome then P.ctxs else [(0, { cls := 0, ranges := [] })] }

/-- ZEROISATION: every Cuff has finished the entry it held and every abandoned write is absorbed (R266). In WATCH the units that zeroise are off
(R352). -/
def execZeroisation (p : Nat) (s : State) : Host.Outcome State Fault Refusal :=
  match s.part? p with
  | none => .next s
  | some P =>
    match P.zeroing with
    | none => .next s
    | some z =>
      if !s.working then .next s
      else
        let s := s.zeroise P
        let s := if z.destroy then s.removePartition p P
          else ({ s with keyDraws := s.keyDraws + 1 } : State).setPart p (P.afterReset s.keyDraws)
        match z.mailbox with
        | some fn => .next (s.respond fn .ok [])
        | none => .next s

/-- VF_FLR: part.reset of its partition, the interface is unlocked, and the function's configuration space is as after reset (R293, R340; the
last PRESUMED from PCI Express, log 41). -/
def execVfFlr (p : Nat) (s : State) : Host.Outcome State Fault Refusal :=
  if 32 ≤ p then .next s
  else
    let s := s.beginZeroing p false none
    .next { s with trust := { s.trust with tdi := tdel s.trust.tdi p }, link := { s.link with cfg := tdel s.link.cfg (p + 1) } }

/-! ### part.config (R283, R284) -/

/-- The configuration block. -/
def Settings.block (c : Settings) (applied rejected : W32) : Bytes :=
  natLe 8 c.clusters.toNat ++ natLe 4 c.streamBase ++ natLe 4 c.streamCount ++ natLe 4 c.prefixQuota
    ++ natLe 1 (b2n c.policyPartition + 2 * b2n c.perfUser) ++ zeros 3 ++ natLe 4 applied.toNat ++ natLe 4 rejected.toNat ++ zeros 32

def Partition.blocks (P : Partition) : Bytes :=
  P.staged.block P.applyCount P.rejectCount ++ P.live.block P.applyCount P.rejectCount

def State.configBody (s : State) (p : Nat) : Bytes := match s.part? p with | some P => P.blocks | none => []

def configRow (op : Nat) : MsgRow :=
  { code := 0x0012, box := .either, acts := fun _ => true, exists? := fun _ => true, mine := opIs op 1,
    used := fun _ => [(0, 1), (2, 2), (8, 21), (32, 8)], size := fun _ => 72 }

def execPartConfigRead (fn : Nat) (s : State) : Host.Outcome State Fault Refusal :=
  s.serve fn (configRow 0) (fun s m => s.checked m [(0, decide (u8 m.body 0 ≤ 1))] [] (s.okay m (s.configBody m.p)))

/-- The staged copy with the fields that a write carries. -/
def Settings.with (c : Settings) (b : Bytes) : Settings :=
  let f := fun i => bit (u16 b 2) i
  { clusters := if f 0 then BitVec.ofNat 64 (u64 b 8) else c.clusters,
    streamBase := if f 1 then u32 b 16 else c.streamBase,
    streamCount := if f 2 then u32 b 20 else c.streamCount,
    prefixQuota := if f 3 then u32 b 24 else c.prefixQuota,
    policyPartition := if f 4 then bit (u8 b 28) 0 else c.policyPartition,
    perfUser := if f 5 then bit (u8 b 28) 1 else c.perfUser }

/-- The VF of a partition is in CONFIG_LOCKED or RUN. -/
def State.tdiLocked (s : State) (p : Nat) : Bool :=
  match tget s.trust.tdi p with
  | some .locked | some .run => true
  | _ => false

/-- A write stages all its fields at once; the tenant writes FAULT_POLICY only (R283, R284, R341). -/
def execPartConfigWrite (fn : Nat) (s : State) : Host.Outcome State Fault Refusal :=
  s.serve fn (configRow 1) (fun s m =>
    let b := m.body
    let f := u16 b 2
    s.checked m
      [(0, decide (u8 b 0 ≤ 1)), (2, decide (f < 64) && (decide (m.fn = 0) || decide (f = 0) || decide (f = 16))),
       (16, !bit f 1 || decide (u32 b 16 < 2 ^ 20)), (20, !bit f 2 || (decide (1 ≤ u32 b 20) && decide (u32 b 20 ≤ 2 ^ 20))),
       (24, !bit f 3 || decide (u32 b 24 ≤ 8388608)), (28, decide (u8 b 28 ≤ 3))]
      [(some 2, decide (f % 16 = 0) || decide (m.fn ≠ 0) || !s.tdiLocked m.p)]
      (let s := s.updPart m.p (fun P => { P with staged := P.staged.with b })
       s.okay m (s.configBody m.p)))

/-! ### part.map (R301) -/

def pageSize (b : Bytes) : Nat := if u8 b 1 = 1 then 2 ^ 30 else 2 ^ 21

def mapRow (op : Nat) : MsgRow :=
  { code := 0x0014, box := .either, acts := fun _ => true, exists? := fun _ => true, mine := opIs op 2,
    used := fun b => if u8 b 0 = 1 ∨ u8 b 0 = 2 then [(0, 2), (4, 12)] else [(0, 2), (4, 20)], size := fun _ => 24 }

/-- What the response says of the page that holds VA, and of the partition. -/
def Partition.mapBody (P : Partition) (va : Nat) : Bytes :=
  let total := natLe 8 (sumNat (P.pages.map Page.bytes)) ++ natLe 8 P.capacity
  match P.pages.find? (fun g => g.covers va) with
  | some g => natLe 1 1 ++ natLe 1 (b2n g.big) ++ zeros 6 ++ natLe 8 g.pa ++ total
  | none => zeros 16 ++ total

def State.mapAnswer (s : State) (m : Msg) : State :=
  s.okay m (match s.part? m.p with | some P => P.mapBody (u64 m.body 8) | none => [])

/-- Fields of the three operations. -/
def mapFields (b : Bytes) : List (Nat × Bool) :=
  [(0, decide (u8 b 0 ≤ 2)), (1, decide (u8 b 1 ≤ 1)),
   (4, decide (u8 b 0 = 2) || (decide (1 ≤ u32 b 4) && decide (u32 b 4 ≤ 524288)))]

/-- Map and unmap are refused on the operator mailbox while the VF is locked (R341). -/
def State.mapOpen (s : State) (m : Msg) : Bool := decide (m.fn ≠ 0) || !s.tdiLocked m.p

def execPartMap (fn : Nat) (s : State) : Host.Outcome State Fault Refusal :=
  s.serve fn (mapRow 0) (fun s m =>
    let b := m.body
    match s.part? m.p with
    | none => s
    | some P =>
      let size := pageSize b
      let len := u32 b 4 * size
      let va := u64 b 8
      let pa := u64 b 16
      s.checked m (mapFields b ++ [(8, decide (va % size = 0)), (16, decide (pa % size = 0))])
        [(none, s.mapOpen m), (some 8, decide (va + len ≤ 2 ^ 40) && !P.pages.any (fun g => overlaps va len g.va g.bytes)),
         (some 16, decide (pa + len ≤ P.capacity) && !P.pages.any (fun g => overlaps pa len g.pa g.bytes))]
        (let new := (List.range (u32 b 4)).map (fun i =>
           ({ va := va + i * size, pa := pa + i * size, big := decide (u8 b 1 = 1) } : Page))
         (s.setPart m.p { P with pages := P.pages ++ new }).mapAnswer m))

def execPartMapUnmap (fn : Nat) (s : State) : Host.Outcome State Fault Refusal :=
  s.serve fn (mapRow 1) (fun s m =>
    let b := m.body
    match s.part? m.p with
    | none => s
    | some P =>
      let len := u32 b 4 * pageSize b
      let va := u64 b 8
      let inside := fun (g : Page) => decide (va ≤ g.va) && decide (g.va + g.bytes ≤ va + len)
      s.checked m (mapFields b ++ [(8, decide (va % pageSize b = 0))])
        [(none, s.mapOpen m), (some 8, P.pages.all (fun g => !overlaps va len g.va g.bytes || inside g))]
        ((s.setPart m.p { P with pages := P.pages.filter (fun g => !inside g) }).mapAnswer m))

def execPartMapQuery (fn : Nat) (s : State) : Host.Outcome State Fault Refusal :=
  s.serve fn (mapRow 2) (fun s m => s.checked m (mapFields m.body) [] (s.mapAnswer m))

/-! ### Queues (R105 to R107, R138) -/

/-- A queue as queue.create makes it (R106). -/
def Queue.fresh (b : Bytes) : Queue :=
  { ctx := u8 b 1, cluster := u8 b 2, cqLog2 := u8 b 3, vector := u16 b 4, coCount := u16 b 6, coTime := u32 b 8,
    credit := u64 b 16, cqBase := u64 b 24, cqConsumer := u64 b 32, cpos := 0, fpos := 0, hpos := 0, slots := [], overwrites := 0,
    ahead := [], loops := [], ctrs := List.replicate 16 0, cmps := List.replicate 8 Comparator.reset, waiting := none,
    stalled := false, broken := false, destroying := false, skipLog := [], lost := 0, written := 0, consumed := 0,
    unsignalled := 0, held := [], discarded := 0 }

def queueRow (code : Nat) (box : Box) (used : List (Nat × Nat)) : MsgRow :=
  { code := code, box := box, acts := fun _ => true, exists? := fun _ => true, used := fun _ => used }

def execQueueCreate (fn : Nat) (s : State) : Host.Outcome State Fault Refusal :=
  s.serve fn (queueRow 0x0020 .partition [(0, 12), (16, 24)]) (fun s m =>
    let b := m.body
    match s.part? m.p with
    | none => s
    | some P =>
      s.checked m
        [(0, decide (u8 b 0 ≤ 63)), (2, decide (u8 b 2 ≤ 63)), (3, decide (8 ≤ u8 b 3) && decide (u8 b 3 ≤ 16)),
         (4, decide (1 ≤ u16 b 4) && decide (u16 b 4 ≤ 127)), (6, decide (1 ≤ u16 b 6) && decide (u16 b 6 ≤ 1024)),
         (8, decide (u32 b 8 ≤ 10000)), (16, decide (u64 b 16 % 8 = 0)), (24, decide (u64 b 24 % 4096 = 0)),
         (32, decide (u64 b 32 % 8 = 0))]
        [(some 0, (tget P.queues (u8 b 0)).isNone), (some 1, (tget P.ctxs (u8 b 1)).isSome),
         (some 2, P.ownsCluster (u8 b 2) && !s.clusterFenced (u8 b 2)),
         (some 2, decide ((P.queues.filter (fun e => decide (e.2.cluster = u8 b 2))).length < 32)),
         (none, decide (sumNat (s.parts.map (fun e => e.2.queues.length)) < 2048))]
        ((s.setPart m.p { P with queues := tput P.queues (u8 b 0) (Queue.fresh b) }).okay m []))

/-- queue.destroy: fetching stops, what is not in flight is discarded; the answer waits for the commands in flight. -/
def execQueueDestroy (fn : Nat) (s : State) : Host.Outcome State Fault Refusal :=
  s.serve fn (queueRow 0x0021 .partition [(0, 1)]) (fun s m =>
    let q := u8 m.body 0
    s.checked m [(0, decide (q ≤ 63))] [(some 0, (s.queue? m.p q).isSome)]
      (let s := s.updQueue m.p q (fun Q => { Q with destroying := true, ahead := [], loops := [], waiting := none, slots := [] })
       let s := s.updFunc m.fn (fun F => { F with waitFor := some (.queueDestroy m.p q) })
       s.settleDestroy m.p q))

/-- STATE of queue.status: the first of R138's table that applies. A queue whose record at C is unsealed for less than 1 s, with nothing fetched
and nothing in flight, meets no row of the table: it reads RUNNING (DESIGN CHOICE, log 39). -/
def State.queueState (s : State) (p q : Nat) (Q : Queue) : Nat :=
  if Q.broken then 5
  else if Q.stalled then 4
  else if Q.full || !Q.held.isEmpty then 3
  else if Q.waiting.isSome then 2
  else if Q.cpos = Q.hpos ∧ !s.queueBusy p q ∧ Q.ahead.isEmpty ∧ Q.loops.isEmpty then 0
  else 1

def State.statusBody (s : State) (p q : Nat) (Q : Queue) : Bytes :=
  natLe 1 (s.queueState p q Q)
    ++ natLe 1 (match Q.waiting with | some w => (if s.queueState p q Q = 2 then w.cond.ctrA else 0) | none => 0)
    ++ natLe 1 (Q.arrived Q.cpos).length ++ natLe 1 Q.skipLog.length ++ zeros 4
    ++ natLe 8 Q.cpos ++ natLe 8 Q.fpos ++ natLe 8 Q.hpos ++ natLe 4 Q.overwrites ++ natLe 4 Q.lost
    ++ natLe 4 (s.flight.filter (fun e => decide (e.2.p = p) && decide (e.2.q = q))).length ++ zeros 4 ++ Q.skipLog.flatten

/-- queue.status returns the skip log and removes what it returns (R137). -/
def execQueueStatus (fn : Nat) (s : State) : Host.Outcome State Fault Refusal :=
  s.serve fn (queueRow 0x0022 .either [(0, 1)]) (fun s m =>
    let q := u8 m.body 0
    match s.queue? m.p q with
    | none => s.checked m [(0, decide (q ≤ 63))] [(some 0, false)] s
    | some Q => (s.updQueue m.p q (fun Q => { Q with skipLog := [] })).okay m (s.statusBody m.p q Q))

/-! ### Contexts (R268, R271) -/

def ctxRanges (b : Bytes) : List (Nat × Nat) := (List.range (u8 b 2)).map (fun i => (u32 b (8 + 8 * i), u32 b (12 + 8 * i)))

/-- A scratchpad range within clusters that the partition owns. -/
def Partition.ownsRange (P : Partition) (r : Nat × Nat) : Bool :=
  decide (r.1 + r.2 ≤ 2 ^ 30)
    && ((List.range 64).all (fun c => !overlaps r.1 r.2 (c * 2 ^ 24) (2 ^ 24) || P.ownsCluster c))

def execCtxCreate (fn : Nat) (s : State) : Host.Outcome State Fault Refusal :=
  s.serve fn
    { code := 0x0030, box := .partition, acts := fun _ => true, exists? := fun _ => true,
      used := fun b => [(0, 3), (8, 8 * u8 b 2)], size := fun _ => 8 }
    (fun s m =>
      let b := m.body
      match s.part? m.p with
      | none => s
      | some P =>
        let ranges := ctxRanges b
        let taken := P.ctxs.flatMap (fun e => e.2.ranges)
        s.checked m
          ([(1, decide (u8 b 1 ≤ 7)), (2, decide (u8 b 2 ≤ 16))]
            ++ (List.range (u8 b 2)).flatMap (fun i =>
              [(8 + 8 * i, decide (u32 b (8 + 8 * i) % 64 = 0)), (12 + 8 * i, decide (u32 b (12 + 8 * i) % 64 = 0))]))
          ((some 0, (tget P.ctxs (u8 b 0)).isNone) :: (List.range (u8 b 2)).map (fun i =>
            let r := (ranges[i]?).getD (0, 0)
            (some (8 + 8 * i), P.ownsRange r && !taken.any (fun t => overlaps r.1 r.2 t.1 t.2))))
          ((s.setPart m.p { P with ctxs := tput P.ctxs (u8 b 0) { cls := u8 b 1, ranges := ranges } }).okay m []))

def execCtxTeardown (fn : Nat) (s : State) : Host.Outcome State Fault Refusal :=
  s.serve fn (queueRow 0x0031 .partition [(0, 1)]) (fun s m =>
    let c := u8 m.body 0
    s.checked m [] [(some 0, (match s.part? m.p with | some P => (tget P.ctxs c).isSome | none => false))]
      ((s.teardown m.p c 0xFF).okay m []))

/-! ### stream.pool, stream.stats (R205, R230, R231, R244) -/

def poolLayer (e : Nat) : Layer :=
  { cache := e % 4, group := 32 * 2 ^ (bits e 3 2), scaleE4m3 := bit e 4, rotated := bit e 5 }

/-- Order of bank identifiers by (bank, pseudo-channel, stack) (R76). -/
def bankLe (a b : Nat) : Bool :=
  let k := fun (x : Nat) => (x % 16 * 64 + x / 16 % 64) * 16 + x / 1024
  decide (k a ≤ k b)

/-- The pool that a request describes. -/
def poolOf (b : Bytes) : Pool :=
  { firstStream := u32 b 0, streamCount := u32 b 4, base := u32 b 8, size := u32 b 12, maxBlocks := u32 b 16,
    sharedGroups := u32 b 20, lowWater := u32 b 24, idleSteps := u32 b 28, metaVa := u64 b 32, tokens := u8 b 40, groups := u8 b 41,
    layers := (List.range (u16 b 42)).map (fun i => poolLayer (u32 b (48 + 4 * i))),
    banks := sortBy bankLe ((List.range (u16 b 44)).map (fun i => u16 b (48 + 4 * u16 b 42 + 2 * i))), used := [], freed := [] }

/-- The metadata area lies wholly in mapped striped memory (R231, R301). -/
def State.metaOk (s : State) (p : Nat) (P : Partition) (o : Pool) : Bool :=
  decide (o.metaVa + o.metaBytes ≤ 2 ^ 40) && (s.segs p P o.metaVa o.metaBytes).isSome

/-- The shared-group records of a pool are written with zeros by the firmware. -/
def State.clearRecords (s : State) (p : Nat) (o : Pool) : State :=
  let w := firmwareWriter p s.free
  (s.each (List.range o.sharedGroups) (fun s r => s.smWrite w (o.recordVa r) (zeros o.recordBytes))).firmwareDone w

def execStreamPool (fn : Nat) (s : State) : Host.Outcome State Fault Refusal :=
  s.serve fn
    { code := 0x0040, box := .partition, acts := fun _ => true, exists? := fun _ => true,
      used := fun b => [(0, 46), (48, 4 * u16 b 42 + 2 * u16 b 44)], size := fun _ => 48 }
    (fun s m =>
      let b := m.body
      match s.part? m.p with
      | none => s
      | some P =>
        let o := poolOf b
        let bank0 := 48 + 4 * u16 b 42
        let bank := fun (i : Nat) => u16 b (bank0 + 2 * i)
        let S := P.live
        s.checked m
          ([(0, decide (S.streamBase ≤ o.firstStream) && decide (o.firstStream < S.streamBase + S.streamCount)),
            (4, decide (1 ≤ o.streamCount) && decide (o.firstStream + o.streamCount ≤ S.streamBase + S.streamCount)),
            (8, decide (o.base % 32 = 0)), (12, decide (o.size % 32 = 0) && decide (o.base + o.size ≤ bankBytes)),
            (16, decide (1 ≤ o.maxBlocks) && decide (o.maxBlocks ≤ 131072)), (20, decide (o.sharedGroups ≤ S.prefixQuota)),
            (32, decide (o.metaVa % 4096 = 0)), (40, [16, 32, 64, 128].contains o.tokens),
            (41, decide (1 ≤ o.groups) && decide (o.groups ≤ 16)), (42, decide (1 ≤ u16 b 42) && decide (u16 b 42 ≤ 256)),
            (44, decide (1 ≤ u16 b 44) && decide (u16 b 44 ≤ 12288))]
            ++ (List.range (u16 b 42)).map (fun i =>
              (48 + 4 * i, decide (bits (u32 b (48 + 4 * i)) 3 2 ≠ 3) && decide (u32 b (48 + 4 * i) < 64)))
            ++ (List.range (u16 b 44)).map (fun i => (bank0 + 2 * i,
              decide (bank i < 2 ^ 14) && P.localBank (bank i) && !s.cuffFenced (bank i)
                && !((List.range i).any (fun k => decide (bank k = bank i)))))
            ++ [(24, decide (o.lowWater ≤ o.slotsPerBank * o.banks.length))])
          [(some 32, s.metaOk m.p P o), (none, (s.liveStreams m.p).isEmpty)]
          (let s := s.dropStreams m.p
           -- the records of the pool that goes are zeroised (R344), and none of the new pool is VALID (R230)
           let s := match P.pool with | some old => s.clearRecords m.p old | none => s
           let s := s.setPart m.p { P with pool := some o }
           (s.clearRecords m.p o).okay m []))

/-- stream.stats: sixteen counts of 48 bits. -/
def State.statsBody (s : State) (p : Nat) (P : Partition) : Bytes :=
  let inState := fun (st : StreamState) =>
    (s.streams.filter (fun e => decide (e.2.partition = p) && decide (e.2.state = st))).length
  let recs := s.prefixes.filter (fun e => decide (e.2.partition = p))
  let free := P.live.streamCount - (inState .active + inState .idle + inState .draining)
  let idle := match P.pool with
    | some o => (recs.filter (fun e => decide (s.recordRefs p P o e.2.record = 0))).length
    | none => 0
  let slots := match P.pool with | some o => o.freeSlots | none => 0
  let c := P.stats
  [free, inState .active, inState .idle, inState .draining, slots, recs.length, idle, c.evictAlloc, c.evictPublish, c.evictLow,
   c.collisions, c.noRoom, c.exhausted, c.converted, c.clipped, c.nans].flatMap (fun n => natLe 8 (n % 2 ^ 48))

def execStreamStats (fn : Nat) (s : State) : Host.Outcome State Fault Refusal :=
  s.serve fn (queueRow 0x0041 .partition []) (fun s m =>
    match s.part? m.p with
    | none => s
    | some P => s.okay m (s.statsBody m.p P))

end Sys2Proof.Machine
end

