-- ==== Sys2Proof/Machine/Schedule.lean ====
section
/-! DEFINITION. Schedule.lean: schedule tables, their boundaries and guards, the cycle word (R274 to R282). -/

namespace Sys2Proof.Machine

/-! ### The schedules by owner -/

def State.schedule (s : State) : Owner → Option Sched
  | .device => some s.sched
  | .partition p => (s.part? p).map Partition.sched

def State.setSchedule (s : State) (o : Owner) (c : Sched) : State :=
  match o with
  | .device => { s with sched := c }
  | .partition p => s.updPart p (fun P => { P with sched := c })

/-! ### Reading a table (R274, R275, R279, R280) -/

def slotBytes (device : Bool) : Nat := if device then 320 else 896

def tableSlots (t : Bytes) : Nat := u16 t 4

/-- Bytes of slot entry i of a table. -/
def slotEntry (device : Bool) (t : Bytes) (i : Nat) : Bytes := (t.drop (64 + slotBytes device * i)).take (slotBytes device)

def slotStart (device : Bool) (t : Bytes) (i : Nat) : Nat := u32 (slotEntry device t i) 0

/-- End of slot i: the next start, or the end of the major cycle. -/
def slotEnd (device : Bool) (t : Bytes) (i : Nat) : Nat :=
  if i + 1 < tableSlots t then slotStart device t (i + 1) else u32 t 0

/-- A field of a share entry: kinds 0 HOST_TX, 1 HOST_RX, 2 PEER, 3 POWER. -/
def shareOf (entry : Bytes) (p kind : Nat) : Nat := u16 entry (8 + 8 * p + 2 * kind)

/-- Reserved bytes of a slot entry. -/
def slotReserved (device : Bool) (e : Bytes) : Bool :=
  allZero ((e.drop 4).take 4) && allZero (if device then e.drop 264 else e.drop 840)

/-- The table keeps R274 and R275; a device table keeps R280. -/
def State.tableOk (s : State) (device : Bool) (t : Bytes) : Bool :=
  let major := u32 t 0
  let n := tableSlots t
  let slots := List.range n
  decide (100 ≤ major) && decide (major ≤ 100000) && decide (1 ≤ n) && decide (n ≤ 64) && decide (u8 t 6 ≤ 1) && decide (u8 t 7 = 0)
    && decide (u32 t 8 ≤ 10000) && allZero ((t.take 64).drop 12)
    && decide (slotStart device t 0 = 0)
    && slots.all (fun i => decide (slotStart device t i + 100 ≤ slotEnd device t i) && decide (u32 t 8 < slotEnd device t i - slotStart device t i)
      && slotReserved device (slotEntry device t i))
    && decide (slotStart device t (n - 1) + 100 < major)
    && (!device || slots.all (fun i =>
      let e := slotEntry true t i
      (List.range 4).all (fun k => decide (sumNat ((List.range 32).map (fun p => shareOf e p k)) ≤ 1000))
        && (List.range 32).all (fun p => (List.range 4).all (fun k =>
          decide (shareOf e p k ≤ 1000) && (decide (shareOf e p k = 0) || (s.part? p).isSome)))))

def readTable (device : Bool) (t : Bytes) (fn vector word : Nat) : SchedTable :=
  { majorUs := u32 t 0, enabled := decide (u8 t 6 = 1), guardUs := u32 t 8,
    slots := (List.range (tableSlots t)).map (fun i => (slotStart device t i, slotEntry device t i)), fn := fn, vector := vector,
    cycleWord := word }

/-- Shares of a partition over the slots of a table: its share entries with the starts from which they hold, an entry equal to the one before it left
out. -/
def SchedTable.shares (t : SchedTable) (p : Nat) : List (Nat × Bytes) :=
  t.slots.foldl (fun l e =>
    let x := (e.2.drop (8 + 8 * p)).take 8
    match l.getLast? with
    | some y => if y.2 = x then l else l ++ [(e.1, x)]
    | none => [(e.1, x)]) []

/-- What a device table means for a partition's shares: those of its slots, with the cycle they repeat in where they change; without a live table, and
with ENABLED clear, an equal share of each kind, none (R280). n: the partitions that exist. -/
def sharesOf (t : Option SchedTable) (p n : Nat) : Option (Nat × List (Nat × Bytes)) :=
  match t with
  | some t =>
    if !t.enabled then none
    else
      match t.shares p with
      | [e] => if (List.range 4).all (fun k => decide (u16 e.2 (2 * k) * n = 1000)) then none else some (0, [e])
      | l => some (t.majorUs, l)
  | none => none

/-- The new device table leaves the shares of every locked partition as they are (R341). -/
def State.sharesKept (s : State) (t : SchedTable) : Bool :=
  s.parts.all (fun e => !s.tdiLocked e.1
    || decide (sharesOf s.sched.live e.1 s.parts.length = sharesOf (some t) e.1 s.parts.length))

/-! ### sched.load, sched.commit -/

def loadRow (device : Bool) : MsgRow :=
  { code := 0x0050, box := .either, acts := fun _ => !device, exists? := fun _ => !device,
    mine := fun b => decide (u8 b 12 = 1) == device, used := fun _ => [(0, 13), (14, 2), (16, 8)] }

def vectorsOf (fn : Nat) : Nat := if fn = 0 then 32 else 128

/-- sched.load stages a valid table in place of one staged before; an invalid one is refused, with nothing staged. The table
lies in host memory, so that no field of the request is at fault. -/
def State.schedLoad (s : State) (m : Msg) (o : Owner) (device : Bool) : State :=
  let b := m.body
  if s.linkGone then s.hostFails m.fn
  else
    let n := u32 b 8
    let head := s.hostBytes (hostKey m.fn (u64 b 0)) 64
    let t := s.hostBytes (hostKey m.fn (u64 b 0)) (min n (64 + slotBytes device * 64))
    let v := u16 b 14
    let table := readTable device t m.fn v (u64 b 16)
    s.checked m
      [(8, decide (n = 64 + slotBytes device * tableSlots head)), (12, decide (u8 b 12 ≤ 1) && (!device || decide (m.fn = 0))),
       (14, decide (v = 0xFFFF) || decide (v < vectorsOf m.fn)), (16, decide (u64 b 16 % 8 = 0))]
      [(none, s.tableOk device t), (none, !device || s.sharesKept table)]
      (match s.schedule o with
       | some c => (s.setSchedule o { c with staged := some table, armed := false }).okay m []
       | none => s)

def execSchedLoadPartition (fn : Nat) (s : State) : Host.Outcome State Fault Refusal :=
  s.serve fn (loadRow false) (fun s m => s.schedLoad m (.partition m.p) false)

def execSchedLoadDevice (fn : Nat) (s : State) : Host.Outcome State Fault Refusal :=
  s.serve fn (loadRow true) (fun s m => s.schedLoad m .device true)

/-- A cycle word goes to the host, or is discarded and counted while the link is lost (R282, R311). -/
def State.cycleWrite (s : State) (fn addr : Nat) (b : Bytes) : State :=
  if s.linkGone then { s with link := { s.link with cycleDiscards := tput s.link.cycleDiscards fn (tgetD s.link.cycleDiscards fn 0 + 1) } }
  else s.hostWriteFw fn addr b

/-- The cycle word and the vector of a table at the start of a cycle (R282). -/
def State.announceCycle (s : State) (t : SchedTable) (cycles : Nat) : State :=
  let (now, s) := s.readTimer
  let s := if t.cycleWord = 0 then s else s.cycleWrite t.fn t.cycleWord (natLe 8 cycles ++ natLe 8 now)
  if t.vector = 0xFFFF then s else s.raiseVector t.fn t.vector

/-- A table becomes live; its first cycle starts (R276). -/
def State.startTable (s : State) (o : Owner) (t : SchedTable) : State :=
  (s.setSchedule o { live := some t, slot := 0, inGuard := false, cycles := 1, staged := none, armed := false }).announceCycle t 1

/-- sched.commit arms the staged table; with no live table it takes effect at once. -/
def execSchedCommit (fn : Nat) (s : State) : Host.Outcome State Fault Refusal :=
  s.serve fn
    { code := 0x0051, box := .either, acts := fun b => decide (u8 b 0 ≠ 1), exists? := fun b => decide (u8 b 0 ≠ 1),
      used := fun _ => [(0, 1)] }
    (fun s m =>
      let device := decide (u8 m.body 0 = 1)
      let o : Owner := if device then .device else .partition m.p
      s.checked m [(0, decide (u8 m.body 0 ≤ 1) && (!device || decide (m.fn = 0)))]
        [(none, (match s.schedule o with | some c => c.staged.isSome | none => false))]
        (match s.schedule o with
         | none => s
         | some c =>
           match c.live, c.staged with
           | none, some t => (s.startTable o t).okay m []
           | _, _ => (s.setSchedule o { c with armed := true }).okay m []))

/-! ### Boundaries (R276 to R278) -/

/-- A command that a boundary overtakes: of a class that its cluster admits now and not after, or a near-bank command of a
class that loses a pseudo-channel. Answers the island to name. -/
def Partition.overrun (P : Partition) (f : Flight) : Option Nat :=
  let k := P.classOf f.ctx
  let c := P.sched
  if c.admits (8 + f.cluster) k && !c.admitsNext (8 + f.cluster) k then some (islControl f.cluster)
  else if recOp f.bytes / 2 ^ 12 = 5 then
    (P.pcs.find? (fun e => c.admits (72 + e.1) k && !c.admitsNext (72 + e.1) k)).map (fun e => islCuff e.1)
  else none

/-- Overruns at a boundary: an event on the partition mailbox, and one counted entry each (R278). The entry concerns a command, so its STATUS
is a code of R422: that of what the command has met so far (DEDUCED, log 38). -/
def State.boundaryOverruns (s : State) (p : Nat) : State :=
  match s.part? p with
  | none => s
  | some P =>
    s.each (s.flight.filter (fun e => decide (e.2.p = p))) (fun s e =>
      match P.overrun e.2 with
      | none => s
      | some isl =>
        (s.raiseEvent (p + 1) 2).logErr
          { cls := 6, islandA := isl, part := p, queue := e.2.q, tag := recTag e.2.bytes,
            status := e.2.final.code, detail := natLe 1 P.sched.slot })

/-- What a boundary means for the owner's commands. -/
def State.overtake (s : State) : Owner → State
  | .device => s
  | .partition p => s.boundaryOverruns p

/-- SLOT_BOUNDARY: the next slot of the live table begins. -/
def execSlotBoundary (owner : Owner) (s : State) : Host.Outcome State Fault Refusal :=
  match s.schedule owner with
  | none => .next s
  | some c =>
    match c.live with
    | none => .next s
    | some t =>
      if c.slot + 1 < t.slots.length then
        .next ((s.overtake owner).setSchedule owner { c with slot := c.slot + 1, inGuard := false })
      else .next s

/-- MAJOR_CYCLE_START: the last slot has ended; an armed table replaces the live one exactly there. -/
def execMajorCycleStart (owner : Owner) (s : State) : Host.Outcome State Fault Refusal :=
  match s.schedule owner with
  | none => .next s
  | some c =>
    match c.live with
    | none => .next s
    | some t =>
      if c.slot + 1 < t.slots.length then .next s
      else
        let s := s.overtake owner
        match c.armed, c.staged with
        | true, some u => .next (s.startTable owner u)
        | _, _ =>
          .next ((s.setSchedule owner { c with slot := 0, inGuard := false, cycles := c.cycles + 1 }).announceCycle t (c.cycles + 1))

/-- GUARD_INTERVAL: GUARD_US before a boundary of a partition's table. A device table holds no dispatch. -/
def execGuardInterval (owner : Owner) (s : State) : Host.Outcome State Fault Refusal :=
  match owner, s.schedule owner with
  | .partition _, some c =>
    match c.live with
    | some t => if 0 < t.guardUs then .next (s.setSchedule owner { c with inGuard := true }) else .next s
    | none => .next s
  | _, _ => .next s

/-! ### Shares (R281, R351) -/

/-- A throttle level that cuts a die's rate (R34, R360): from 2 on compute dies, from 1 on I/O dies and stacks. -/
def throttles (die level : Nat) : Bool := if die < 4 then decide (2 ≤ level) else decide (1 ≤ level)

/-- Dies that a partition's work runs through: the compute dies of its clusters, the stacks of its pseudo-channels, X0 with the host link, and
X1 where one of its groups has a link there. -/
def State.usesDie (s : State) (p : Nat) (P : Partition) (die : Nat) : Bool :=
  if die < 4 then P.clusterList.any (fun c => decide (c / 16 = die))
  else if die < 16 then P.pcs.any (fun e => decide (e.1 / 64 = die - 4))
  else decide (die = 16) || (s.groupsOf p).any (fun g => (s.groupPorts g).any (fun n => decide (8 ≤ n)))

/-- The brake, or a thermal limit of a die that it uses, holds the partition down (R351). -/
def State.heldDown (s : State) (p : Nat) (P : Partition) : Bool :=
  s.power.brake || s.thermal.levels.any (fun e => throttles e.1 e.2 && s.usesDie p P e.1)

/-- SHARE_GUARD_EXPIRY: a partition is still below its new share GUARD_US after a boundary of the device table. -/
def execShareGuardExpiry (p : Nat) (s : State) : Host.Outcome State Fault Refusal :=
  match s.part? p, s.sched.live with
  | some P, some t =>
    if !t.enabled then .next s
    else if s.heldDown p P then .next (s.logErr { cls := 5, islandA := 0xB000, part := p })
    else .next ((s.raiseEvent 0 2).logErr { cls := 6, islandA := 0xB000, part := p, detail := natLe 1 s.sched.slot })
  | _, _ => .next s

end Sys2Proof.Machine
end

