-- ==== Sys2Proof/Machine/HostConfig.lean ====
section
/-! DEFINITION. HostConfig.lean: what the host reads and sets outside the BARs and in the CXL component registers: configuration space (R289,
R292, R293), reads of VF BAR2 (R108), HDM decoders (R297 to R300). The spec names the features and gives no layout, so configuration space is
held register by register, and REGISTER_WRITE names the register; the component registers are laid out as CXL 3.1 lays them out (PRESUMED,
log 41). -/

namespace Sys2Proof.Machine

/-! ### Configuration space (R289, R292, R293) -/

/-- Size of a BAR; 0 for one that the function does not have (R294, R295). -/
def CfgSpace.barSize (c : CfgSpace) (fn n : Nat) : Nat :=
  if fn = 0 then (if n = 0 then 2 ^ 20 else 0)
  else
    match n with
    | 0 => 2 ^ 18
    | 2 => 2 ^ 22
    | 4 => 2 ^ c.bar4Log2
    | _ => 0

/-- Function 0 is the PF, functions 1 to 32 are the VFs, whether or not their partitions exist (R289, R293). -/
def cfgFn (fn : Nat) : Bool := decide (fn ≤ 32)

/-- A configuration read. -/
def State.cfgRead (s : State) (fn : Nat) : CfgReg → Nat
  | .vendorId => s.ident.vendor.toNat
  | .deviceId => s.ident.part.code + (if fn = 0 then 0 else 1)
  | .classCode => 0x120000
  | .bar n => tgetD (s.cfgSpace fn).bars n 0
  | .bar4Size => if fn = 0 then 0 else (s.cfgSpace fn).bar4Log2
  | .maxPayload => (s.cfgSpace fn).payload
  | .maxReadRequest => (s.cfgSpace fn).readRequest
  | .completionTimeout => (s.cfgSpace fn).timeout
  | .ats => b2n (s.cfgSpace fn).ats
  | .headerLog => match (s.cfgSpace fn).headerLog with | some b => leNat b | none => 0
  | .aspm => 2 * b2n (s.cfgSpace fn).l1
  | .l11 => b2n (s.cfgSpace fn).l11
  | .l0p => b2n (s.cfgSpace fn).l0p
  | .tag14 => b2n (s.cfgSpace fn).tag14
  | .msixEnable => b2n (s.cfgSpace fn).msixEnable
  | .msixMask => b2n (s.cfgSpace fn).msixMask
  | .vfEnable => b2n (s.cfgSpace fn).vfEnable
  | .aerStatus => (s.cfgSpace fn).aer.toNat
  | .pmeEnable => b2n (s.cfgSpace fn).pmeEnable
  | .powerReduction => if fn = 0 then 2 else 0
  | .relaxedOrdering | .pri | .pasid | .msi | .intx => 0

/-- Vectors that are pending go out once nothing masks them. -/
def State.sendPending (s : State) (fn : Nat) : State :=
  if !s.vectorsOn fn then s
  else
    s.each ((s.func fn).pba.filter (fun v => match tget (s.func fn).msix v with | some e => !e.masked | none => false)) (fun s v =>
      (s.updFunc fn (fun F => { F with pba := delNat F.pba v })).emit (.msix fn v (s.fnTee fn)))

/-- A configuration write: values outside what the feature supports, read-only registers and hardwired bits take nothing. -/
def State.cfgWrite (s : State) (fn : Nat) (r : CfgReg) (v : Nat) : State :=
  let c := s.cfgSpace fn
  let when := fun (ok : Bool) (c : CfgSpace) => if ok then s.setCfg fn c else s
  match r with
  | .bar n =>
    let size := c.barSize fn n
    when (decide (size ≠ 0)) { c with bars := tput c.bars n (v % 2 ^ 64 / size * size) }
  | .bar4Size =>
    when (decide (fn ≠ 0) && decide (30 ≤ v) && decide (v ≤ 40))
      { c with bar4Log2 := v, bars := tupd c.bars 4 (fun b => b / 2 ^ v * 2 ^ v) }
  | .maxPayload => when (decide (v ≤ 2)) { c with payload := v }
  | .maxReadRequest => when (decide (v ≤ 5)) { c with readRequest := v }
  | .completionTimeout => when (decide (v = 0) || decide (v = 5) || decide (v = 6)) { c with timeout := v }
  | .ats => when (decide (v ≤ 1)) { c with ats := decide (v = 1), translations := if v = 1 then c.translations else [] }
  -- bit 0 of ASPM control is L0s, which cannot be enabled
  | .aspm => when true { c with l1 := bit v 1 }
  | .l11 => when (decide (v ≤ 1)) { c with l11 := decide (v = 1) }
  | .l0p => when (decide (v ≤ 1)) { c with l0p := decide (v = 1) }
  | .tag14 => when (decide (v ≤ 1)) { c with tag14 := decide (v = 1) }
  | .msixEnable => (when (decide (v ≤ 1)) { c with msixEnable := decide (v = 1) }).sendPending fn
  | .msixMask => (when (decide (v ≤ 1)) { c with msixMask := decide (v = 1) }).sendPending fn
  | .vfEnable => when (decide (fn = 0) && decide (v ≤ 1)) { c with vfEnable := decide (v = 1) }
  | .aerStatus =>
    let left := c.aer &&& ~~~(BitVec.ofNat 32 v)
    when true { c with aer := left, headerLog := if left = 0 then none else c.headerLog }
  | .pmeEnable => when (decide (fn = 0) && decide (v ≤ 1)) { c with pmeEnable := decide (v = 1) }
  | .headerLog | .vendorId | .deviceId | .classCode | .powerReduction | .relaxedOrdering | .pri | .pasid | .msi | .intx => s

/-- A configuration request reaches a function while the link is up; a VF's, while VFs are enabled. -/
def State.cfgReaches (s : State) (fn : Nat) : Bool := s.hostReaches && cfgFn fn && (decide (fn = 0) || (s.cfgSpace 0).vfEnable)

/-- A configuration read of the host. No row of the opcode table is one. -/
def State.hostCfgRead (s : State) (fn : Nat) (r : CfgReg) : Option Nat := if s.cfgReaches fn then some (s.cfgRead fn r) else none

/-- A configuration write of the host: a REGISTER_WRITE. -/
def State.hostCfgWrite (s : State) (fn : Nat) (r : CfgReg) (v : Nat) : State := if s.cfgReaches fn then s.cfgWrite fn r v else s

/-- Bits of AER's Uncorrectable Error Status as PCI Express numbers them (PRESUMED, log 41). -/
def aerTimeout : Nat := 14
def aerAbort : Nat := 15
def aerUnsupported : Nat := 20

/-- AER: an error sets its status bit, and the header of a request that ends in error is logged where none is yet; its 16 bytes are not the
command's, so free (log 8). -/
def State.logAer (s : State) (fn b : Nat) : State :=
  let c := s.cfgSpace fn
  s.setCfg fn { c with aer := c.aer ||| BitVec.ofNat 32 (2 ^ b) }

def State.logHeader (s : State) (fn b : Nat) : State :=
  let s := s.logAer fn b
  let c := s.cfgSpace fn
  match c.headerLog with
  | some _ => s
  | none => (s.setCfg fn { c with headerLog := some (natLe 16 (Config.free s.free 91 fn)) }).tick

/-- ATS is enabled on a function (R291). -/
def State.atsOn (s : State) (fn : Nat) : Bool := (s.cfgSpace fn).ats

/-! ### Requests on a stream that is Insecure, and reads of VF BAR2 (R108, R339, R341) -/

/-- A read of VF BAR2 completes with zeros (R108). -/
def State.bar2Read (s : State) (p len : Nat) (via : Via) : State :=
  if !s.hostReaches || decide (32 ≤ p) || s.streamDrops via then s
  else if !s.barOpen p via then (s.logHeader (p + 1) aerUnsupported).emit (.unsupported (p + 1))
  else s.emit (.readData (p + 1) (zeros len) false)

/-! ### HDM decoders (R297 to R300) -/

def State.hdm (s : State) (p : Nat) : Hdm := tgetD s.link.hdm p {}

def State.setHdm (s : State) (p : Nat) (h : Hdm) : State := { s with link := { s.link with hdm := tput s.link.hdm p h } }

def State.hdmCommitted (s : State) (p : Nat) : Bool := (tget s.link.decoders p).isSome

/-- A decoder may be committed: its partition exists and is not being destroyed, its VF is not locked, and the range is one that CXL allows
(blocks of 256 MiB, apart from other decoders: PRESUMED, log 20). -/
def State.hdmAllowed (s : State) (p base size : Nat) : Bool :=
  (match s.part? p with | some P => (match P.zeroing with | some z => !z.destroy | none => true) | none => false)
    && !s.tdiLocked p && decide (0 < size) && decide (size ≤ 2 ^ 42) && decide (base % 2 ^ 28 = 0) && decide (size % 2 ^ 28 = 0)
    && decide (base + size ≤ 2 ^ 64) && !s.link.decoders.any (fun e => overlaps base size e.2.base e.2.size)

/-- Commit of a decoder with the base and size that its registers hold; one that fails says so in Error Not Committed. -/
def State.hdmCommit (s : State) (p : Nat) : State :=
  let h := s.hdm p
  if s.hdmCommitted p then s
  else if s.hdmAllowed p h.base.toNat h.size.toNat then
    let s := s.setHdm p { h with ctrl := 0x200, error := false }
    { s with link := { s.link with decoders := tput s.link.decoders p { base := h.base.toNat, size := h.size.toNat } } }
  else s.setHdm p { h with ctrl := 0x200, error := true }

/-- The operator clears the commit. -/
def State.hdmUncommit (s : State) (p : Nat) : State :=
  { s.setHdm p { s.hdm p with ctrl := 0, error := false } with link := { (s.setHdm p { s.hdm p with ctrl := 0, error := false }).link with
      decoders := tdel s.link.decoders p } }

/-- Control register: Commit in bit 9, Committed in bit 10, Error Not Committed in bit 11; one-way interleave reads 0. -/
def State.hdmControl (s : State) (p : Nat) : Nat :=
  let h := s.hdm p
  h.ctrl.toNat + b2n (s.hdmCommitted p) * 2 ^ 10 + b2n h.error * 2 ^ 11

/-- The 8 bytes at an aligned offset of the component registers. -/
def State.cxlRegister (s : State) (off : Nat) : Nat :=
  if off = 0x1000 then 0x01110001 + (5 + 3 * 2 ^ 16 + 0x80 * 2 ^ 20) * 2 ^ 32
  else if off = 0x1080 then 0x40C + s.link.hdmGlobal.toNat * 2 ^ 32
  else if 0x1090 ≤ off ∧ off < 0x1490 then
    let n := (off - 0x1090) / 0x20
    match (off - 0x1090) % 0x20 with
    | 0 => (s.hdm n).base.toNat
    | 8 => (s.hdm n).size.toNat
    | 16 => s.hdmControl n
    | _ => 0
  else 0

/-- The part of an access that falls into [lo, hi): its offset there, and its bytes. -/
def cutAccess (off : Nat) (data : Bytes) (lo hi : Nat) : Nat × Bytes :=
  let a := max off lo
  (a - lo, (data.drop (a - off)).take (hi - a))

/-- Bytes with others put over them. -/
def overlay (cur : Bytes) (i : Nat) (b : Bytes) : Bytes := cur.take i ++ b ++ cur.drop (i + b.length)

/-- What an access writes into an 8-byte register: none where it leaves it alone; bytes not written keep `cur`. -/
def regWritten (off : Nat) (data : Bytes) (reg cur : Nat) : Option Nat :=
  let (i, b) := cutAccess off data reg (reg + 8)
  if b.isEmpty then none else some (leNat (overlay (natLe 8 cur) i b))

/-- Apply what is written to a register, if anything is. -/
def State.onReg (s : State) (off : Nat) (data : Bytes) (reg cur : Nat) (f : State → Nat → State) : State :=
  match regWritten off data reg cur with
  | some v => f s v
  | none => s

/-- A write into the registers of one decoder, which begin at `at_`. Base and size of a committed decoder stay; so do their low 28 bits, which are
zero. Commit set commits, commit cleared uncommits. -/
def State.writeDecoder (s : State) (p at_ off : Nat) (data : Bytes) : State :=
  let block := fun (v : Nat) => BitVec.ofNat 64 (v / 2 ^ 28 * 2 ^ 28)
  let s := s.onReg off data at_ (s.hdm p).base.toNat (fun s v => if s.hdmCommitted p then s else s.setHdm p { s.hdm p with base := block v })
  let s := s.onReg off data (at_ + 8) (s.hdm p).size.toNat (fun s v => if s.hdmCommitted p then s else s.setHdm p { s.hdm p with size := block v })
  s.onReg off data (at_ + 16) (s.hdmControl p) (fun s v => if bit v 9 then s.hdmCommit p else s.hdmUncommit p)

/-- A write of the component registers; while the link runs as PCIe there are none (R294). -/
def State.writeCxl (s : State) (off : Nat) (data : Bytes) : State :=
  if !s.link.cxl then s
  else
    let s := s.onReg off data 0x31080 (s.cxlRegister 0x1080)
      (fun s v => { s with link := { s.link with hdmGlobal := BitVec.ofNat 32 (v / 2 ^ 32 % 4) } })
    s.each (List.range 32) (fun s p => s.writeDecoder p (0x31090 + 0x20 * p) off data)

/-- HDM_DECODER_COMMIT: the operator writes base and size of decoder p and commits it (R297, R299). -/
def execHdmDecoderCommit (p base size : Nat) (s : State) : Host.Outcome State Fault Refusal :=
  if s.hostReaches && s.link.cxl && decide (p < 32) && !s.hdmCommitted p then
    .next ((s.setHdm p { s.hdm p with base := BitVec.ofNat 64 base, size := BitVec.ofNat 64 size }).hdmCommit p)
  else .next s

end Sys2Proof.Machine
end

