-- ==== Sys2Proof/Machine/HostLink.lean ====
section
/-! DEFINITION. HostLink.lean: registers in BAR0 and how they are written, the mailbox handover, BAR4 and CXL.mem accesses, failed
reads of host memory, loss of the link, the error log as err.read returns it (R11, R289 to R312, R402 to R404). -/

namespace Sys2Proof.Machine

/-! ### Registers (R8, R11, R293 to R296, R302, R402) -/

/-- The firmware accepts requests on the mailbox (R293, R302, R310). -/
def State.mailReady (s : State) (fn : Nat) : Bool := if fn = 0 then s.boot.served else (s.part? (fn - 1)).isSome

/-- MB_STATUS. -/
def State.mailStatus (s : State) (fn : Nat) : Nat :=
  let F := s.func fn
  b2n (s.mailReady fn) + b2n F.busy * 2 + b2n F.respValid * 4 + F.lastStatus.toNat * 2 ^ 16

/-- ERR_SUMMARY. -/
def State.errSummary (s : State) : Nat :=
  s.log.summary.toNat + b2n s.trust.debugSeen * 2 ^ 12 + s.log.count.toNat * 2 ^ 32

/-- ALERT_N is low; without power and while PERST_N is low it is released (R296, R418, R421). -/
def State.alert (s : State) : Bool := s.alive && decide (s.log.summary ≠ 0)

/-- The window of counters is open to the function (R295, R404). -/
def State.windowOpen (s : State) (fn : Nat) : Bool :=
  decide (fn = 0) || (match s.part? (fn - 1) with | some P => P.live.perfUser | none => false)

/-- An MSI-X table entry as bytes; its place in the region is PCI Express's, PRESUMED (log 17). -/
def Msix.bytes (e : Msix) : Bytes := natLe 8 e.addr.toNat ++ natLe 4 e.data.toNat ++ natLe 4 (b2n e.masked)

def Msix.reset : Msix := { addr := 0, data := 0, masked := true }

def Msix.ofBytes (b : Bytes) : Msix :=
  { addr := BitVec.ofNat 64 (u64 b 0), data := BitVec.ofNat 32 (u32 b 8), masked := bit (u32 b 12) 0 }

def State.msixEntry (s : State) (fn v : Nat) : Msix := tgetD (s.func fn).msix v Msix.reset

/-- The 8 bytes that a read of BAR0 returns at an aligned offset. CTR_VALUE has a command of its own. A VF whose partition does not exist reads
zero at every offset (R293), at the mirror of IDENT that R8 gives every VF too: of the two rules the model follows R293 (DESIGN CHOICE, log 47). -/
def State.register (s : State) (fn off : Nat) : Nat :=
  if decide (fn ≠ 0) && (s.part? (fn - 1)).isNone then 0
  else
    let F := s.func fn
    if off = 0 then s.ident.word
    else if off = 0x1000 then s.mailStatus fn
    else if off = 0x1008 then F.reqSeq.toNat
    else if off = 0x1010 then F.respSeq.toNat
    else if off = 0x1018 then F.event.toNat
    else if off = 0x1020 then F.eventEn.toNat
    else if 0x1100 ≤ off ∧ off < 0x2100 then leNat (cbytes F.req (off - 0x1100) 8)
    else if 0x3000 ≤ off ∧ off < 0x4000 then fld F.resp (off - 0x3000) 8
    else if 0x10000 ≤ off ∧ off < 0x10000 + 16 * vectorsOf fn then
      fld (s.msixEntry fn ((off - 0x10000) / 16)).bytes (off % 16) 8
    else if 0x18000 ≤ off ∧ off < 0x18000 + vectorsOf fn / 8 then
      sumNat ((List.range 64).map (fun i => b2n (F.pba.contains ((off - 0x18000) * 8 + i)) * 2 ^ i))
    else if off = 0x20000 then (if s.windowOpen fn then F.ctrSelect.toNat else 0)
    else if fn = 0 ∧ 0x30000 ≤ off ∧ off < 0x40000 then (if s.link.cxl then s.cxlRegister (off - 0x30000) else 0)
    else if fn = 0 ∧ off = 0x40000 then s.errSummary
    else if fn = 0 ∧ off = 0x50000 then s.log.holdMs.toNat
    else 0

/-! ### The mailbox (R302, R304, R306) -/

/-- An ignored handover or a discarded write of the request buffer (R302, R424). -/
def State.mailIgnored (s : State) (fn : Nat) : State :=
  s.logErr { cls := 0x101, islandA := islPcie, part := if decide (fn ≠ 0) && (s.part? (fn - 1)).isSome then fn - 1 else 0xFF }

/-- A request is handed over: BUSY sets and RESP_VALID clears; a code that no message has is answered at once. -/
def State.handOver (s : State) (fn : Nat) : State :=
  let s := s.updFunc fn (fun F => { F with busy := true, respValid := false, held := false })
  let s := { s with handed := s.handed ++ [fn] }
  let h := s.reqHeader fn
  if knownCodes.contains (s.reqCode fn) then s
  else if u16 h 4 ≠ (s.func fn).reqSeq.toNat then s.respond fn .seqMismatch []
  else if reqMajor h ≠ 1 then s.respond fn .protoUnsupported []
  else s.respond fn .unknownMessage []

/-- A write of MB_REQ_SEQ. In WATCH the request waits with BUSY clear (R354), in the order of the writes (R303). -/
def State.writeReqSeq (s : State) (fn v : Nat) : State :=
  if (s.func fn).busy || !s.mailReady fn then s.mailIgnored fn
  else
    let s := s.updFunc fn (fun F => { F with reqSeq := BitVec.ofNat 16 v })
    if s.power.state = .watch then
      let s := s.updFunc fn (fun F => { F with held := true })
      ({ s with power := { s.power with mail := s.power.mail.filter (fun i => decide (i ≠ fn)) ++ [fn] } } : State).wake .mail
    else (s.wake .mail).handOver fn

/-- A write into the request buffer. -/
def State.writeRequest (s : State) (fn i : Nat) (b : Bytes) : State :=
  if b.isEmpty then s
  else if (s.func fn).busy then s.mailIgnored fn
  else s.updFunc fn (fun F => { F with req := cwrite F.req i b })

/-! ### Writes by access code (R11, R12) -/

/-- A write into the MSI-X table; a vector that is pending goes out when its mask clears. -/
def State.writeMsix (s : State) (fn : Nat) (off : Nat) (data : Bytes) : State :=
  let n := vectorsOf fn
  s.each (List.range n) (fun s v =>
    let (i, b) := cutAccess off data (0x10000 + 16 * v) (0x10000 + 16 * v + 16)
    if b.isEmpty then s
    else
      let e := Msix.ofBytes (overlay (s.msixEntry fn v).bytes i b)
      let s := s.updFunc fn (fun F => { F with msix := tput F.msix v e })
      if !e.masked && s.vectorsOn fn && (s.func fn).pba.contains v then
        (s.updFunc fn (fun F => { F with pba := delNat F.pba v })).emit (.msix fn v (s.fnTee fn))
      else s)

/-- The counter that CTR_SELECT names, if the window may read it (R402, R404). -/
def State.selected (s : State) (fn : Nat) : Option Nat :=
  let sel := (s.func fn).ctrSelect.toNat
  if fn = 0 then (if s.selectorLegal sel then some sel else none)
  else
    match s.part? (fn - 1) with
    | some P => if s.tenantMay P sel then some sel else none
    | none => none

/-- The performance window: CTR_SELECT is RW, OVF of CTR_VALUE is W1C. -/
def State.writeWindow (s : State) (fn off : Nat) (data : Bytes) : State :=
  if !s.windowOpen fn then s
  else
    let s := s.onReg off data 0x20000 (s.func fn).ctrSelect.toNat
      (fun s v => s.updFunc fn (fun F => { F with ctrSelect := BitVec.ofNat 32 v }))
    s.onReg off data 0x20008 0 (fun s v =>
      match s.selected fn with
      | some sel =>
        -- what has been counted up to the write is counted first, so that a wrap before it is cleared with the rest (R399)
        if bit v 63 then
          let s := (s.sampleCounter sel).2
          { s with perf := { s.perf with ctrs := tupd s.perf.ctrs sel (fun c => { c with ovf := false }) } }
        else s
      | none => s)

/-- CXL component registers, ERR_SUMMARY and HOSTLOSS_HOLD, on the PF only (R294, R296). -/
def State.writePf (s : State) (off : Nat) (data : Bytes) : State :=
  let s := s.writeCxl off data
  let s := s.onReg off data 0x40000 0 (fun s v =>
    { s with log := { s.log with summary := s.log.summary &&& ~~~(BitVec.ofNat 12 v) } })
  s.onReg off data 0x50000 s.log.holdMs.toNat (fun s v =>
    if v % 2 ^ 32 ≤ 600000 then { s with log := { s.log with holdMs := BitVec.ofNat 32 v } } else s)

/-- A write of BAR0 acts on every register it touches; the handover comes last (log 17). MB_EVENT_EN keeps and reads back all its 64 bits, though
only bits 0 to 8 enable an event; a write that reaches nothing of MB_REQ_SEQ but its zero bits [63:16] is a write of MB_REQ_SEQ and hands the
request over with the sequence as it stood (DESIGN CHOICE, log 37). -/
def State.writeBar0 (s : State) (fn off : Nat) (data : Bytes) : State :=
  let s := s.onReg off data 0x1018 0 (fun s v =>
    s.updFunc fn (fun F => { F with event := F.event &&& ~~~(BitVec.ofNat 9 v) }))
  let s := s.onReg off data 0x1020 (s.func fn).eventEn.toNat (fun s v =>
    s.updFunc fn (fun F => { F with eventEn := BitVec.ofNat 64 v }))
  let buf := cutAccess off data 0x1100 0x2100
  let s := s.writeRequest fn buf.1 buf.2
  let s := s.writeMsix fn off data
  let s := s.writeWindow fn off data
  let s := if fn = 0 then s.writePf off data else s
  s.onReg off data 0x1008 (s.func fn).reqSeq.toNat (fun s v => s.writeReqSeq fn v)

/-- Does a function answer in its BARs? A VF without a partition discards writes and reads zero (R293). -/
def State.fnExists (s : State) (fn : Nat) : Bool := decide (fn = 0) || (decide (fn ≤ 32) && (s.part? (fn - 1)).isSome)

/-- A request to the BARs of a function counts (R341). -/
def State.fnOpen (s : State) (fn : Nat) (via : Via) : Bool := decide (fn = 0) || s.barOpen (fn - 1) via

/-- REGISTER_WRITE: a write of a register of function fn, in BAR0 or in configuration space. A VF without a partition has READY clear, so that a
handover there is one that is ignored and logged (R302). -/
def execRegisterWrite (fn : Nat) (reg : HostReg) (data : Bytes) (via : Via) (s : State) : Host.Outcome State Fault Refusal :=
  match (Instr.registerWrite fn reg data via).illFormed with
  | some _ => .next s
  | none =>
    match reg with
    | .config r => .next (if s.streamDrops via then s else s.hostCfgWrite fn r (leNat data))
    | .bar0 offset =>
      if !s.hostReaches || decide (32 < fn) || s.streamDrops via || !s.fnOpen fn via then .next s
      else if s.fnExists fn then .next (s.writeBar0 fn offset data)
      else .next (s.onReg offset data 0x1008 0 (fun s _ => s.mailIgnored fn))

/-- CTR_VALUE_READ: the window of a function samples the counter it selects (R402 to R404). A read of a VF in RUN that does not come on its
bound stream is an Unsupported Request (R341). -/
def execCtrValueRead (read : CtrRead) (s : State) : Host.Outcome State Fault Refusal :=
  let fn := read.fn
  let via := read.via
  if !s.hostReaches || decide (32 < fn) || s.streamDrops via then .next s
  else if !s.fnOpen fn via then .next ((s.logHeader fn aerUnsupported).emit (.unsupported fn))
  else if !s.fnExists fn || !s.windowOpen fn then .next (s.emit (.regData fn (zeros 8)))
  else
    match s.selected fn with
    | none => .next (s.emit (.regData fn (natLe 8 (2 ^ 62))))
    | some sel =>
      let (c, s) := s.sampleCounter sel
      .next (s.emit (.regData fn (natLe 8 (c.count + b2n c.ovf * 2 ^ 63))))

/-! ### err.read (R309) -/

def State.logFor (s : State) (fn : Nat) : List LogEntry := s.log.entries.filter (fun e => e.forFn fn && !e.readBy.contains fn)

/-- Mark the first n unread entries of a mailbox as read. -/
def markRead (fn : Nat) : Nat → List LogEntry → List LogEntry
  | 0, l => l
  | _, [] => []
  | n + 1, e :: t =>
    if e.forFn fn && !e.readBy.contains fn then { e with readBy := addNat e.readBy fn } :: markRead fn n t
    else e :: markRead fn (n + 1) t

def execErrRead (fn : Nat) (s : State) : Host.Outcome State Fault Refusal :=
  s.serve fn { code := 0x0070, box := .either, early := true, used := fun _ => [(0, 13)] } (fun s m =>
    let b := m.body
    s.checked m [(12, decide (u8 b 12 ≤ 1))] []
      (let l := (s.logFor m.fn).take (u32 b 8)
       let s := s.hostWriteFw m.fn (u64 b 0) (l.flatMap LogEntry.bytes)
       let s := if u8 b 12 = 1 then { s with log := { s.log with entries := markRead m.fn l.length s.log.entries } } else s
       s.okay m (natLe 4 l.length ++ natLe 4 (tgetD s.log.lost m.fn 0))))

/-! ### BAR4 (R296) -/

/-- The host as a writer of device memory: no command of the device, a new one for each of its writes. -/
def hostWriter (p seed : Nat) : Writer := { cmd := 2 ^ 64 + seed, p := p, q := 64, cluster := 0, engine := 0, kind := 0 }

/-- An entry about a host access, at an address. -/
def State.logHost (s : State) (cls part addr : Nat) : State :=
  s.logErr { cls := cls, islandA := islPcie, part := part, loc := natLe 8 addr }

/-- Every byte of a window access lies in a mapped page. -/
def State.bar4Segs (s : State) (p : Nat) (off len : Nat) : Option (List Seg) :=
  match s.part? p with
  | none => none
  | some P => if off + len ≤ 2 ^ 40 then s.segs p P off len else none

/-- A read through the window once the device can serve it. -/
def State.bar4Read (s : State) (p off len : Nat) : State :=
  if (s.part? p).isNone then s.emit (.readData (p + 1) (zeros len) false)
  else
    match s.bar4Segs p off len with
    | none => ((s.logHost 0x102 p off).logHeader (p + 1) aerAbort).emit (.readAbort (p + 1))
    | some l =>
      let bad := s.badAll l
      let data := s.viewAll .host l
      let s := s.meetAll l
      let s := if bad then s.logHost 0x103 p off else s
      (s.emit (.readData (p + 1) data bad)).tick

/-- HOST_BAR4_READ. In WATCH the read waits for the exit (R354); after a trip nothing completes (R364). -/
def execHostBar4Read (p offset len : Nat) (via : Via) (s : State) : Host.Outcome State Fault Refusal :=
  match (Instr.hostBar4Read p offset len via).illFormed with
  | some _ => .next s
  | none =>
    if !s.hostReaches || decide (32 ≤ p) || s.thermal.tripped || s.streamDrops via then .next s
    else if !s.barOpen p via then .next ((s.logHeader (p + 1) aerUnsupported).emit (.unsupported (p + 1)))
    else
      let s := s.wake .host
      if s.power.state = .watch then .next { s with power := { s.power with held := s.power.held ++ [.bar4 p offset len] } }
      else .next (s.bar4Read p offset len)

/-- A write of device memory by the host: discarded where it meets a protected range (R75, R231). A write only part of which lies there is
discarded whole (DESIGN CHOICE, log 39). -/
def State.hostStore (s : State) (p : Nat) (P : Partition) (va at? : Nat) (l : List Seg) (data : Bytes) : State :=
  if P.protectedVa va data.length then s.logHost 0x104 p at? else (s.writeAll (hostWriter p s.free) l data false).tick

/-- HOST_BAR4_WRITE. Bytes that arrive in WATCH are held in order and nothing reads them before the exit (log 22). -/
def execHostBar4Write (p offset : Nat) (data : Bytes) (via : Via) (s : State) : Host.Outcome State Fault Refusal :=
  match (Instr.hostBar4Write p offset data via).illFormed with
  | some _ => .next s
  | none =>
    if !s.hostReaches || decide (32 ≤ p) || s.streamDrops via || !s.barOpen p via then .next s
    else
      let s := s.wake .host
      match s.part? p with
      | none => .next s
      | some P =>
        match s.bar4Segs p offset data.length with
        | none => .next (s.logHost 0x102 p offset)
        | some l => .next (s.hostStore p P offset offset l data)

/-! ### CXL.mem (R85, R297 to R300) -/

/-- The decoder that maps a host physical address: its partition and the offset in its device range. -/
def State.decode (s : State) (hpa : Nat) : Option (Nat × Nat) :=
  (s.link.decoders.find? (fun e => decide (e.2.base ≤ hpa) && decide (hpa < e.2.base + e.2.size))).map
    (fun e => (e.1, hpa - e.2.base))

/-- Device virtual address of an offset in a device range. -/
def deviceRange (o : Nat) : Option Nat :=
  if o < 2 ^ 40 then some o else if 2 ^ 41 ≤ o ∧ o < 2 ^ 42 then some (o - 2 ^ 41 + localBase) else none

/-- Where a line lies: partition, device virtual address, stretches. -/
def State.cxlPlace (s : State) (hpa : Nat) : Option (Nat × Partition × Nat × List Seg) :=
  match s.decode hpa with
  | none => none
  | some (p, o) =>
    match s.part? p, deviceRange o with
    | some P, some va => (s.segs p P va 64).map (fun l => (p, P, va, l))
    | _, _ => none

/-- Partition of a committed decoder, for the log. -/
def State.cxlPart (s : State) (hpa : Nat) : Nat := match s.decode hpa with | some e => e.1 | none => 0xFF

/-- A read of a line once the device can serve it. -/
def State.cxlRead (s : State) (hpa : Nat) : State :=
  match s.cxlPlace hpa with
  | none => (s.logHost 0x102 (s.cxlPart hpa) hpa).emit (.cxlData (zeros 64) true)
  | some (p, _, _, l) =>
    let bad := s.badAll l
    let data := s.viewAll .host l
    let s := s.meetAll l
    let s := if bad then s.logHost 0x103 p hpa else s
    (s.emit (.cxlData data bad)).tick

def execCxlMemRead (hpa : Nat) (s : State) : Host.Outcome State Fault Refusal :=
  match (Instr.cxlMemRead hpa).illFormed with
  | some _ => .next s
  | none =>
    if !s.hostReaches || !s.link.cxl || s.thermal.tripped then .next s
    else
      let s := s.wake .host
      if s.power.state = .watch then .next { s with power := { s.power with held := s.power.held ++ [.cxl hpa] } }
      else .next (s.cxlRead hpa)

/-- The last host write is readable at DEVICE scope (R257). -/
def State.settleCxl (s : State) (seed : Nat) : State :=
  s.raiseScope (fun u => if u.kind = 0 ∧ u.cmd = 2 ^ 64 + seed then { u with scope := .device } else u)

/-- CXL_MEM_WRITE: the completion follows once the write is readable at DEVICE scope (R257). -/
def execCxlMemWrite (hpa : Nat) (data : Bytes) (s : State) : Host.Outcome State Fault Refusal :=
  match (Instr.cxlMemWrite hpa data).illFormed with
  | some _ => .next s
  | none =>
    if !s.hostReaches || !s.link.cxl || s.thermal.tripped then .next s
    else
      let s := s.wake .host
      let s := match s.cxlPlace hpa with
        | none => s.logHost 0x102 (s.cxlPart hpa) hpa
        | some (p, P, va, l) => (s.hostStore p P va hpa l data).settleCxl s.free
      .next (s.emit .cxlDone)

/-! ### Failed reads of host memory (R290, R291) -/

/-- A read of host memory that a command in flight needed fails. A near-bank command sends no further entries and ends when those
sent have ended; another ends at once, with its destination undefined. -/
def State.commandReadFails (s : State) (id : Nat) (f : Flight) (st : Status) : State :=
  match f.nb with
  | some _ => (s.updFlight id (fun f => { f with nb := f.nb.map (fun n => { n with toSend := [], waiting := false }) })).condition id st
  | none => (((s.dropWork id).scramble f.writes).condition id st).complete id

/-- What a failure makes of a command: an access that ATS refuses is BOUNDS, every other failure HOST_TIMEOUT. -/
def failStatus : ReadFailure → Status
  | .atsRefused => .bounds
  | _ => .hostTimeout

/-- Codes of the messages that read host memory beside an indirect body: sched.load, fw.stage, peer.topology, lic.install. -/
def readingCodes : List Nat := [0x0050, 0x0090, 0x00C0, 0x00E0]

/-- A read for a message in hand may fail. -/
def State.firmwareReads (s : State) (fn : Nat) : Bool :=
  let h := s.reqHeader fn
  (s.func fn).busy && (s.func fn).waitFor.isNone && decide (u16 h 4 = (s.func fn).reqSeq.toNat) && decide (reqMajor h = 1)
    && (reqIndirect h || readingCodes.contains (s.reqCode fn))

/-- A span list in host memory whose read fails at dispatch (R428): of a record that may dispatch, whose own fields are legal and whose list the
checks read. -/
def State.spanReadFails (s : State) (p q : Nat) (st : Status) : State :=
  match s.site? p q with
  | none => s
  | some d =>
    if s.mayDispatch p q d.P d.Q d.b && (headerBad d.b).isNone && d.Q.predicate d.b && s.readsSpans d
    then s.endAtDispatch d st 0xFF 0 else s

/-- An access may fail this way: ATS refuses and times out only where it is enabled on the function (R291). -/
def State.mayFail (s : State) (fn : Nat) : ReadFailure → Bool
  | .atsRefused | .atsTimeout => s.atsOn fn
  | _ => true

/-- A command in flight whose access to host memory fails this way: a read, or, of ATS, a write too, to a page whose translation the device does not
hold (R290, R291). -/
def State.commandFails (s : State) (f : Flight) (failure : ReadFailure) : Bool :=
  s.mayFail (f.p + 1) failure
    && (match failure with
      | .atsRefused | .atsTimeout => (f.readsHost || f.writesHost) && !(!f.hostPages.isEmpty && s.holdsAll (f.p + 1) f.hostPages)
      | _ => f.readsHost)

/-- A read that got no completion is an error of the function that made it, which AER shows. -/
def State.aerFailure (s : State) (fn : Nat) (failure : ReadFailure) : State := if failure = .timeout then s.logAer fn aerTimeout else s

/-- HOST_READ_TIMEOUT: a device access to host memory fails (R290, R291). -/
def execHostReadTimeout (reader : HostReader) (failure : ReadFailure) (s : State) : Host.Outcome State Fault Refusal :=
  match reader with
  | .command id =>
    match tget s.flight id with
    | some f => if s.commandFails f failure then .next ((s.aerFailure (f.p + 1) failure).commandReadFails id f (failStatus failure)) else .next s
    | none => .next s
  | .dispatch p q => .next (if s.mayFail (p + 1) failure then s.spanReadFails p q (failStatus failure) else s)
  | .consumer p q =>
    match s.queue? p q with
    | some Q => if s.mayFail (p + 1) failure && (Q.full || !Q.held.isEmpty) then .next ((s.aerFailure (p + 1) failure).consumerFails p q) else .next s
    | none => .next s
  | .firmware fn => if s.mayFail fn failure && s.firmwareReads fn then .next ((s.aerFailure fn failure).hostFails fn) else .next s

/-! ### Loss of the link (R311, R339, R340) -/

/-- Every IDE stream ends and every locked interface goes to ERROR. -/
def State.endStreams (s : State) : State :=
  let s := s.each ((List.range 32)) State.tdiError
  { s with trust := { s.trust with ide := [] } }

def execHostLinkDown (s : State) : Host.Outcome State Fault Refusal :=
  if s.alive && decide (s.link.state = .up) then .next ({ s with link := { s.link with state := .down } } : State).endStreams else .next s

def execHostLinkRecovery (s : State) : Host.Outcome State Fault Refusal :=
  if s.alive && decide (s.link.state = .down) then .next { s with link := { s.link with state := .up } } else .next s

/-- Every partition is destroyed, the unassigned state follows (R311, order 4b). -/
def State.holdEnds (s : State) : State :=
  let s := { s with link := { s.link with state := .expired } }
  s.each (s.parts.map Prod.fst) (fun s p => s.beginZeroing p true none)

/-- Order 3 of R311: host-window reads under way fail at once; which commands still had one is a free choice (log 8). -/
def State.readsEnd (s : State) : State :=
  let reading := s.flight.filter (fun e => e.2.readsHost && decide (Config.free s.free 68 e.1 % 2 = 0))
  s.tick.each (reading.map Prod.fst) (fun s id =>
    match tget s.flight id with
    | some f => s.commandReadFails id f .hostTimeout
    | none => s)

/-- HOST_LINK_LOSS: 10 ms have passed. A HOLD_MS of 0 goes from order 2 straight to order 4b. -/
def execHostLinkLoss (s : State) : Host.Outcome State Fault Refusal :=
  if s.alive && decide (s.link.state = .down) then
    let s : State := { s with link := { s.link with state := .lost } }
    let s := s.logErr { cls := 11, islandA := islPcie }
    .next (if s.log.holdMs = 0 then s.holdEnds else s.readsEnd)
  else .next s

/-- Queues with a discarded host write. -/
def State.hurtQueues (s : State) : List (Nat × Nat) :=
  s.parts.flatMap (fun e => (e.2.queues.filter (fun x => decide (0 < x.2.discarded))).map (fun x => (e.1, x.1)))

def Partition.clearDiscards (P : Partition) : Partition :=
  { P with queues := P.queues.map (fun e => (e.1, { e.2 with discarded := 0 })) }

/-- HOST_LINK_RESTORED: within the hold, queues that lost a host write break and the event is raised; after it, the link is merely
up again. -/
def execHostLinkRestored (s : State) : Host.Outcome State Fault Refusal :=
  if !s.alive then .next s
  else
    match s.link.state with
    | .lost =>
      let hurt := s.hurtQueues
      let s : State := { s with link := { s.link with state := .up, cycleDiscards := [] }, parts := s.parts.map (fun e => (e.1, e.2.clearDiscards)) }
      let s : State := s.each hurt (fun s e => s.breakQueue e.1 e.2)
      .next (s.raiseEvent 0 7)
    | .expired => .next { s with link := { s.link with state := .up } }
    | _ => .next s

def execHostLinkHoldExpiry (s : State) : Host.Outcome State Fault Refusal :=
  if s.alive && decide (s.link.state = .lost) then .next s.holdEnds else .next s

end Sys2Proof.Machine
end

