-- ==== Sys2Proof/Machine/Power.lean ====
section
/-! DEFINITION. Power.lean: the governor, the brake, power states and their wake conditions, sensors and throttle levels, and the
messages about them (R34, R35, R281, R345 to R364). Watts are counted in units of 10 µW. -/

namespace Sys2Proof.Machine

/-! ### The governed budget (R345, R346, R349, R350) -/

def watt : Nat := 100000

/-- The cap that the governor uses. -/
def State.governedCap (s : State) : Nat := if s.power.brake then 700 else s.power.capW

/-- Fitted stacks. -/
def State.stackCount (s : State) : Nat := ((List.range 12).filter s.stackFitted).length

/-- B = CAP_W − R, less what R349 has taken off; zero at least. -/
def State.governedBudget (s : State) (ioDraw : Nat) : Nat :=
  let cap := s.governedCap
  cap * watt - 5 * watt * s.stackCount - ioDraw - cap * 8 * (watt / 100) - s.power.cut

/-- Peaks: 11.25 W of a cluster island, 1.09375 W of a pseudo-channel island. -/
def clusterPeak : Nat := 1125000
def pcPeak : Nat := 109375

/-- A governed island: its identifier, its demand, its peak. -/
structure Governed where
  isl : Nat
  demand : Nat
  peak : Nat
  deriving DecidableEq, Repr

/-- Issue fraction of an island, in 64ths. -/
def State.fraction (s : State) (isl : Nat) : Nat := tgetD s.power.fractions isl 64

/-- Demand: the draw of the last epoch over the fraction granted, at most the peak. -/
def State.governed (s : State) (draws : List (Nat × Nat)) (isl peak : Nat) : Governed :=
  { isl := isl, demand := min peak (tgetD draws isl 0 * 64 / s.fraction isl), peak := peak }

/-- The governed islands of a partition. -/
def State.islandsOf (s : State) (draws : List (Nat × Nat)) (P : Partition) : List Governed :=
  P.clusterList.map (fun c => s.governed draws (islArith c) clusterPeak)
    ++ P.pcs.map (fun e => s.governed draws (islCuff e.1) pcPeak)

def demandOf (l : List Governed) : Nat := sumNat (l.map Governed.demand)

/-! ### Sharing the budget among partitions (R280, R281, R347) -/

/-- A claim on the budget: partition, share weight, demand, what it has been given. -/
structure Claim where
  p : Nat
  share : Nat
  demand : Rat
  given : Rat
  deriving DecidableEq

/-- POWER shares: those of the live slot per mille, else an equal share each. Answers the weights and their unit. -/
def State.powerShares (s : State) : List (Nat × Nat) × Nat :=
  let equal := (s.parts.map (fun e => (e.1, 1)), s.parts.length)
  match s.sched.live with
  | none => equal
  | some t =>
    if t.enabled then
      match t.slots[s.sched.slot]? with
      | some e => (s.parts.map (fun x => (x.1, shareOf e.2 x.1 3)), 1000)
      | none => equal
    else equal

/-- One round of handing out what is left, in proportion to the shares of those that want more. -/
def shareRound (left : Rat) (l : List Claim) : List Claim :=
  let want := l.filter (fun c => decide (c.given < c.demand) && decide (0 < c.share))
  let total := sumNat (want.map Claim.share)
  l.map (fun c =>
    if decide (c.given < c.demand) && decide (0 < c.share) then
      { c with given := min c.demand (c.given + left * c.share / total) } else c)

def givenSum (l : List Claim) : Rat := l.foldl (fun a c => a + c.given) 0

/-- Rounds until nothing is left or nobody with a share wants more; then those without a share, equally. -/
def shareRounds (budget : Rat) : Nat → List Claim → List Claim
  | 0, l => l
  | k + 1, l =>
    let left := budget - givenSum l
    if left ≤ 0 then l
    else if l.any (fun c => decide (c.given < c.demand) && decide (0 < c.share)) then shareRounds budget k (shareRound left l)
    else
      let poor : List Claim := l.map (fun c => { c with share := 1 })
      if poor.any (fun c => decide (c.given < c.demand)) then shareRounds budget k (shareRound left poor) else l

/-- What each partition may draw: its guarantee, and what others leave. -/
def State.budgets (s : State) (budget : Nat) (demands : List (Nat × Nat)) : List (Nat × Rat) :=
  let (shares, unit) := s.powerShares
  let claims := demands.map (fun d =>
    let w := tgetD shares d.1 0
    ({ p := d.1, share := w, demand := d.2, given := min (d.2 : Rat) ((budget : Rat) * w / unit) } : Claim))
  (shareRounds budget (2 * claims.length + 2) claims).map (fun c => (c.p, c.given))

/-! ### Issue fractions (R347) -/

/-- The largest f with the sum of min(d, f p) within the budget, over islands in rising order of d / p. -/
def largestF (budget : Rat) : List Governed → Rat
  | [] => 1
  | g :: t =>
    let peaks : Nat := sumNat ((g :: t).map Governed.peak)
    if (g.demand : Rat) / g.peak * peaks ≤ budget then largestF (budget - g.demand) t
    else max 0 (min 1 (budget / peaks))

def ratioLe (a b : Governed) : Bool := decide (a.demand * b.peak ≤ b.demand * a.peak)

/-- The fraction granted, in 64ths. -/
def grant (f : Rat) (g : Governed) : Nat :=
  if g.demand = 0 then 64
  else max 1 (min 64 ((64 * f * g.peak / g.demand).floor.toNat))

/-- Fractions below 64/64 that an epoch grants. -/
def State.grants (s : State) (budget : Nat) (draws : List (Nat × Nat)) : Tab Nat :=
  let islands := s.parts.map (fun e => (e.1, s.islandsOf draws e.2))
  let budgets := s.budgets budget (islands.map (fun e => (e.1, demandOf e.2)))
  islands.foldl (fun t e =>
    let f := largestF (tgetD budgets e.1 0) (sortBy ratioLe e.2)
    e.2.foldl (fun t g => if grant f g < 64 then tput t g.isl (grant f g) else t) t) []

/-- GOVERNOR_EPOCH: the draw of the I/O dies over the last 1 ms and the islands' draws in the last epoch are measured. -/
def execGovernorEpoch (ioDraw : Nat) (draws : List (Nat × Nat)) (s : State) : Host.Outcome State Fault Refusal :=
  if s.alive && decide (s.power.state ≠ .watch) then
    let t := s.grants (s.governedBudget ioDraw) draws
    let s := { s with power := { s.power with fractions := t } }
    .next (if t.isEmpty then s else s.countIo 3 0 0xCA 1 0 0)
  else .next s

/-- GOVERNOR_BUDGET_UPDATE: over the cap, B falls by the excess; below it, B rises by at most 1 % of CAP_W: how much is open
(log 8). -/
def execGovernorBudgetUpdate (meanDraw : Nat) (s : State) : Host.Outcome State Fault Refusal :=
  if s.alive then
    let cap := s.governedCap * watt
    let rise := Config.free s.free 69 0 % (cap / 100 + 1)
    let cut := if cap < meanDraw then s.power.cut + (meanDraw - cap) else if meanDraw < cap then s.power.cut - rise else s.power.cut
    .next ({ s with power := { s.power with mean := meanDraw, cut := cut } } : State).tick
  else .next s

def execPwrbrkAssert (s : State) : Host.Outcome State Fault Refusal := .next { s with power := { s.power with brake := true } }

def execPwrbrkRelease (s : State) : Host.Outcome State Fault Refusal := .next { s with power := { s.power with brake := false } }

/-! ### Power states (R352 to R355) -/

/-- Quiet, but for the time without peer frames, which the sender of the command watches (log 9). -/
def State.quiet (s : State) : Bool :=
  s.flight.isEmpty
    && s.parts.all (fun e => e.2.zeroing.isNone && e.2.queues.all (fun x =>
      decide (s.queueState e.1 x.1 x.2 = 0) || decide (s.queueState e.1 x.1 x.2 = 2)))
    && !s.funcs.any (fun e => e.2.busy)
    && s.tests.all (fun e => e.2.done)

/-- Nothing goes on whose crossings cannot be parked: no command in flight, no zeroisation, no test, and no request that the firmware is working on
(R355, R375). -/
def State.settled (s : State) : Bool :=
  s.flight.isEmpty && s.parts.all (fun e => e.2.zeroing.isNone) && s.tests.all (fun e => e.2.done) && !s.funcs.any (fun e => e.2.waitFor.isSome)

/-- A state is entered. In WATCH the Cuff-group islands are off: what their SRAMs held is gone (R352). -/
def State.setPower (s : State) (p : PState) : State :=
  { s with power := { s.power with state := p, wakeHost := false, wakeMail := false, wakePeer := false, exiting := false },
           near := { s.near with sram := if p = .watch then [] else s.near.sram } }

/-- A Cuff whose microcode fails its digest twice when its island powers up is fenced as at boot (R71). -/
def State.reloadFails (s : State) (bank : Nat) : State :=
  if s.pcPresent (bank / 16) then (s.setSram bank { s.sram bank with microcode := none }).fenceCuff bank 3 else s

/-- Does the microcode of a Cuff fail its digest twice as it is loaded anew? The flash and the SRAM decide, so it is a free value (R71, log 8). -/
def State.reloadBad (s : State) (bank : Nat) : Bool := decide (Config.free s.free 95 bank % 2 = 1)

/-- The Cuff-group islands of some pseudo-channels load their microcode anew. -/
def State.reloadCuffs (s : State) (pcs : List Nat) : State :=
  (s.each ((pcs.flatMap (fun pc => (List.range 16).map (fun i => pc * 16 + i))).filter s.reloadBad) State.reloadFails).tick

def execIdleEntry (s : State) : Host.Outcome State Fault Refusal :=
  if s.alive && decide (s.power.state = .active) && decide (s.power.rest ≠ .active) && s.quiet then .next (s.setPower .idle)
  else .next s

/-- WATCH_ENTRY: after IDLE where the rest state is WATCH; in D3hot whatever the rest state, once nothing goes on that could not be parked (R353, R355). -/
def execWatchEntry (s : State) : Host.Outcome State Fault Refusal :=
  if s.alive && ((decide (s.power.state = .idle) && decide (s.power.rest = .watch) && s.quiet)
      || (s.link.d3hot && decide (s.power.state ≠ .watch) && s.settled)) then .next (s.setPower .watch)
  else .next s

/-- A host read that waited. -/
def State.servedHeld (s : State) : HeldRead → State
  | .bar4 p off len => s.bar4Read p off len
  | .cxl hpa => s.cxlRead hpa

/-- The end of WATCH (R354): the Cuff groups have reloaded their microcode; waiting requests are taken in the order of their MB_REQ_SEQ writes
(R303), waiting reads completed. -/
def State.leaveWatch (s : State) : State :=
  let reads := s.power.held
  let mail := s.power.mail
  let s := (s.setPower .active).reloadCuffs (List.range 768)
  let s := { s with power := { s.power with held := [], mail := [] } }
  let s := s.each mail State.handOver
  s.each reads State.servedHeld

/-- WATCH_EXIT_COMPLETE. In D3hot no exit ends: only D0 leads out (R355). -/
def execWatchExitComplete (s : State) : Host.Outcome State Fault Refusal :=
  if s.alive && decide (s.power.state = .watch) && s.power.exiting && !s.link.d3hot && !s.thermal.tripped then .next (s.leaveWatch) else .next s

/-- PF_D3HOT: WATCH, whatever the rest state; an exit under way is given up (R355). Commands in flight end first, since a crossing toward which a
watchdog counts is not parked (R375): nothing new dispatches, and WATCH_ENTRY follows (DESIGN CHOICE, log 30). -/
def execPfD3hot (s : State) : Host.Outcome State Fault Refusal :=
  if s.hostReaches then
    let s := { s with link := { s.link with d3hot := true } }
    .next (if s.power.state = .watch then { s with power := { s.power with exiting := false } }
      else if s.settled then s.setPower .watch else s)
  else .next s

/-- PF_D0: ACTIVE; the rest state applies again from there. Reads that wait are not completed after a trip (R364). -/
def execPfD0 (s : State) : Host.Outcome State Fault Refusal :=
  if s.hostReaches && s.link.d3hot && !s.thermal.tripped then
    let s := { s with link := { s.link with d3hot := false } }
    .next (if s.power.state = .watch then s.leaveWatch else { s with power := { s.power with state := .active } })
  else .next s

/-! ### Sensors (R357, R358) -/

/-- Sensors of a die: stacks hold 64 in DRAM dies, then 16 in the base die. -/
def sensorCount (die : Nat) : Nat := if die < 4 then 96 else if die < 16 then 80 else 32

/-- Number of a sensor of the device. -/
def sensorId (die i : Nat) : Nat := die * 128 + i

/-- The die exists. -/
def State.dieFitted (s : State) (die : Nat) : Bool :=
  decide (die < 4) || (decide (die < 16) && s.stackFitted (die - 4)) || decide (die = 16)
    || (decide (die = 17) && s.ident.part.hasX1)

/-- T = 30 + (count − c30) * 70 / (c100 − c30), in quarter degrees, rounded to the nearest, a half upward (log 8); a free reading where the two
counts are equal. -/
def sensorTemp (cal : Nat × Nat) (count : Nat) : Int :=
  let num := ((count : Int) - (cal.1 : Int)) * 280
  let den := (cal.2 : Int) - (cal.1 : Int)
  if den = 0 then (Config.free cal.1 92 count % 1024 : Nat) - 160
  else
    let (n, d) := if den < 0 then (-num, -den) else (num, den)
    120 + (2 * n + d) / (2 * d)

def State.calOf (s : State) (id : Nat) : Nat × Nat := tgetD s.fuse.cal id s.fuse.calDefault

/-- Readings of a sample: all sensors of a die sample together (R359). One for which the command lists no count has counted nothing (log 8). -/
def State.sampled (s : State) (die : Nat) (counts : List Nat) : List Int :=
  (List.range (sensorCount die)).map (fun i => sensorTemp (s.calOf (sensorId die i)) ((counts[i]?).getD 0))

/-- The die has power: in WATCH the compute dies are power-gated, and their sensors do not sample (R352, R359). -/
def State.diePowered (s : State) (die : Nat) : Bool := decide (s.power.state ≠ .watch) || decide (4 ≤ die)

def outOfRange (t : Int) : Bool := decide (t < -160) || decide (600 < t)

def islSensor (die : Nat) : Nat := 0xC000 + die

/-- A sensor that reads out of range is failed, and logged when it first does. -/
def State.failSensors (s : State) (die : Nat) (l : List Int) : State :=
  s.each (List.range l.length) (fun s i =>
    if outOfRange ((l[i]?).getD 0) && !s.thermal.failed.contains (sensorId die i) then
      let s := { s with thermal := { s.thermal with failed := addNat s.thermal.failed (sensorId die i) } }
      s.logErr { cls := 0x108, islandA := islSensor die, loc := natLe 8 (sensorId die i) }
    else s)

/-- Failed sensors among the n from first on. -/
def State.failedAmong (s : State) (die first n : Nat) : Nat :=
  ((List.range n).filter (fun i => s.thermal.failed.contains (sensorId die (first + i)))).length

/-- More than a quarter of a die's sensors have failed: of the die, or of one DRAM die of a stack. -/
def State.mustHold (s : State) (die : Nat) : Bool :=
  if die < 4 ∨ 16 ≤ die then decide (sensorCount die < 4 * s.failedAmong die 0 (sensorCount die))
  else (List.range 16).any (fun k => decide (4 < 4 * s.failedAmong die (4 * k) 4))

/-- Sensors that make a die's temperature. -/
def tempSensors (die : Nat) : Nat := if die < 4 then 96 else if die < 16 then 64 else 32

/-- Highest reading of the sensors that count. -/
def State.dieTemp (s : State) (die : Nat) : Option Int :=
  let l := tgetD s.thermal.readings die []
  ((List.range (tempSensors die)).filterMap (fun i =>
    if s.thermal.failed.contains (sensorId die i) then none else l[i]?)).foldl
      (fun m t => match m with | none => some t | some x => some (max x t)) none

/-! ### Throttle levels (R34, R35, R360, R361, R364) -/

/-- Levels of a die with their lower bounds, in quarter degrees; 8 is critical. -/
def levelBounds (die : Nat) : List (Nat × Int) :=
  if die < 4 then [(1, 360), (2, 380), (3, 388), (4, 396), (5, 404), (6, 412), (8, 420)]
  else if die < 16 then [(1, 348), (2, 356), (3, 364), (4, 372), (5, 380), (6, 388), (7, 396), (8, 420)]
  else [(1, 400), (2, 408), (3, 416), (4, 424), (5, 432), (8, 440)]

/-- Level of the range that holds a temperature. -/
def levelAt (die : Nat) (t : Int) : Nat :=
  (levelBounds die).foldl (fun m b => if b.2 ≤ t then b.1 else m) 0

/-- A level falls, bound by bound, where the temperature is 1 °C below its lower bound. -/
def levelFall (t : Int) : List (Nat × Int) → Nat → Nat
  | [], cur => cur
  | b :: rest, cur =>
    if b.1 = cur ∧ t ≤ b.2 - 4 then
      match rest with
      | [] => 0
      | n :: _ => levelFall t rest n.1
    else if b.1 = cur then cur
    else levelFall t rest cur

/-- The highest level below critical. -/
def highestLevel (die : Nat) : Nat := if die < 4 then 6 else if die < 16 then 7 else 5

/-- The level after a sample. -/
def State.nextLevel (s : State) (die : Nat) (t : Int) : Nat :=
  let cur := tgetD s.thermal.levels die 0
  let up := levelAt die t
  let l := if cur < up then up else levelFall t (levelBounds die).reverse cur
  if s.thermal.heldDies.contains die then max l (highestLevel die) else l

/-- A die is held from now on; the mismatch appears at the next topology check. -/
def State.holdDie (s : State) (die : Nat) : State :=
  if s.mustHold die then { s with thermal := { s.thermal with heldDies := addNat s.thermal.heldDies die } } else s

/-- The level changes: THERMAL on the operator mailbox, and an entry (R361); critical trips (R364). -/
def State.setLevel (s : State) (die l : Nat) : State :=
  let cur := tgetD s.thermal.levels die 0
  if l = cur then s
  else
    let s := { s with thermal := { s.thermal with levels := if l = 0 then tdel s.thermal.levels die else tput s.thermal.levels die l,
                                                  tripped := s.thermal.tripped || decide (l = 8) } }
    (s.raiseEvent 0 4).logErr { cls := 5, islandA := islSensor die, detail := natLe 1 cur ++ natLe 1 l }

/-- A powered die whose temperature lies at or above its warn or throttle point, the lower bound of its first level (R354): a level that R35's
hysteresis or R358 holds up is none. -/
def State.warm (s : State) : Bool :=
  (List.range 18).any (fun die => s.diePowered die && (match s.dieTemp die, (levelBounds die).head? with
    | some t, some b => decide (b.2 ≤ t)
    | _, _ => false))

/-- WATCH_WAKE_SAMPLE: a condition found starts the exit; in D3hot only D0 ends WATCH. -/
def execWatchWakeSample (s : State) : Host.Outcome State Fault Refusal :=
  let P := s.power
  if s.alive && decide (P.state = .watch) && !s.link.d3hot && (P.wakeHost || P.wakeMail || P.wakePeer || s.warm) then
    .next { s with power := { P with exiting := true } }
  else .next s

/-- The critical limit of a die. -/
def criticalLimit (die : Nat) : Int := if die < 16 then 420 else 440

/-- Some sample of a sensor that stands under the critical limit has reached it: its comparator asserts THERMTRIP_N, whatever becomes of the sensor
(R364). -/
def reachesCritical (die : Nat) (l : List Int) : Bool := (l.take (tempSensors die)).any (fun t => decide (criticalLimit die ≤ t))

/-- WAKE_N is low: from a wake condition found in WATCH while PME is enabled on the PF, until the exit has brought the link back to L0 (R418). In
D3hot the samples find the condition and D0 alone leads out (log 30). -/
def State.wakeLow (s : State) : Bool :=
  s.alive && (s.cfgSpace 0).pmeEnable && decide (s.power.state = .watch)
    && (s.power.exiting || (s.link.d3hot && (s.power.wakeHost || s.power.wakeMail || s.power.wakePeer || s.warm)))

/-- SENSOR_SAMPLE: every sensor of a die has counted its oscillator over one window. -/
def execSensorSample (die : Nat) (counts : List Nat) (s : State) : Host.Outcome State Fault Refusal :=
  if s.alive && decide (die < 18) && s.dieFitted die && s.diePowered die then
    let l := s.sampled die counts
    let s := s.failSensors die l
    let s := { s with thermal := { s.thermal with readings := tput s.thermal.readings die l,
                                                  tripped := s.thermal.tripped || reachesCritical die l } }
    let s := s.holdDie die
    match s.dieTemp die with
    | some t => .next (s.setLevel die (s.nextLevel die t))
    | none => .next (s.setLevel die (s.nextLevel die (-160)))
  else .next s

/-! ### Messages -/

def execPowerCap (fn : Nat) (s : State) : Host.Outcome State Fault Refusal :=
  s.serve fn { code := 0x0080, box := .operator, used := fun _ => [(0, 2)] } (fun s m =>
    let w := u16 m.body 0
    s.checked m [(0, decide (700 ≤ w) && decide (w ≤ 1800) && decide (w % 25 = 0))] []
      (let s := { s with power := { s.power with capW := w } }
       s.okay m (natLe 2 w ++ natLe 2 (s.power.mean / watt))))

def PState.code : PState → Nat
  | .active => 0
  | .idle => 1
  | .watch => 2

def PState.ofCode : Nat → PState
  | 0 => .active
  | 1 => .idle
  | _ => .watch

def State.powerBody (s : State) : Bytes := natLe 1 s.power.rest.code ++ zeros 3 ++ natLe 4 s.power.watchPeriod

def powerRow (op : Nat) : MsgRow :=
  { code := 0x0081, box := .operator, mine := opIs op 1, used := fun _ => [(0, 2), (4, 4)] }

def execPowerStateRead (fn : Nat) (s : State) : Host.Outcome State Fault Refusal :=
  s.serve fn (powerRow 0) (fun s m => s.checked m [(0, decide (u8 m.body 0 ≤ 1))] [] (s.okay m s.powerBody))

def execPowerStateSet (fn : Nat) (s : State) : Host.Outcome State Fault Refusal :=
  s.serve fn (powerRow 1) (fun s m =>
    let b := m.body
    s.checked m
      [(0, decide (u8 b 0 ≤ 1)), (1, decide (u8 b 1 ≤ 2)), (4, decide (100 ≤ u32 b 4) && decide (u32 b 4 ≤ 1000000))] []
      (let s := { s with power := { s.power with rest := PState.ofCode (u8 b 1), watchPeriod := u32 b 4 } }
       s.okay m s.powerBody))

/-- Level of a die as thermal.query gives it. -/
def State.levelOf (s : State) (die : Nat) : Nat := tgetD s.thermal.levels die 0

/-- One record; a sensor not sampled yet gives a free reading (log 8). -/
def State.sensorRecord (s : State) (kind die sensor chip i : Nat) : Bytes :=
  let t := ((tgetD s.thermal.readings chip [])[i]?)
  natLe 1 kind ++ natLe 1 die ++ natLe 1 sensor ++ natLe 1 (s.levelOf chip)
    ++ (match t with
      | some x => natLe 2 ((x % 65536).toNat)
      | none => natLe 2 (Config.free s.free 70 (sensorId chip i))) ++ zeros 2

/-- The records of every sensor, kind by kind. DRAM dies are numbered 16 × stack + die (log 20). -/
def State.sensorRecords (s : State) : List Bytes :=
  let fitted := (List.range 12).filter s.stackFitted
  (List.range 4).flatMap (fun d => (List.range 96).map (fun i => s.sensorRecord 0 d i d i))
    ++ fitted.flatMap (fun k => (List.range 16).map (fun i => s.sensorRecord 1 k i (4 + k) (64 + i)))
    ++ fitted.flatMap (fun k => (List.range 64).map (fun i => s.sensorRecord 2 (16 * k + i / 4) (i % 4) (4 + k) i))
    ++ ((List.range 2).filter (fun d => s.dieFitted (16 + d))).flatMap (fun d =>
      (List.range 32).map (fun i => s.sensorRecord 3 d i (16 + d) i))

/-- THERMAL_QUERY: whole records as far as BYTES goes; SENSORS counts them (log 23). -/
def execThermalQuery (fn : Nat) (s : State) : Host.Outcome State Fault Refusal :=
  s.serve fn { code := 0x0082, box := .either, early := true, used := fun _ => [(0, 12)] } (fun s m =>
    let l := s.sensorRecords.take (u32 m.body 8 / 8)
    ((s.hostWriteFw m.fn (u64 m.body 0) l.flatten).okay m (natLe 4 l.length)).tick)

end Sys2Proof.Machine
end

