-- ==== Sys2Proof/Machine/Signed.lean ====
section
/-! DEFINITION. Signed.lean: what is signed: firmware images with their manifest, licence blobs (R329, R331, R334). The boot, fw.stage and lic.install
make the same checks. -/

namespace Sys2Proof.Machine

/-! ### Signatures (R329) -/

/-- A Falcon-1024 check: the key's digest is the fused one, and the signature over the digest of the signed bytes verifies. -/
def signatureOk (root : BitVec 512) (key signed sig : Bytes) : Bool :=
  decide (Config.shake256 key = root) && Config.falconOk key (Config.shake256 signed) sig

/-- The same check of an object whose bytes are not spelled out: key, signature, digests. -/
def SignedAs.ok (x : SignedAs) (root : BitVec 512) : Bool := decide (x.keyDigest = root) && x.signature && x.digests

/-- Bytes [a, b) are zero. -/
def zeroSpan (b : Bytes) (lo hi : Nat) : Bool := allZero ((b.drop lo).take (hi - lo))

/-! ### Firmware images (R331) -/

def headerBytes : Nat := 4096

/-- An image from its first byte on, as far as its header says. -/
def imageBytes (b : Bytes) : Nat := headerBytes + u64 b 8

def imagePayload (b : Bytes) : Bytes := (b.drop headerBytes).take (u64 b 8)

/-- Every field of a header has a legal value. -/
def imageLegal (b : Bytes) (kind : Nat) : Bool :=
  decide (headerBytes ≤ b.length) && decide (u16 b 0 = 1) && decide (u8 b 2 = kind) && decide (u8 b 3 ≤ 63)
    && decide (1 ≤ u64 b 8) && decide (u64 b 8 ≤ (if kind = 0 then 2 ^ 20 else 120 * 2 ^ 20)) && decide (u32 b 16 < 8)
    && zeroSpan b 20 24 && zeroSpan b 88 128 && zeroSpan b 1921 1984 && zeroSpan b 3264 4096

/-- Signature of the header, digest of the payload. -/
def imageSigned (root : BitVec 512) (b : Bytes) : Bool :=
  signatureOk root ((b.drop 128).take 1793) (b.take 1984) ((b.drop 1984).take 1280)
    && decide (Config.shake256 (imagePayload b) = BitVec.ofNat 512 (fld b 24 64))

/-- Entries of the component manifest. -/
def componentEntry (payload : Bytes) (i : Nat) : Bytes := (payload.drop (16 + 80 * i)).take 80

def manifestEntries (payload : Bytes) : List Bytes := (List.range (min (u32 payload 0) (payload.length / 80))).map (componentEntry payload)

/-- The manifest's fields are legal and lie within the payload. -/
def manifestLegal (payload : Bytes) : Bool :=
  zeroSpan payload 4 16 && decide (16 + 80 * u32 payload 0 ≤ payload.length)
    && (manifestEntries payload).all (fun e => decide (1 ≤ u16 e 0) && decide (u16 e 0 ≤ 7) && zeroSpan e 2 4 && zeroSpan e 12 16
      && decide (u32 e 4 + u32 e 8 ≤ payload.length))

/-- Every component matches its digest. -/
def manifestSigned (payload : Bytes) : Bool :=
  (manifestEntries payload).all (fun e =>
    decide (Config.shake256 ((payload.drop (u32 e 4)).take (u32 e 8)) = BitVec.ofNat 512 (fld e 16 64)))

/-- Digest of the Cuff microcode component; zero where no entry names it. -/
def cuffDigestOf (payload : Bytes) : BitVec 512 :=
  match (manifestEntries payload).find? (fun e => decide (u16 e 0 = 6)) with
  | some e => BitVec.ofNat 512 (fld e 16 64)
  | none => 0

/-- Every header field of both images has a legal value, and the second ends where the bytes end. -/
def headersLegal (b : Bytes) : Bool :=
  let main := b.drop (imageBytes b)
  imageLegal b 0 && imageLegal main 1 && decide (b.length = imageBytes b + imageBytes main)

/-- Both signatures and both payload digests hold (R329, R331). -/
def headersSigned (root : BitVec 512) (b : Bytes) : Bool := imageSigned root b && imageSigned root (b.drop (imageBytes b))

/-- The manifest of the main payload. -/
def mainPayload (b : Bytes) : Bytes := imagePayload (b.drop (imageBytes b))

/-- Every field of both images has a legal value, the manifest's among them. -/
def imagesLegal (b : Bytes) : Bool := headersLegal b && manifestLegal (mainPayload b)

/-- Both signatures, both payload digests and every component's digest hold (R329, R331). -/
def imagesSigned (root : BitVec 512) (b : Bytes) : Bool := headersSigned root b && manifestSigned (mainPayload b)

/-! ### Licence blobs (R334) -/

def blobBytes : Nat := 3328

/-- Every field of a blob has a legal value. -/
def blobLegal (b : Bytes) : Bool :=
  decide (u16 b 0 = 1) && zeroSpan b 2 4 && decide (u32 b 4 ≠ 0) && decide (u32 b 4 < 32) && zeroSpan b 1825 2048

def State.blobSigned (s : State) (b : Bytes) : Bool :=
  signatureOk s.ident.rootLic ((b.drop 32).take 1793) (b.take 2048) ((b.drop 2048).take 1280)
    && decide (fld b 8 16 = s.ident.serial.toNat)

end Sys2Proof.Machine
end

