-- ==== Sys2Proof/Machine/Resets.lean ====
section
/-! DEFINITION. Resets.lean: heartbeats and broken crossings, core and cluster resets, full and device resets with the boot they
lead to, the input switch (R30, R31, R103, R310, R328 to R335, R364, R371 to R383, R392 to R396, R413, R414). -/

namespace Sys2Proof.Machine

/-! ### Islands and heartbeats (R365, R371) -/

/-- The island exists on this part: not absent, not mapped out, not held disabled (R365). -/
def State.islandExists (s : State) (i : Nat) : Bool :=
  let n := islInstance i
  match islKind i with
  | 1 | 2 => decide (n < 64)
  | 3 | 8 => s.pcPresent n
  | 4 => decide (n < 8) || (decide (n < 16) && s.ident.part.hasX1 && s.boot.licLive.getLsbD 3)
  | 5 | 10 | 11 => decide (n = 0)
  | 6 => decide (n < 4)
  | 7 | 12 => s.dieFitted n
  | 9 => s.stackFitted n
  | _ => false

def crossKey (near far : Nat) : Nat := near * 65536 + far

/-- The next Gray value of two bits. -/
def gray2 : Nat → Nat
  | 0 => 1
  | 1 => 3
  | 3 => 2
  | _ => 0

/-! ### Ends of commands in a reset -/

/-- A command is ended by the island that notices: its entries dropped, its destination undefined, its record written, its
context not yet faulted. -/
def State.endCommand (s : State) (id : Nat) (st : Status) (isl : Nat) : State :=
  match tget s.flight id with
  | none => s
  | some f =>
    let s := (s.dropWork id).scramble f.writes
    let s := s.updFlight id (fun f => { f with island := if islKind isl ≤ 6 then isl else f.island, conds := st :: f.conds })
    s.retire id

/-- Contexts of commands that a test picks. -/
def State.contextsOf (s : State) (mine : Nat → Flight → Bool) : List (Nat × Nat) :=
  (s.flight.filter (fun e => mine e.1 e.2)).foldl (fun l e =>
    if l.contains (e.2.p, e.2.ctx) then l else l ++ [(e.2.p, e.2.ctx)]) []

/-- Fault contexts (R270). -/
def State.faultAll (s : State) (ctxs : List (Nat × Nat)) (cause : Nat) : State := s.each ctxs (fun s c => s.fault c.1 c.2 cause)

/-- End the commands that a test picks. -/
def State.endAll (s : State) (mine : Nat → Flight → Bool) (st : Status) (isl : Nat) : State :=
  s.each ((s.flight.filter (fun e => mine e.1 e.2)).map Prod.fst) (fun s id => s.endCommand id st isl)

/-- End the commands that a test picks, then fault their contexts (R270, R394). -/
def State.endCommands (s : State) (mine : Nat → Flight → Bool) (st : Status) (cause isl : Nat) : State :=
  (s.endAll mine st isl).faultAll (s.contextsOf mine) cause

/-- The partition that owns the cluster is being reset or destroyed, which takes a lower reset over (R395). -/
def State.ownerResets (s : State) (c : Nat) : Bool := s.parts.any (fun e => e.2.zeroing.isSome && e.2.ownsCluster c)

/-! ### Other parties' accesses to a unit that is reset (R392, R393) -/

/-- The words of a stretch that a choice picks are poisoned. -/
def State.poisonWords (s : State) (r : Range) (pick : Nat → Bool) : State :=
  let ws := (wordsOf r.addr r.len).filter pick
  match r.space with
  | .dram => { s with dram := ws.foldl Mem.poisonWord s.dram }
  | .spad => { s with spad := ws.foldl Mem.poisonWord s.spad }
  | .host => s

/-- A command whose reads were answered with zeros and set poison bits: it completes with POISON, and of its destination what came of those reads is
undefined and poisoned. -/
def State.answerPoison (s : State) (id : Nat) : State :=
  match tget s.flight id with
  | none => s
  | some f =>
    let pick := fun (w : Nat) => decide (Config.free s.free 102 w % 2 = 0)
    ((s.scramble f.writes).each f.writes (fun s r => s.poisonWords r pick)).condition id .poison

/-- The commands of others that read the scratchpad stretch, as far as such a read had been accepted there: which ones is a free choice (log 31). -/
def State.answerReaders (s : State) (a n : Nat) (mine : Nat → Flight → Bool) : State :=
  let hit := s.flight.filter (fun e => !mine e.1 e.2 && decide (Config.free s.free 100 e.1 % 2 = 0)
    && e.2.reads.any (fun r => decide (r.space = .spad) && overlaps r.addr r.len a n))
  (s.each (hit.map Prod.fst) State.answerPoison).tick

/-! ### Core reset (R103, R392, R394) -/

def coreSpad (c k : Nat) : Nat := c * 2 ^ 24 + 0x800000 + k * 2 ^ 20

/-- Scratchpad bytes back to zero, and nothing older left to see there. -/
def State.clearSpad (s : State) (a n : Nat) : State :=
  { s with spad := s.spad.clear a n,
           unsettled := s.unsettled.filter (fun u => !(decide (u.space = .spad) && overlaps u.addr 64 a n)),
           near := s.near.dropBacks (fun st x => decide (st = Store.spad) && overlaps (8 * x) 8 a n) }

/-- The part of a range that lies in a stretch of the scratchpads. -/
def Range.within (r : Range) (a n : Nat) : Option Range :=
  let lo := max r.addr a
  let hi := min (r.addr + r.len) (a + n)
  if r.space = .spad ∧ lo < hi then some { r with addr := lo, len := hi - lo } else none

/-- The scratchpad of a unit is zeroised. Of a write of another party in flight, each 64-bit word was handed in before and is lost, or waits and lands
in the reset unit: which, is a free choice (R392, R393; log 31). -/
def State.resetSpad (s : State) (a n : Nat) (mine : Nat → Flight → Bool) : State :=
  let late := (s.flight.filter (fun e => !mine e.1 e.2)).flatMap (fun e => e.2.writes.filterMap (fun r => r.within a n))
  let lands := fun (x : Nat) => decide (Config.free s.free 101 (x / 8) % 2 = 0)
  let kept := late.map (fun r => (r.addr, ((List.range r.len).zip (s.spad.bytes r.addr r.len)).map (fun e =>
    if lands (r.addr + e.1) then e.2 else 0)))
  ((s.clearSpad a n).each kept (fun s e => { s with spad := s.spad.write e.1 e.2 })).tick

/-- A fence made for the boot, logged (R103). -/
def State.fenceCore (s : State) (c k : Nat) : State :=
  if s.coreFenced c k then s
  else
    ({ s with boot := { s.boot with fencedCores := addNat s.boot.fencedCores (c * 8 + k) } } : State).logErr
      { cls := 10, islandA := islArith c, loc := natLe 2 c ++ natLe 2 k ++ zeros 4 }

/-- CORE_RESET: the core's commands complete with ECC_UNCORR and its scratchpad is zeroised; at the second one in a boot the core
is fenced. -/
def execCoreReset (cluster core : Nat) (s : State) : Host.Outcome State Fault Refusal :=
  if s.alive && decide (cluster < 64) && decide (core < 8) && !s.clusterFenced cluster && !s.coreFenced cluster core
      && !s.ownerResets cluster then
    let again := s.boot.resetOnce.contains (cluster * 8 + core)
    let mine := fun (_ : Nat) (f : Flight) => decide (f.cluster = cluster) && decide (f.engine < 32) && decide (f.engine / 4 = core)
    let ctxs := s.contextsOf mine
    let s := s.answerReaders (coreSpad cluster core) (2 ^ 20) mine
    let s := s.endAll mine .eccUncorr (islControl cluster)
    let s := s.resetSpad (coreSpad cluster core) (2 ^ 20) mine
    let s := if again then s.fenceCore cluster core
      else { s with boot := { s.boot with resetOnce := addNat s.boot.resetOnce (cluster * 8 + core) } }
    .next (s.faultAll ctxs 1)
  else .next s

/-! ### Cluster reset (R392 to R394) -/

def State.fenceCluster (s : State) (c : Nat) : State :=
  if s.clusterFenced c then s
  else
    ({ s with boot := { s.boot with fencedClusters := addNat s.boot.fencedClusters c } } : State).logErr
      { cls := 10, islandA := islControl c, loc := natLe 2 c ++ zeros 6 }

/-- Queues bound to a cluster, with their contexts. -/
def State.boundQueues (s : State) (c : Nat) : List (Nat × Nat) :=
  s.parts.flatMap (fun e => (e.2.queues.filter (fun x => decide (x.2.cluster = c))).map (fun x => (e.1, x.1)))

/-- Crossings toward an island work again once it has been reset, and the watchdogs at both of their ends stand at zero (R374). -/
def State.restoreCrossings (s : State) (far : Nat → Bool) : State :=
  { s with cross := { s.cross with broken := s.cross.broken.filter (fun e => !far e.2),
                                   watch := s.cross.watch.filter (fun e => !far (e.1 % 65536) && !far (e.1 / 65536)) } }

/-- A cluster is drained, zeroised, tested and reloaded: its queues' commands complete with ECC_UNCORR, and its queues break; answers the contexts that
this faults. Where it must not come back, or fails its tests, it is fenced (R388, R379). -/
def State.drainCluster (s : State) (u : ClusterRestart) (fence : Bool) : State × List (Nat × Nat) :=
  let c := u.cluster
  let mine := fun (_ : Nat) (f : Flight) => decide (f.cluster = c)
  let queues := s.boundQueues c
  let ctxs := s.contextsOf mine ++ queues.filterMap (fun e => (s.queue? e.1 e.2).map (fun Q => (e.1, Q.ctx)))
  let s := s.answerReaders (c * 2 ^ 24) (2 ^ 24) mine
  let s := s.endAll mine .eccUncorr (islControl c)
  let s := s.resetSpad (c * 2 ^ 24) (2 ^ 24) mine
  let s := { s with caches := tdel s.caches c }
  let s := s.each (u.cores.filter (fun k => decide (k < 8))) (fun s k => s.fenceCore c k)
  let s := (s.zeroCycles (islArith c)).zeroCycles (islControl c)
  let s := s.restoreCrossings (fun f => decide (f = islArith c) || decide (f = islControl c))
  let s := if fence || !u.ok then s.fenceCluster c
    else { s with boot := { s.boot with resetOnce := addNat s.boot.resetOnce (1024 + c) } }
  (s.each queues (fun s e => s.markBroken e.1 e.2), ctxs)

/-- A cluster reset, with the faults of contexts after it. -/
def State.resetCluster (s : State) (u : ClusterRestart) (fence : Bool) : State :=
  let x := s.drainCluster u fence
  x.1.faultAll x.2 1

/-- The built-in test of a cluster that no partition owns and that has no work: its memories end up clear, and a failure fences it (R397). -/
def State.testCluster (s : State) (u : ClusterRestart) : State :=
  if s.parts.any (fun e => e.2.ownsCluster u.cluster) || s.flight.any (fun e => decide (e.2.cluster = u.cluster)) then s
  else
    let s := s.clearSpad (u.cluster * 2 ^ 24) (2 ^ 24)
    let s := { s with caches := tdel s.caches u.cluster }
    let s := s.each (u.cores.filter (fun k => decide (k < 8))) (fun s k => s.fenceCore u.cluster k)
    if u.ok then s else s.fenceCluster u.cluster

def execClusterReset (unit : ClusterRestart) (s : State) : Host.Outcome State Fault Refusal :=
  let c := unit.cluster
  if s.alive && decide (c < 64) && !s.clusterFenced c && !s.ownerResets c then
    .next (if unit.bist then s.testCluster unit else s.resetCluster unit (s.boot.resetOnce.contains (1024 + c)))
  else .next s

/-! ### Broken crossings (R372 to R374) -/

/-- Work of a near-bank command at a pseudo-channel. -/
def State.worksAt (s : State) (id pc : Nat) : Bool :=
  s.near.entries.any (fun e => decide (e.cmd = id) && decide (e.bank / 16 = pc))
    || s.near.cuffs.any (fun e => decide (e.2.cmd = id) && decide (e.1 % 2 ^ 14 / 16 = pc))
    || s.near.finished.any (fun r => decide (r.cmd = id) && decide (r.bank / 16 = pc))

/-- Does a command reach a cluster's scratchpads or a pseudo-channel's memory? -/
def Flight.reachesSpad (f : Flight) (c : Nat) : Bool :=
  (f.reads ++ f.writes).any (fun r => decide (r.space = .spad) && decide (r.addr / 2 ^ 24 = c))
def Flight.reachesPc (f : Flight) (pc : Nat) : Bool :=
  (f.reads ++ f.writes).any (fun r => decide (r.space = .dram) && decide (addrBank r.addr / 16 = pc))

/-- Does a command wait on a crossing? Certainly, or as far as the model can tell perhaps; which of the latter do is a free choice
(log 8). -/
def State.waitsOn (s : State) (near far id : Nat) (f : Flight) : Bool :=
  let c := f.cluster
  let n := islInstance far
  let maybe := decide (Config.free s.free 72 id % 2 = 0)
  let fromControl := decide (near = islControl c)
  let fromGirdle := decide (islKind near = 7)
  match islKind far with
  | 1 => (decide (n = c) && decide (f.engine ≤ 32) && fromControl) || (decide (n ≠ c) && fromGirdle && f.reachesSpad n && maybe)
  | 2 => decide (n = c) && maybe
  | 3 => s.worksAt id n
  | 4 => fromControl && decide (f.engine = 35) && maybe
  | 5 => (f.readsHost || f.writesHost) && (decide (near = 0x7010) || fromControl) && maybe
  | 6 => fromControl && decide (f.engine = 36) && decide (f.island = far)
  | 7 => (((fromControl || (decide (near = islArith c) && decide (f.engine ≤ 32))) && decide (n = c / 16)) || (fromGirdle && f.reaches n)) && maybe
  | 8 => (s.worksAt id n || f.reachesPc n) && maybe
  | 9 => f.reaches (n + 4) && maybe
  | _ => maybe

/-- Read data of a command of the cluster that waits in the Girdle for its arithmetic island: the command itself waits at its control (R373, the
example of chapter 18). -/
def State.dataWaits (s : State) (near far id : Nat) (f : Flight) : Bool :=
  decide (islKind near = 7) && decide (islKind far = 1) && decide (islInstance far = f.cluster) && decide (f.engine ≤ 32)
    && decide (Config.free s.free 72 id % 2 = 0)

/-- A transaction that is no command's waits: one of the firmware or of the host. Which do is a free choice (log 8). -/
def State.othersWait (s : State) (near far : Nat) : Bool :=
  (decide (islKind near = 5) || decide (9 ≤ islKind near) || decide (9 ≤ islKind far))
    && decide (Config.free s.free 98 (crossKey near far) % 2 = 0)

/-- Crossings into the island are parked: its clock is stopped as planned, or the partition it belongs to is being reset (R375). -/
def State.parked (s : State) (i : Nat) : Bool :=
  !s.clocked i || s.parts.any (fun e => e.2.zeroing.isSome && (match islKind i with
    | 1 | 2 => e.2.ownsCluster (islInstance i)
    | 3 | 8 => (tget e.2.pcs (islInstance i)).isSome
    | _ => false))

/-- The watchdog of an end after 256 more of its cycles: it counts them while something waits and the crossing is not parked; the end of a command that
waited is progress, which sets it back (R371). -/
def State.counted (s : State) (near far : Nat) : Watchdog :=
  let w := tgetD s.cross.watch (crossKey near far) { cycles := 0, waiting := [] }
  let ids := (s.flight.filter (fun e => s.waitsOn near far e.1 e.2)).map Prod.fst
  if s.parked far then w
  else if s.cross.broken.contains (near, far)
      || !(!ids.isEmpty || s.flight.any (fun e => s.dataWaits near far e.1 e.2) || s.othersWait near far) then { cycles := 0, waiting := [] }
  else if w.waiting.any (fun id => (tget s.flight id).isNone) then { cycles := 0, waiting := ids }
  else { cycles := w.cycles + 256, waiting := ids }

/-- HEARTBEAT: 256 cycles of an end have passed. Its heartbeat takes a step, which sets the far end's watchdog back, and its own watchdog has counted
them (R371). -/
def execHeartbeat (near far : Nat) (s : State) : Host.Outcome State Fault Refusal :=
  if s.alive && s.islandExists near && s.islandExists far && decide (near ≠ far) && s.clocked near then
    let k := crossKey near far
    .next { s with cross := { s.cross with heartbeats := tput s.cross.heartbeats k (gray2 (tgetD s.cross.heartbeats k 0)),
                                           watch := tdel (tput s.cross.watch k (s.counted near far)) (crossKey far near) } }
  else .next s

/-- The Girdle sees the arithmetic island of a cluster stop while the cluster's control still waits on it: the commands end, and the cluster is
reset, when control's own watchdog fires. Each end of a crossing fires on its own, and the example of chapter 18 has this order (R373; DEDUCED,
log 8). -/
def State.arithWaits (s : State) (near far : Nat) : Bool :=
  let n := islInstance far
  decide (islKind near = 7) && decide (islKind far = 1) && !s.cross.broken.contains (islControl n, far)
    && s.flight.any (fun e => decide (e.2.cluster = n) && decide (e.2.engine ≤ 32))

/-- A Cuff group is powered off and on again: what its Cuffs held is gone, and the microcode is reloaded; a Cuff that fails is fenced (R71). At the
second failure its Cuffs are fenced. The cause that a fence of this kind shows is not numbered, so a free value. -/
def State.recoverGroup (s : State) (pc : Nat) (again : Bool) : State :=
  let s := { s with near := { s.near with entries := s.near.entries.filter (fun e => decide (e.bank / 16 ≠ pc)),
                                          cuffs := s.near.cuffs.filter (fun e => decide (e.1 % 2 ^ 14 / 16 ≠ pc)),
                                          sram := s.near.sram.filter (fun e => decide (e.1 / 16 ≠ pc)) } }
  let s := (s.zeroCycles (islCuff pc)).restoreCrossings (fun f => decide (f = islCuff pc))
  let s := s.reloadCuffs [pc]
  if again then
    let cause := Config.free s.free 71 pc % 256
    s.tick.each (List.range 16) (fun s i => s.fenceCuff (pc * 16 + i) cause)
  else s

/-- A pseudo-channel goes offline. A link with more failing lanes than spares keeps that cause, which lasts until the next training (R31). -/
def State.goOffline (s : State) (pc cause : Nat) : State :=
  if s.pcPresent pc && decide (tget s.boot.offline pc ≠ some offlineLanes) then
    { s with boot := { s.boot with offline := tput s.boot.offline pc cause } } else s

/-- What the tests at the end of a cluster reset find, where no command says it: free choices (log 8). -/
def State.restartOf (s : State) (c : Nat) : ClusterRestart :=
  { cluster := c, ok := decide (Config.free s.free 103 c % 2 = 0),
    cores := (List.range 8).filter (fun k => decide (Config.free s.free 104 (c * 8 + k) % 2 = 1)) }

/-- What Pewter does for each kind of far island; the contexts of the commands that waited fault then. -/
def State.recoverIsland (s : State) (far : Nat) (ctxs : List (Nat × Nat)) : State :=
  let n := islInstance far
  let again := s.cross.brokeOnce.contains far
  let s := { s with cross := { s.cross with brokeOnce := addNat s.cross.brokeOnce far } }
  match islKind far with
  | 1 | 2 =>
    if s.clusterFenced n then s.faultAll ctxs 2
    else
      let x := s.drainCluster (s.restartOf n) (again || s.boot.resetOnce.contains (1024 + n))
      (x.1.faultAll ctxs 2).faultAll x.2 1
  | 3 => (s.recoverGroup n again).faultAll ctxs 2
  | 8 => (s.goOffline n offlineCrossing).faultAll ctxs 2
  | 4 =>
    let s := s.setPort n { s.port n with state := .disabled, unacked := [], backlog := [] }
    (match s.portPeer n with
    | some k => s.declareLost k n
    | none => s).faultAll ctxs 2
  | _ => ({ s with boot := { s.boot with mismatches := s.boot.mismatches ++ [{ kind := 0x09, locA := n, locB := 0, detail := 0 }] } } : State).faultAll
    ctxs 2

/-- The watchdog of an end has counted CDC_TIMEOUT cycles, and nothing that it waited for has ended since. -/
def State.watchdogDue (s : State) (near far : Nat) : Bool :=
  let w := tgetD s.cross.watch (crossKey near far) { cycles := 0, waiting := [] }
  decide (0 < w.cycles) && decide (s.cross.cdcTimeout ≤ w.cycles) && w.waiting.all (fun id => (tget s.flight id).isSome)

/-- The command waits on the crossing: it did so when the watchdog last counted, or it does now. -/
def State.waitedOn (s : State) (near far id : Nat) (f : Flight) : Bool :=
  (tgetD s.cross.watch (crossKey near far) { cycles := 0, waiting := [] }).waiting.contains id || s.waitsOn near far id f

/-- CDC_WATCHDOG_FIRE: the watchdog of island `near` has counted CDC_TIMEOUT cycles toward island `far`. A parked crossing has no
watchdog (R375). The waiting commands end, the entry is written, Pewter acts, and their contexts fault (R373, R394). -/
def execCdcWatchdogFire (near far : Nat) (s : State) : Host.Outcome State Fault Refusal :=
  if s.alive && s.islandExists near && s.islandExists far && decide (near ≠ far) && s.clocked near && !s.parked far
      && !s.cross.broken.contains (near, far) && s.watchdogDue near far then
    let mine := s.waitedOn near far
    let ctxs := s.contextsOf mine
    let t := ({ s with cross := { s.cross with broken := s.cross.broken ++ [(near, far)], watch := tdel s.cross.watch (crossKey near far) } } : State)
    let t := t.endAll mine .timeoutCdc near
    let t := t.logErr { cls := 2, islandA := near, islandB := far }
    .next ((if s.arithWaits near far then t.faultAll ctxs 2 else t.recoverIsland far ctxs).topologyCheck false).tick
  else .next s

/-! ### What a reset takes away (R380, R396) -/

/-- Partitions, commands and everything that belongs to them; registers of every function. The decoders are uncommitted, their other fields stay
(R300). -/
def State.emptied (s : State) : State :=
  { s with parts := [], streams := [], prefixes := [], flight := [], sigs := [], near := { Near.empty with refresh := s.near.refresh },
           unsettled := [], caches := [], spad := Mem.empty, funcs := [], handed := [], rowHits := [],
           sched := Sched.none, perf := { ctrs := [], samplers := [], samples := [] }, cross := Crossings.reset, cycles := [],
           link := { s.link with decoders := [], d3hot := false, cfg := [], cycleDiscards := [],
                                    hdm := s.link.hdm.map (fun e => (e.1, { e.2 with ctrl := 0, error := false })) } }

/-- The system pseudo-channels keep their contents in a device reset, but that its tables and rings are set up again; every other
bank is zeroised (R380). -/
def Mem.clearAssignable (m : Mem) : Mem :=
  let pcs := 16 * bankStride
  ((m.clear (4 * pcs) (60 * pcs)).clear (68 * pcs) (700 * pcs)).unpoison
    (fun w => systemPc (addrBank (8 * w) / 16) && decide (Config.systemUse w ≠ .other))

/-- THERMTRIP_N is released by PERST_N where every die lies 10 °C below its critical limit (R364). -/
def State.coolEnough (s : State) : Bool :=
  (List.range 18).all (fun die => match s.dieTemp die with
    | some t => decide (t ≤ ((levelBounds die).getLast?.map Prod.snd).getD 0 - 40)
    | none => true)

/-- A full reset: PERST_N low, or power coming on. Flash, fuse record and host memory stay. -/
def State.fullReset (s : State) : State :=
  let s := s.emptied
  { s with near := Near.empty, dram := Mem.empty, tests := [], timer := 0, log := ErrLog.reset, link := HostLink.reset, trust := Trust.reset,
           peers := { manifest := Manifest.none, ports := [], groups := [], early := [] },
           power := { Power.reset with brake := s.power.brake },
           thermal := { Thermal.reset with readings := s.thermal.readings, tripped := s.thermal.tripped && !s.coolEnough },
           boot := { Boot.reset with switchClosed := s.boot.switchClosed, overcurrent := s.boot.overcurrent } }

/-! ### Boot (R328 to R335, R378 to R383) -/

/-- Bit of PARTS for a part. -/
def Part.fwBit : Part → Nat
  | .drc12s2x => 0
  | .drc10s2x => 1
  | .drc8s1x => 2

/-- The images of a copy verify: their fields, signatures, digests and components. The bytes of the copy shipped with the part are not spelled
out, but what the checks meet there (log 2); `bad`: its bits in flash have gone wrong. -/
def State.imagesOk (s : State) (c : FwCopy) (bad : Bool) : Bool :=
  c.sound && !bad && (match c.image with
    | some b => imagesLegal b && imagesSigned s.ident.rootFw b
    | none => c.signedAs.ok s.ident.rootFw && decide (c.svn ≤ 63) && decide (c.firstSvn ≤ 63) && decide (c.parts < 8))

/-- The boot ROM and the first stage accept a copy (R331). -/
def State.copyOk (s : State) (c : Option FwCopy) (bad : Bool) : Bool :=
  match c with
  | some c => s.imagesOk c bad && bit c.parts s.ident.part.fwBit && decide (s.fuse.fwSvn.toNat ≤ c.svn)
    && decide (s.fuse.fwSvn.toNat ≤ c.firstSvn)
  | none => false

def Flash.copy (f : Flash) (slot : Bool) : Option FwCopy := if slot then f.copyB else f.copyA

/-- The boot ROM serves the operator mailbox itself (R331, R377). -/
def State.romServes (s : State) : State := { s with boot := { s.boot with rom := true, served := true, readiness := .notReady } }

def State.addMismatch (s : State) (m : Mismatch) : State := { s with boot := { s.boot with mismatches := s.boot.mismatches ++ [m] } }

/-- Order 1: the entropy source. -/
def State.bootEntropy (s : State) (ok : Bool) : State :=
  if ok then s
  else (s.addMismatch { kind := 0x08, locA := 0, locB := 0, detail := 0 }).logErr { cls := 0x109, islandA := 0xA000 }

/-- The activation record names the copy of a pending activation from this reset on (R333). -/
def State.takeActivation (s : State) : State :=
  { s with flash := { s.flash with active := s.flash.pendingActive.getD s.flash.active, pendingActive := none } }

/-- Order 2: the active copy is tried, then the other. -/
def State.bootCopy (s : State) (f : BootFindings) : Option State :=
  let active := s.flash.active
  let bad := fun (slot : Bool) => if slot then f.badCopyB else f.badCopyA
  if s.copyOk (s.flash.copy active) (bad active) then some { s with boot := { s.boot with slot := active } }
  else if s.copyOk (s.flash.copy (!active)) (bad (!active)) then
    some (({ s with boot := { s.boot with slot := !active } } : State).logErr { cls := 0x107, islandA := 0xA000, detail := natLe 1 (b2n (!active)) })
  else none

/-- Order 3: fences held in the fuse record and, where training follows, the known spare lanes. -/
def State.bootFuse (s : State) (train : Bool) : State :=
  { s with boot := { s.boot with fencedCuffs := s.fuse.cuffFences.foldl (fun t b => tput t b 0) s.boot.fencedCuffs,
                                 lanes := if train then s.fuse.spareLanes else s.boot.lanes } }

/-- New failing lanes of one path: those that have no spare yet. -/
def State.newLanes (s : State) (path : Path) (pc bank : Nat) (lanes : List Nat) : List Nat :=
  (nubNat lanes).filter (fun l => !s.boot.lanes.any (fun x =>
    decide (x.path = path) && decide (x.pc = pc) && decide (x.bank = bank) && decide (x.lane = l)))

def State.usedSpares (s : State) (path : Path) (pc bank : Nat) : Nat :=
  (s.boot.lanes.filter (fun x => decide (x.path = path) && decide (x.pc = pc) && decide (x.bank = bank))).length

/-- The island that reports a path. -/
def Path.island : Path → Nat → Nat
  | .girdle, die => 0x7000 + die
  | _, pc => 0x8000 + pc

/-- A spare is switched in, for the life of the module where the fuse record has room, else for the boot (R377). -/
def State.switchIn (s : State) (path : Path) (pc bank lane : Nat) : State :=
  let x : Lane := { path := path, pc := pc, bank := bank, lane := lane, spare := s.usedSpares path pc bank }
  let s := { s with boot := { s.boot with lanes := s.boot.lanes ++ [x] } }
  if s.fuse.hasRoom then { s with fuse := { s.fuse with spareLanes := s.fuse.spareLanes ++ [x] } }
  else s.logErr { cls := 0x10A, islandA := path.island pc, loc := natLe 2 (pc * 16 + bank) ++ natLe 4 lane ++ zeros 2 }

/-- The column of a bank cannot be spared: its Cuff is fenced until the next training (R31). -/
def State.loseColumn (s : State) (bank : Nat) : State :=
  ({ s with boot := { s.boot with columns := addNat s.boot.columns bank } } : State).fenceCuff bank 1

/-- Lanes as the bits of a number of 64 bits. -/
def laneMask (l : List Nat) : Nat := sumNat ((List.range 64).map (fun i => b2n (l.contains i) * 2 ^ i))

/-- A Girdle link that training finds with failing lanes: spares are switched in, or the mismatch carries the lanes (R378, R381). -/
def State.trainGirdle (s : State) (g : GirdleLanes) : State :=
  if g.spared then s.each (s.newLanes .girdle g.die 0 g.lanes) (fun s l => s.switchIn .girdle g.die 0 l)
  else s.addMismatch { kind := 0x04, locA := g.die, locB := 0, detail := laneMask g.lanes }

/-- Order 4: links and columns are trained (R30, R31). A column's fence lasts as long as the training that found it. -/
def State.bootTrain (s : State) (f : BootFindings) : State :=
  let s := s.each (f.linkLanes.filter (fun e => s.pcPresent e.1)) (fun s e =>
    let new := s.newLanes .link e.1 0 e.2
    if s.usedSpares .link e.1 0 + new.length ≤ 2 then s.each new (fun s l => s.switchIn .link e.1 0 l)
    else s.goOffline e.1 offlineLanes)
  let s := s.each (f.columnLanes.filter (fun e => s.pcPresent (e.1 / 16))) (fun s e =>
    let new := s.newLanes .column (e.1 / 16) (e.1 % 16) e.2
    if s.usedSpares .column (e.1 / 16) (e.1 % 16) + new.length ≤ 4 then s.each new (fun s l => s.switchIn .column (e.1 / 16) (e.1 % 16) l)
    else s.loseColumn e.1)
  let odd := (List.range 12).filter (fun k => bit f.stackMask k != s.stackFitted k)
  let s := s.each odd (fun s k => s.addMismatch { kind := 0x01, locA := k, locB := 0, detail := f.stackMask % 2 ^ 12 })
  s.each f.girdle State.trainGirdle

/-- Orders 5 and 7: a unit that fails (R379). -/
def State.bootUnit (s : State) : BootUnit → State
  | .core c k => if c < 64 ∧ k < 8 then s.fenceCore c k else s
  | .cluster c => if c < 64 then s.fenceCluster c else s
  | .cuffDigest b => if s.pcPresent (b / 16) then s.fenceCuff b 3 else s
  | .cuffDecoder b => if s.pcPresent (b / 16) then s.fenceCuff b 0 else s
  | .pseudoChannel pc => s.goOffline pc offlineUnit
  | .baseManager k =>
    if s.stackFitted k then
      (s.each (List.range 64) (fun s i => s.goOffline (k * 64 + i) offlineManager)).addMismatch
        { kind := 0x03, locA := k, locB := 0, detail := 0 }
    else s
  | .ioDie d => s.addMismatch { kind := 0x05, locA := 16 + d, locB := 0, detail := 0 }

/-- A stored blob verifies (R334); of one shipped with the part, whose bytes are not spelled out, what the checks meet there (log 2). -/
def State.blobOk (s : State) (b : Blob) : Bool :=
  if b.bytes.isEmpty then b.signedAs.ok s.ident.rootLic && decide (b.serial = s.ident.serial) else s.blobSigned b.bytes

/-- Blobs of the store that do not verify (R334): by position; `found`: blobs whose bits in flash have gone wrong. -/
def State.badBlobs (s : State) (found : List Nat) : List Nat :=
  (List.range s.flash.store.length).filter (fun i =>
    found.contains i || (match s.flash.store[i]? with | some b => !s.blobOk b | none => false))

/-! ### The end of a boot -/

/-- Order 9: licences; the union of the blobs that verify, of the features that the part can provide (R5, R335). -/
def State.liveSet (s : State) (bad : List Nat) : Byte :=
  let l := ((List.range s.flash.store.length).zip s.flash.store).foldl (fun (m : Byte) e =>
    if bad.contains e.1 then m else m ||| e.2.features) 0
  if s.ident.part.hasX1 then l &&& 0x1F else l &&& 0x17

/-- Measurement block 6 (R338). -/
def State.licDigest (s : State) : BitVec 512 :=
  Config.shake256 (natLe 1 s.boot.licLive.toNat ++ s.flash.store.flatMap Blob.bytes)

/-- A port as the licences of a boot leave it: held disabled without PEERX; down again, where the live manifest links it, once the licence is back.
Its counts stay (R6, R416, log 20). -/
def State.licensedPort (s : State) (n : Nat) : Port :=
  let x := s.port n
  let fresh := fun (st : PortState) => { Port.reset with state := st, retransmits := x.retransmits, fcsErrors := x.fcsErrors,
                                                         loopErrors := x.loopErrors }
  if !s.portEnableable n then fresh .disabled
  else if decide (x.state = .disabled) && bit s.peers.manifest.loopback n then fresh .loopback
  else if decide (x.state = .disabled) && s.peers.manifest.links.any (fun l => decide (l.port = n)) then fresh .down
  else x

def State.bootLicences (s : State) (bad : List Nat) : State :=
  let s := { s with boot := { s.boot with licLive := s.liveSet bad, licPending := 0 } }
  let s := { s with trust := { s.trust with licMeasure := s.licDigest } }
  let s := s.each bad (fun s i => s.addMismatch { kind := 0x06, locA := i, locB := 0, detail := 0 })
  s.each ((List.range 8).map (· + 8)) (fun s n => s.setPort n (s.licensedPort n))

/-- Acceptances whose mismatch no longer occurs go (R382). -/
def State.pruneAccepted (s : State) : State :=
  { s with flash := { s.flash with accepted := s.flash.accepted.filter (fun a =>
      s.boot.mismatches.any (fun m => decide ((m.kind, m.locA, m.locB) = a))) } }

/-- FW_SVN rises with a main image that boots to READY or DEGRADED (R333). -/
def State.raiseSvn (s : State) : State :=
  match s.running with
  | some c =>
    if decide (s.boot.readiness ≠ .notReady) && decide (s.fuse.fwSvn.toNat < c.svn) then
      { s with fuse := { s.fuse with fwSvn := BitVec.ofNat 6 (min c.svn 63) } } else s
  | none => s

/-- The end of order 9. -/
def State.bootEnds (s : State) (bad : List Nat) : State :=
  let s := s.bootLicences (s.badBlobs bad)
  let l := s.findMismatches true
  let s := { s with boot := { s.boot with mismatches := l } }
  let s := s.pruneAccepted
  let s := s.setReadiness (s.readinessOf l)
  ({ s with boot := { s.boot with served := true } } : State).raiseSvn

/-- Order 8: the banks are written with zeros, in a device reset without those of the system pseudo-channels (R380), and every SRAM is cleared. -/
def State.bootZero (s : State) (train : Bool) : State :=
  { s with dram := if train then Mem.empty else s.dram.clearAssignable, spad := Mem.empty }

/-- CDC_TIMEOUT as the main image sets it: 65,536 by the image that ships with the part; an image staged since sets a power of two between 4,096 and
16,777,216, which one its header does not say (R372; DESIGN CHOICE, log 47). -/
def State.cdcTimeoutOf (s : State) : Nat :=
  match s.running with
  | some c => if c.image.isNone then 65536 else 2 ^ (12 + Config.free c.version 99 c.svn % 13)
  | none => 65536

def State.setCdcTimeout (s : State) : State := { s with cross := { s.cross with cdcTimeout := s.cdcTimeoutOf } }

/-- The pseudo-channels with a pending repair. -/
def State.repairPcs (s : State) : List Nat := nubNat (s.flash.pendingRepairs.map (fun c => c.bank / 16))

/-- Orders 2 to 9; training is done in a full boot only. -/
def State.bootFrom (s : State) (f : BootFindings) (train : Bool) : State :=
  let s := s.takeActivation
  match s.bootCopy f with
  | none => s.romServes
  | some s =>
    if !f.fuseOk then s.romServes
    else
      let s := s.bootFuse train
      let s := if train then s.bootTrain f else s
      let s := s.each f.units State.bootUnit
      let s := s.each s.repairPcs State.applyPending
      (s.bootZero train).setCdcTimeout.bootEnds f.badBlobs

/-! ### The commands -/

/-- PERST_N_ASSERT: a full reset as long as the pin is low. -/
def execPerstAssert (s : State) : Host.Outcome State Fault Refusal :=
  if s.boot.perstLow then .next s
  else
    let s := s.fullReset
    .next { s with boot := { s.boot with perstLow := true } }

/-- The link of a full boot: CXL where the licence is held and the host agrees, which a host that can always does (PRESUMED,
log 20). -/
def State.trainLink (s : State) : State := { s with link := { s.link with state := .up, cxl := s.boot.licLive.getLsbD 1 } }

/-- PERST_N_RELEASE: the boot of a powered module; none begins while THERMTRIP_N stays asserted. -/
def execPerstRelease (found : BootFindings) (s : State) : Host.Outcome State Fault Refusal :=
  if !s.boot.perstLow then .next s
  else
    let s := { s with boot := { s.boot with perstLow := false } }
    if !s.boot.switchClosed || s.thermal.tripped then .next s
    else .next ((s.bootEntropy found.entropyOk).bootFrom found true).trainLink

/-- What a device reset keeps of the bring-up: training, its lanes, and what only a training or the entropy test finds again. -/
def Boot.forDevice (b : Boot) : Boot :=
  { b with served := false, rom := false, readiness := .notReady, fencedClusters := [], fencedCores := [], fencedCuffs := [],
           offline := b.offline.filter (fun e => decide (e.2 = offlineLanes)), resetOnce := [], tested := [], unitPoison := [],
           mismatches := b.mismatches.filter (fun m => decide (m.kind = 0x01) || decide (m.kind = 0x04) || decide (m.kind = 0x08)) }

/-- A device reset, up to its boot: every partition is destroyed, its groups fail, nothing is written to the host (R380, R396).
Tests stop, and their counts stay (R40). -/
def State.deviceReset (s : State) : State :=
  let s := s.each (s.parts.map Prod.fst) State.resetNotices
  let s := s.each (s.tests.map Prod.fst) State.stopTest
  let columns := s.boot.columns
  let s := { s.emptied with dram := s.dram.clearAssignable, boot := s.boot.forDevice }
  let s := { s with boot := { s.boot with fencedCuffs := columns.foldl (fun t b => tput t b 1) [] } }
  { s with trust := { s.trust with tdi := [], ide := [], spdm := [], conns := [], pokes := [] }, peers := { s.peers with early := [], copies := [], rechecks := 0 },
           power := { s.power with state := .active, wakeHost := false, wakeMail := false, wakePeer := false, exiting := false,
                                   held := [], mail := [], fractions := [] } }

/-- PF_FLR: a device reset, then orders 2, 3 and 5 to 9 of the boot. -/
def execPfFlr (found : BootFindings) (s : State) : Host.Outcome State Fault Refusal :=
  if s.hostReaches && s.boot.served && !s.thermal.tripped then
    .next (s.deviceReset.bootFrom found false)
  else .next s

/-- INPUT_SWITCH_CLOSE: power comes on. The platform holds PERST_N low until it does (PRESUMED, PCI Express; log 20). -/
def execInputSwitchClose (s : State) : Host.Outcome State Fault Refusal :=
  if s.boot.switchClosed || s.boot.overcurrent then .next s
  else
    let s := s.fullReset
    .next { s with boot := { s.boot with switchClosed := true, perstLow := true } }

/-- INPUT_SWITCH_OPEN: the module loses its power and keeps nothing. With the switch open already, a fall of the input ends the
latch of an overcurrent (log 20). -/
def execInputSwitchOpen (why : InputFault) (s : State) : Host.Outcome State Fault Refusal :=
  if s.boot.switchClosed then
    let s := s.fullReset
    .next { s with boot := { s.boot with switchClosed := false, perstLow := true, overcurrent := decide (why = .overcurrent) },
                   thermal := Thermal.reset }
  else if why = .under then .next { s with boot := { s.boot with overcurrent := false } }
  else .next s

end Sys2Proof.Machine
end

