-- ==== Sys2Proof/Machine/Trust.lean ====
section
/-! DEFINITION. Trust.lean: firmware images and licences as they are staged and installed, SPDM and its measurements, IDE streams,
the TDISP states, the debug port (R328 to R343). -/

namespace Sys2Proof.Machine

/-! ### Firmware images (R331) -/

/-- What fw.stage comes to (R332): a signature or a digest that fails is SIGNATURE, whatever else is wrong; illegal fields refuse the request, as PARTS
and SVN do (log 23). The digests of components are those that a legal manifest names. -/
def State.judgeImages (s : State) (b : Bytes) : Answer × Option FwCopy :=
  let main := b.drop (imageBytes b)
  if !headersSigned s.ident.rootFw b || (manifestLegal (mainPayload b) && !manifestSigned (mainPayload b)) then (.signature, none)
  else if !imagesLegal b then (.refused, none)
  else
    let parts := u32 b 16 &&& u32 main 16
    if !bit parts s.ident.part.fwBit || decide (u8 b 3 < s.fuse.fwSvn.toNat) || decide (u8 main 3 < s.fuse.fwSvn.toNat)
    then (.refused, none)
    else
      (.ok, some { sound := true, image := some b, firstSvn := u8 b 3, svn := u8 main 3, version := u32 main 4, parts := parts,
                   firstDigest := BitVec.ofNat 512 (fld b 24 64), mainDigest := BitVec.ofNat 512 (fld main 24 64),
                   cuffDigest := cuffDigestOf (mainPayload b) })

def Flash.setCopy (f : Flash) (slot : Bool) (c : FwCopy) : Flash :=
  if slot then { f with copyB := some c } else { f with copyA := some c }

/-- The copy that did not boot; while the boot ROM serves, the one that the activation record does not name (log 23). -/
def State.spareSlot (s : State) : Bool := if s.boot.rom then !s.flash.active else !s.boot.slot

def slotCode (slot : Bool) : Nat := b2n slot

/-- The power fails while the spare copy is being written: the copy that booted stays as it is, the half-written one is not whole (R332), and the
module loses its power. -/
def State.cutStaging (s : State) (c : FwCopy) : State :=
  let slot := s.spareSlot
  let f := s.flash.setCopy slot { c with sound := false }
  let s := ({ s with flash := { f with pendingActive := if f.pendingActive = some slot then none else f.pendingActive } } : State).fullReset
  { s with boot := { s.boot with switchClosed := false, perstLow := true, overcurrent := false }, thermal := Thermal.reset }

/-- fw.stage writes verified images into the spare copy and clears a pending activation of it. -/
def State.stageImages (s : State) (m : Msg) (c : FwCopy) : State :=
  let slot := s.spareSlot
  let f := s.flash.setCopy slot c
  let s := { s with flash := { f with pendingActive := if f.pendingActive = some slot then none else f.pendingActive } }
  s.okay m (natLe 1 (slotCode slot))

/-- FW_STAGE; where the request is cut, the power fails during the write. -/
def execFwStage (request : Staging) (s : State) : Host.Outcome State Fault Refusal :=
  s.serve request.fn { code := 0x0090, box := .operator, early := true, rom := true, used := fun _ => [(0, 12)] } (fun s m =>
    let n := u32 m.body 8
    if s.linkGone then s.hostFails m.fn
    else
      s.checked m [(8, decide (n ≤ 122 * 2 ^ 20))] []
        (let r := s.judgeImages (s.hostBytes (hostKey m.fn (u64 m.body 0)) n)
         match r.2 with
         | some c => if request.cut then s.cutStaging c else s.stageImages m c
         | none => s.respond m.fn r.1 (if r.1 = .refused then refusalBody none else [])))

/-- FW_ACTIVATE: the record names the copy from the next reset on; naming what it names already cancels what is pending (R333). -/
def execFwActivate (fn : Nat) (s : State) : Host.Outcome State Fault Refusal :=
  s.serve fn { code := 0x0091, box := .operator, early := true, rom := true, used := fun _ => [(0, 1)] } (fun s m =>
    let slot := decide (u8 m.body 0 = 1)
    s.checked m [(0, decide (u8 m.body 0 ≤ 1))]
      [(some 0, match s.flash.copy slot with | some c => c.sound | none => false)]
      (let s := { s with flash := { s.flash with pendingActive := if slot = s.flash.active then none else some slot } }
       s.okay m []))

/-! ### Licences (R334, R335) -/

/-- The part can provide the features: PEERX needs X1 (R5). -/
def State.canProvide (s : State) (features : Nat) : Bool := s.ident.part.hasX1 || !bit features 3

/-- The installed set: the features of every stored blob. -/
def State.installed (s : State) : Byte := s.flash.store.foldl (fun m b => m ||| b.features) 0

/-- A verified blob is stored, and its new features are pending. -/
def State.storeBlob (s : State) (b : Bytes) : State :=
  let f : Byte := BitVec.ofNat 8 (u32 b 4)
  let new := f &&& ~~~s.installed
  { s with flash := { s.flash with store := s.flash.store ++ [{ features := f, bytes := b }] },
           boot := { s.boot with licPending := s.boot.licPending ||| new } }

def execLicInstall (fn : Nat) (s : State) : Host.Outcome State Fault Refusal :=
  s.serve fn { code := 0x00E0, box := .operator, early := true, used := fun _ => [(0, 12)] } (fun s m =>
    if s.linkGone then s.hostFails m.fn
    else
      s.checked m [(8, decide (u32 m.body 8 = blobBytes))] []
        (let b := s.hostBytes (hostKey m.fn (u64 m.body 0)) blobBytes
         let f : Byte := BitVec.ofNat 8 (u32 b 4)
         if !s.blobSigned b then s.respond m.fn .signature []
         else if !blobLegal b || !s.canProvide (u32 b 4) then s.refuse m.fn
         else if f &&& ~~~s.installed = 0 then s.okay m []
         else if 16 ≤ s.flash.store.length then s.refuse m.fn
         else (s.storeBlob b).okay m []))

/-! ### Attestation (R336 to R338) -/

/-- The responder answers: booted firmware runs and is not clock-gated. Transports: 0 MCTP over PCIe, 1 MCTP over I3C, 2 + f the
mailbox of function f. -/
def State.responds (s : State) (transport : Nat) : Bool :=
  s.powerGood && s.boot.served && !s.boot.rom && decide (s.power.state ≠ .watch) && !s.thermal.tripped
    && (decide (transport ≠ 0) || s.hostReaches)

/-- Contents of the fuse record without DEVICE_SECRET, as numbers (R376, R338). -/
def State.fuseContents (s : State) : List (List Nat) :=
  let f := s.fuse
  let rep := fun (l : List Repair) => l.flatMap (fun r => [r.bank, r.unit, r.spare])
  [[f.fwSvn.toNat, s.ident.serial.toNat, s.ident.rootFw.toNat, s.ident.rootLic.toNat], f.disabled, rep f.rowRepairs,
   rep f.columnRepairs, f.spareLanes.flatMap (fun l => [l.path.number, l.pc, l.bank, l.lane, l.spare]), f.mapouts, f.cuffFences,
   [f.calDefault.1, f.calDefault.2], f.cal.flatMap (fun e => [e.1, e.2.1, e.2.2])]

/-- Raw block 7. -/
def State.debugBlock (s : State) : Bytes :=
  natLe 4 s.trust.sessions.toNat ++ natLe 1 (b2n s.trust.debugSeen) ++ zeros 3 ++ natLe 8 s.trust.lastAttach.toNat

def digestBytes (d : BitVec 512) : Bytes := natLe 64 d.toNat

/-- The measurement blocks 1 to 8. -/
def State.measurements (s : State) : List Bytes :=
  let copy := fun (f : FwCopy → BitVec 512) => digestBytes ((s.running.map f).getD 0)
  [digestBytes Config.bootRomDigest, copy FwCopy.firstDigest, copy FwCopy.mainDigest, copy FwCopy.cuffDigest,
   digestBytes (Config.fuseDigest s.fuseContents), digestBytes s.trust.licMeasure, s.debugBlock, natLe 8 s.ident.word]

/-! ### The SPDM responder (R336, R337). The message layouts are those of SPDM 1.3 (PRESUMED, log 42); what the spec gives no value for is opaque. -/

def State.conn (s : State) (t : Nat) : SpdmConn := tgetD s.trust.conns t {}

def State.setConn (s : State) (t : Nat) (c : SpdmConn) : State := { s with trust := { s.trust with conns := tput s.trust.conns t c } }

/-- A response of the version negotiated: code, two parameters. -/
def spdmHead (code a b : Nat) : Bytes := natLe 1 0x13 ++ natLe 1 code ++ natLe 1 a ++ natLe 1 b

def spdmError (code data : Nat) : Bytes := spdmHead 0x7F code data

/-- A request is answered: the responder's nonces differ from request to request. -/
def State.spdmTick (s : State) (t : Nat) : State :=
  { s with trust := { s.trust with spdm := tput s.trust.spdm t (tgetD s.trust.spdm t 0 + 1) } }

/-- What the responder says where SPDM lays a field out and the spec gives no value: opaque, different from request to request. -/
def State.spdmOpaque (s : State) (t : Nat) (req : Bytes) : Bytes := Config.spdmResponse (t * 2 ^ 64 + tgetD s.trust.spdm t 0) req

/-- The signature under the attestation key over a request and its response (R337, R338). -/
def State.spdmSigned (s : State) (req rsp : Bytes) : Bytes :=
  Config.spdmSign s.flash.attest.sealedKey s.ident.deviceSecret (req ++ rsp)

/-- The extended asymmetric algorithm of R336: registry PCI-SIG, the vendor identifier with its length, algorithm 0x0001 (its layout: log 42). -/
def falconEntry (vendor : BitVec 16) : Bytes := natLe 1 3 ++ natLe 1 2 ++ natLe 2 vendor.toNat ++ natLe 2 1 ++ zeros 2

/-- The algorithms of R336: none of BaseAsymAlgo, SHA-384, raw measurements, Falcon-1024 of Golnor's registry entry, secp384r1, AES-256-GCM. -/
def spdmAlgorithms (vendor : BitVec 16) : Bytes :=
  spdmHead 0x63 3 0 ++ natLe 2 56 ++ natLe 1 1 ++ zeros 1 ++ natLe 4 1 ++ natLe 4 0 ++ natLe 4 2 ++ zeros 12 ++ natLe 1 2 ++ zeros 3
    ++ falconEntry vendor
    ++ (natLe 1 2 ++ natLe 1 0x20 ++ natLe 2 0x10) ++ (natLe 1 3 ++ natLe 1 0x20 ++ natLe 2 2) ++ (natLe 1 5 ++ natLe 1 0x20 ++ natLe 2 1)

/-- The algorithm structures of a request: their types and what they offer. -/
def algStructs : Nat → Bytes → List (Nat × Nat)
  | 0, _ => []
  | k + 1, b => (u8 b 0, u16 b 2) :: algStructs k (b.drop (4 + 4 * (u8 b 1 % 16)))

/-- NEGOTIATE_ALGORITHMS offers what the device takes: SHA-384, Falcon-1024 among its extended asymmetric algorithms, secp384r1 and AES-256-GCM. -/
def algorithmsOffered (vendor : BitVec 16) (req : Bytes) : Bool :=
  let l := algStructs (u8 req 2) (req.drop (32 + 4 * (u8 req 28 + u8 req 29)))
  bit (u32 req 12) 1 && (List.range (u8 req 28)).any (fun i => decide ((req.drop (32 + 4 * i)).take 8 = falconEntry vendor))
    && l.any (fun x => decide (x.1 = 2) && bit x.2 4) && l.any (fun x => decide (x.1 = 3) && bit x.2 1)

/-- Transports of the PF: MCTP, and its mailbox. -/
def pfTransport (t : Nat) : Bool := decide (t ≤ 2)

/-- Room for one more secure session: 4 on the PF, 1 on each VF (R336). -/
def State.sessionRoom (s : State) (t : Nat) : Bool :=
  if pfTransport t then
    decide (sumNat ((s.trust.conns.filter (fun e => pfTransport e.1)).map (fun e => e.2.sessions.length)) < 4)
  else decide ((s.conn t).sessions.length < 1)

/-- The lowest session number not in use. -/
def SpdmConn.newSession (c : SpdmConn) : Nat := ((List.range 5).find? (fun n => (tget c.sessions n).isNone)).getD 0

/-- Value types of the eight blocks: ROM, firmware, firmware, firmware, hardware and firmware configuration, debug mode, hardware. -/
def measurementTypes : List Nat := [0x80, 0x81, 0x81, 0x81, 0x82, 0x83, 0x85, 0x82]

/-- One block of a MEASUREMENTS record. -/
def measurementBlock (i : Nat) (v : Bytes) : Bytes :=
  natLe 1 (i + 1) ++ natLe 1 1 ++ natLe 2 (v.length + 3) ++ natLe 1 ((measurementTypes[i]?).getD 0x80) ++ natLe 2 v.length ++ v

/-- GET_MEASUREMENTS (R338): the number of blocks, all of them, or the one named; signed when asked, by the key of slot 0, which is the only one that the
request may name then, after its nonce (R337). -/
def State.measurementsReply (s : State) (t : Nat) (req : Bytes) : Bytes :=
  let l := s.measurements
  let which := u8 req 3
  let blocks := if which = 0 then [] else if which = 0xFF then List.range 8 else if which ≤ 8 then [which - 1] else []
  let record := blocks.flatMap (fun i => measurementBlock i ((l[i]?).getD []))
  if (which ≠ 0 && which ≠ 0xFF && decide (8 < which)) || (bit (u8 req 2) 0 && decide (u8 req 36 % 16 ≠ 0)) then spdmError 1 0
  else
    let rsp := spdmHead 0x60 (if which = 0 then 8 else 0) 0 ++ natLe 1 blocks.length ++ natLe 3 record.length ++ record
      ++ (s.spdmOpaque t req).take 32 ++ natLe 2 0
    if bit (u8 req 2) 0 then rsp ++ s.spdmSigned req rsp else rsp

/-- GET_CERTIFICATE of slot 0, from an offset on. -/
def State.certificateReply (s : State) (req : Bytes) : Bytes :=
  let a := s.flash.attest
  let chain := Config.certChain a.serial a.partCode a.publicKey
  let l := (chain.drop (u16 req 4)).take (u16 req 6)
  spdmHead 0x02 0 0 ++ natLe 2 l.length ++ natLe 2 (chain.length - u16 req 4 - l.length) ++ l

/-- The answer to a request on a transport. No slot but 0 is offered and no SET_CERTIFICATE accepted (R337). -/
def State.spdmReply (s : State) (t : Nat) (req : Bytes) : Bytes × State :=
  let c := s.conn t
  let ready := decide (c.stage = .algorithms)
  let free := s.spdmOpaque t req
  let on := s.spdmTick t
  let slot0 := decide (u8 req 2 % 16 = 0)
  match u8 req 1 with
  | 0x84 => (natLe 1 0x10 ++ natLe 1 0x04 ++ zeros 3 ++ natLe 1 1 ++ natLe 2 0x1300, on.setConn t { stage := .version, sessions := [] })
  | 0xE1 =>
    if u8 req 0 ≠ 0x13 then (spdmError 0x41 0, on)
    else if c.stage = .version then (spdmHead 0x61 0 0 ++ free, on.setConn t { c with stage := .capabilities })
    else (spdmError 4 0, on)
  | 0xE3 =>
    if c.stage ≠ .capabilities then (spdmError 4 0, on)
    else if algorithmsOffered s.ident.vendor req then (spdmAlgorithms s.ident.vendor, on.setConn t { c with stage := .algorithms })
    else (spdmError 1 0, on)
  | 0x81 => if ready then (spdmHead 0x01 0 1 ++ free.take 48, on) else (spdmError 4 0, on)
  | 0x82 => if !ready then (spdmError 4 0, on) else if slot0 then (s.certificateReply req, on) else (spdmError 1 0, on)
  | 0x83 =>
    if !ready then (spdmError 4 0, on)
    else if slot0 then (let r := spdmHead 0x03 0 1 ++ free; (r ++ s.spdmSigned req r, on)) else (spdmError 1 0, on)
  | 0xE0 => if ready then (s.measurementsReply t req, on) else (spdmError 4 0, on)
  | 0xE4 =>
    if !ready then (spdmError 4 0, on)
    else if u8 req 3 ≠ 0 then (spdmError 1 0, on)
    else if s.sessionRoom t then
      (let r := spdmHead 0x64 0 0 ++ free; r ++ s.spdmSigned req r, on.setConn t { c with sessions := tput c.sessions c.newSession false })
    else (spdmError 0x0A 0, on)
  | 0xE5 =>
    match c.sessions.find? (fun e => !e.2) with
    | none => (spdmError 4 0, on)
    | some e =>
      if Config.finishOk t e.1 req then (spdmHead 0x65 0 0, on.setConn t { c with sessions := tput c.sessions e.1 true })
      else (spdmError 6 0, on.setConn t { c with sessions := tdel c.sessions e.1 })
  | 0xEC =>
    match c.sessions.find? Prod.snd with
    | none => (spdmError 4 0, on)
    | some e => (spdmHead 0x6C 0 0, on.setConn t { c with sessions := tdel c.sessions e.1 })
  | 0xE8 => if c.sessions.any Prod.snd then (spdmHead 0x68 0 0, on) else (spdmError 4 0, on)
  | 0xE9 => if c.sessions.any Prod.snd then (spdmHead 0x69 (u8 req 2) (u8 req 3), on) else (spdmError 4 0, on)
  | code => (spdmError 7 code, on)

/-- A secure session with the PF stands, over MCTP on PCIe (R339). -/
def State.pfSession (s : State) : Bool := (s.conn 0).sessions.any Prod.snd

def execAttestSpdm (fn : Nat) (s : State) : Host.Outcome State Fault Refusal :=
  s.serve fn { code := 0x00A0, box := .either, early := true, used := fun b => [(0, b.length)] } (fun s m =>
    let (r, s) := s.spdmReply (2 + m.fn) m.body
    s.okay m (r.take 4080))

/-- GET_MEASUREMENTS: all eight blocks, signed where the requester asks for it. -/
def execGetMeasurements (ask : MeasurementsAsk) (s : State) : Host.Outcome State Fault Refusal :=
  if s.responds ask.transport && decide (ask.transport < 35) then
    let l := s.measurements
    .next ((s.spdmTick ask.transport).emit (.measurements ask.transport l (if ask.signed then s.spdmSigned [] l.flatten else [])))
  else .next s

/-- Keys of a stream: stream 0 is the link stream, 1 to 8 are selective; only a selective one is bound to a VF, and only a bound one
is TEE-limited (R339). -/
def State.setIde (s : State) (stream : Nat) (vf : Option Nat) (tee : Bool) : State :=
  let bound := match vf with | some p => decide (p < 32) | none => !tee
  if decide (stream ≤ 8) && (decide (stream ≠ 0) || (vf.isNone && !tee)) && bound then
    { s with trust := { s.trust with ide := tput s.trust.ide stream { vf := vf, tee := tee, insecure := false } } }
  else s

/-- MCTP_SPDM_REQUEST: transports 0 and 1. IDE_KM needs a secure session with the PF. -/
def execMctpSpdmRequest (transport : Nat) (req : SpdmRequest) (s : State) : Host.Outcome State Fault Refusal :=
  if s.responds transport && decide (transport < 2) then
    match req with
    | .ideKeys stream vf tee =>
      if transport = 0 && s.pfSession then
        .next (((s.setIde stream vf tee).spdmTick transport).emit (.spdm transport (spdmHead 0x7E 0 0 ++ s.spdmOpaque transport (natLe 1 stream))))
      else .next ((s.spdmTick transport).emit (.spdm transport (spdmError 4 0)))
    | .other body =>
      let (r, s) := s.spdmReply transport body
      .next (s.emit (.spdm transport r))
  else .next s

/-! ### IDE and TDISP (R299, R339 to R341) -/

def execIdeIntegrityFailure (stream : Nat) (s : State) : Host.Outcome State Fault Refusal :=
  match tget s.trust.ide stream with
  | none => .next s
  | some x =>
    let s := { s with trust := { s.trust with ide := tput s.trust.ide stream { x with insecure := true } } }
    match x.vf with
    | some p => .next (s.tdiError p)
    | none => .next s

/-- A TEE-limited selective stream is bound to the VF, and secure. -/
def State.teeStream (s : State) (p : Nat) : Bool :=
  s.trust.ide.any (fun e => decide (e.1 ≠ 0) && e.2.tee && !e.2.insecure && decide (e.2.vf = some p))

def State.tdiState (s : State) (p : Nat) : TdiState := (tget s.trust.tdi p).getD .unlocked

def State.setTdi (s : State) (p : Nat) (t : TdiState) : State :=
  { s with trust := { s.trust with tdi := if t = .unlocked then tdel s.trust.tdi p else tput s.trust.tdi p t } }

/-- TDISP requests reach the device in a secure session with the PF. -/
def State.tdispOpen (s : State) (p : Nat) : Bool := s.responds 0 && s.pfSession && decide (p < 32)

def execLockInterface (p : Nat) (s : State) : Host.Outcome State Fault Refusal :=
  if !s.tdispOpen p then .next s
  else
    let ok := decide (s.tdiState p = .unlocked) && (match s.part? p with | some P => P.zeroing.isNone | none => false)
      && (tget s.link.decoders p).isNone && s.teeStream p
    .next ((if ok then s.setTdi p .locked else s).emit (.tdisp p ok))

def execStartInterface (p : Nat) (s : State) : Host.Outcome State Fault Refusal :=
  if !s.tdispOpen p then .next s
  else
    let ok := decide (s.tdiState p = .locked)
    .next ((if ok then s.setTdi p .run else s).emit (.tdisp p ok))

def execStopInterface (p : Nat) (s : State) : Host.Outcome State Fault Refusal :=
  if !s.tdispOpen p then .next s else .next ((s.setTdi p .unlocked).emit (.tdisp p true))

/-- Digest of the live configuration block followed by the pseudo-channels with their bank-local counts. -/
def Partition.configDigest (P : Partition) : BitVec 512 :=
  Config.shake256 (P.live.block P.applyCount P.rejectCount ++ P.pcs.flatMap (fun e => natLe 2 e.1 ++ natLe 1 e.2 ++ zeros 1))

/-- The report: three BARs (base, size, prefetchable) as configuration space has them, IDENT, the digest. -/
def State.interfaceReport (s : State) (p : Nat) (P : Partition) : Bytes :=
  let c := s.cfgSpace (p + 1)
  let bar := fun (n pre : Nat) => natLe 8 (tgetD c.bars n 0) ++ natLe 8 (c.barSize (p + 1) n) ++ natLe 1 pre
  bar 0 0 ++ bar 2 1 ++ bar 4 1 ++ natLe 8 s.ident.word ++ digestBytes P.configDigest

/-- GET_DEVICE_INTERFACE_REPORT: of a locked or running interface, as TDISP has it (PRESUMED, log 15). -/
def execGetDeviceInterfaceReport (p : Nat) (s : State) : Host.Outcome State Fault Refusal :=
  if !s.tdispOpen p then .next s
  else
    match s.part? p with
    | some P =>
      if s.tdiLocked p then .next (s.emit (.report p (s.interfaceReport p P))) else .next (s.emit (.tdisp p false))
    | none => .next (s.emit (.tdisp p false))

/-! ### The debug port (R342) -/

/-- VFs that an attach moves to ERROR. -/
def State.lockedVfs (s : State) : List Nat := (List.range 32).filter s.tdiLocked

/-- DEBUG_ATTACH: the sessions, the time, the sticky bit, the locked interfaces, the events, the entry; then access. The TAP and the I3C
target answer as long as the module has power, PERST_N low included (R421). -/
def execDebugAttach (s : State) : Host.Outcome State Fault Refusal :=
  if !s.powerGood then .next s
  else
    let (t, s) := s.readTimer
    let moved := s.lockedVfs
    let n := if s.trust.sessions = 0xFFFFFFFF then s.trust.sessions else s.trust.sessions + 1
    let s := { s with trust := { s.trust with sessions := n, debugSeen := true, lastAttach := BitVec.ofNat 64 t } }
    let s := s.each moved State.tdiError
    let s := s.raiseEvent 0 8
    let s := s.each moved (fun s p => s.raiseEvent (p + 1) 8)
    let s := s.logErr { cls := 12, islandA := 0xB000 }
    .next { s with trust := { s.trust with access := true } }

/-- What the debug path reaches once access is granted: device memory, scratchpads, Pewter and the registers of a function. The device secret, the
attestation private key and the key store are no target of it. -/
inductive DebugTarget where
  | memory (addr : Nat)
  | scratchpad (cluster addr : Nat)
  | pewter (addr : Nat)
  | register (fn offset : Nat)
  deriving DecidableEq, Repr

/-- A pseudo-channel whose contents the model does not hold byte by byte: one of the system region, or one that a test has written since it was
last zeroised (log 44). -/
def State.debugBlind (s : State) (pc : Nat) : Bool := systemPc pc || s.boot.tested.contains pc

/-- A byte that the model holds no contents of: what a debugger wrote there last, else what a test has left there, else a free value. -/
def State.pokedByte (s : State) (site key : Nat) : Byte :=
  match tget s.trust.pokes key, (tget s.tests (addrBank key / 16)).bind (fun t => t.leaves key) with
  | some v, _ => v
  | none, some v => if decide (site = 93) && !systemPc (addrBank key / 16) then BitVec.ofNat 8 v else BitVec.ofNat 8 (Config.free s.free site key)
  | none, none => BitVec.ofNat 8 (Config.free s.free site key)

/-- A debug read of n bytes. No row of the opcode table is one: the path's effect is named here. -/
def State.debugRead (s : State) (t : DebugTarget) (n : Nat) : Option Bytes :=
  if !(s.powerGood && s.trust.access) then none
  else
    match t with
    | .memory a =>
      some (if s.debugBlind (addrBank a / 16) then (List.range n).map (fun i => s.pokedByte 93 (a + i)) else s.dram.bytes a n)
    | .scratchpad c a => some (s.spad.bytes (c * 2 ^ 24 + a % 2 ^ 24) n)
    | .pewter a => some ((List.range n).map (fun i => s.pokedByte 94 (2 ^ 46 + a + i)))
    | .register fn off => some (((natLe 8 (s.register fn (off / 8 * 8))).drop (off % 8)).take n)

/-- A debugger's bytes are kept where the model holds no contents. -/
def State.poke (s : State) (key : Nat) (b : Bytes) : State :=
  { s with trust := { s.trust with pokes := (b.zipIdx).foldl (fun t x => tput t (key + x.2) x.1) s.trust.pokes } }

/-- A debug write. -/
def State.debugWrite (s : State) (t : DebugTarget) (b : Bytes) : State :=
  if !(s.powerGood && s.trust.access) then s
  else
    match t with
    | .memory a => if s.debugBlind (addrBank a / 16) then s.poke a b else { s with dram := s.dram.write a b }
    | .scratchpad c a => { s with spad := s.spad.write (c * 2 ^ 24 + a % 2 ^ 24) b }
    | .pewter a => s.poke (2 ^ 46 + a) b
    | .register fn off => s.writeBar0 fn off b

def execDbgStatus (fn : Nat) (s : State) : Host.Outcome State Fault Refusal :=
  s.serve fn { code := 0x00D0, box := .either, early := true }
    (fun s m => s.okay m s.debugBlock)

end Sys2Proof.Machine
end

