-- ==== Sys2Proof/Machine/PeerAdmin.lean ====
section
/-! DEFINITION. PeerAdmin.lean: the peer manifest as it is read, checked and applied, and the status of the links (R312, R315 to R317,
R321, R322, R327). -/

namespace Sys2Proof.Machine

/-! ### Reading a manifest -/

/-- A manifest as read, with whether every field of it is legal. -/
structure ReadManifest where
  manifest : Manifest
  legal : Bool
  deriving DecidableEq, Repr

/-- A peer entry, 32 bytes. -/
def readPeer (b : Bytes) : PeerEntry × Bool :=
  ({ serial := BitVec.ofNat 128 (fld b 0 16), included := bit (u8 b 16) 0 }, decide (u8 b 16 ≤ 1) && zeroSpan b 17 32)

/-- A link entry, 16 bytes. -/
def readLink (peers : Nat) (b : Bytes) : LinkEntry × Bool :=
  ({ port := u8 b 0, peer := u8 b 1, remotePort := u8 b 2, switched := bit (u8 b 3) 0, mac := fld b 4 6 },
   decide (u8 b 0 ≤ 15) && decide (u8 b 1 < peers) && decide (u8 b 2 ≤ 15) && decide (u8 b 3 ≤ 1) && zeroSpan b 10 16)

/-- Members of a group entry: P is one byte, in which 0 stands for 256 (log 18). -/
def groupSize (b : Bytes) : Nat := if u8 b 2 = 0 then 256 else u8 b 2

def readGroup (peers : Nat) (b : Bytes) : GroupEntry × Bool :=
  let n := groupSize b
  let member := fun (r : Nat) => (u8 b (8 + 4 * r), u8 b (9 + 4 * r))
  ({ partition := u8 b 0, group := u8 b 1, rank := u8 b 3, members := (List.range n).map member },
   decide (u8 b 0 ≤ 31) && decide (u8 b 1 ≤ 15) && decide (2 ≤ n) && decide (u8 b 3 < n) && zeroSpan b 4 8
     && (List.range n).all (fun r =>
       (if r = u8 b 3 then decide (u8 b (8 + 4 * r) = 0xFF) else decide (u8 b (8 + 4 * r) < peers))
         && decide (u8 b (9 + 4 * r) ≤ 31) && zeroSpan b (10 + 4 * r) (12 + 4 * r)))

/-- Group entries one after another; the bytes must end with the last. -/
def readGroups (peers : Nat) : Nat → Bytes → List GroupEntry × Bool
  | 0, b => ([], b.isEmpty)
  | n + 1, b =>
    let len := 8 + 4 * groupSize b
    let g := readGroup peers b
    let t := readGroups peers n (b.drop len)
    (g.1 :: t.1, decide (len ≤ b.length) && g.2 && t.2)

/-- The whole manifest. -/
def readManifest (b : Bytes) : ReadManifest :=
  let np := u16 b 2
  let nl := u16 b 4
  let ng := u16 b 6
  let peers := (List.range np).map (fun i => readPeer ((b.drop (32 + 32 * i)).take 32))
  let links := (List.range nl).map (fun i => readLink np ((b.drop (32 + 32 * np + 16 * i)).take 16))
  let groups := readGroups np ng (b.drop (32 + 32 * np + 16 * nl))
  { manifest := { etherType := u16 b 8, loopback := u16 b 10, peers := peers.map Prod.fst, links := links.map Prod.fst,
                  groups := groups.1 },
    legal := decide (32 + 32 * np + 16 * nl ≤ b.length) && decide (u16 b 0 = 1) && decide (np ≤ 255) && decide (nl ≤ 16)
      && decide (ng ≤ 512) && decide (0x0600 ≤ u16 b 8) && zeroSpan b 12 32 && peers.all Prod.snd && links.all Prod.snd && groups.2 }

/-! ### What R316 refuses -/

def Manifest.loopPorts (m : Manifest) : List Nat := (List.range 16).filter (bit m.loopback)

def Manifest.linkTo (m : Manifest) (k : Nat) : Bool := m.links.any (fun l => decide (l.peer = k))

/-- Links to the ring neighbours. -/
def Manifest.ringLinked (m : Manifest) (g : GroupEntry) : Bool :=
  m.linkTo (g.member (g.rank + 1)) && m.linkTo (g.member (g.rank + g.members.length - 1))

/-- The remote partitions that a local partition pairs a peer with. -/
def Manifest.pairsOf (m : Manifest) (p : Nat) : List (Nat × Nat) :=
  (m.groups.filter (fun g => decide (g.partition = p))).flatMap (fun g => g.members.filter (fun x => decide (x.1 ≠ 0xFF)))

def Manifest.pairsAgree (m : Manifest) : Bool :=
  (List.range 32).all (fun p => (m.pairsOf p).all (fun x => (m.pairsOf p).all (fun y => decide (x.1 ≠ y.1) || decide (x.2 = y.2))))

/-- Elements that a key takes to one value. -/
def repeats {α : Type} (key : α → Nat) : List α → Bool
  | [] => false
  | x :: t => t.any (fun y => decide (key y = key x)) || repeats key t

def State.manifestOk (s : State) (m : Manifest) : Bool :=
  m.links.all (fun l => s.portEnableable l.port) && m.loopPorts.all s.portEnableable
    && !repeats LinkEntry.port m.links && !m.links.any (fun l => bit m.loopback l.port)
    && !repeats (fun g => groupKey g.partition g.group) m.groups && m.groups.all m.ringLinked && m.pairsAgree

/-! ### What a manifest leaves unchanged -/

def Manifest.serial (m : Manifest) (k : Nat) : Option (BitVec 128) := (m.peers[k]?).map PeerEntry.serial

/-- The index of a peer in another manifest, by its serial. -/
def Manifest.renumber (old new : Manifest) (k : Nat) : Option Nat :=
  match old.serial k with
  | .none => .none
  | some x => indexWhere (fun e => decide (e.serial = x)) new.peers 0

def Manifest.includes (m : Manifest) (k : Nat) : Bool := match m.peers[k]? with | .some e => e.included | .none => false

/-- Members by serial and remote partition. -/
def Manifest.memberSerials (m : Manifest) (g : GroupEntry) : List (Option (BitVec 128) × Nat) := g.members.map (fun x => (m.serial x.1, x.2))

def Manifest.group? (m : Manifest) (g : GroupEntry) : Option GroupEntry :=
  m.groups.find? (fun e => decide (e.partition = g.partition) && decide (e.group = g.group))

/-- The new manifest holds the same group, and takes no member of it out. -/
def Manifest.keeps (old new : Manifest) (g : GroupEntry) : Bool :=
  match new.group? g with
  | .none => false
  | some h => decide (h.rank = g.rank) && decide (new.memberSerials h = old.memberSerials g)
      && ((g.peers.zip h.peers).all (fun k => !old.includes k.1 || new.includes k.2))

/-- The same link: port, far device, far port, switch and address. -/
def Manifest.sameLink (old new : Manifest) (port : Nat) : Bool :=
  match old.links.find? (fun l => decide (l.port = port)), new.links.find? (fun l => decide (l.port = port)) with
  | some a, some b => decide (old.serial a.peer = new.serial b.peer) && decide (a.remotePort = b.remotePort)
      && decide (a.switched = b.switched) && decide (a.mac = b.mac)
  | _, _ => false

/-- Some group with a peer command of its partition in flight would change. -/
def State.manifestBusy (s : State) (m : Manifest) : Bool :=
  s.peers.manifest.groups.any (fun g => !s.peers.manifest.keeps m g
    && s.flight.any (fun e => decide (e.2.p = g.partition) && e.2.peer.isSome))

/-! ### Applying a manifest -/

/-- The port after the manifest: an unchanged link runs on; the counts stay. -/
def State.portUnder (s : State) (m : Manifest) (n : Nat) : Port :=
  let x := s.port n
  let fresh := fun (st : PortState) => { Port.reset with state := st, retransmits := x.retransmits, fcsErrors := x.fcsErrors,
                                                         loopErrors := x.loopErrors }
  if bit m.loopback n then fresh .loopback
  else if m.links.any (fun l => decide (l.port = n)) then (if s.peers.manifest.sameLink m n then x else fresh .down)
  else fresh .disabled

/-- Commands with frames on a port whose link the manifest takes away. -/
def State.strandedBy (s : State) (m : Manifest) : List Nat :=
  nubNat ((List.range 16).flatMap (fun n =>
    if s.peers.manifest.sameLink m n then [] else ((s.port n).unacked ++ (s.port n).backlog).filterMap OutFrame.job))

/-- A group starts anew under the manifest: it is new or changed, a member is included again, or it has FAILED and every member is included. -/
def State.restarts (s : State) (m : Manifest) (g : GroupEntry) : Bool :=
  match s.peers.manifest.group? g, tget s.peers.groups (groupKey g.partition g.group) with
  | some h, some G =>
    if !s.peers.manifest.keeps m h then true
    else if G.state = .failed then g.peers.all m.includes
    else g.peers.all (fun k => m.includes k) && !(h.peers.all s.peers.manifest.includes)
  | _, _ => true

/-- The state of a group under the manifest: one that starts anew is PENDING with OP_SEQ 0; a FAILED one stays so while a member is left out. -/
def State.groupUnder (s : State) (m : Manifest) (g : GroupEntry) : Group :=
  if s.restarts m g then { state := .pending, opSeq := 0 } else s.group g.partition g.group

/-- A peer's index in the new manifest, where the peer was and stays included. -/
def Manifest.follow (old new : Manifest) (k : Nat) : Option Nat :=
  if old.includes k then (match old.renumber new k with | .some i => (if new.includes i then .some i else .none) | .none => .none) else .none

def PeerKind.renumber (f : Nat → Option Nat) : PeerKind → PeerKind
  | .collective g o r n => .collective g o r n
  | .send k c n => .send ((f k).getD k) c n
  | .recv k c n => .recv ((f k).getD k) c n
  | .copyOut k r => .copyOut ((f k).getD k) r
  | .copyIn k r => .copyIn ((f k).getD k) r

/-- Keys of a channel under the new numbers. -/
def rekey (f : Nat → Option Nat) (key : Nat) : Option Nat := (f (key / 65536)).map (fun k => k * 65536 + key % 65536)

def Partition.renumber (f : Nat → Option Nat) (P : Partition) : Partition :=
  let tab := fun (t : Tab Nat) => t.foldl (fun acc e => match rekey f e.1 with | some k => tput acc k e.2 | none => acc) []
  { P with sends := tab P.sends, recvs := tab P.recvs,
           notices := P.notices.filterMap (fun e => (rekey f e.1).map (fun k => (k, e.2))),
           aborts := P.aborts.filterMap (fun a => if a.2.2.2 = 1 ∨ a.2.2.2 = 2 then (f a.1).map (fun k => (k, a.2)) else some a) }

/-- A manifest takes effect. A group that goes or starts anew leaves nothing of before behind but the digests that have come for it. -/
def State.applyManifest (s : State) (m : Manifest) : State :=
  let f := s.peers.manifest.follow m
  let s := s.each (s.strandedBy m) (fun s id => s.losePeer id .peerLost)
  let ports := (List.range 16).map (fun n => (n, s.portUnder m n))
  let groups := m.groups.foldl (fun acc g => tput acc (groupKey g.partition g.group) (s.groupUnder m g)) []
  let ended := s.peers.manifest.groups.filter (fun g => match m.group? g with | some h => s.restarts m h | none => true)
  let apart := ended.filter (fun g => match m.group? g with | some h => !h.peers.all m.includes | none => true)
  let digests := s.peers.digests.filter (fun x => !apart.any (fun g => decide (groupKey g.partition g.group = x.1)))
  let s := s.each ended (fun s g => s.forgetGroup g.partition g.group)
  { s with peers := { manifest := m, ports := ports, groups := groups, early := s.peers.early, digests := digests,
                      copies := s.peers.copies.filterMap (fun e => (f e.2.1).map (fun k => (e.1, k, e.2.2))) },
           parts := s.parts.map (fun e => (e.1, e.2.renumber f)),
           flight := s.flight.map (fun e => (e.1, { e.2 with peer := e.2.peer.map (fun j => { j with kind := j.kind.renumber f }) })) }

/-- Bytes of the longest manifest. -/
def manifestMax : Nat := 32 + 32 * 255 + 16 * 16 + 512 * (8 + 4 * 256)

def execPeerTopology (fn : Nat) (s : State) : Host.Outcome State Fault Refusal :=
  s.serve fn { code := 0x00C0, box := .operator, early := true, used := fun _ => [(0, 12)] } (fun s m =>
    let n := u32 m.body 8
    if s.linkGone then s.hostFails m.fn
    else
      let r := readManifest (s.hostBytes (hostKey m.fn (u64 m.body 0)) (min n manifestMax))
      s.checked m [] [(none, decide (n ≤ manifestMax) && r.legal), (none, s.manifestOk r.manifest), (none, !s.manifestBusy r.manifest)]
        (let s := (s.applyManifest r.manifest).offerDigests
         ({ s with peers := { s.peers with rechecks := s.peers.rechecks + 1 } } : State).okay m []))

/-! ### peer.status -/

def PortState.code : PortState → Nat
  | .disabled => 0
  | .down => 1
  | .training => 2
  | .up => 3
  | .mismatch => 4
  | .loopback => 5

def GroupState.code : GroupState → Nat
  | .pending => 0
  | .active => 1
  | .failed => 2

/-- The 16-byte entry of a port. -/
def State.portBody (s : State) (n : Nat) : Bytes :=
  let x := s.port n
  natLe 1 x.state.code ++ natLe 1 ((s.portPeer n).getD 0xFF) ++ natLe 1 x.farPort ++ zeros 1 ++ natLe 4 x.retransmits.toNat
    ++ natLe 4 x.fcsErrors.toNat ++ natLe 4 x.loopErrors.toNat

/-- The 8-byte entry of a group. P is one byte, 0 for 256. -/
def State.groupBody (s : State) (g : GroupEntry) : Bytes :=
  let G := s.group g.partition g.group
  natLe 1 g.group ++ natLe 1 G.state.code ++ natLe 1 g.members.length ++ natLe 1 g.rank ++ natLe 4 G.opSeq.toNat

/-- The locally administered unicast address of a port (R312): 02:00:00:00:00:n unless the assembly gave it another (log 46). -/
def Ident.mac (i : Ident) (n : Nat) : Nat := tgetD i.macs n (n * 2 ^ 40 + 2)

/-- Ports, then the groups of the partition that the header names; a partition mailbox gets its own. The ports' addresses follow, six bytes each
(log 46). -/
def execPeerStatus (fn : Nat) (s : State) : Host.Outcome State Fault Refusal :=
  s.serve fn { code := 0x00C1, box := .either, early := true } (fun s m =>
    let ports := (List.range 16).flatMap s.portBody
    let macs := (List.range 16).flatMap (fun n => natLe 6 (s.ident.mac n))
    if m.p = 0xFF then s.okay m (ports ++ macs)
    else if (s.part? m.p).isNone then s.respond m.fn .badPartition []
    else s.okay m (ports ++ (s.groupsOf m.p).flatMap s.groupBody ++ macs))

end Sys2Proof.Machine
end

