-- ==== Sys2Proof/Machine/Perf.lean ====
section
/-! DEFINITION. Perf.lean: the control words of the counters, sampling and the writes of its ring (R400, R404 to R410). -/

namespace Sys2Proof.Machine

/-! ### Control words (R400, R405) -/

/-- Event codes of a bank; 0 counts nothing and is legal everywhere. -/
def eventLegal (kind ev : Nat) : Bool :=
  decide (ev = 0)
    || (match kind with
      | 0 => decide (0x01 ≤ ev) && decide (ev ≤ 0x0B)
      | 1 => decide (0x41 ≤ ev) && decide (ev ≤ 0x4F)
      | 2 => decide (0x81 ≤ ev) && decide (ev ≤ 0x8A)
      | _ => decide (0xC1 ≤ ev) && decide (ev ≤ 0xCB))

/-- Filters: a partition on events C1 to C7, a port on C6 to C8; no other event may be filtered. -/
def filterLegal (ev filter kind : Nat) : Bool :=
  match kind with
  | 0 => true
  | 1 => decide (0xC1 ≤ ev) && decide (ev ≤ 0xC7)
  | 2 => decide (0xC6 ≤ ev) && decide (ev ≤ 0xC8) && decide (filter < 16)
  | _ => false

/-- A control word that a counter of a bank may take. -/
def controlLegal (kind w : Nat) : Bool :=
  decide (bits w 15 10 = 0) && decide (bits w 63 23 = 0) && eventLegal kind (bits w 7 0)
    && filterLegal (bits w 7 0) (bits w 20 16) (bits w 22 21)

/-- A counter under a new control word; CLEAR zeroes COUNT and OVF. -/
def Counter.control (c : Counter) (w : Nat) : Counter :=
  { event := bits w 7 0, enable := bit w 8, filter := bits w 20 16, filterKind := bits w 22 21,
    count := if bit w 9 then 0 else c.count, ovf := if bit w 9 then false else c.ovf }

/-- The live control word; CLEAR reads zero. -/
def Counter.word (c : Counter) : Nat := c.event + b2n c.enable * 2 ^ 8 + c.filter * 2 ^ 16 + c.filterKind * 2 ^ 21

/-! ### perf.config (R406) -/

/-- The entries of a request: selector and control word. -/
def perfEntries (b : Bytes) : List (Nat × Nat) := (List.range (u8 b 1)).map (fun i => (u32 b (8 + 16 * i), u64 b (16 + 16 * i)))

def perfRow (op : Nat) : MsgRow :=
  { code := 0x0060, box := .either, inOrder := true, user := true, mine := opIs op 1,
    used := fun b => (0, 2) :: (List.range (min (u8 b 1) 64)).flatMap (fun i => [(8 + 16 * i, 4), (16 + 16 * i, 8)]),
    size := fun _ => 8 }

/-- Fields of a request: a known selector, and a legal control word, zero in a read. -/
def State.perfFields (s : State) (b : Bytes) : List (Nat × Bool) :=
  [(0, decide (u8 b 0 ≤ 1)), (1, decide (1 ≤ u8 b 1) && decide (u8 b 1 ≤ 64))]
    ++ ((List.range (min (u8 b 1) 64)).zip (perfEntries b)).flatMap (fun e =>
      [(8 + 16 * e.1, s.selectorLegal e.2.1),
       (16 + 16 * e.1, if u8 b 0 = 0 then decide (e.2.2 = 0) else controlLegal (bits e.2.1 31 28) e.2.2)])

/-- Counters that the mailbox may not touch (R404). -/
def State.perfMay (s : State) (m : Msg) (sel : Nat) : Bool :=
  decide (m.fn = 0) || (match s.part? m.p with | some P => s.tenantMay P sel | none => false)

/-- The response: the request's head and entries, with the live control words. -/
def State.perfBody (s : State) (b : Bytes) : Bytes :=
  natLe 1 (u8 b 0) ++ natLe 1 (u8 b 1) ++ zeros 6
    ++ (perfEntries b).flatMap (fun e => natLe 4 e.1 ++ zeros 4 ++ natLe 8 (tgetD s.perf.ctrs e.1 Counter.none).word)

/-- One counter takes its word; the events so far counted under the old one. -/
def State.setControl (s : State) (sel w : Nat) : State :=
  let (c, s) := s.sampleCounter sel
  { s with perf := { s.perf with ctrs := tput s.perf.ctrs sel (c.control w) } }

def State.perfConfig (s : State) (m : Msg) (run : State) : State :=
  s.checked m (s.perfFields m.body)
    (((List.range (u8 m.body 1)).zip (perfEntries m.body)).map (fun e => (some (8 + 16 * e.1), s.perfMay m e.2.1)))
    (run.okay m (run.perfBody m.body))

def execPerfConfigRead (fn : Nat) (s : State) : Host.Outcome State Fault Refusal :=
  s.serve fn (perfRow 0) (fun s m => s.perfConfig m s)

def execPerfConfigWrite (fn : Nat) (s : State) : Host.Outcome State Fault Refusal :=
  s.serve fn (perfRow 1) (fun s m => s.perfConfig m (s.each (perfEntries m.body) (fun s e => s.setControl e.1 e.2)))

/-! ### perf.sample (R407, R410) -/

def sampleRow (op : Nat) : MsgRow :=
  { code := 0x0061, box := .either, inOrder := true, user := true, mine := opIs op 2, acts := fun b => decide (u8 b 2 = 0), exists? := fun b => decide (u8 b 2 = 0),
    used := fun _ => [(0, 17), (18, 2), (24, 8)] }

/-- The sampler that SCOPE names: partition p is p, cluster c is 64 + c, the device 256. -/
def scopeOf (m : Msg) : Nat :=
  match u8 m.body 2 with
  | 0 => m.p
  | 1 => 64 + u8 m.body 3
  | _ => 256

/-- Fields that every OP reads. -/
def sampleFields (b : Bytes) : List (Nat × Bool) :=
  [(0, decide (u8 b 0 ≤ 2)), (2, decide (u8 b 2 ≤ 2)), (3, decide (u8 b 2 ≠ 1) || decide (u8 b 3 < 64))]

/-- Fields of an enable. -/
def enableFields (fn : Nat) (b : Bytes) : List (Nat × Bool) :=
  [(1, decide (4 ≤ u8 b 1) && decide (u8 b 1 ≤ 20)), (8, decide (u64 b 8 % 4096 = 0)),
   (16, decide (6 ≤ u8 b 16) && decide (u8 b 16 ≤ 20)), (18, decide (u16 b 18 = 0xFFFF) || decide (u16 b 18 < vectorsOf fn)),
   (24, decide (u64 b 24 % 8 = 0))]

/-- What a partition mailbox is refused. -/
def State.sampleConds (s : State) (m : Msg) : List (Option Nat × Bool) :=
  if m.fn = 0 then []
  else
    [(some 2, decide (u8 m.body 2 ≠ 2)),
     (some 3, decide (u8 m.body 2 ≠ 1) || (match s.part? m.p with | some P => P.ownsCluster (u8 m.body 3) | none => false))]

def Sampler.body (m : Sampler) : Bytes := natLe 1 (b2n m.enabled) ++ zeros 7 ++ natLe 8 m.written ++ natLe 8 m.dropped

def State.samplerBody (s : State) (scope : Nat) : Bytes :=
  match tget s.perf.samplers scope with
  | some m => m.body
  | none => zeros 24

/-- A sampler just enabled: with a seed, every cluster's LFSR begins there; with none, each draws its own at its first dispatch. -/
def Sampler.fresh (fn : Nat) (b : Bytes) : Sampler :=
  { k := u8 b 1, buffer := u64 b 8, log2 := u8 b 16, vector := u16 b 18, producer := u64 b 24, fn := fn, enabled := true, taken := 0,
    written := 0, dropped := 0,
    windows := if u32 b 4 = 0 then [] else (List.range 64).map (fun c => (c, (0, BitVec.ofNat 32 (u32 b 4)))) }

/-- The count of records goes to PRODUCER, then VECTOR rises. -/
def State.sampleProduce (s : State) (m : Sampler) : State :=
  let s := s.hostWriteFw m.fn m.producer (natLe 8 m.written)
  if m.vector = 0xFFFF then s else s.raiseVector m.fn m.vector

/-- One finished sample goes to its place in the ring of its enable (R409); the counts are those of the enable that stands (log 19). -/
def State.sampleOut (s : State) (x : Sample) : State :=
  let s := { s with perf := { s.perf with samples := s.perf.samples.erase x } }
  let s := s.hostWriteFw x.fn (x.buffer + 64 * (x.seq % 2 ^ x.log2)) x.bytes
  match tget s.perf.samplers x.scope with
  | none => s
  | some m =>
    if m.epoch ≠ x.epoch then s
    else
      let m := { m with written := m.written + 1 }
      let s := { s with perf := { s.perf with samplers := tput s.perf.samplers x.scope m } }
      if m.written % 64 = 0 then s.sampleProduce m else s

/-- The finished samples of a scope are written, the count of them with them (R409), and no more commands are tagged. A command already tagged keeps
the setting under which it was issued (R287): its sample is written when it finishes. -/
def State.sampleStop (s : State) (scope : Nat) : State :=
  match tget s.perf.samplers scope with
  | none => s
  | some m =>
    if !m.enabled then s
    else
      let s := s.each (s.perf.samples.filter (fun x => x.finished && decide (x.scope = scope))) (fun s x => s.sampleOut x)
      let s := { s with perf := { s.perf with samplers := tupd s.perf.samplers scope (fun m => { m with enabled := false }) } }
      match tget s.perf.samplers scope with
      | some m => s.sampleProduce m
      | none => s

def State.perfSample (s : State) (m : Msg) (fields : List (Nat × Bool)) (run : State) : State :=
  s.checked m (sampleFields m.body ++ fields) (s.sampleConds m) (run.okay m (run.samplerBody (scopeOf m)))

/-- An enable replaces the earlier one of its scope. Commands tagged under that keep it: their samples go to its ring (R287). -/
def State.sampleStart (s : State) (m : Msg) : State :=
  let epoch := match tget s.perf.samplers (scopeOf m) with | some x => x.epoch + 1 | none => 0
  { s with perf := { s.perf with samplers := tput s.perf.samplers (scopeOf m) { Sampler.fresh m.fn m.body with epoch := epoch } } }

def execPerfSampleEnable (fn : Nat) (s : State) : Host.Outcome State Fault Refusal :=
  s.serve fn (sampleRow 1) (fun s m => s.perfSample m (enableFields m.fn m.body) (s.sampleStart m))

def execPerfSampleDisable (fn : Nat) (s : State) : Host.Outcome State Fault Refusal :=
  s.serve fn (sampleRow 0) (fun s m => s.perfSample m [] (s.sampleStop (scopeOf m)))

def execPerfSampleStatus (fn : Nat) (s : State) : Host.Outcome State Fault Refusal :=
  s.serve fn (sampleRow 2) (fun s m => s.perfSample m [] s)

/-- SAMPLE_WRITE: the oldest finished sample of a cluster. -/
def execSampleWrite (cluster : Nat) (s : State) : Host.Outcome State Fault Refusal :=
  match s.perf.samples.find? (fun x => x.finished && decide (x.cluster = cluster)) with
  | none => .next s
  | some x => if s.thermal.tripped then .next s else .next (s.sampleOut x)

end Sys2Proof.Machine
end

