-- ==== Sys2Proof/Machine/Dispatch.lean ====
section
/-! DEFINITION. Dispatch.lean: one arm per command, each a direct call of its meaning. -/

namespace Sys2Proof.Machine

def exec (i : Instr) (s : State) : Host.Outcome State Fault Refusal :=
  match i with
  | .nop p q => Sys2Proof.Machine.execNop p q s
  | .wait p q => Sys2Proof.Machine.execWait p q s
  | .signal p q => Sys2Proof.Machine.execSignal p q s
  | .cmp p q => Sys2Proof.Machine.execCmp p q s
  | .loop p q => Sys2Proof.Machine.execLoop p q s
  | .fence p q => Sys2Proof.Machine.execFence p q s
  | .step p q => Sys2Proof.Machine.execStep p q s
  | .load p q => Sys2Proof.Machine.execLoad p q s
  | .store p q => Sys2Proof.Machine.execStore p q s
  | .copy p q => Sys2Proof.Machine.execCopy p q s
  | .gather p q => Sys2Proof.Machine.execGather p q s
  | .scatter p q => Sys2Proof.Machine.execScatter p q s
  | .hostout p q => Sys2Proof.Machine.execHostout p q s
  | .mma p q => Sys2Proof.Machine.execMma p q s
  | .mmaq p q => Sys2Proof.Machine.execMmaq p q s
  | .vop p q => Sys2Proof.Machine.execVop p q s
  | .readCtr p q => Sys2Proof.Machine.execReadCtr p q s
  | .vred p q => Sys2Proof.Machine.execVred p q s
  | .vquant p q => Sys2Proof.Machine.execVquant p q s
  | .vdeq p q => Sys2Proof.Machine.execVdeq p q s
  | .vtopk p q => Sys2Proof.Machine.execVtopk p q s
  | .attn p q => Sys2Proof.Machine.execAttn p q s
  | .attnMerge p q => Sys2Proof.Machine.execAttnMerge p q s
  | .nbAttend p q => Sys2Proof.Machine.execNbAttend p q s
  | .nbPool p q => Sys2Proof.Machine.execNbPool p q s
  | .nbScan p q => Sys2Proof.Machine.execNbScan p q s
  | .nbFill p q => Sys2Proof.Machine.execNbFill p q s
  | .nbAxpy p q => Sys2Proof.Machine.execNbAxpy p q s
  | .nbQuant p q => Sys2Proof.Machine.execNbQuant p q s
  | .cag p q => Sys2Proof.Machine.execCag p q s
  | .crs p q => Sys2Proof.Machine.execCrs p q s
  | .car p q => Sys2Proof.Machine.execCar p q s
  | .csend p q => Sys2Proof.Machine.execCsend p q s
  | .crecv p q => Sys2Proof.Machine.execCrecv p q s
  | .peercopy p q => Sys2Proof.Machine.execPeercopy p q s
  | .stOpen p q => Sys2Proof.Machine.execStOpen p q s
  | .stAppend p q => Sys2Proof.Machine.execStAppend p q s
  | .stCommit p q => Sys2Proof.Machine.execStCommit p q s
  | .stRollback p q => Sys2Proof.Machine.execStRollback p q s
  | .stRelease p q => Sys2Proof.Machine.execStRelease p q s
  | .prefixLookup p q => Sys2Proof.Machine.execPrefixLookup p q s
  | .prefixPublish p q => Sys2Proof.Machine.execPrefixPublish p q s
  | .sleeveWrite p offset data via => Sys2Proof.Machine.execSleeveWrite p offset data via s
  | .recordFetch p q slots => Sys2Proof.Machine.execRecordFetch p q slots s
  | .commandComplete id => Sys2Proof.Machine.execCommandComplete id s
  | .cqConsumerReread p q value => Sys2Proof.Machine.execCqConsumerReread p q value s
  | .coalesceTimer p q => Sys2Proof.Machine.execCoalesceTimer p q s
  | .stallTimer p q => Sys2Proof.Machine.execStallTimer p q s
  | .waitSatisfied p q => Sys2Proof.Machine.execWaitSatisfied p q s
  | .signalUpdateApply k => Sys2Proof.Machine.execSignalUpdateApply k s
  | .expansionResume cluster => Sys2Proof.Machine.execExpansionResume cluster s
  | .cuffEntry bank fault => Sys2Proof.Machine.execCuffEntry bank fault s
  | .partialEgress pc => Sys2Proof.Machine.execPartialEgress pc s
  | .correctedWriteBack store word => Sys2Proof.Machine.execCorrectedWriteBack store word s
  | .bankRefresh bank => Sys2Proof.Machine.execBankRefresh bank s
  | .patrolScrub store word wrongBits => Sys2Proof.Machine.execPatrolScrub store word wrongBits s
  | .pendingRepairApply pc => Sys2Proof.Machine.execPendingRepairApply pc s
  | .streamSweep shard => Sys2Proof.Machine.execStreamSweep shard s
  | .blockReturn p => Sys2Proof.Machine.execBlockReturn p s
  | .zeroisation p => Sys2Proof.Machine.execZeroisation p s
  | .slotBoundary owner => Sys2Proof.Machine.execSlotBoundary owner s
  | .guardInterval owner => Sys2Proof.Machine.execGuardInterval owner s
  | .majorCycleStart owner => Sys2Proof.Machine.execMajorCycleStart owner s
  | .shareGuardExpiry p => Sys2Proof.Machine.execShareGuardExpiry p s
  | .governorEpoch ioDraw draws => Sys2Proof.Machine.execGovernorEpoch ioDraw draws s
  | .governorBudgetUpdate meanDraw => Sys2Proof.Machine.execGovernorBudgetUpdate meanDraw s
  | .pwrbrkAssert => Sys2Proof.Machine.execPwrbrkAssert s
  | .pwrbrkRelease => Sys2Proof.Machine.execPwrbrkRelease s
  | .idleEntry => Sys2Proof.Machine.execIdleEntry s
  | .watchEntry => Sys2Proof.Machine.execWatchEntry s
  | .watchWakeSample => Sys2Proof.Machine.execWatchWakeSample s
  | .watchExitComplete => Sys2Proof.Machine.execWatchExitComplete s
  | .pfD3hot => Sys2Proof.Machine.execPfD3hot s
  | .pfD0 => Sys2Proof.Machine.execPfD0 s
  | .sensorSample die counts => Sys2Proof.Machine.execSensorSample die counts s
  | .heartbeat near far => Sys2Proof.Machine.execHeartbeat near far s
  | .cdcWatchdogFire near far => Sys2Proof.Machine.execCdcWatchdogFire near far s
  | .coreReset cluster core => Sys2Proof.Machine.execCoreReset cluster core s
  | .clusterReset unit => Sys2Proof.Machine.execClusterReset unit s
  | .perstAssert => Sys2Proof.Machine.execPerstAssert s
  | .perstRelease found => Sys2Proof.Machine.execPerstRelease found s
  | .topologyRecheck => Sys2Proof.Machine.execTopologyRecheck s
  | .pfFlr found => Sys2Proof.Machine.execPfFlr found s
  | .vfFlr p => Sys2Proof.Machine.execVfFlr p s
  | .inputSwitchClose => Sys2Proof.Machine.execInputSwitchClose s
  | .inputSwitchOpen why => Sys2Proof.Machine.execInputSwitchOpen why s
  | .hostLinkLoss => Sys2Proof.Machine.execHostLinkLoss s
  | .hostLinkRestored => Sys2Proof.Machine.execHostLinkRestored s
  | .hostLinkHoldExpiry => Sys2Proof.Machine.execHostLinkHoldExpiry s
  | .hostReadTimeout reader failure => Sys2Proof.Machine.execHostReadTimeout reader failure s
  | .hostBar4Read p offset len via => Sys2Proof.Machine.execHostBar4Read p offset len via s
  | .hostBar4Write p offset data via => Sys2Proof.Machine.execHostBar4Write p offset data via s
  | .cxlMemRead hpa => Sys2Proof.Machine.execCxlMemRead hpa s
  | .cxlMemWrite hpa data => Sys2Proof.Machine.execCxlMemWrite hpa data s
  | .hdmDecoderCommit p base size => Sys2Proof.Machine.execHdmDecoderCommit p base size s
  | .ideIntegrityFailure stream => Sys2Proof.Machine.execIdeIntegrityFailure stream s
  | .lockInterface p => Sys2Proof.Machine.execLockInterface p s
  | .startInterface p => Sys2Proof.Machine.execStartInterface p s
  | .stopInterface p => Sys2Proof.Machine.execStopInterface p s
  | .getDeviceInterfaceReport p => Sys2Proof.Machine.execGetDeviceInterfaceReport p s
  | .getMeasurements ask => Sys2Proof.Machine.execGetMeasurements ask s
  | .mctpSpdmRequest transport req => Sys2Proof.Machine.execMctpSpdmRequest transport req s
  | .debugAttach => Sys2Proof.Machine.execDebugAttach s
  | .peerDataFrame port frame => Sys2Proof.Machine.execPeerDataFrame port frame s
  | .peerAckFrame port ack => Sys2Proof.Machine.execPeerAckFrame port ack s
  | .peerNakFrame port expected => Sys2Proof.Machine.execPeerNakFrame port expected s
  | .keepaliveFrame port => Sys2Proof.Machine.execKeepaliveFrame port s
  | .identityFrame port serial farPort => Sys2Proof.Machine.execIdentityFrame port serial farPort s
  | .lossNotice port p group peer => Sys2Proof.Machine.execLossNotice port p group peer s
  | .abortNotice port p peer items relay => Sys2Proof.Machine.execAbortNotice port p peer items relay s
  | .groupResetNotice port p group peer => Sys2Proof.Machine.execGroupResetNotice port p group peer s
  | .ackTimer port => Sys2Proof.Machine.execAckTimer port s
  | .retransmitTimeout port => Sys2Proof.Machine.execRetransmitTimeout port s
  | .keepaliveTimer port => Sys2Proof.Machine.execKeepaliveTimer port s
  | .identityTimer port => Sys2Proof.Machine.execIdentityTimer port s
  | .peerSilenceTimeout peer => Sys2Proof.Machine.execPeerSilenceTimeout peer s
  | .peerLinkDown port => Sys2Proof.Machine.execPeerLinkDown port s
  | .peerLinkUp port => Sys2Proof.Machine.execPeerLinkUp port s
  | .groupActivation p group reports => Sys2Proof.Machine.execGroupActivation p group reports s
  | .ctrValueRead read => Sys2Proof.Machine.execCtrValueRead read s
  | .sampleWrite cluster => Sys2Proof.Machine.execSampleWrite cluster s
  | .memTestEnd pc found => Sys2Proof.Machine.execMemTestEnd pc found s
  | .registerWrite fn reg data via => Sys2Proof.Machine.execRegisterWrite fn reg data via s
  | .devInfo fn => Sys2Proof.Machine.execDevInfo fn s
  | .devTopology fn => Sys2Proof.Machine.execDevTopology fn s
  | .devTopologyAccept fn => Sys2Proof.Machine.execDevTopologyAccept fn s
  | .devLicences fn => Sys2Proof.Machine.execDevLicences fn s
  | .partCreate fn => Sys2Proof.Machine.execPartCreate fn s
  | .partDestroy fn => Sys2Proof.Machine.execPartDestroy fn s
  | .partConfigRead fn => Sys2Proof.Machine.execPartConfigRead fn s
  | .partConfigWrite fn => Sys2Proof.Machine.execPartConfigWrite fn s
  | .partReset fn => Sys2Proof.Machine.execPartReset fn s
  | .partMap fn => Sys2Proof.Machine.execPartMap fn s
  | .partMapUnmap fn => Sys2Proof.Machine.execPartMapUnmap fn s
  | .partMapQuery fn => Sys2Proof.Machine.execPartMapQuery fn s
  | .queueCreate fn => Sys2Proof.Machine.execQueueCreate fn s
  | .queueDestroy fn => Sys2Proof.Machine.execQueueDestroy fn s
  | .queueStatus fn => Sys2Proof.Machine.execQueueStatus fn s
  | .ctxCreate fn => Sys2Proof.Machine.execCtxCreate fn s
  | .ctxTeardown fn => Sys2Proof.Machine.execCtxTeardown fn s
  | .streamPool fn => Sys2Proof.Machine.execStreamPool fn s
  | .streamStats fn => Sys2Proof.Machine.execStreamStats fn s
  | .schedLoadPartition fn => Sys2Proof.Machine.execSchedLoadPartition fn s
  | .schedLoadDevice fn => Sys2Proof.Machine.execSchedLoadDevice fn s
  | .schedCommit fn => Sys2Proof.Machine.execSchedCommit fn s
  | .perfConfigRead fn => Sys2Proof.Machine.execPerfConfigRead fn s
  | .perfConfigWrite fn => Sys2Proof.Machine.execPerfConfigWrite fn s
  | .perfSampleEnable fn => Sys2Proof.Machine.execPerfSampleEnable fn s
  | .perfSampleDisable fn => Sys2Proof.Machine.execPerfSampleDisable fn s
  | .perfSampleStatus fn => Sys2Proof.Machine.execPerfSampleStatus fn s
  | .errRead fn => Sys2Proof.Machine.execErrRead fn s
  | .powerCap fn => Sys2Proof.Machine.execPowerCap fn s
  | .powerStateRead fn => Sys2Proof.Machine.execPowerStateRead fn s
  | .powerStateSet fn => Sys2Proof.Machine.execPowerStateSet fn s
  | .thermalQuery fn => Sys2Proof.Machine.execThermalQuery fn s
  | .fwStage request => Sys2Proof.Machine.execFwStage request s
  | .fwActivate fn => Sys2Proof.Machine.execFwActivate fn s
  | .attestSpdm fn => Sys2Proof.Machine.execAttestSpdm fn s
  | .memTestTraffic fn => Sys2Proof.Machine.execMemTestTraffic fn s
  | .memTestSelfTest fn => Sys2Proof.Machine.execMemTestSelfTest fn s
  | .memTestStop fn => Sys2Proof.Machine.execMemTestStop fn s
  | .memTestResults fn => Sys2Proof.Machine.execMemTestResults fn s
  | .memMapout fn => Sys2Proof.Machine.execMemMapout fn s
  | .memRepairRow fn => Sys2Proof.Machine.execMemRepairRow fn s
  | .memRepairColumn fn => Sys2Proof.Machine.execMemRepairColumn fn s
  | .peerTopology fn => Sys2Proof.Machine.execPeerTopology fn s
  | .peerStatus fn => Sys2Proof.Machine.execPeerStatus fn s
  | .dbgStatus fn => Sys2Proof.Machine.execDbgStatus fn s
  | .licInstall fn => Sys2Proof.Machine.execLicInstall fn s
  | .hostLinkDown => Sys2Proof.Machine.execHostLinkDown s
  | .hostLinkRecovery => Sys2Proof.Machine.execHostLinkRecovery s
  | .queueDestroyTimeout p q => Sys2Proof.Machine.execQueueDestroyTimeout p q s
  | .receiverNotice p peer channel notice => Sys2Proof.Machine.execReceiverNotice p peer channel notice s

end Sys2Proof.Machine
end

