-- ==== Sys2Proof/Safety.lean ====
section
/-! DEFINITION. Safety.lean: what counts as a safe run, and the conditions in which the statements speak: a record that may run, a
message that the firmware takes up, its answer, what a step leaves alone. -/

namespace Sys2Proof

/-- The step of s ends in a next state: no fault, no refusal. -/
def Safe (s : Machine.State) : Prop := ∃ t, Machine.step s = .next t

/-- The arrays keep their canonical form. -/
def MemoryWf (s : Machine.State) : Prop := s.dram.wf = true ∧ s.spad.wf = true

/-! ### Record rows -/

/-- Partition, queue and opcode of a command that dispatches a record (R139). -/
def Instr.record? : Instr → Option (Nat × Nat × Nat)
  | .nop p q => some (p, q, 0x0001)
  | .wait p q => some (p, q, 0x0002)
  | .signal p q => some (p, q, 0x0003)
  | .cmp p q => some (p, q, 0x0004)
  | .loop p q => some (p, q, 0x0005)
  | .fence p q => some (p, q, 0x0006)
  | .step p q => some (p, q, 0x0007)
  | .load p q => some (p, q, 0x1001)
  | .store p q => some (p, q, 0x1002)
  | .copy p q => some (p, q, 0x1003)
  | .gather p q => some (p, q, 0x1004)
  | .scatter p q => some (p, q, 0x1005)
  | .hostout p q => some (p, q, 0x1006)
  | .mma p q => some (p, q, 0x2001)
  | .mmaq p q => some (p, q, 0x2002)
  | .vop p q => some (p, q, 0x3001)
  | .readCtr p q => some (p, q, 0x3001)
  | .vred p q => some (p, q, 0x3002)
  | .vquant p q => some (p, q, 0x3003)
  | .vdeq p q => some (p, q, 0x3004)
  | .vtopk p q => some (p, q, 0x3005)
  | .attn p q => some (p, q, 0x4001)
  | .attnMerge p q => some (p, q, 0x4002)
  | .nbAttend p q => some (p, q, 0x5001)
  | .nbPool p q => some (p, q, 0x5002)
  | .nbScan p q => some (p, q, 0x5003)
  | .nbFill p q => some (p, q, 0x5004)
  | .nbAxpy p q => some (p, q, 0x5005)
  | .nbQuant p q => some (p, q, 0x5006)
  | .cag p q => some (p, q, 0x6001)
  | .crs p q => some (p, q, 0x6002)
  | .car p q => some (p, q, 0x6003)
  | .csend p q => some (p, q, 0x6004)
  | .crecv p q => some (p, q, 0x6005)
  | .peercopy p q => some (p, q, 0x6006)
  | .stOpen p q => some (p, q, 0x7001)
  | .stAppend p q => some (p, q, 0x7002)
  | .stCommit p q => some (p, q, 0x7003)
  | .stRollback p q => some (p, q, 0x7004)
  | .stRelease p q => some (p, q, 0x7005)
  | .prefixLookup p q => some (p, q, 0x7006)
  | .prefixPublish p q => some (p, q, 0x7007)
  | _ => none

/-- The record is one of the row's: of its opcode, and of READ_CTR or of another operation where the two share one (R141). -/
def Instr.takes (i : Instr) (b : Bytes) : Bool :=
  match i.record? with
  | some (_, _, op) =>
    decide (Machine.recOp b = op)
      && (match i with
        | .vop _ _ => decide (Machine.u8 b 9 ≠ 0x30)
        | .readCtr _ _ => decide (Machine.u8 b 9 = 0x30)
        | _ => true)
  | none => false

namespace Machine

/-! ### Records -/

/-- The record has ended: a number is spent, nothing stays in flight under it, and the queue has moved past the record and past k
records after it (R130). -/
def State.consumed (s t : State) (d : Site) (k : Nat) : Prop :=
  t.nextId = s.nextId + 1 ∧ tget t.flight s.nextId = none
    ∧ ∃ Q, t.queue? d.p d.q = some Q ∧ Q.ahead = (d.Q.advance k).ahead ∧ Q.loops = (d.Q.advance k).loops

/-- A command went into flight under the number that was next, with its record, queue, partition and engine. -/
def State.launched (s t : State) (d : Site) (engine : Nat) : Prop :=
  t.nextId = s.nextId + 1 ∧ ∃ f, tget t.flight s.nextId = some f ∧ f.p = d.p ∧ f.q = d.q ∧ f.bytes = d.b ∧ f.pos = d.rcd.pos
    ∧ f.engine = engine

/-- The requirements of steps 3 to 6 of R118 for a record row. -/
def State.checks (s : State) (d : Site) : Instr → Verdict
  | .nop _ _ => nopVerdict d
  | .wait _ _ => waitVerdict d
  | .signal _ _ => signalVerdict d
  | .cmp _ _ => cmpVerdict d
  | .loop _ _ => loopVerdict d
  | .fence _ _ => fenceVerdict d
  | .step _ _ => stepVerdict d
  | .load _ _ => s.loadVerdict d
  | .store _ _ => s.storeVerdict d
  | .copy _ _ => s.copyVerdict d
  | .gather _ _ => s.blocksVerdict d true
  | .scatter _ _ => s.blocksVerdict d false
  | .hostout _ _ => s.hostoutVerdict d
  | .mma _ _ => s.matrixVerdict d false
  | .mmaq _ _ => s.matrixVerdict d true
  | .vop _ _ => s.vopVerdict d
  | .readCtr _ _ => s.readCtrVerdict d
  | .vred _ _ => s.vredVerdict d
  | .vquant _ _ => s.vquantVerdict d
  | .vdeq _ _ => s.vdeqVerdict d
  | .vtopk _ _ => s.vtopkVerdict d
  | .attn _ _ => s.attnVerdict d
  | .attnMerge _ _ => s.attnMergeVerdict d
  | .nbAttend _ _ => s.nbAttendVerdict d
  | .nbPool _ _ => s.nbPoolVerdict d
  | .nbScan _ _ => s.nbScanVerdict d
  | .nbFill _ _ => s.nbFillVerdict d
  | .nbAxpy _ _ => s.nbAxpyVerdict d
  | .nbQuant _ _ => s.nbQuantVerdict d
  | .cag _ _ => s.collectiveVerdict d
  | .crs _ _ => s.collectiveVerdict d
  | .car _ _ => s.collectiveVerdict d
  | .csend _ _ => s.messageVerdict d false
  | .crecv _ _ => s.messageVerdict d true
  | .peercopy _ _ => s.peercopyVerdict d
  | .stOpen _ _ | .stAppend _ _ | .stCommit _ _ | .stRollback _ _ | .stRelease _ _ | .prefixLookup _ _
  | .prefixPublish _ _ => s.streamVerdict d
  | _ => .hold

/-- The cluster reads a span list at dispatch, so its words are met before the checks (R65, R386, R429). -/
def recordBegun (i : Instr) (s : State) : State :=
  match i with
  | .nbAxpy p q => s.meetSpans p q 0x5005
  | .nbQuant p q => s.meetSpans p q 0x5006
  | _ => s

/-- Records that go with one that ends at its checks: the body of a LOOP (R131). -/
def recordSkips (i : Instr) (d : Site) : Nat :=
  match i with
  | .loop _ _ => loopSkip d
  | _ => 0

/-- A LOOP whose body is not fetched whole yet waits for it (R130). -/
def recordWaits (i : Instr) (d : Site) : Bool :=
  match i with
  | .loop _ _ => loopWaits d
  | _ => false

/-- The record of a command is at the head of its queue, may dispatch, and passes every check (R115 to R121, R126, R373). -/
def State.runs (s : State) (i : Instr) (d : Site) : Prop :=
  ∃ p q op, i.record? = some (p, q, op) ∧ s.site? p q = some d ∧ i.takes d.b = true ∧ recordWaits i d = false ∧ headerBad d.b = none
    ∧ d.Q.predicate d.b = true ∧ (recordBegun i s).checks d i = .go ∧ s.crossBroken d = false ∧ s.tableBad d = false

/-- Engine of the cluster that a record row goes to: core × 4 + 0 ME0, 1 ME1, 2 VE, 3 TE; 32 Mantle; 33 near-bank; 34 control;
35 peer; 36 stream (R86, R87). -/
def State.engineFor (s : State) (d : Site) : Instr → Nat
  | .load _ _ | .store _ _ | .copy _ _ | .gather _ _ | .scatter _ _ | .hostout _ _ => teEngine d.b
  | .mma _ _ | .mmaq _ _ => s.mmEngine d
  | .vop _ _ | .readCtr _ _ | .vred _ _ | .vquant _ _ | .vdeq _ _ | .vtopk _ _ => veEngine d.b
  | .attn _ _ | .attnMerge _ _ => 32
  | .nbAttend _ _ | .nbPool _ _ | .nbScan _ _ | .nbFill _ _ | .nbAxpy _ _ | .nbQuant _ _ => 33
  | .cag _ _ | .crs _ _ | .car _ _ | .csend _ _ | .crecv _ _ | .peercopy _ _ => 35
  | .stOpen _ _ | .stAppend _ _ | .stCommit _ _ | .stRollback _ _ | .stRelease _ _ | .prefixLookup _ _ | .prefixPublish _ _ => 36
  | _ => 34

/-- The fields of an NB_AXPY or NB_QUANT record are legal, its reserved bytes zero (R64, R65, R118). -/
def spanFieldsLegal (b : Bytes) : Prop :=
  (recOp b = 0x5005 → (u8 b 8 = 1 ∨ u8 b 8 = 2) ∧ u32 b 16 ≤ 4096 ∧ vaOk (u64 b 24) = true
    ∧ ∀ e ∈ reservedZero b [(8, 1), (12, 8), (24, 8)], e.2 = true)
  ∧ (recOp b = 0x5006 → quantSrc (u8 b 8) = true ∧ quantDst (u8 b 9) = true ∧ u8 b 10 ≤ 1 ∧ u8 b 11 ≤ 2 ∧ u32 b 12 ≤ 4096
    ∧ vaOk (u64 b 24) = true ∧ vaOk (u64 b 32) = true ∧ ∀ e ∈ reservedZero b [(8, 8), (24, 16)], e.2 = true)

/-! ### Where a record stores -/

/-- Bytes, by virtual address, of the elements of a descriptor at some indices. -/
def Desc.bytesAt (d : Desc) (l : List Ix) : List Nat :=
  l.flatMap (fun x => (BitPut.bytes (d.put x 0 false)).map BytePut.va)

/-- Bytes that a transfer from src to dst stores to: the elements it moves or pads, and scale bytes in layouts 4 and 5. -/
def State.transferStores (s : State) (a : Access) (src dst : Desc) (pad : Bool) : List Nat :=
  dst.bytesAt (if pad then dst.padBox else src.all)
    ++ (s.scalePuts a src dst pad).flatMap (fun e =>
      (BitPut.bytes { at? := (e.1 * 8).toNat, width := 8, val := 0, bad := false }).map BytePut.va)

/-- Every byte of device memory, of the scratchpads and of host memory keeps its contents, but those where one of these virtual
addresses of a partition leads. -/
def State.onlyStores (s t : State) (p : Nat) (P : Partition) (l : List Nat) : Prop :=
  (∀ a, (∀ va ∈ l, s.place p P va ≠ some (.dram, a)) → t.dram.get a = s.dram.get a)
    ∧ (∀ a, (∀ va ∈ l, s.place p P va ≠ some (.spad, a)) → t.spad.get a = s.spad.get a)
    ∧ (∀ k, (∀ va ∈ l, s.place p P va ≠ some (.host, k)) → t.hostByte k = s.hostByte k)

/-! ### Messages -/

/-- The header of a request is one of version 1.0, direct, with its reserved bytes zero, for this mailbox (R303 to R306). -/
def headerFits (h : Bytes) (fn : Nat) : Bool :=
  decide (reqMajor h = 1) && decide (reqMinor h = 0) && decide (u16 h 2 ≤ 4080) && decide (u8 h 9 = 0) && decide (u16 h 10 = 0)
    && decide (u32 h 12 = 0)
    && (decide (reqPartition h = 0xFF) || (decide (reqPartition h ≤ 31) && (decide (fn = 0) || decide (reqPartition h = fn - 1))))

/-- A request of a code lies in the mailbox of a function, handed over, and nothing keeps the firmware from taking it up: it runs,
is READY or DEGRADED, is awake, and no earlier message on the partition is in hand (R302, R303, R306, R354, R364). -/
def State.taken (s : State) (fn code : Nat) : Bool :=
  (s.func fn).busy && (s.func fn).waitFor.isNone && decide (s.power.state ≠ .watch) && !s.thermal.tripped && !s.boot.rom
    && decide (s.boot.readiness ≠ .notReady) && decide (s.reqCode fn = code) && headerFits (s.reqHeader fn) fn
    && decide (u16 (s.reqHeader fn) 4 = (s.func fn).reqSeq.toNat) && !s.mustWait fn (s.msgPartition fn)

/-- Bytes of the body that no field of the message uses are zero (R12). -/
def unusedZero (b : Bytes) (used : List (Nat × Nat)) : Bool := (strayByte b used 0).isNone

/-- In t the mailbox of a function holds the answer to the request that s held: status, body, RESP_VALID, BUSY clear (R302). -/
def State.answered (s t : State) (fn : Nat) (a : Answer) (body : Bytes) : Prop :=
  (t.func fn).resp = responseHeader (s.reqHeader fn) a body.length ++ body ∧ (t.func fn).respValid = true ∧ (t.func fn).busy = false
    ∧ (t.func fn).lastStatus = BitVec.ofNat 16 a.code ∧ (t.func fn).respSeq = (s.func fn).reqSeq

/-- A message command: the function whose mailbox it serves, and its row of R307. -/
def messageOf : Instr → Option (Nat × MsgRow)
  | .devInfo fn => some (fn, { code := 0x0001, box := .either, early := true, rom := true })
  | .devTopology fn => some (fn, topologyRow false)
  | .devTopologyAccept fn => some (fn, topologyRow true)
  | .devLicences fn => some (fn, { code := 0x0003, box := .either, early := true })
  | .partCreate fn => some (fn, createRow)
  | .partDestroy fn => some (fn, { code := 0x0011, box := .operator, acts := fun _ => true, exists? := fun _ => true })
  | .partConfigRead fn => some (fn, configRow 0)
  | .partConfigWrite fn => some (fn, configRow 1)
  | .partReset fn => some (fn, { code := 0x0013, box := .either, acts := fun _ => true, exists? := fun _ => true })
  | .partMap fn => some (fn, mapRow 0)
  | .partMapUnmap fn => some (fn, mapRow 1)
  | .partMapQuery fn => some (fn, mapRow 2)
  | .queueCreate fn => some (fn, queueRow 0x0020 .partition [(0, 12), (16, 24)])
  | .queueDestroy fn => some (fn, queueRow 0x0021 .partition [(0, 1)])
  | .queueStatus fn => some (fn, queueRow 0x0022 .either [(0, 1)])
  | .ctxCreate fn =>
    some (fn, { code := 0x0030, box := .partition, acts := fun _ => true, exists? := fun _ => true,
                used := fun b => [(0, 3), (8, 8 * u8 b 2)] })
  | .ctxTeardown fn => some (fn, queueRow 0x0031 .partition [(0, 1)])
  | .streamPool fn =>
    some (fn, { code := 0x0040, box := .partition, acts := fun _ => true, exists? := fun _ => true,
                used := fun b => [(0, 46), (48, 4 * u16 b 42 + 2 * u16 b 44)] })
  | .streamStats fn => some (fn, queueRow 0x0041 .partition [])
  | .schedLoadPartition fn => some (fn, loadRow false)
  | .schedLoadDevice fn => some (fn, loadRow true)
  | .schedCommit fn =>
    some (fn, { code := 0x0051, box := .either, acts := fun b => decide (u8 b 0 ≠ 1), exists? := fun b => decide (u8 b 0 ≠ 1),
                used := fun _ => [(0, 1)] })
  | .perfConfigRead fn => some (fn, perfRow 0)
  | .perfConfigWrite fn => some (fn, perfRow 1)
  | .perfSampleEnable fn => some (fn, sampleRow 1)
  | .perfSampleDisable fn => some (fn, sampleRow 0)
  | .perfSampleStatus fn => some (fn, sampleRow 2)
  | .errRead fn => some (fn, { code := 0x0070, box := .either, early := true, used := fun _ => [(0, 13)] })
  | .powerCap fn => some (fn, { code := 0x0080, box := .operator, used := fun _ => [(0, 2)] })
  | .powerStateRead fn => some (fn, powerRow 0)
  | .powerStateSet fn => some (fn, powerRow 1)
  | .thermalQuery fn => some (fn, { code := 0x0082, box := .either, early := true, used := fun _ => [(0, 12)] })
  | .fwStage request => some (request.fn, { code := 0x0090, box := .operator, early := true, rom := true, used := fun _ => [(0, 12)] })
  | .fwActivate fn => some (fn, { code := 0x0091, box := .operator, early := true, rom := true, used := fun _ => [(0, 1)] })
  | .attestSpdm fn => some (fn, { code := 0x00A0, box := .either, early := true, used := fun b => [(0, b.length)] })
  | .memTestTraffic fn => some (fn, testRow 0)
  | .memTestSelfTest fn => some (fn, testRow 1)
  | .memTestStop fn => some (fn, testRow 2)
  | .memTestResults fn => some (fn, testRow 3)
  | .memMapout fn => some (fn, { code := 0x00B1, box := .operator, early := true, used := fun _ => [(0, 2)] })
  | .memRepairRow fn => some (fn, repairRow 0)
  | .memRepairColumn fn => some (fn, repairRow 1)
  | .peerTopology fn => some (fn, { code := 0x00C0, box := .operator, early := true, used := fun _ => [(0, 12)] })
  | .peerStatus fn => some (fn, { code := 0x00C1, box := .either, early := true })
  | .dbgStatus fn => some (fn, { code := 0x00D0, box := .either, early := true })
  | .licInstall fn => some (fn, { code := 0x00E0, box := .operator, early := true, used := fun _ => [(0, 12)] })
  | _ => none

/-- A request of the row lies in the mailbox and the firmware takes it up: handed over, not answered yet, the device neither in WATCH nor
tripped (R302, R354, R364). -/
def State.inHand (s : State) (fn : Nat) (row : MsgRow) : Prop :=
  (s.func fn).busy = true ∧ (s.func fn).waitFor = none ∧ s.power.state ≠ .watch ∧ s.thermal.tripped = false ∧ s.reqCode fn = row.code
    ∧ row.mine (s.msgBody fn) = true

/-- The request of a message command reaches its own checks: its header stands (R303 to R307), nothing handed over before it is in
hand on its partition, nor of its code where those are taken in order (R406), its partition exists where the row asks for one and lets its
mailbox use the counters where the row asks that (R400, R406), and bytes of no field are zero (R12). -/
def State.asks (s : State) (i : Instr) : Prop :=
  ∃ fn row, messageOf i = some (fn, row) ∧ s.inHand fn row ∧ s.headerEnds fn row = none
    ∧ (row.acts (s.msgBody fn) = true → s.mustWait fn (s.msgPartition fn) = false)
    ∧ (row.inOrder = true → s.behind fn row.code = false)
    ∧ (row.user = true → s.perfUser fn (s.msgPartition fn) = true)
    ∧ (row.exists? (s.msgBody fn) = true → (s.part? (s.msgPartition fn)).isSome = true)
    ∧ unusedZero (s.msgBody fn) (row.used (s.msgBody fn)) = true

/-- Nothing but the mailbox of fn, the list of requests in hand and the outputs has changed. -/
def State.onlyAnswer (s t : State) (fn : Nat) : Prop :=
  t = { s with funcs := t.funcs, handed := t.handed, out := t.out } ∧ ∀ k, k ≠ fn → t.func k = s.func k

/-- A message that asks is answered: BAD_FIELD and nothing else where a field is not legal, REFUSED and nothing else where a condition
fails, and its effect where neither is so (R306, R307). -/
def State.decides (s : State) (i : Instr) (fn : Nat) (legal cond : Prop) (effect : State → Prop) : Prop :=
  s.asks i → ∃ t, exec i s = .next t
    ∧ (¬legal → s.onlyAnswer t fn ∧ ∃ o, s.answered t fn .badField (refusalBody (some o)))
    ∧ (legal → ¬cond → s.onlyAnswer t fn ∧ ∃ o, s.answered t fn .refused (refusalBody o))
    ∧ (legal → cond → effect t)

/-- A query: the answer is OK with a body, and nothing else happens. -/
def State.tells (s : State) (i : Instr) (fn : Nat) (legal cond : Prop) (body : Bytes) : Prop :=
  s.decides i fn legal cond (fun t => s.answered t fn .ok body ∧ s.onlyAnswer t fn)

/-- Host memory of a function after the firmware has written bytes to an address; nothing where the link is gone (R311). -/
def State.hostAfter (s : State) (fn addr : Nat) (b : Bytes) : List Host.Cell :=
  if s.linkGone then s.hostMem else hostWriteAll s.hostMem (hostKey fn addr) b

/-- The queue after n further records of its innermost loop have been taken (R130). -/
def Queue.advances : Nat → Queue → Queue
  | 0, Q => Q
  | n + 1, Q => Queue.advances n (Q.advance 0)

/-! ### After a boot -/

/-- What orders 2 to 9 of a boot from s leave (R331, R378, R381): the boot ROM serves the mailbox and the device is NOT_READY where no copy is
valid or the fuse record does not hold; else READINESS is that of the mismatches left, licences are live, FW_SVN is no lower. -/
def State.booted (s t : State) (f : BootFindings) : Prop :=
  t.boot.served = true ∧ (t.boot.rom = true ↔ s.takeActivation.bootCopy f = none ∨ f.fuseOk = false)
    ∧ (t.boot.rom = true → t.boot.readiness = .notReady)
    ∧ (t.boot.rom = false → t.boot.readiness = t.readinessOf t.boot.mismatches ∧ t.boot.licPending = 0
        ∧ s.fuse.fwSvn.toNat ≤ t.fuse.fwSvn.toNat)

/-- Partitions and everything that belongs to them are gone, no command is in flight, and no test runs. -/
def State.bare (t : State) : Prop :=
  t.parts = [] ∧ t.streams = [] ∧ t.prefixes = [] ∧ t.flight = [] ∧ t.sigs = [] ∧ t.caches = [] ∧ t.unsettled = []
    ∧ t.tests.all (fun e => e.2.done) = true ∧ t.sched = Sched.none ∧ t.cross = { Crossings.reset with cdcTimeout := t.cross.cdcTimeout } ∧ t.power.state = .active

/-! ### What a step leaves alone -/

/-- Nothing but the timer, the register files of the functions, the list of requests in hand, the outputs, the log and the count
of free values may have changed: what serving a message may touch whatever it says. -/
def State.onlyMail (s t : State) : Prop :=
  t = { s with timer := t.timer, funcs := t.funcs, handed := t.handed, out := t.out, log := t.log, free := t.free }

/-- What no record of a queue changes: assembly, fuses, bring-up, crossings, key drawings, power, temperature, tests, the device
schedule, the waiting commands. -/
def State.sameDevice (s t : State) : Prop :=
  t.ident = s.ident ∧ t.fuse = s.fuse ∧ t.boot = s.boot ∧ t.cross = s.cross ∧ t.keyDraws = s.keyDraws ∧ t.power = s.power
    ∧ t.thermal = s.thermal ∧ t.tests = s.tests ∧ t.sched = s.sched ∧ t.pending = s.pending

/-- The contents of the three memories. -/
def State.sameMemory (s t : State) : Prop := t.dram = s.dram ∧ t.spad = s.spad ∧ t.hostMem = s.hostMem

/-- The stretch holds the byte. -/
def Seg.holds (g : Seg) (sp : Space) (a : Nat) : Prop := g.space = sp ∧ g.addr ≤ a ∧ a < g.addr + g.len

/-- Stretches of a range of virtual addresses of a partition; none where some byte has no place. -/
def State.stretches (s : State) (p : Nat) (P : Partition) (va n : Nat) : List Seg := (s.segs p P va n).getD []

end Machine

end Sys2Proof
end

