-- ==== Sys2Proof/Certificates/Slice0/Obligations.lean ====
section
/-! DEFINITION. Obligations.lean: the statements for the provers. -/

open Sys2Proof Sys2Proof.Machine

/-! ### The block -/

/-- A step runs the command at the front of the queue on the state with the queue's rest; with nothing waiting the module idles
(the model's choice, log 16). -/
def Obligations.StepTakesFront : Prop :=
  (∀ (c : Instr) (rest : List Instr) (s : State), s.pending = c :: rest → step s = exec c { s with pending := rest })
    ∧ ∀ s : State, s.pending = [] → step s = .next s

/-- The spec's reset values: schedule timer and cycle counts 0 (R282, R367), CAP_W 1,500 W without brake (R345, R350), ACTIVE in
rest and power state (R352, R353), WATCH_PERIOD_US 1,000 (R354), HOLD_MS 5,000 (R296), NOT_READY
(R381), no licence pending (R4), THERMTRIP_N released (R364); no partition, command, stream or log entry; and the mailboxes'
and counter windows' registers 0. CDC_TIMEOUT stands at 65,536, which Golnor's image sets at its boot (R372), before any boot too: that is the
model's choice (log 47). -/
def Obligations.ResetHoldsItsValues : Prop :=
  let s := State.reset
  s.timer = 0 ∧ s.cycles = [] ∧ s.power.capW = 1500 ∧ s.power.brake = false ∧ s.power.cut = 0 ∧ s.power.rest = .active
    ∧ s.power.state = .active ∧ s.power.watchPeriod = 1000 ∧ s.cross.cdcTimeout = 65536 ∧ s.cross.broken = []
    ∧ s.log.holdMs = 5000 ∧ s.log.count = 0 ∧ s.log.summary = 0 ∧ s.log.entries = [] ∧ s.boot.readiness = .notReady
    ∧ s.boot.licPending = 0 ∧ s.thermal.tripped = false ∧ s.parts = [] ∧ s.flight = [] ∧ s.streams = [] ∧ s.prefixes = []
    ∧ s.sigs = [] ∧ s.trust.sessions = 0 ∧ s.trust.debugSeen = false
    ∧ (∀ fn, (s.func fn).busy = false ∧ (s.func fn).respValid = false ∧ (s.func fn).lastStatus = 0 ∧ (s.func fn).reqSeq = 0
      ∧ (s.func fn).respSeq = 0 ∧ (s.func fn).event = 0 ∧ (s.func fn).eventEn = 0 ∧ (s.func fn).ctrSelect = 0)
    ∧ (∀ a, s.dram.get a = 0 ∧ s.spad.get a = 0)

/-- Reset has both arrays in canonical form. -/
def Obligations.ResetArraysCanonical : Prop := MemoryWf State.reset

/-- Every step, from any state, keeps both arrays in canonical form: addresses strictly rising, no zero byte listed, poison and
error lists rising. -/
def Obligations.StepKeepsArraysCanonical : Prop := ∀ s t : State, MemoryWf s → step s = .next t → MemoryWf t

/-- No command changes what assembly fixed (R8, R328), and a step takes exactly the front command off the queue.
Fuses only blow: repairs, map-outs and fences recorded in the fuse record stay in it, and FW_SVN never falls (R328, R376). -/
def Obligations.StepKeepsAssemblyAndFuses : Prop :=
  (∀ s t : State, step s = .next t → t.ident = s.ident ∧ t.pending = s.pending.tail)
  ∧ (∀ s t : State, step s = .next t →
       s.fuse.rowRepairs ⊆ t.fuse.rowRepairs ∧ s.fuse.columnRepairs ⊆ t.fuse.columnRepairs ∧ s.fuse.spareLanes ⊆ t.fuse.spareLanes
         ∧ s.fuse.mapouts ⊆ t.fuse.mapouts ∧ s.fuse.cuffFences ⊆ t.fuse.cuffFences ∧ s.fuse.fwSvn ≤ t.fuse.fwSvn
         ∧ t.fuse.disabled = s.fuse.disabled ∧ t.fuse.calDefault = s.fuse.calDefault ∧ t.fuse.cal = s.fuse.cal)

/-- Every command answers a next state in every state: the machine has no fault of its own. One that its transport cannot carry never
reaches it and leaves it as it is (the model's choice, log 4). -/
def Obligations.EveryCommandAnswers : Prop :=
  (∀ (i : Instr) (s : State), ∃ t, exec i s = .next t)
    ∧ ∀ (i : Instr) (s : State) (w : String), i.illFormed = some w → exec i s = .next s

/-! ### Records: dispatch (chapters 06 and 07) -/

/-- A record that fails a step of R118, whatever its row: its header (ILLEGAL, offset of the field), its predicate
(SKIPPED_PRED), a requirement of its own (the status and offset of the first that fails), a broken crossing (TIMEOUT_CDC, R373);
a record that must wait for a place, and a queue with nothing to dispatch, leave the state as it is. -/
def Obligations.RecordsFollowTheirChecks : Prop :=
  ∀ (i : Instr) (s : State) (p q op : Nat), i.record? = some (p, q, op) →
    (s.site? p q = none → exec i s = .next s)
    ∧ ∀ d, s.site? p q = some d → i.takes d.b = true → recordWaits i d = false →
      let u := recordBegun i s
      let k := recordSkips i d
      (∀ o, headerBad d.b = some o → exec i s = .next (u.endAtDispatch d .illegal o k))
      ∧ (headerBad d.b = none → d.Q.predicate d.b = false → exec i s = .next (u.endAtDispatch d .skippedPred 0xFF k))
      ∧ (headerBad d.b = none → d.Q.predicate d.b = true →
          (∀ st o, u.checks d i = .fail st o → exec i s = .next (u.endAtDispatch d st o k))
          ∧ (u.checks d i = .hold → exec i s = .next u)
          ∧ (u.checks d i = .go → s.crossBroken d = true → exec i s = .next (u.endAtDispatch d .timeoutCdc 0xFF k)))

/-- A record of no row of R139 completes with ILLEGAL, OFFSET 0, whichever row's command takes it, and nothing after it is
consumed (log 3); a record of another row stays where it is. -/
def Obligations.UnknownOpcodesAreIllegal : Prop :=
  ∀ (i : Instr) (s : State) (p q op : Nat) (d : Site), i.record? = some (p, q, op) → s.site? p q = some d →
    (opRow? (recOp d.b) = none → exec i s = .next ((recordBegun i s).endAtDispatch d .illegal 0 0))
    ∧ (opRow? (recOp d.b) ≠ none → i.takes d.b = false → exec i s = .next s)

/-- What ending at dispatch does: the queue moves past the record and what goes with it, the counter that SIGNAL names rises by
one and no other counter changes (R123), one entry enters the completion ring where COMPLETE is set (R101), and one enters the
skip log, with status and offset, where the status is of those that R137 lists. -/
def Obligations.EndingAtDispatch : Prop :=
  ∀ (s : State) (p q off k : Nat) (d : Site) (st : Status), s.site? p q = some d → st.faultClass = none → st ≠ .partitionReset →
    st ≠ .contextTorn →
    let t := s.endAtDispatch d st off k
    s.consumed t d k ∧ ∃ Q, t.queue? p q = some Q
      ∧ Q.ctrs = (if recSignal d.b < 15 then (d.Q.bump (recSignal d.b) 1).ctrs else d.Q.ctrs)
      ∧ Q.cmps = d.Q.cmps ∧ Q.written = d.Q.written + b2n (recComplete d.b) ∧ Q.waiting = none
      ∧ (st.skips = false → Q.skipLog = d.Q.skipLog)
      ∧ (st.skips = true → 6 ≤ d.b.length → ∃ e, Q.skipLog.getLast? = some e ∧ u8 e 10 = st.code ∧ u8 e 12 = off % 256)


/-- A predicated record is dispatched by the comparator that PRED_CMP names, inverted by PRED_INV, on the counter values of its
dispatch. Where the result is false it completes at once with SKIPPED_PRED, its SIGNAL counter rises by one, and COMPLETE writes
a completion record with that status. -/
def Obligations.FalsePredicatesSkip : Prop :=
  (∀ (Q : Queue) (b : Bytes) (c : Comparator), bit (u8 b 2) 7 = true → Q.cmps[bits (u8 b 2) 2 0]? = some c →
    Q.predicate b = (relHolds c.rel (Q.ctr c.ctrA) (Q.second c) != bit (u8 b 2) 6))
  ∧ (∀ (Q : Queue) (b : Bytes), bit (u8 b 2) 7 = false → Q.predicate b = true)
  ∧ ∀ (i : Instr) (s : State) (p q op : Nat) (d : Site), i.record? = some (p, q, op) → s.site? p q = some d →
      i.takes d.b = true → recordWaits i d = false → headerBad d.b = none → d.Q.predicate d.b = false →
      ∃ t Q, exec i s = .next t ∧ (recordBegun i s).consumed t d (recordSkips i d) ∧ t.queue? p q = some Q
        ∧ Q.ctrs = (if recSignal d.b < 15 then (d.Q.bump (recSignal d.b) 1).ctrs else d.Q.ctrs)
        ∧ (recComplete d.b = true → Q.written = d.Q.written + 1
            ∧ (s.linkGone = false → 6 ≤ d.b.length →
                u8 (t.hostBytes (hostKey (p + 1) (d.Q.cqBase + 16 * (d.Q.written % d.Q.ringSize))) 16) 2 = 0x01))
        ∧ (recComplete d.b = false → Q.written = d.Q.written)

/-- NOP completes and does nothing else; SIGNAL sets or adds to a counter of a queue of its cluster at once and sends any other
update across the Girdle (R124); STEP counts the partition's step number up or sets it to VALUE (R147). Each is consumed at its
dispatch. Device memory keeps its bytes, and the scratchpads theirs: of the three, and whether STEP_END makes a step boundary or STEP itself does,
but for the clusters that the partition gains or loses at it (R96, R129, R286). -/
def Obligations.ControlRecordsComplete : Prop :=
  let keeps := fun (s t : State) (d : Site) (boundary : Bool) => (∀ a, t.dram.get a = s.dram.get a)
    ∧ ∀ a, boundary = false ∨ d.P.staged.clusters.getLsbD (a / 2 ^ 24) = d.P.live.clusters.getLsbD (a / 2 ^ 24) →
        t.spad.get a = s.spad.get a
  (∀ (s : State) (p q : Nat) (d : Site), s.runs (.nop p q) d → ∃ t, exec (.nop p q) s = .next t ∧ s.consumed t d 0
    ∧ t.sigs = s.sigs ∧ keeps s t d (recStepEnd d.b))
  ∧ (∀ (s : State) (p q : Nat) (d : Site) (T : Queue), s.runs (.signal p q) d → tget d.P.queues (u8 d.b 8) = some T →
      ∃ t, exec (.signal p q) s = .next t ∧ s.consumed t d 0 ∧ keeps s t d (recStepEnd d.b)
        ∧ (T.cluster = d.Q.cluster → u8 d.b 8 ≠ q → t.sigs = s.sigs ∧ ∃ T', t.queue? p (u8 d.b 8) = some T'
            ∧ T'.ctrs = (if u8 d.b 10 = 1 then (T.bump (u8 d.b 9) (BitVec.ofNat 32 (u32 d.b 12))).ctrs
                else T.ctrs.set (u8 d.b 9) (BitVec.ofNat 32 (u32 d.b 12))))
        ∧ (T.cluster = d.Q.cluster → u8 d.b 8 = q → recSignal d.b = 15 → ∃ T', t.queue? p q = some T'
            ∧ T'.ctrs = (if u8 d.b 10 = 1 then (d.Q.bump (u8 d.b 9) (BitVec.ofNat 32 (u32 d.b 12))).ctrs
                else d.Q.ctrs.set (u8 d.b 9) (BitVec.ofNat 32 (u32 d.b 12))))
        ∧ (T.cluster ≠ d.Q.cluster → t.sigs = s.sigs ++ [{ p := p, fromQ := q, toQ := u8 d.b 8, ctr := u8 d.b 9,
                                                           add := decide (u8 d.b 10 = 1), value := BitVec.ofNat 32 (u32 d.b 12),
                                                           tells := s.announced p q }]))
  ∧ (∀ (s : State) (p q : Nat) (d : Site), s.runs (.step p q) d → ∃ t P, exec (.step p q) s = .next t ∧ s.consumed t d 0
      ∧ t.part? p = some P ∧ P.stepNo = (if u8 d.b 8 = 0 then d.P.stepNo + 1 else BitVec.ofNat 64 (u64 d.b 16))
      ∧ t.sigs = s.sigs ∧ keeps s t d true)

/-- CMP sets a comparator of its own queue to test a counter against an immediate or a second counter, for every record after it;
the relations are those of the table, signed where it says so; codes 6 and 7 make the CMP ILLEGAL. -/
def Obligations.CmpSetsAComparator : Prop :=
  (∀ (s : State) (p q : Nat) (d : Site), s.runs (.cmp p q) d → ∃ t Q, exec (.cmp p q) s = .next t ∧ s.consumed t d 0
    ∧ t.queue? p q = some Q
    ∧ Q.cmps = d.Q.cmps.set (u8 d.b 8) { ctrA := u8 d.b 9, rel := u8 d.b 10,
                                         second := if u8 d.b 11 = 1 then some (u8 d.b 12) else none, imm := BitVec.ofNat 32 (u32 d.b 16) })
  ∧ (∀ a b : W32, (relHolds 0 a b = true ↔ a = b) ∧ (relHolds 1 a b = true ↔ a ≠ b) ∧ (relHolds 2 a b = true ↔ a.toInt < b.toInt)
      ∧ (relHolds 3 a b = true ↔ b.toInt ≤ a.toInt) ∧ (relHolds 4 a b = true ↔ a.toNat < b.toNat)
      ∧ (relHolds 5 a b = true ↔ b.toNat ≤ a.toNat))
  ∧ (∀ (s : State) (p q : Nat) (d : Site), s.site? p q = some d → recOp d.b = 0x0004 → headerBad d.b = none →
      d.Q.predicate d.b = true → (u8 d.b 10 = 6 ∨ u8 d.b 10 = 7) →
      ∃ o, exec (.cmp p q) s = .next (s.endAtDispatch d .illegal o 0))

/-- WAIT whose relation holds completes, emptying the cluster's read cache where ACQUIRE is set (R99, R127); else it holds its
queue with the test that is to be repeated, and nothing else changes.
A WAIT that holds its queue completes once its relation holds: the queue goes on, its SIGNAL counter has risen, ACQUIRE has
emptied the read cache; until then, and while the cluster's control is off (R352, R375: in IDLE, in WATCH, after a thermal trip), nothing changes (R127). A step boundary that a WAIT with STEP_END makes may
empty further caches. -/
def Obligations.WaitsHoldAndEnd : Prop :=
  (∀ (s : State) (p q : Nat) (d : Site), s.runs (.wait p q) d →
     (d.Q.holds (comparatorOf d.b) = true → ∃ t, exec (.wait p q) s = .next t ∧ s.consumed t d 0
       ∧ (recAcquire d.b = true → tget t.caches d.Q.cluster = none)
       ∧ (recStepEnd d.b = false → t.caches = if recAcquire d.b then tdel s.caches d.Q.cluster else s.caches)
       ∧ ∀ a, t.dram.get a = s.dram.get a)
     ∧ (d.Q.holds (comparatorOf d.b) = false → exec (.wait p q) s = .next (s.updQueue p q (fun Q =>
         { Q.advance 0 with waiting := some { cond := comparatorOf d.b, rcd := d.rcd, looped := Q.looped } }))))
  ∧ (∀ (s : State) (p q : Nat) (Q : Queue) (w : Waiting), s.queue? p q = some Q → Q.waiting = some w →
       (Q.holds w.cond = false ∨ s.controlRuns = false → exec (.waitSatisfied p q) s = .next s)
       ∧ (Q.holds w.cond = true → s.controlRuns = true → Q.destroying = false → ∃ t Q', exec (.waitSatisfied p q) s = .next t ∧ t.queue? p q = some Q'
           ∧ Q'.waiting = none ∧ Q'.ahead = Q.ahead ∧ Q'.loops = Q.loops ∧ t.nextId = s.nextId + 1 ∧ tget t.flight s.nextId = none
           ∧ Q'.ctrs = (if recSignal w.rcd.bytes < 15 then (Q.bump (recSignal w.rcd.bytes) 1).ctrs else Q.ctrs)
           ∧ (recAcquire w.rcd.bytes = true → tget t.caches Q.cluster = none)
           ∧ (recStepEnd w.rcd.bytes = false → t.caches = if recAcquire w.rcd.bytes then tdel s.caches Q.cluster else s.caches)
           ∧ ∀ a, t.dram.get a = s.dram.get a))

/-- A counter update that crosses the Girdle is applied once those of the same source to the same counter before it are; it then
leaves the crossing, and nothing but that counter, and what its queue has been told of (R252), changes (R124). While the cluster's control is off nothing
arrives (R352, R375). -/
def Obligations.CrossingUpdatesApplyInOrder : Prop :=
  ∀ (s : State) (i : Nat) (g : SigUpdate), s.sigs[i]? = some g →
    (s.controlRuns = false → exec (.signalUpdateApply i) s = .next s)
    ∧ ((∃ j h, j < i ∧ s.sigs[j]? = some h ∧ h.p = g.p ∧ h.fromQ = g.fromQ ∧ h.toQ = g.toQ ∧ h.ctr = g.ctr) →
      exec (.signalUpdateApply i) s = .next s)
    ∧ (s.controlRuns = true → (∀ j h, j < i → s.sigs[j]? = some h → ¬(h.p = g.p ∧ h.fromQ = g.fromQ ∧ h.toQ = g.toQ ∧ h.ctr = g.ctr)) →
      ∃ t, exec (.signalUpdateApply i) s = .next t ∧ t.sigs = s.sigs.eraseIdx i
        ∧ t = { s with sigs := t.sigs, parts := t.parts, unsettled := t.unsettled }
        ∧ (∀ Q, s.queue? g.p g.toQ = some Q → ∃ Q', t.queue? g.p g.toQ = some Q'
            ∧ Q' = { Q with ctrs := Q.ctrs.set g.ctr (if g.add then (Q.ctrs[g.ctr]?).getD 0 + g.value else g.value) })
        ∧ ∀ p q, (p, q) ≠ (g.p, g.toQ) → t.queue? p q = s.queue? p q)

/-- A LOOP of count zero is consumed with its N records; any other count sets its body up as the innermost loop, to run that
often, and consumes it from where it lay (R130).
A loop's body of m records runs left + 1 times: after j whole iterations and i further records the next one is record i of
iteration j + 1, LOOPED from the second iteration on (R130, R132); after the last the containing loop goes on. -/
def Obligations.LoopsRunTheirBody : Prop :=
  (∀ (s : State) (p q : Nat) (d : Site), s.runs (.loop p q) d →
     let n := u16 d.b 8
     let count := if u8 d.b 10 = 1 then (d.Q.ctr (u8 d.b 11)).toNat else u32 d.b 12
     (count = 0 → ∃ t, exec (.loop p q) s = .next t ∧ s.consumed t d n ∧ ∀ a, t.dram.get a = s.dram.get a)
     ∧ (count ≠ 0 → ∃ t Q, exec (.loop p q) s = .next t ∧ t.queue? p q = some Q ∧ t.nextId = s.nextId + 1
         ∧ Q.ahead = (d.Q.advance n).ahead
         ∧ Q.loops = { body := d.Q.after.take n, idx := 0, left := count - 1, again := false }
             :: (match d.Q.loops with
               | [] => []
               | f :: r => { f with idx := f.idx + 1 + n } :: r)
         ∧ (d.Q.after.take n).length = n ∧ ∀ a, t.dram.get a = s.dram.get a))
  ∧ (∀ (Q : Queue) (f : LoopFrame) (r : List LoopFrame) (j i : Nat), Q.loops = f :: r → f.idx = 0 → i < f.body.length →
       (j ≤ f.left → (Queue.advances (j * f.body.length + i) Q).loops
         = { f with idx := i, left := f.left - j, again := f.again || decide (0 < j) } :: r)
       ∧ (Queue.advances ((f.left + 1) * f.body.length) Q).loops = settleLoops r)

/-- A LOOP whose N records occupy more than 256 slots is ILLEGAL and is consumed with its body, as one of count zero is. -/
def Obligations.LongLoopBodiesAreIllegal : Prop :=
  ∀ (s : State) (p q : Nat) (d : Site), s.site? p q = some d → recOp d.b = 0x0005 → headerBad d.b = none →
    d.Q.predicate d.b = true → 1 ≤ u16 d.b 8 → u16 d.b 8 ≤ 256 → u16 d.b 8 ≤ d.Q.after.length →
    256 < sumNat ((d.Q.after.take (u16 d.b 8)).map (fun r => if 64 < r.bytes.length then 2 else 1)) →
    ∃ t o, exec (.loop p q) s = .next t ∧ t = s.endAtDispatch d .illegal o (u16 d.b 8) ∧ s.consumed t d (u16 d.b 8)

/-- FENCE and every record of an engine, of the near-bank units, of the peer links and of the Stream Manager goes into flight on
that engine, with its record and its place in the ring, but for two kinds that complete at once: a near-bank, collective, PEERCOPY or stream-table
record that has no work to do, and a peer record that a notice, or a frame that differs, has overtaken. R142 says of the first that they complete OK
and do no work; that they do so at their dispatch is the model's choice (logs 25, 34, 43). -/
def Obligations.EngineRecordsGoIntoFlight : Prop :=
  ∀ (i : Instr) (s : State) (d : Site), s.runs i d → recOp d.b = 0x0006 ∨ 1 ≤ recOp d.b / 2 ^ 12 →
    let idle := (recOp d.b / 2 ^ 12 = 5 ∧ nearEmpty d.b = true) ∨ (recOp d.b / 2 ^ 12 = 7 ∧ u64 d.b 16 ≠ 0 ∧ u32 d.b 24 = 0)
      ∨ (recOp d.b / 2 ^ 12 = 6 ∧ recOp d.b ≠ 0x6004 ∧ recOp d.b ≠ 0x6005 ∧ u64 d.b 32 = 0)
    (recOp d.b / 2 ^ 12 = 6 → d.P.aborts = [] ∧ s.peers.early = []) →
    (idle → ∃ t, exec i s = .next t ∧ (recordBegun i s).consumed t d 0)
    ∧ (¬idle → ∃ t, exec i s = .next t ∧ (recordBegun i s).launched t d (s.engineFor d i))

/-- No record of a queue changes assembly, fuses, bring-up, crossings, domain keys, power, temperature, tests or the device
schedule, whatever it meets. -/
def Obligations.RecordsLeaveTheDevice : Prop :=
  ∀ (i : Instr) (s t : State) (p q op : Nat), i.record? = some (p, q, op) → exec i s = .next t → s.sameDevice t

/-- Taking a record into flight moves its queue on, past the record and k further ones, and touches no other queue. The command keeps what held at
its issue: the settings and the counters that were enabled (R287, R288), and a broken crossing that it meets (R373). -/
def Obligations.LaunchMovesTheQueue : Prop :=
  ∀ (s : State) (d : Site) (f : Flight) (k : Nat), s.site? d.p d.q = some d →
    let t := (s.launch d f k).1
    t.nextId = s.nextId + 1 ∧ tget t.flight s.nextId = some (s.issue d.p f) ∧ t.queue? d.p d.q = some (d.Q.advance k)
      ∧ (∀ p q, (p, q) ≠ (d.p, d.q) → t.queue? p q = s.queue? p q)
      ∧ (∀ n, n ≠ s.nextId → tget t.flight n = tget s.flight n)
      ∧ t.dram = s.dram ∧ t.spad = s.spad ∧ t.hostMem = s.hostMem ∧ t.streams = s.streams ∧ t.funcs = s.funcs

/-! ### Records: memory -/

/-- LOAD, STORE and COPY store to the elements they move or pad and to the scale bytes of their destination, and to no other byte
of any memory; a LOAD, STORE or COPY held up by a lost host link is not of these (R290, R311). -/
def Obligations.TransfersStoreOnlyTheirElements : Prop :=
  (∀ (s : State) (p q : Nat) (d : Site), s.runs (.load p q) d → s.linkGone = false →
    ∃ t, exec (.load p q) s = .next t ∧ s.onlyStores t p d.P
      (State.transferStores s (d.access (teEngine d.b) (u8 d.b 9 = 0)) (gdAt d.b 16) (sdAt d.b 56) (recPadFill d.b)))
  ∧ (∀ (s : State) (p q : Nat) (d : Site), s.runs (.store p q) d → s.linkGone = false →
    ∃ t, exec (.store p q) s = .next t ∧ s.onlyStores t p d.P
      (State.transferStores s (d.access (teEngine d.b) false) (sdAt d.b 16) (gdAt d.b 40) false))
  ∧ (∀ (s : State) (p q : Nat) (d : Site), s.runs (.copy p q) d → s.linkGone = false →
    ∃ t, exec (.copy p q) s = .next t ∧ s.onlyStores t p d.P
      (State.transferStores s (d.access (teEngine d.b) (u8 d.b 9 = 0)) (gdAt d.b 16) (gdAt d.b 56) false))

/-- MMA, MMAQ, VOP, VDEQ and READ_CTR store to the elements of their destination descriptor, and READ_CTR to eight bytes, and to no
other byte of any memory. -/
def Obligations.ComputeStoresOnlyItsResult : Prop :=
  (∀ (s : State) (p q : Nat) (d : Site), s.runs (.mma p q) d →
    ∃ t, exec (.mma p q) s = .next t ∧ s.onlyStores t p d.P ((sdAt d.b 64).bytesAt (sdAt d.b 64).all))
  ∧ (∀ (s : State) (p q : Nat) (d : Site), s.runs (.mmaq p q) d →
    ∃ t, exec (.mmaq p q) s = .next t ∧ s.onlyStores t p d.P ((sdAt d.b 64).bytesAt (sdAt d.b 64).all))
  ∧ (∀ (s : State) (p q : Nat) (d : Site), s.runs (.vop p q) d →
    ∃ t, exec (.vop p q) s = .next t ∧ s.onlyStores t p d.P ((sdAt d.b 64).bytesAt (sdAt d.b 64).all))
  ∧ (∀ (s : State) (p q : Nat) (d : Site), s.runs (.vdeq p q) d →
    ∃ t, exec (.vdeq p q) s = .next t ∧ s.onlyStores t p d.P ((sdAt d.b 40).bytesAt (sdAt d.b 40).all))
  ∧ (∀ (s : State) (p q : Nat) (d : Site), s.runs (.readCtr p q) d →
    ∃ t, exec (.readCtr p q) s = .next t
      ∧ s.onlyStores t p d.P ((List.range 8).map (fun i => (sdAt d.b 64).base + i)))

/-- GATHER and SCATTER, whose list can be read, store to the elements of their destination; VRED to its destination's; VTOPK to K pairs per
row; VQUANT to its packs with their headers, its tensor statistic and its group statistics; HOSTOUT to its ring slot; ATTN_MERGE
to its items' rows; ATTN to the OUT rows of its entries, each of which has as many as the table says; and to no other byte of any memory. -/
def Obligations.OtherEnginesStoreOnlyTheirResult : Prop :=
  (∀ (s : State) (p q : Nat) (d : Site), s.runs (.gather p q) d → s.linkGone = false →
    (s.blockList (d.access (teEngine d.b) false) d.b).2 = false →
    ∃ t, exec (.gather p q) s = .next t ∧ s.onlyStores t p d.P ((gdAt d.b 56).bytesAt
      (if recPadFill d.b then (gdAt d.b 56).padBox else (gdAt d.b 56).all)))
  ∧ (∀ (s : State) (p q : Nat) (d : Site), s.runs (.scatter p q) d → s.linkGone = false →
    (s.blockList (d.access (teEngine d.b) false) d.b).2 = false →
    ∃ t, exec (.scatter p q) s = .next t ∧ s.onlyStores t p d.P ((gdAt d.b 16).bytesAt (gdAt d.b 16).all))
  ∧ (∀ (s : State) (p q : Nat) (d : Site), s.runs (.vred p q) d → u8 d.b 10 = 0 →
    ∃ t, exec (.vred p q) s = .next t ∧ s.onlyStores t p d.P ((sdAt d.b 40).bytesAt (sdAt d.b 40).all))
  ∧ (∀ (s : State) (p q : Nat) (d : Site), s.runs (.vred p q) d → u8 d.b 10 = 1 →
    (s.fetch (d.access (veEngine d.b) false) (segDir d.b) (8 * segBags d.b)).2 = false →
    ∃ t, exec (.vred p q) s = .next t ∧ s.onlyStores t p d.P ((sdAt d.b 40).bytesAt (sdAt d.b 40).all))
  ∧ (∀ (s : State) (p q : Nat) (d : Site), s.runs (.vtopk p q) d →
    ∃ t, exec (.vtopk p q) s = .next t ∧ s.onlyStores t p d.P ((List.range (topkOf d.b).rows).flatMap (fun r =>
      (List.range (8 * (topkOf d.b).k)).map (fun i => (topkOf d.b).out + r * (topkOf d.b).outStride + i))))
  ∧ (∀ (s : State) (p q : Nat) (d : Site), s.runs (.vquant p q) d →
    let D := sdAt d.b 40
    ∃ t, exec (.vquant p q) s = .next t ∧ s.onlyStores t p d.P (D.bytesAt D.padBox
      ++ (box (cdiv D.e0 1024) D.e1 D.e2 D.e3).flatMap (fun x =>
        (List.range 32).map (fun i => (D.scaleAddr { x with i0 := x.i0 * 1024 }).toNat + i))
      ++ (List.range 32).map (fun i => spadBase + u32 d.b 12 + i)
      ++ (gstatRange d.b D).flatMap (fun r => (List.range r.2).map (fun i => r.1.toNat + i))))
  ∧ (∀ (s : State) (p q : Nat) (d : Site), s.runs (.hostout p q) d →
    let h := hostOutOf d.b
    ∃ t, exec (.hostout p q) s = .next t ∧ s.onlyStores t p d.P
      ((List.range h.slotBytes).map (fun i => h.ring + (d.Q.ctr h.ctr).toNat % h.slots * h.slotBytes + i)))
  ∧ (∀ (s : State) (p q : Nat) (d : Site), s.runs (.attnMerge p q) d →
    ∃ t, exec (.attnMerge p q) s = .next t ∧ s.onlyStores t p d.P
      ((List.range ((mergeOf d.b).items * (mergeOf d.b).outStride)).map (fun i => (mergeOf d.b).out + i)))
  ∧ (∀ (s : State) (p q : Nat) (d : Site), s.runs (.attn p q) d →
    let x := attnOf d.b
    let rows := sumNat ((List.range x.entries).map (s.attnCount (d.access 32 false) x))
    ∃ t, exec (.attn p q) s = .next t ∧ s.onlyStores t p d.P ((List.range (rows * x.outStride)).map (fun i => x.out + i)))

/-- READ_CTR writes the counter it names at its destination: COUNT in bits 47 to 0, OVF in bit 63 (R152, R404). Left out are counters of
events that the model counts as they are read, whose value the spec leaves open, and one of dispatches, which counts this one. A READ_CTR whose
destination has a zero extent writes nothing (R142, R170). -/
def Obligations.ReadCtrWritesTheCounter : Prop :=
  ∀ (s : State) (p q a : Nat) (d : Site) (c : Counter), s.runs (.readCtr p q) d → tget s.perf.ctrs (u32 d.b 12) = some c →
    c.event ≠ 0x43 → timedEvent c.event = false → s.place p d.P (sdAt d.b 64).base = some (.spad, a) →
    ∃ t, exec (.readCtr p q) s = .next t ∧ s.launched t d (veEngine d.b)
      ∧ ((sdAt d.b 64).empty = false → leNat (t.spad.bytes a 8) = (c.count + (if c.ovf then 2 ^ 63 else 0)) % 2 ^ 64)
      ∧ ((sdAt d.b 64).empty = true → t.spad = s.spad ∧ t.dram = s.dram)

/-- A LOAD of one byte of device memory, read past the cache, with no write under way, puts that byte at its destination in the
scratchpads and changes no other byte. -/
def Obligations.LoadMovesAByte : Prop :=
  ∀ (s : State) (p q a c : Nat) (d : Site), s.runs (.load p q) d → s.linkGone = false →
    let src := gdAt d.b 16
    let dst := sdAt d.b 56
    src.dtype = dst.dtype → src.type.width = 8 → src.layout = 0 → dst.layout = 0 → src.all.length = 1 → dst.all.length = 1 →
    recPadFill d.b = false → u8 d.b 9 = 1 → s.unsettled = [] → s.place p d.P src.base = some (.dram, a) →
    s.place p d.P dst.base = some (.spad, c) →
    ∃ t, exec (.load p q) s = .next t ∧ t.spad.get c = s.dram.get a ∧ (∀ x, x ≠ c → t.spad.get x = s.spad.get x)
      ∧ ∀ x, t.dram.get x = s.dram.get x

/-- An MMA of one INT8 element by one INT8 element adds their product, a signed number of 32 bits that wraps, to what its
destination held or to zero (R90). -/
def Obligations.MmaMultipliesOneElement : Prop :=
  ∀ (s : State) (p q a b c : Nat) (d : Site), s.runs (.mma p q) d →
    let A := sdAt d.b 16
    let B := sdAt d.b 40
    let C := sdAt d.b 64
    A.all.length = 1 → B.all.length = 1 → C.all.length = 1 → A.type = .int8 → A.layout = 0 → B.layout = 0 → C.layout = 0 → s.unsettled = [] →
    s.place p d.P A.base = some (.spad, a) → s.place p d.P B.base = some (.spad, b) → s.place p d.P C.base = some (.spad, c) →
    ∃ t, exec (.mma p q) s = .next t
      ∧ t.spad.bytes c 4 = natLe 4 (((if u8 d.b 9 = 1 then BitVec.ofNat 32 (leNat (s.spad.bytes c 4)) else 0)
          + (s.spad.get a).signExtend 32 * (s.spad.get b).signExtend 32 : BitVec 32).toNat)

/-- A write of device memory by another cluster's engines, by Cuffs, by the host, by peers or by stream commands neither updates
nor removes a line of a cluster's read cache; a write by the cluster's own transfer engines removes every line it matches. -/
def Obligations.CacheLinesAndWrites : Prop :=
  ∀ (s : State) (w : Writer) (g : Seg) (b : Bytes) (bad : Bool), g.space = .dram → s.pcOffline (addrBank g.addr / 16) = false →
    let t := s.writeSeg w g b bad
    (¬(w.kind = 1 ∧ w.engine < 32) → t.caches = s.caches)
    ∧ (∀ c, c ≠ w.cluster → tget t.caches c = tget s.caches c)
    ∧ (w.kind = 1 → w.engine < 32 → ∀ l, tget t.caches w.cluster = some l →
        ∀ x ∈ l, overlaps x.addr 128 g.addr b.length = false)
    ∧ (w.kind = 1 → w.engine < 32 → ∀ l, tget s.caches w.cluster = some l →
        ∃ l', tget t.caches w.cluster = some l' ∧ ∀ x ∈ l, overlaps x.addr 128 g.addr b.length = false → x ∈ l')

/-- A NB_AXPY or NB_QUANT record whose span list holds an entry with nonzero reserved bytes is ILLEGAL (R12, R118), and where its own
fields are legal its skip-log entry gives OFFSET 0xFF. -/
def Obligations.SpanReservedBytesAreIllegal : Prop :=
  ∀ (i : Instr) (s : State) (p q op : Nat) (d : Site) (l : List Span), i.record? = some (p, q, op) → (op = 0x5005 ∨ op = 0x5006) →
    s.site? p q = some d → recOp d.b = op → headerBad d.b = none → d.Q.predicate d.b = true →
    (recordBegun i s).spans d = .ok l → (∃ x ∈ l, x.rest ≠ 0) → 6 ≤ d.b.length →
    ∃ t Q e, exec i s = .next t ∧ (recordBegun i s).consumed t d 0 ∧ t.queue? p q = some Q ∧ Q.skipLog.getLast? = some e
      ∧ u8 e 10 = 0x02 ∧ (spanFieldsLegal d.b → u8 e 12 = 0xFF)

/-- The stream commands on one stream of their own context and pool range, whose entry, table rows and shared records lie in mapped pages and hold
no bad word: ST_OPEN makes an ACTIVE entry of length 0, ST_APPEND raises the speculative length and the rows in use by what it stores, ST_COMMIT sets
the committed length, ST_ROLLBACK drops the tokens and table rows beyond its length, ST_RELEASE leaves the entry DRAINING; one whose length is out of
its range meets INCONSISTENT, and the stream is ACTIVE all the same. PREFIX_LOOKUP gives an empty stream the ranges that the index holds, from the
first on, as far as each is found and its token identifiers agree; PREFIX_PUBLISH publishes committed ranges from the first unpublished one
on, a range new to the index in a free entry and a free record (R228, R232, R234 to R236, R241, R242, R248). -/
def Obligations.StreamCommandsChangeTheirEntry : Prop :=
  ∀ (s : State) (p q : Nat) (d : Site) (o : Pool), d.P.pool = some o → u64 d.b 16 = 0 →
    let c := streamCmdOf d.b
    let others := fun (t : State) => ∀ x, x ≠ c.stream → tget t.streams x = tget s.streams x
    o.firstStream ≤ c.stream → c.stream < o.firstStream + o.streamCount → s.streamBad d.P c.stream = false →
    (s.runs (.stOpen p q) d → tget s.streams c.stream = none → (s.segs p d.P (o.tableVa c.stream) o.tableBytes).isSome = true →
      ∃ t e, exec (.stOpen p q) s = .next t ∧ s.launched t d 36
      ∧ tget t.streams c.stream = some e ∧ e.state = .active ∧ e.partition = p ∧ e.ctx = d.Q.ctx ∧ e.priority = c.priority
      ∧ e.domain = c.domain ∧ e.committed = 0 ∧ e.speculative = 0 ∧ e.blocks = 0 ∧ e.blockTable = o.tableVa c.stream
      ∧ e.lastStep = d.P.stepNo ∧ others t)
    ∧ ∀ e, tget s.streams c.stream = some e → e.ctx = d.Q.ctx → e.live = true →
      let e' := e.touch d.P.stepNo
      (s.runs (.stAppend p q) d → e.committed ≤ e'.appendBase → e'.appendBase ≤ e.speculative →
          let last := (e'.appendBase + c.length - 1) / o.tokens
          let row := fun (j : Nat) => o.entryVa e.blockTable j c.layer
          let needs := fun (j : Nat) => entryValid (u32 (s.rawVa p d.P (row j) 4) 0) = false
          (c.length = 0 → ∃ t, exec (.stAppend p q) s = .next t ∧ s.launched t d 36 ∧ tget t.streams c.stream = some e' ∧ others t)
          ∧ (c.length ≠ 0 → last < o.maxBlocks → s.deviceOk d c.data ((c.length - 1) * c.stride + o.groups * 1024) = true →
              (∀ j, e'.appendBase / o.tokens ≤ j → j ≤ last → s.rawFault p d.P (row j) 4 = none
                ∧ (needs j → (o.choose c.stream c.layer j).isSome = true ∧ ∀ k, e'.appendBase / o.tokens ≤ k → k ≤ last → needs k → k = j)) →
              ∃ t, exec (.stAppend p q) s = .next t ∧ s.launched t d 36
                ∧ tget t.streams c.stream = some { e' with speculative := max e.speculative (e'.appendBase + c.length),
                                                           blocks := max e.blocks (last + 1) }
                ∧ others t))
      ∧ (s.runs (.stCommit p q) d → e.committed ≤ c.length → c.length ≤ e.speculative → ∃ t, exec (.stCommit p q) s = .next t
        ∧ s.launched t d 36 ∧ tget t.streams c.stream = some { e' with committed := c.length } ∧ others t)
      ∧ (s.runs (.stRollback p q) d → e.committed ≤ c.length → c.length ≤ e.speculative →
          s.rowsFault p d.P o e.blockTable (cdiv c.length o.tokens) e.blocks = none → ∃ t, exec (.stRollback p q) s = .next t
        ∧ s.launched t d 36 ∧ tget t.streams c.stream = some { e' with
            speculative := c.length, appendBase := c.length, blocks := min e.blocks (cdiv c.length o.tokens) }
        ∧ others t)
      ∧ (s.runs (.stRelease p q) d → (s.segs p d.P e.blockTable o.tableBytes).isSome = true →
          s.rowsFault p d.P o e.blockTable 0 e.blocks = none → ∃ t, exec (.stRelease p q) s = .next t ∧ s.launched t d 36
        ∧ tget t.streams c.stream = some { e with state := .draining, lastStep := d.P.stepNo } ∧ others t)
      ∧ ((s.runs (.stCommit p q) d ∨ s.runs (.stRollback p q) d) → (c.length < e.committed ∨ e.speculative < c.length) →
        ∃ t f, exec (if recOp d.b = 0x7003 then .stCommit p q else .stRollback p q) s = .next t
          ∧ tget t.streams c.stream = some e' ∧ others t
          ∧ tget t.flight s.nextId = some f ∧ .inconsistent ∈ f.conds ∧ (u64 d.b 48 = 0 → f.final = .inconsistent))
      ∧ (s.unsettled = [] →
          let list := fun (n : Nat) => s.deviceOk d c.data n = true
          let clean := fun (n : Nat) => (s.fetch (nearAccess p d.P) c.data n).2 = false
          let first := s.rangeTokens p d.P o c.data 0
          let h := rangeHash d.P e.domain 0 first
          (s.runs (.prefixLookup p q) d → e.speculative = 0 →
            let n := min ((c.length - 1) / max o.tokens 1) o.maxBlocks
            list (4 * c.length) → clean (4 * n * o.tokens) →
            ∃ t m g, exec (.prefixLookup p q) s = .next t ∧ s.launched t d 36 ∧ m ≤ n
              ∧ tget t.streams c.stream = some { e' with committed := m * o.tokens, speculative := m * o.tokens, appendBase := m * o.tokens,
                                                         blocks := m, shared := m, published := m, chainHash := g, chainValid := decide (0 < m) }
              ∧ others t ∧ (m = 0 → t.prefixes = s.prefixes)
              ∧ (n = 0 ∨ s.bucketBad h = true ∨ s.findPrefix p e.domain h = none → m = 0)
              ∧ (1 ≤ n → s.bucketBad h = false → ∀ x, s.findPrefix p e.domain h = some x → s.confirmFault p d.P o x.2.record = none →
                  s.rawFault p d.P (o.entryVa e.blockTable 0 0) (4 * o.layers.length) = none →
                  (s.recordTokens p d.P o x.2.record = first ↔ 1 ≤ m)))
          ∧ (s.runs (.prefixPublish p q) d → c.length ≤ e.committed →
            let n := c.length / max o.tokens 1
            list (4 * n * o.tokens) → clean (4 * n * o.tokens) →
            ∃ t k e2, exec (.prefixPublish p q) s = .next t ∧ s.launched t d 36 ∧ k ≤ n - e.published
              ∧ tget t.streams c.stream = some e2 ∧ e2.published = e.published + k ∧ e2.shared = e.shared + k ∧ e2.committed = e.committed
              ∧ e2.speculative = e.speculative ∧ e2.blocks = e.blocks ∧ e2.state = .active ∧ (k = 0 → e2 = e') ∧ others t
              ∧ (n ≤ e.published → t.prefixes = s.prefixes)
              ∧ (e.published = 0 → n = 1 → s.bucketBad h = false → s.findPrefix p e.domain h = none →
                  s.rowsFault p d.P o e.blockTable 0 1 = none →
                  (s.prefixes.filter (fun x => decide (x.2.partition = p))).length < d.P.live.prefixQuota →
                  ∀ i r, s.freeEntry (h.toNat % 2 ^ 20) = some i → s.freeRecord p d.P o = some r →
                    k = 1 ∧ e2.chainHash = h ∧ tget t.prefixes i = some
                      { hash := h, record := r, partition := p, domain := e.domain, priority := e.priority, lastUse := d.P.stepNo })))

/-- A stream append that would need a token range at or beyond MAX_BLOCKS writes nothing for that stream and gives BOUNDS: whichever
stream of a table it is, and as the one stream of a record. -/
def Obligations.AppendBeyondMaxBlocks : Prop :=
  (∀ (s : State) (d : Site) (w : Writer) (c : StreamCmd) (x : StreamItem) (P : Partition) (o : Pool) (e : Stream),
    s.part? d.p = some P → P.pool = some o → s.streamOutside P d.Q.ctx x.st = false → tget s.streams x.st = some e → e.live = true →
    let first := match x.q with | some q => x.val - q | none => (e.touch P.stepNo).appendBase
    let count := match x.q with | some q => q | none => x.val
    e.committed ≤ first → first ≤ e.speculative → count ≠ 0 → o.maxBlocks ≤ (first + count - 1) / o.tokens →
    s.stAppend d w c x = (s, .error .bounds))
  ∧ ∀ (s : State) (p q : Nat) (d : Site) (o : Pool) (e : Stream), s.runs (.stAppend p q) d → d.P.pool = some o → u64 d.b 16 = 0 →
    let c := streamCmdOf d.b
    let first := (e.touch d.P.stepNo).appendBase
    s.streamOutside d.P d.Q.ctx c.stream = false → s.streamBad d.P c.stream = false → tget s.streams c.stream = some e →
    e.live = true → e.committed ≤ first → first ≤ e.speculative → c.length ≠ 0 → o.maxBlocks ≤ (first + c.length - 1) / o.tokens →
    ∃ t f, exec (.stAppend p q) s = .next t ∧ tget t.streams c.stream = some (e.touch d.P.stepNo)
      ∧ (∀ x, x ≠ c.stream → tget t.streams x = tget s.streams x)
      ∧ tget t.flight s.nextId = some f ∧ .bounds ∈ f.conds ∧ (u64 d.b 48 = 0 → f.final = .bounds)

/-! ### The Sleeve, fetch and completion (chapter 06) -/

/-- A slot is sealed when every one of its 64 bytes has arrived, whatever their order and however often; until then a byte holds the last value
to arrive; a record whose LONG flag is set is two slots, sealed when both are, and the flag of the first slot alone decides. -/
def Obligations.SlotsSealWhenWhole : Prop :=
  (∀ (l : List Host.Cell) (off : Nat) (data : Bytes) (k : Nat),
    hostFind (hostWriteAll l off data) k = if off ≤ k ∧ k < off + data.length then data[k - off]? else hostFind l k)
  ∧ (∀ (Q : Queue) (pos : Nat), (Q.arrived pos).Pairwise (fun a b => a.1 < b.1) → (∀ c ∈ Q.arrived pos, c.1 < 64) →
      (Q.sealed pos = true ↔ ∀ k, k < 64 → (hostFind (Q.arrived pos) k).isSome))
  ∧ ∀ (Q : Queue) (pos : Nat),
      (Q.sealed pos = false → Q.recordAt pos = none)
      ∧ (Q.sealed pos = true → recLong (Q.slotBytes pos) = false → Q.recordAt pos = some { pos := pos, bytes := Q.slotBytes pos })
      ∧ (Q.sealed pos = true → recLong (Q.slotBytes pos) = true → Q.sealed (pos + 1) = false → Q.recordAt pos = none)
      ∧ (Q.sealed pos = true → recLong (Q.slotBytes pos) = true → Q.sealed (pos + 1) = true →
          Q.recordAt pos = some { pos := pos, bytes := Q.slotBytes pos ++ Q.slotBytes (pos + 1) })
      ∧ (Q.fpos ≤ pos → pos + 1 < Q.fpos + 1024 → pos % 1024 = 1023 → Q.position 1023 = pos ∧ Q.position 0 = pos + 1)

/-- A Sleeve write within one slot reaches the queue and ring position of its offset (R108, R109); one to a position that is sealed, or
at or beyond C + 4,096, is discarded, counted and logged as SLOT_OVERWRITE with the queue and the position, and leaves the ring as it is
(R111). The rest of the queue stays as it is, and so does device memory but for poison of ring words written whole (R386). -/
def Obligations.SleeveWritesReachTheirSlot : Prop :=
  ∀ (s : State) (p offset : Nat) (data : Bytes) (via : Via) (Q : Queue), s.hostReaches = true → p < 32 → data ≠ [] →
    offset + data.length ≤ 0x400000 → offset % 64 + data.length ≤ 64 → s.streamDrops via = false → s.barOpen p via = true → s.queue? p (offset / 65536) = some Q →
    Q.broken = false → Q.destroying = false →
    let q := offset / 65536
    let pos := Q.position (offset % 65536 / 64)
    ∃ t Q', exec (.sleeveWrite p offset data via) s = .next t ∧ t.queue? p q = some Q' ∧ (∀ a, t.dram.get a = s.dram.get a)
      ∧ t.dram.errs = s.dram.errs ∧ (∀ w, systemPc (addrBank (8 * w) / 16) = false → t.dram.poison.contains w = s.dram.poison.contains w)
      ∧ t.spad = s.spad ∧ t.flight = s.flight
      ∧ ((Q.sealed pos || decide (Q.cpos + 4096 ≤ pos)) = false →
          Q' = { Q with slots := tput Q.slots pos (hostWriteAll (Q.arrived pos) (offset % 64) data),
                        hpos := max Q.hpos (pos + 1), fpos := Q'.fpos, stalled := Q'.stalled }
            ∧ Q.fpos ≤ Q'.fpos)
      ∧ ((Q.sealed pos || decide (Q.cpos + 4096 ≤ pos)) = true → Q' = { Q with overwrites := Q.overwrites + 1 }
          ∧ ∃ e, t.log.entries.getLast? = some e ∧ u16 e.bytes 8 = 9 ∧ u8 e.bytes 14 = p % 256 ∧ u8 e.bytes 15 = q % 256
            ∧ u64 e.bytes 24 = pos % 2 ^ 64)

/-- A fetch takes whole records in the order of their slots, the one at C first, as far as its burst goes and meets no poisoned slot; C moves past
what it took; a queue whose record at C is not whole, or whose host link is lost, gives none (R113, R115, R119, R311). -/
def Obligations.FetchTakesRecordsInOrder : Prop :=
  ∀ (s : State) (p q slots : Nat) (Q : Queue), s.queue? p q = some Q →
    (Q.recordAt Q.cpos = none ∨ s.mayFetch Q = false → exec (.recordFetch p q slots) s = .next s)
    ∧ (∀ r, Q.recordAt Q.cpos = some r → s.mayFetch Q = true → recSlots r ≤ min slots 16 → (∀ pos n, s.slotsBad p q pos n = false) →
        ∃ t Q', exec (.recordFetch p q slots) s = .next t ∧ t.queue? p q = some Q' ∧ (Q.ahead ++ [r]) <+: Q'.ahead
          ∧ Q.cpos + recSlots r ≤ Q'.cpos ∧ Q'.cpos ≤ Q.cpos + 16
          ∧ Q'.cpos = Q.cpos + sumNat ((Q'.ahead.drop Q.ahead.length).map recSlots)
          ∧ Q'.loops = Q.loops ∧ Q'.ctrs = Q.ctrs
          ∧ t = { s with parts := t.parts, hostMem := t.hostMem, perf := t.perf })

/-- A command whose work is done ends: nothing of it stays in flight. Where it causes no fault, its SIGNAL counter has risen by one and
its completion record is written, or waits while the ring is full (R101, R123, R135); a FENCE of DEVICE scope has made the earlier
writes of its queue readable at that scope, one of HOST scope by the host too (R146, R259); and device memory keeps its bytes, the command's writes
having been put as it worked. That is so where no write in flight has met its reads, nor those of an earlier command of its engine: else
what it saw is settled as it ends (R88, R262; log 26). A command at work goes on, and in WATCH and after a thermal trip none ends (R352, R364). -/
def Obligations.CommandsEndWhenDone : Prop :=
  ∀ (s : State) (id : Nat) (f : Flight), tget s.flight id = some f →
    (s.working = false ∨ s.atWork id f = true → exec (.commandComplete id) s = .next s)
    ∧ (s.working = true → s.atWork id f = false → ∃ t, exec (.commandComplete id) s = .next t ∧ tget t.flight id = none)
    ∧ (s.working = true → f.nb = none → f.peer = none → f.final.faultClass = none →
        (f.engine < 33 → ∀ e ∈ s.flight, e.1 ≤ id → e.2.cluster = f.cluster → e.2.engine = f.engine →
          ∀ g, tget s.flight e.1 = some g → g.mixed = []) →
        ∀ Q, s.queue? f.p f.q = some Q → Q.destroying = false → ∃ t Q', exec (.commandComplete id) s = .next t
          ∧ t.queue? f.p f.q = some Q'
          ∧ Q'.ctrs = (if recSignal f.bytes < 15 then (Q.bump (recSignal f.bytes) 1).ctrs else Q.ctrs)
          ∧ Q'.written + Q'.held.length = Q.written + Q.held.length + b2n (recComplete f.bytes)
          ∧ Q'.ahead = Q.ahead ∧ Q'.loops = Q.loops ∧ (∀ a, t.dram.get a = s.dram.get a)
          ∧ (recOp f.bytes = 0x0006 → 1 ≤ u8 f.bytes 8 → ∀ u ∈ t.unsettled, u.cmd < id → u.p = f.p → u.q = f.q → u.kind ≠ 0 →
              u.scope = .device ∧ (u8 f.bytes 8 = 2 → u.host = true)))

/-- The timers of a queue. A full ring whose consumer word is read again takes the records that wait, in order, as far as there is room
(R135). COALESCE_TIME after an entry not yet signalled raises the ring's vector (R136), which goes out where it is not masked and the function has
MSI-X enabled (R289); after a thermal trip neither happens (R420). A hold of one second sets STALLED in the queue
and in the credit word (R113, R114). A queue.destroy whose commands do not end within its time is answered TIMEOUT (R107). -/
def Obligations.QueueTimersAct : Prop :=
  (∀ (s : State) (p q value : Nat) (Q : Queue), s.queue? p q = some Q → (Q.full = true ∨ Q.held ≠ []) → s.linkGone = false →
    s.working = true → Q.destroying = false → ∃ t Q', exec (.cqConsumerReread p q value) s = .next t ∧ t.queue? p q = some Q'
      ∧ Q'.consumed = value % 2 ^ 64 ∧ Q'.held <:+ Q.held ∧ Q'.written = Q.written + (Q.held.length - Q'.held.length)
      ∧ (Q'.held = [] ∨ Q'.full = true) ∧ t.flight = s.flight ∧ t.dram = s.dram)
  ∧ (∀ (s : State) (p q : Nat) (Q : Queue) (e : Msix), s.queue? p q = some Q → 0 < Q.coTime → 0 < Q.unsignalled →
      s.thermal.tripped = false → tget (s.func (p + 1)).msix Q.vector = some e → e.masked = false → s.vectorsOn (p + 1) = true → ∃ t, exec (.coalesceTimer p q) s = .next t
        ∧ t.queue? p q = some { Q with unsignalled := 0 } ∧ t.out = s.out ++ [.msix (p + 1) Q.vector (s.requestTee p)]
        ∧ t = { s with parts := t.parts, out := t.out })
  ∧ (∀ (s : State) (p q : Nat) (Q : Queue), s.queue? p q = some Q → Q.holding = true → Q.stalled = false → s.linkGone = false →
      ∃ t, exec (.stallTimer p q) s = .next t ∧ t.queue? p q = some { Q with stalled := true }
        ∧ leNat (t.hostBytes (hostKey (p + 1) Q.credit) 8)
          = Q.cpos % 2 ^ 48 + 2 ^ 48 + (if Q.broken then 2 ^ 49 else 0) + (if Q.skipLog = [] then 0 else 2 ^ 50)
        ∧ t = { s with parts := t.parts, hostMem := t.hostMem, perf := t.perf })
  ∧ (∀ (s : State) (p q : Nat) (Q : Queue), s.queue? p q = some Q → Q.destroying = true →
      (s.func (p + 1)).waitFor = some (.queueDestroy p q) → ∃ t, exec (.queueDestroyTimeout p q) s = .next t
        ∧ (t.func (p + 1)).lastStatus = 0x000A ∧ (t.func (p + 1)).busy = false ∧ (t.func (p + 1)).respValid = true
        ∧ (t.func (p + 1)).waitFor = none)

/-! ### Near-bank units, banks and words (chapters 02 to 04, 19) -/

/-- A Cuff whose microcode holds no bad word runs its next entry whole: the entry leaves its dispatcher; NB_FILL, NB_AXPY and NB_QUANT entries change device memory in
their destination alone, a ZERO fill leaves zeros there, and the entries of the other commands change no byte of it (R53 to R65); the
command stays in flight and the scratchpads keep their bytes. -/
def Obligations.CuffEntriesRun : Prop :=
  ∀ (s : State) (bank : Nat) (e : Entry) (f : Flight) (n : Nb), s.nextEntry bank = some e → s.nb? e.cmd = some (f, n) →
    s.cuffFenced bank = false → n.ended.contains bank = false → (s.sram bank).badWords .microcode = [] →
    ∃ t, exec (.cuffEntry bank .none) s = .next t ∧ t.near.entries = s.near.entries.erase e ∧ (tget t.flight e.cmd).isSome
      ∧ (∀ a, t.spad.get a = s.spad.get a)
      ∧ (match e.work with
        | .fill addr len => (∀ a, ¬(addr ≤ a ∧ a < addr + len) → t.dram.get a = s.dram.get a)
            ∧ ((nbFillOf f.bytes).zero = true → ∀ a, addr ≤ a → a < addr + len → t.dram.get a = 0)
        | .axpy _ y len => ∀ a, ¬(y ≤ a ∧ a < y + len) → t.dram.get a = s.dram.get a
        | .quant _ dst units => quantDst (u8 f.bytes 9) = true → ∀ a,
            ¬(dst ≤ a ∧ a < dst + units * unitBytes ((Dtype.ofCode (u8 f.bytes 9)).getD .e4m3)) → t.dram.get a = s.dram.get a
        | _ => ∀ a, t.dram.get a = s.dram.get a)

/-- A finished partial leaves its pseudo-channel for the slot of its command's partial area, and for no other byte (R57); an
expansion that waits begins, and no memory changes (R44, R45). -/
def Obligations.PartialsAndExpansionsMove : Prop :=
  (∀ (s : State) (pc : Nat) (r : PartialRec) (f : Flight) (P : Partition),
    s.near.finished.find? (fun r => decide (r.bank / 16 = pc)) = some r → tget s.flight r.cmd = some f → s.partOf f = some P →
    s.working = true → s.linkGone = false → ∃ t, exec (.partialEgress pc) s = .next t ∧ t.near.finished = s.near.finished.erase r
      ∧ s.onlyStores t f.p P ((List.range r.bytes.length).map (fun i =>
          partialArea f.bytes + r.slot * partialBytes f.bytes (s.boot.licLive.getLsbD 4) + i)))
  ∧ ∀ (s : State) (c id : Nat) (f : Flight) (n : Nb), s.expander c = some (id, f, n) → tget s.flight id = some f → s.working = true →
      ∃ t f' n', exec (.expansionResume c) s = .next t ∧ t.nb? id = some (f', n') ∧ n'.waiting = false
        ∧ t = { s with flight := t.flight, near := t.near, perf := t.perf, free := t.free }

/-- A corrected word is written back: it leaves the waiting list, its stored errors are gone where they were correctable, and no byte
and no poison changes (R385). A refresh counts its bank's rows modulo 8,192 and changes nothing else (R28).
A word of an array that scrub reads keeps its value: with one or two wrong bits it waits for its write-back (R385), with more it is poisoned
and the error logged (R386, R389). In the other SRAMs one or two wrong bits change nothing; an uncorrectable word costs a read cache its line (R99), a
run-ahead buffer its queue, a dispatcher the entry, and stands in a Cuff until an entry meets it and in a management unit for good (what a Command
Front, a dispatcher and a management unit make of one is log 29's choice). In WATCH and after a thermal trip the stacks
and scrub stand still (R352, R364, R389). -/
def Obligations.BanksRefreshAndCorrect : Prop :=
  ((∀ (s : State) (st : Store) (w : Nat), s.stacksRun = true → s.near.writeBacks.contains (st, w) = true →
     ∃ t, exec (.correctedWriteBack st w) s = .next t
     ∧ t.near.writeBacks = s.near.writeBacks.erase (st, w) ∧ t.dram.cells = s.dram.cells ∧ t.spad.cells = s.spad.cells
     ∧ t.dram.poison = s.dram.poison ∧ t.spad.poison = s.spad.poison
     ∧ (tgetD (s.store st).errs w 0 ≤ 2 → tget (t.store st).errs w = none)
     ∧ t = { s with dram := t.dram, spad := t.spad, near := t.near })
   ∧ ∀ (s : State) (bank : Nat), s.alive = true → s.power.state ≠ .watch → s.pcPresent (bank / 16) = true →
       ∃ t, exec (.bankRefresh bank) s = .next t
       ∧ tgetD t.near.refresh bank 0 = (tgetD s.near.refresh bank 0 + 1) % 8192
       ∧ (∀ b, b ≠ bank → tget t.near.refresh b = tget s.near.refresh b)
       ∧ t = { s with near := { s.near with refresh := t.near.refresh } })
  ∧ (∀ (s : State) (st : Store) (w wrong : Nat), s.stacksRun = true → wrong ≤ 3 → s.scrubs st w = true →
       (s.store st).poison.contains w = false →
       let n := max wrong (tgetD (s.store st).errs w 0)
       ∃ t, exec (.patrolScrub (.array st) w wrong) s = .next t ∧ t.dram.cells = s.dram.cells ∧ t.spad.cells = s.spad.cells ∧ t.flight = s.flight
         ∧ (n = 0 → tget (t.store st).errs w = none ∧ t.near = s.near ∧ t.log = s.log)
         ∧ (1 ≤ n → n ≤ 2 → (st, w) ∈ t.near.writeBacks ∧ tget (t.store st).errs w = some n)
         ∧ (3 ≤ n → (t.store st).poison.contains w = true ∧ tget (t.store st).errs w = none
             ∧ ∃ e, t.log.entries.getLast? = some e ∧ u16 e.bytes 8 = 1))
  ∧ (∀ (s : State) (u : Scrubbed) (w wrong : Nat), s.stacksRun = true → (∀ st, u ≠ .array st) →
       ∃ t, exec (.patrolScrub u w wrong) s = .next t ∧ (wrong < 3 → t = s)
         ∧ (3 ≤ wrong → match u with
           | .cache c => t.dram = s.dram ∧ t.spad = s.spad
               ∧ ∀ l, l ∈ tgetD t.caches c [] ↔ l ∈ tgetD s.caches c [] ∧ l.addr ≠ 8 * w / 128 * 128
           | .front p q => ∀ Q Q', s.queue? p q = some Q → w < Q.frontWords → t.queue? p q = some Q' → Q'.broken = true
           | .dispatcher pc => ∀ e, (s.near.entries.filter (fun e => decide (e.bank / 16 = pc)))[w]? = some e →
               t.near.entries = s.near.entries.erase e ∧ t.dram.cells = s.dram.cells
           | .cuff bank part => t.dram = s.dram ∧ t.spad = s.spad
               ∧ (s.pcPresent (bank / 16) = true → ((t.sram bank).badWords part).contains (w % partSize part) = true)
           | .unit island => t.dram = s.dram ∧ t.spad = s.spad ∧ (s.unitIsland island = true → t.boot.unitPoison.contains (island, w) = true)
           | .array _ => True))
  ∧ ∀ (s : State) (st : Store) (u : Scrubbed) (w wrong : Nat), s.stacksRun = false →
      exec (.correctedWriteBack st w) s = .next s ∧ exec (.patrolScrub u w wrong) s = .next s

/-- A pending repair of a pseudo-channel in maintenance, with a spare and a fuse entry left, goes into the fuse record and off the list;
the words of its row keep their values, and their correctable errors are gone (R376, R377, R391). -/
def Obligations.PendingRepairsApply : Prop :=
  ∀ (s : State) (pc : Nat) (c : Candidate), s.stacksRun = true → s.inMaintenance pc = true →
    s.flash.pendingRepairs.filter (fun c => decide (c.bank / 16 = pc)) = [c] → s.fuse.spareLeft c = true → s.fuse.hasRoom = true →
    ∃ t, exec (.pendingRepairApply pc) s = .next t ∧ t.flash.pendingRepairs = s.flash.pendingRepairs.erase c
      ∧ (c.column = true → t.fuse = { s.fuse with columnRepairs := s.fuse.columnRepairs
          ++ [{ bank := c.bank, unit := c.unit, spare := s.fuse.sparesUsed c }] })
      ∧ (c.column = false → t.fuse = { s.fuse with rowRepairs := s.fuse.rowRepairs
          ++ [{ bank := c.bank, unit := c.unit, spare := s.fuse.sparesUsed c }] })
      ∧ t.dram.cells = s.dram.cells ∧ (∀ w, c.holds w = true → s.dram.poison.contains w = false → tget t.dram.errs w = none)

/-! ### Streams and partitions: what time brings (chapters 11 and 13) -/

/-- STREAM_SWEEP makes IDLE the ACTIVE streams of its shard that no command has touched for IDLE_STEPS steps and changes nothing else
(R228): STEP may have set the step number back, and a stream is then not idle. BLOCK_RETURN gives the blocks of the first freed batch whose commands have all completed back to the pool, and its draining
streams become FREE (R162, R228). -/
def Obligations.SweepsAndReturns : Prop :=
  (∀ (s : State) (shard : Nat), ∃ t, exec (.streamSweep shard) s = .next t ∧ t = { s with streams := t.streams }
    ∧ ∀ st e, tget s.streams st = some e → ∃ e', tget t.streams st = some e' ∧
      ((∀ P o, s.part? e.partition = some P → P.pool = some o → st % 4 = shard % 4 → e.state = .active → o.idleSteps ≠ 0 →
          e.lastStep.toNat + o.idleSteps ≤ P.stepNo.toNat → e' = { e with state := .idle })
        ∧ ((st % 4 ≠ shard % 4 ∨ e.state ≠ .active
              ∨ (∀ P o, s.part? e.partition = some P → P.pool = some o → o.idleSteps = 0 ∨ P.stepNo.toNat < e.lastStep.toNat + o.idleSteps)) →
            e' = e)))
  ∧ ∀ (s : State) (p : Nat) (P : Partition) (o : Pool) (f : Freed), s.part? p = some P → P.pool = some o →
      o.freed.find? (fun f => f.after.all (fun id => (tget s.flight id).isNone)) = some f →
      ∃ t o', exec (.blockReturn p) s = .next t ∧ t.part? p = some { P with pool := some o' } ∧ o'.freed = o.freed.erase f
        ∧ (∀ u, u ∈ o'.used ↔ u ∈ o.used ∧ u ∉ f.slots) ∧ (∀ st ∈ f.streams, tget t.streams st = none)
        ∧ (∀ st, st ∉ f.streams → tget t.streams st = tget s.streams st)
        ∧ t = { s with parts := t.parts, streams := t.streams }

/-- ZEROISATION leaves zeros without poison in every pseudo-channel and every scratchpad that the partition owns and changes no other
byte (R266, R344); a reset partition lives on with keys of a new drawing (R272, R343), a destroyed one is gone; the waiting mailbox is
answered OK. A function-level reset of a VF begins the same reset and leaves its interface in CONFIG_UNLOCKED and its
configuration space as after reset (R289, R293, R340). -/
def Obligations.ZeroisationClears : Prop :=
  (∀ (s : State) (p : Nat) (P : Partition) (z : Zeroing), s.part? p = some P → P.zeroing = some z → s.working = true →
    ∃ t, exec (.zeroisation p) s = .next t
      ∧ (∀ pc ∈ P.pcs.map Prod.fst, ∀ a, a / (16 * bankStride) = pc → t.dram.get a = 0 ∧ t.dram.poison.contains (a / 8) = false)
      ∧ (∀ a, a / (16 * bankStride) ∉ P.pcs.map Prod.fst → t.dram.get a = s.dram.get a)
      ∧ (∀ a, P.ownsCluster (a / 2 ^ 24) = true → t.spad.get a = 0)
      ∧ (∀ a, P.ownsCluster (a / 2 ^ 24) = false → t.spad.get a = s.spad.get a)
      ∧ (z.destroy = true → t.part? p = none)
      ∧ (z.destroy = false → t.keyDraws = s.keyDraws + 1 ∧ ∃ P', t.part? p = some P' ∧ P'.zeroing = none ∧ P'.keys = s.keyDraws
          ∧ P'.live = P.live ∧ P'.pcs = P.pcs ∧ P'.pages = P.pages)
      ∧ (∀ fn, z.mailbox = some fn → (t.func fn).busy = false ∧ (t.func fn).respValid = true ∧ (t.func fn).lastStatus = 0))
  ∧ ∀ (s : State) (p : Nat) (P : Partition), p < 32 → s.part? p = some P → P.zeroing = none → ∃ t P', exec (.vfFlr p) s = .next t
      ∧ t.part? p = some P' ∧ P'.zeroing = some { destroy := false, mailbox := none } ∧ P'.queues = []
      ∧ tget t.trust.tdi p = none ∧ tget t.link.cfg (p + 1) = none ∧ (∀ id f, tget s.flight id = some f → f.p = p → tget t.flight id = none)

/-! ### The schedule (chapter 13) -/

/-- SLOT_BOUNDARY begins the next slot of the live table and ends the guard interval; MAJOR_CYCLE_START begins slot 0 after the last slot,
of the armed table where one is armed, else of the same table with one more cycle counted (that a table's first cycle counts 1 is the model's
choice, log 28; R282 counts the cycles started since the swap); GUARD_INTERVAL holds
dispatch from then on. Commands in flight go on (R276 to R278).
A partition still below its share GUARD_US after a boundary of the device table is an overrun: the event on the operator mailbox and
a class 6 entry; where the brake or a thermal limit of a die that it uses holds it down, it is no event, and the entry is of class 5 (R281, R351; which dies
a partition uses is log 30's reading of R351). -/
def Obligations.ScheduleMovesAndReports : Prop :=
  (∀ (s : State) (o : Owner) (c : Sched) (tb : SchedTable), s.schedule o = some c → c.live = some tb →
     (c.slot + 1 < tb.slots.length →
       (∃ t, exec (.slotBoundary o) s = .next t ∧ t.schedule o = some { c with slot := c.slot + 1, inGuard := false }
         ∧ t.flight = s.flight ∧ t.dram = s.dram)
       ∧ exec (.majorCycleStart o) s = .next s)
     ∧ (tb.slots.length ≤ c.slot + 1 →
       exec (.slotBoundary o) s = .next s
       ∧ ∃ t, exec (.majorCycleStart o) s = .next t ∧ t.flight = s.flight ∧ t.dram = s.dram
         ∧ (∀ u, c.armed = true → c.staged = some u →
             t.schedule o = some { live := some u, slot := 0, inGuard := false, cycles := 1, staged := none, armed := false })
         ∧ (c.armed = false ∨ c.staged = none →
             t.schedule o = some { c with slot := 0, inGuard := false, cycles := c.cycles + 1 }))
     ∧ (∀ p, o = .partition p → 0 < tb.guardUs → exec (.guardInterval o) s = .next (s.setSchedule o { c with inGuard := true })))
  ∧ (∀ (s : State) (p : Nat) (P : Partition) (tb : SchedTable), s.part? p = some P → s.sched.live = some tb → tb.enabled = true →
       ∃ t e, exec (.shareGuardExpiry p) s = .next t ∧ t.log.entries.getLast? = some e ∧ u8 e.bytes 14 = p % 256
         ∧ t = { s with timer := t.timer, funcs := t.funcs, out := t.out, log := t.log, free := t.free }
         ∧ (s.heldDown p P = true → u16 e.bytes 8 = 5)
         ∧ (s.heldDown p P = false → u16 e.bytes 8 = 6 ∧ (t.func 0).event.getLsbD 2 = true))

/-! ### Power and temperature (chapter 17) -/

/-- The governor: B is CAP_W less the reservation of R346 and less what R349 has taken off, and 700 W stand for CAP_W under the brake
(R346, R350). An epoch grants fractions of 1/64 to 63/64 to the islands it limits and 64/64 to every other, islands that drew nothing
among them, and changes nothing else but their count (R347, R348). The f of a partition is the largest from 0 to 1 whose demands fit its
budget (R347). Over the cap B falls by the excess; below it B rises by at most 1 % of the cap (R349; how much is a free value, log 8). -/
def Obligations.GovernorHoldsTheCap : Prop :=
  (∀ (b : Rat) (l : List Governed), 0 ≤ b → (∀ g ∈ l, 0 < g.peak ∧ g.demand ≤ g.peak) →
    l.Pairwise (fun x y => ratioLe x y = true) →
      0 ≤ largestF b l ∧ largestF b l ≤ 1
      ∧ (l.map (fun g => min (g.demand : Rat) (largestF b l * g.peak))).foldr (· + ·) 0 ≤ b
      ∧ ∀ f : Rat, largestF b l < f → f ≤ 1 → b < (l.map (fun g => min (g.demand : Rat) (f * g.peak))).foldr (· + ·) 0)
  ∧ ∀ (s : State) (io mean : Nat) (draws : List (Nat × Nat)), s.alive = true →
    (s.power.state ≠ .watch → ∃ t, exec (.governorEpoch io draws) s = .next t
      ∧ t = { s with power := { s.power with fractions := t.power.fractions }, perf := t.perf }
      ∧ (∀ isl f, tget t.power.fractions isl = some f → 1 ≤ f ∧ f < 64)
      ∧ (∀ isl, tgetD draws isl 0 = 0 → t.fraction isl = 64))
    ∧ s.governedBudget io
        = s.governedCap * watt - (5 * watt * s.stackCount + io + s.governedCap * watt * 8 / 100) - s.power.cut
    ∧ (∃ t, exec (.governorBudgetUpdate mean) s = .next t ∧ t.power.mean = mean
      ∧ t = { s with power := { s.power with mean := mean, cut := t.power.cut }, free := t.free }
      ∧ (s.governedCap * watt < mean → t.governedBudget io = s.governedBudget io - (mean - s.governedCap * watt))
      ∧ (mean = s.governedCap * watt → t.governedBudget io = s.governedBudget io)
      ∧ (mean < s.governedCap * watt →
          s.governedBudget io ≤ t.governedBudget io ∧ t.governedBudget io ≤ s.governedBudget io + s.governedCap * watt / 100))
    ∧ (∃ t, exec .pwrbrkAssert s = .next t ∧ t.governedCap = 700 ∧ t = { s with power := { s.power with brake := true } })
    ∧ (∃ t, exec .pwrbrkRelease s = .next t ∧ t.governedCap = s.power.capW ∧ t = { s with power := { s.power with brake := false } })

/-- IDLE_ENTRY and WATCH_ENTRY enter their states while the device is quiet and the rest state asks for it (R353). A wake sample starts the
exit when a wake condition of R354 holds; in D3hot only D0 ends WATCH (R355). D3hot gives up an exit under way and enters WATCH once nothing is in
flight; a device with work in flight enters it then, by WATCH_ENTRY (R355 is silent on both: the model's choice, log 30, as are its readings of
quiet and of the warm point). The end of the exit, and D0, leave the device ACTIVE with every waiting mailbox taken up (in the order of their
requests: log 22), no host read waiting, and streams, partitions, queues, caches and commands as they were; a Cuff whose reloaded microcode fails
is fenced (R71, R352, R354, R355). After a thermal trip no exit ends (R364). -/
def Obligations.PowerStatesMove : Prop :=
  ∀ s : State,
    (s.alive = true → s.quiet = true →
      (s.power.state = .active → s.power.rest ≠ .active → exec .idleEntry s = .next (s.setPower .idle))
      ∧ (s.power.state = .idle → s.power.rest = .watch → exec .watchEntry s = .next (s.setPower .watch)))
    ∧ (s.alive = true → s.link.d3hot = true → s.power.state ≠ .watch → s.settled = true → exec .watchEntry s = .next (s.setPower .watch))
    ∧ (s.alive = true → s.power.state = .watch → s.link.d3hot = false →
        exec .watchWakeSample s = .next { s with power := { s.power with
          exiting := s.power.exiting || s.power.wakeHost || s.power.wakeMail || s.power.wakePeer || s.warm } })
    ∧ (s.alive = true → s.power.state = .watch → s.link.d3hot = true → exec .watchWakeSample s = .next s)
    ∧ (s.hostReaches = true → ∃ t, exec .pfD3hot s = .next t ∧ t.link = { s.link with d3hot := true }
        ∧ (s.power.state = .watch → t.power.exiting = false) ∧ (s.settled = true ∨ s.power.state = .watch → t.power.state = .watch)
        ∧ (s.settled = false → s.power.state ≠ .watch → t.power = s.power)
        ∧ t.power.held = s.power.held ∧ t.power.mail = s.power.mail
        ∧ t = { s with power := t.power, near := { s.near with sram := t.near.sram }, link := { s.link with d3hot := true } })
    ∧ (s.link.d3hot = true ∨ s.thermal.tripped = true → exec .watchExitComplete s = .next s)
    ∧ (s.hostReaches = true → s.link.d3hot = true → s.thermal.tripped = false → s.power.state ≠ .watch →
        exec .pfD0 s = .next { s with link := { s.link with d3hot := false }, power := { s.power with state := .active } })
    ∧ (∀ i, s.power.state = .watch → s.thermal.tripped = false →
        (i = .watchExitComplete ∧ s.alive = true ∧ s.power.exiting = true ∧ s.link.d3hot = false)
          ∨ (i = .pfD0 ∧ s.hostReaches = true ∧ s.link.d3hot = true) →
        ∃ t, exec i s = .next t ∧ t.power.state = .active ∧ t.power.rest = s.power.rest ∧ t.power.held = [] ∧ t.power.mail = []
          ∧ t.link = { s.link with d3hot := false, cfg := t.link.cfg }
          ∧ (∀ fn ∈ s.power.mail, (t.func fn).held = false)
          ∧ (∀ fn ∈ s.power.mail, knownCodes.contains (s.reqCode fn) = true →
              (t.func fn).busy = true ∧ (t.func fn).respValid = false ∧ fn ∈ t.handed)
          ∧ (∀ b, t.cuffFenced b = true ↔ s.cuffFenced b = true ∨ (b < 768 * 16 ∧ s.pcPresent (b / 16) = true ∧ s.reloadBad b = true))
          ∧ t.streams = s.streams ∧ t.parts = s.parts ∧ t.prefixes = s.prefixes ∧ t.caches = s.caches ∧ t.flight = s.flight
          ∧ t.sigs = s.sigs ∧ t.hostMem = s.hostMem ∧ t.fuse = s.fuse ∧ t.peers = s.peers)

/-- SENSOR_SAMPLE stores the readings of a die that has power (R352), marks and logs sensors out of range (R357, R358), and sets the die's level by the rule
of R360: up at once to the level of the range, down only 1 °C below the bound of the level. A die with more than a quarter of its sensors
failed stays at its highest level below critical or above (R358). A change of level raises THERMAL on the operator mailbox and is logged
(R361); a sample at or above the critical limit asserts THERMTRIP_N, whatever becomes of its sensor (R364). The model's choices: how a reading is
rounded and what a missing count stands for (log 8), DRAM dies held with their stack (log 30), the old and the new level in bytes 32 and 33
of the entry (log 48). -/
def Obligations.SensorSamplesSetLevels : Prop :=
  ∀ (s : State) (die : Nat) (counts : List Nat), s.alive = true → die < 18 → s.dieFitted die = true → s.diePowered die = true →
    ∃ t, exec (.sensorSample die counts) s = .next t ∧ tget t.thermal.readings die = some (s.sampled die counts)
      ∧ t = { s with thermal := t.thermal, timer := t.timer, funcs := t.funcs, out := t.out, free := t.free, log := t.log }
      ∧ (∀ i c, counts[i]? = some c → i < sensorCount die → outOfRange (sensorTemp (s.calOf (sensorId die i)) c) = true →
          t.thermal.failed.contains (sensorId die i) = true)
      ∧ (s.thermal.failed ⊆ t.thermal.failed)
      ∧ (t.thermal.heldDies.contains die = true → highestLevel die ≤ t.levelOf die)
      ∧ (t.mustHold die = true → t.thermal.heldDies.contains die = true)
      ∧ (∀ i x, i < tempSensors die → (s.sampled die counts)[i]? = some x → criticalLimit die ≤ x → t.thermal.tripped = true)
      ∧ (∀ d, d ≠ die → t.levelOf d = s.levelOf d ∧ tget t.thermal.readings d = tget s.thermal.readings d)
      ∧ (∀ T, t.dieTemp die = some T → t.thermal.heldDies.contains die = false →
          (s.levelOf die < levelAt die T → t.levelOf die = levelAt die T)
          ∧ (levelAt die T ≤ s.levelOf die → levelAt die T ≤ t.levelOf die ∧ t.levelOf die ≤ s.levelOf die)
          ∧ (∀ b ∈ levelBounds die, b.1 = s.levelOf die → levelAt die T ≤ s.levelOf die →
              (b.2 - 4 < T → t.levelOf die = s.levelOf die) ∧ (T ≤ b.2 - 4 → t.levelOf die < s.levelOf die)))
      ∧ (t.levelOf die ≠ s.levelOf die → (t.func 0).event.getLsbD 4 = true
          ∧ (t.levelOf die = 8 → t.thermal.tripped = true)
          ∧ ∃ e, t.log.entries.getLast? = some e ∧ u16 e.bytes 8 = 5
              ∧ u8 e.bytes 32 = s.levelOf die % 256 ∧ u8 e.bytes 33 = t.levelOf die % 256)

/-! ### Crossings and resets (chapters 18 and 19) -/

/-- A heartbeat moves one of its two Gray bits, sets the far end's watchdog back to zero and counts 256 cycles on its own while a command waits
on the crossing and none that waited has ended; the watchdog of a parked crossing stands still (R371, R375). One that has counted CDC_TIMEOUT
cycles fires (R372): it breaks the crossing, ends every command that waits on it, logs class 2 and recovers the far island as R374 says: a cluster is reset, a Cuff group power-cycled and at the second break fenced, a channel
controller's pseudo-channel goes offline, a peer port is disabled, and any other island leaves the device NOT_READY. Where the Girdle sees an arithmetic
island stop on which the cluster's control still waits, that recovery comes with control's own watchdog (DEDUCED, log 8). -/
def Obligations.CrossingsBreakAndRecover : Prop :=
  ∀ (s : State) (near far : Nat), s.alive = true → s.islandExists near = true → s.islandExists far = true → near ≠ far →
    s.clocked near = true →
    (∃ t g, exec (.heartbeat near far) s = .next t ∧ tgetD s.cross.heartbeats (crossKey near far) 0 = g
      ∧ tgetD t.cross.heartbeats (crossKey near far) 0 = gray2 g ∧ (g ≤ 3 → g ^^^ gray2 g = 1 ∨ g ^^^ gray2 g = 2)
      ∧ (∀ k, k ≠ crossKey near far → tget t.cross.heartbeats k = tget s.cross.heartbeats k)
      ∧ tget t.cross.watch (crossKey far near) = none
      ∧ (∀ k, k ≠ crossKey near far → k ≠ crossKey far near → tget t.cross.watch k = tget s.cross.watch k)
      ∧ (∀ w w', w = tgetD s.cross.watch (crossKey near far) { cycles := 0, waiting := [] } →
          w' = tgetD t.cross.watch (crossKey near far) { cycles := 0, waiting := [] } →
          (s.parked far = true → w' = w)
          ∧ (s.parked far = false → (w.waiting.any (fun id => (tget s.flight id).isNone)) = true → w'.cycles = 0)
          ∧ (s.parked far = false → s.cross.broken.contains (near, far) = false →
              (∃ id f, tget s.flight id = some f ∧ s.waitsOn near far id f = true) →
              (w.waiting.any (fun id => (tget s.flight id).isNone)) = false → w'.cycles = w.cycles + 256))
      ∧ t = { s with cross := { s.cross with heartbeats := t.cross.heartbeats, watch := t.cross.watch } })
    ∧ (s.parked far = false → s.watchdogDue near far = true → s.cross.broken.contains (near, far) = false →
        ∃ t, exec (.cdcWatchdogFire near far) s = .next t ∧ t.log.summary.getLsbD 2 = true
          ∧ t.ident = s.ident ∧ t.fuse = s.fuse ∧ t.power = s.power ∧ t.pending = s.pending
          ∧ t.flash = { s.flash with pendingRepairs := t.flash.pendingRepairs }
          ∧ (∀ id f, tget s.flight id = some f → s.waitedOn near far id f = true → tget t.flight id = none)
          ∧ (s.arithWaits near far = true → t.cross.broken.contains (near, far) = true)
          ∧ (s.arithWaits near far = false → far ∈ t.cross.brokeOnce
            ∧ (islKind far = 1 ∨ islKind far = 2 → s.clusterFenced (islInstance far) = false →
                t.cross.broken.contains (near, far) = false
                ∧ (∀ id f, tget s.flight id = some f → f.cluster = islInstance far → tget t.flight id = none))
            ∧ (islKind far = 3 → t.cross.broken.contains (near, far) = false
                ∧ (s.cross.brokeOnce.contains far = true → ∀ i < 16, t.cuffFenced (islInstance far * 16 + i) = true))
            ∧ (islKind far = 8 → (tget t.boot.offline (islInstance far)).isSome = true)
            ∧ (islKind far = 4 → (t.port (islInstance far)).state = .disabled)
            ∧ (islKind far ∉ [1, 2, 3, 4, 8] → t.cross.broken.contains (near, far) = true ∧ t.boot.readiness = .notReady)))

/-- A core reset ends the core's commands and zeroises its scratchpad; at the second one of a boot the core is fenced. A cluster reset ends
the cluster's commands, zeroises its scratchpads, empties its read cache and breaks the queues bound to it; at the second one, or where the decoders or
the reloaded firmware fail their tests, the cluster is fenced (R388, R392 to R394). Where another party writes the unit's scratchpad meanwhile, which of its words
land in the reset unit is open (R393, log 31). While the owner is reset or destroyed, that takes these resets over (R395). The built-in test of a drained
cluster that no partition owns leaves its memories clear, and fences it where it fails (R397). -/
def Obligations.CoresAndClustersReset : Prop :=
  ∀ (s : State) (c : Nat), s.alive = true → c < 64 → s.clusterFenced c = false →
    (s.ownerResets c = false →
      (∀ k < 8, s.coreFenced c k = false → ∃ t, exec (.coreReset c k) s = .next t
        ∧ (∀ id f, tget s.flight id = some f → f.cluster = c → f.engine < 32 → f.engine / 4 = k → tget t.flight id = none)
        ∧ (∀ a, coreSpad c k ≤ a → a < coreSpad c k + 2 ^ 20 →
            (∀ e ∈ s.flight, ¬(e.2.cluster = c ∧ e.2.engine < 32 ∧ e.2.engine / 4 = k) →
              ∀ r ∈ e.2.writes, ¬(r.space = .spad ∧ r.addr ≤ a ∧ a < r.addr + r.len)) → t.spad.get a = 0)
        ∧ (s.boot.resetOnce.contains (c * 8 + k) = true → t.coreFenced c k = true)
        ∧ (s.boot.resetOnce.contains (c * 8 + k) = false → t.boot.resetOnce.contains (c * 8 + k) = true ∧ t.coreFenced c k = false)
        ∧ t.cross = s.cross ∧ t.fuse = s.fuse ∧ t.power = s.power ∧ t.pending = s.pending
        ∧ t.flash = { s.flash with pendingRepairs := t.flash.pendingRepairs })
      ∧ (∀ ok cores, ∃ t, exec (.clusterReset { cluster := c, ok := ok, cores := cores, bist := false }) s = .next t
        ∧ (∀ id f, tget s.flight id = some f → f.cluster = c → tget t.flight id = none)
        ∧ (∀ a, a / 2 ^ 24 = c → (∀ e ∈ s.flight, e.2.cluster ≠ c →
              ∀ r ∈ e.2.writes, ¬(r.space = .spad ∧ r.addr ≤ a ∧ a < r.addr + r.len)) → t.spad.get a = 0)
        ∧ tget t.caches c = none
        ∧ (∀ p q Q Q', s.queue? p q = some Q → Q.cluster = c → t.queue? p q = some Q' → Q'.broken = true)
        ∧ (∀ n ∈ t.cross.broken, n.2 ≠ islArith c ∧ n.2 ≠ islControl c)
        ∧ (s.boot.resetOnce.contains (1024 + c) = true ∨ ok = false → t.clusterFenced c = true)
        ∧ (s.boot.resetOnce.contains (1024 + c) = false → ok = true →
            t.boot.resetOnce.contains (1024 + c) = true ∧ t.clusterFenced c = false)
        ∧ (∀ k ∈ cores, k < 8 → t.coreFenced c k = true)
        ∧ t.fuse = s.fuse ∧ t.power = s.power ∧ t.pending = s.pending
        ∧ t.flash = { s.flash with pendingRepairs := t.flash.pendingRepairs })
      ∧ ∀ ok, (∀ e ∈ s.parts, e.2.ownsCluster c = false) → (∀ e ∈ s.flight, e.2.cluster ≠ c) →
          ∃ t, exec (.clusterReset { cluster := c, ok := ok, cores := [], bist := true }) s = .next t
            ∧ (∀ a, a / 2 ^ 24 = c → t.spad.get a = 0) ∧ tget t.caches c = none ∧ t.clusterFenced c = !ok ∧ t.dram = s.dram
            ∧ t.boot.resetOnce = s.boot.resetOnce ∧ t.flight = s.flight ∧ t.parts = s.parts)
    ∧ (s.ownerResets c = true → ∀ k u, u.cluster = c →
        exec (.coreReset c k) s = .next s ∧ exec (.clusterReset u) s = .next s)

/-- A full reset, by PERST_N or by the input switch, leaves memory zero, no partition, the cap at 1,500 W, the rest state ACTIVE, the
WATCH period at 1,000 µs (R345, R353, R354, R392); flash, fuses, assembly and host memory stay. The end of PERST_N boots a powered module
that is not tripped (R331, R364, R378). A PF FLR is a device reset: the system pseudo-channels keep their contents unless a pending repair
is applied to one, every other byte is zero, the cap is kept (R345, R380, R390), and orders 2 to 9 of the boot follow. The topology is checked again
once after each manifest (R383). The switch and its overcurrent latch are R413's and R414's; that PERST_N is low while the module has no power, how the
latch ends (log 20) and what a device reset resets beside R380's list (log 31) are the model's choice. -/
def Obligations.ResetsAndBoots : Prop :=
  ∀ s : State,
    (∀ i closed, (i = .perstAssert ∧ s.boot.perstLow = false ∧ closed = s.boot.switchClosed)
        ∨ (i = .inputSwitchClose ∧ s.boot.switchClosed = false ∧ s.boot.overcurrent = false ∧ closed = true)
        ∨ ((∃ why, i = .inputSwitchOpen why) ∧ s.boot.switchClosed = true ∧ closed = false) →
      ∃ t, exec i s = .next t ∧ t.bare ∧ t.dram = Mem.empty ∧ t.spad = Mem.empty ∧ t.funcs = [] ∧ t.boot.perstLow = true ∧ t.boot.switchClosed = closed
        ∧ t.boot.served = false ∧ t.boot.readiness = .notReady ∧ t.timer = 0 ∧ t.log = ErrLog.reset ∧ t.trust = Trust.reset
        ∧ t.power.capW = 1500 ∧ t.power.rest = .active ∧ t.power.watchPeriod = 1000 ∧ t.power.brake = s.power.brake
        ∧ t.flash = s.flash ∧ t.fuse = s.fuse ∧ t.ident = s.ident ∧ t.hostMem = s.hostMem ∧ t.pending = s.pending ∧ t.out = s.out
        ∧ (i = .perstAssert → t.thermal.tripped = (s.thermal.tripped && !s.coolEnough))
        ∧ (∀ why, i = .inputSwitchOpen why → t.boot.overcurrent = decide (why = .overcurrent)))
    ∧ (∀ f, s.boot.perstLow = true → s.boot.switchClosed = true → s.thermal.tripped = false → s.boot.rom = false →
        ∃ t, exec (.perstRelease f) s = .next t ∧ s.booted t f ∧ t.boot.perstLow = false ∧ t.link.state = .up
          ∧ t.parts = s.parts ∧ t.streams = s.streams ∧ t.flight = s.flight ∧ t.ident = s.ident ∧ t.pending = s.pending)
    ∧ (∀ f, s.boot.perstLow = true → s.thermal.tripped = true →
        exec (.perstRelease f) s = .next { s with boot := { s.boot with perstLow := false } })
    ∧ (∀ f, s.hostReaches = true → s.boot.served = true → s.thermal.tripped = false →
        ∃ t, exec (.pfFlr f) s = .next t ∧ t.bare ∧ s.booted t f ∧ t.power.capW = s.power.capW ∧ t.ident = s.ident
          ∧ t.pending = s.pending ∧ t.hostMem = s.hostMem ∧ t.link.state = .up
          ∧ (s.flash.pendingRepairs = [] → t.spad = Mem.empty ∧ ∀ a,
              (systemPc (a / (16 * bankStride)) = true → t.dram.get a = s.dram.get a)
              ∧ (a / (16 * bankStride) < 768 → systemPc (a / (16 * bankStride)) = false → t.dram.get a = 0)))
    ∧ (s.boot.served = true → s.boot.rom = false → 0 < s.peers.rechecks → ∃ t, exec .topologyRecheck s = .next t
        ∧ t.boot = { s.boot with mismatches := s.findMismatches true, readiness := s.readinessOf (s.findMismatches true) }
        ∧ (t.boot.readiness ≠ s.boot.readiness → (t.func 0).event.getLsbD 6 = true)
        ∧ t = { s with boot := t.boot, funcs := t.funcs, out := t.out, peers := { s.peers with rechecks := s.peers.rechecks - 1 } })
    ∧ (s.peers.rechecks = 0 → exec .topologyRecheck s = .next s)

/-! ### The host (chapter 14) -/

/-- The host link: a link that goes down ends every IDE stream and moves every locked interface to ERROR (R311, R339, R340); it may recover;
after 10 ms its loss is logged and the hold begins, or ends at once with a HOLD_MS of 0; a link restored within the hold raises the event
and breaks the queues that lost a host write; the end of the hold begins the destruction of every partition (R311). An access to host memory that a
command needs and that fails ends the command, but a near-bank one goes on with what it has sent; one that a message needs ends it with HOST_ACCESS. ATS
refuses and times out only where it is enabled on the function and the device holds no translation of the pages (R290, R291). Without power and while
PERST_N is low there is no link (R414, R421). -/
def Obligations.HostLinkHoldsAndFails : Prop :=
  ∀ s : State,
    (s.alive = true → s.link.state = .up → ∃ t, exec .hostLinkDown s = .next t ∧ t.link = { s.link with state := .down } ∧ t.trust.ide = []
      ∧ (∀ p < 32, s.tdiLocked p = true → tget t.trust.tdi p = some .error)
      ∧ (∀ p < 32, s.tdiLocked p = false → tget t.trust.tdi p = tget s.trust.tdi p)
      ∧ t = { s with link := t.link, trust := t.trust })
    ∧ (s.alive = true → s.link.state = .down →
        exec .hostLinkRecovery s = .next { s with link := { s.link with state := .up } }
        ∧ ∃ t, exec .hostLinkLoss s = .next t ∧ t.log.summary.getLsbD 11 = true
          ∧ (s.log.holdMs ≠ 0 → t.link.state = .lost) ∧ (s.log.holdMs = 0 → t.link.state = .expired))
    ∧ (s.alive = true → s.link.state = .lost →
        (∃ t, exec .hostLinkRestored s = .next t ∧ t.link.state = .up ∧ (t.func 0).event.getLsbD 7 = true
          ∧ ∀ p q Q Q', s.queue? p q = some Q → 0 < Q.discarded → t.queue? p q = some Q' → Q'.broken = true)
        ∧ ∃ t, exec .hostLinkHoldExpiry s = .next t ∧ t.link.state = .expired
          ∧ (∀ p P, s.part? p = some P → P.zeroing = none →
              ∃ P', t.part? p = some P' ∧ P'.zeroing = some { destroy := true, mailbox := none } ∧ P'.queues = [])
          ∧ (∀ id f, tget s.flight id = some f → (∃ P, s.part? f.p = some P ∧ P.zeroing = none) → tget t.flight id = none))
    ∧ (s.alive = true → s.link.state = .expired → exec .hostLinkRestored s = .next { s with link := { s.link with state := .up } })
    ∧ (∀ why id f, tget s.flight id = some f → s.commandFails f why = true → f.nb = none →
        ∃ t, exec (.hostReadTimeout (.command id) why) s = .next t ∧ tget t.flight id = none)
    ∧ (∀ why id f n, tget s.flight id = some f → s.commandFails f why = true → f.nb = some n → ∃ t f', exec (.hostReadTimeout (.command id) why) s = .next t
        ∧ tget t.flight id = some f' ∧ f'.nb = some { n with toSend := [], waiting := false } ∧ failStatus why ∈ f'.conds
        ∧ t = { s with flight := t.flight, link := { s.link with cfg := t.link.cfg } })
    ∧ (∀ why fn, s.mayFail fn why = true → s.firmwareReads fn = true → ∃ t, exec (.hostReadTimeout (.firmware fn) why) s = .next t
        ∧ (t.func fn).busy = false ∧ (t.func fn).lastStatus = 8 ∧ t.log.summary.getLsbD 3 = true
        ∧ t.link = { s.link with cfg := t.link.cfg } ∧ s.onlyMail { t with link := s.link })
    ∧ (s.alive = false → ∀ i ∈ [Instr.hostLinkDown, .hostLinkRecovery, .hostLinkLoss, .hostLinkRestored, .hostLinkHoldExpiry], exec i s = .next s)

/-- The host reads and writes mapped device memory through VF BAR4 and CXL.mem: a read returns what the mapped bytes hold and whether they
are poisoned, and a write stores at the place of its address alone; neither reaches an unmapped page, and no write reaches the metadata and
block ranges of a pool (R75, R231, R296). A read that comes in WATCH waits for the exit (R354), and none completes after a trip (R364). A request to a VF
counts once VFs are enabled, in RUN on its bound stream with the T bit alone, and on no stream that is Insecure; a read turned away is an Unsupported
Request (R289, R339, R341). An HDM decoder commits under the conditions of R297 and R299, and says so where it cannot. The model's choices: which ranges
a decoder may take (log 20), the bound 2^40 of the window (log 35), a write of which part is protected discarded whole (log 39), an offline
pseudo-channel read as it stands and not written (log 31). -/
def Obligations.HostReachesMappedMemory : Prop :=
  ∀ (s : State), s.hostReaches = true →
    (∀ p off len via, p < 32 → 0 < len → s.streamDrops via = false → s.barOpen p via = true → s.thermal.tripped = false →
      (s.power.state = .watch → ∃ t, exec (.hostBar4Read p off len via) s = .next t
        ∧ t.power.held = s.power.held ++ [.bar4 p off len] ∧ t.out = s.out)
      ∧ (s.power.state ≠ .watch → ∃ t, exec (.hostBar4Read p off len via) s = .next t ∧ t.power.state = .active
          ∧ t.parts = s.parts ∧ t.flight = s.flight ∧ t.streams = s.streams
          ∧ (s.part? p = none → t.out = s.out ++ [.readData (p + 1) (zeros len) false])
          ∧ ((s.part? p).isSome = true → s.bar4Segs p off len = none → t.out.getLast? = some (.readAbort (p + 1)))
          ∧ (∀ l, s.bar4Segs p off len = some l →
              t.out.getLast? = some (.readData (p + 1) (s.viewAll .host l) (s.badAll l)))))
    ∧ (∀ p off len data via, p < 32 → 0 < len → data ≠ [] → s.streamDrops via = false → s.barOpen p via = false →
        (s.thermal.tripped = false → ∃ t, exec (.hostBar4Read p off len via) s = .next t ∧ t.out = s.out ++ [.unsupported (p + 1)]
          ∧ (t.cfgSpace (p + 1)).aer.getLsbD aerUnsupported = true ∧ t = { s with out := t.out, link := t.link, free := t.free })
        ∧ exec (.hostBar4Write p off data via) s = .next s)
    ∧ (∀ p off len data via, 0 < len → data ≠ [] → s.streamDrops via = true →
        exec (.hostBar4Read p off len via) s = .next s ∧ exec (.hostBar4Write p off data via) s = .next s)
    ∧ (∀ p off data via P, p < 32 → data ≠ [] → s.streamDrops via = false → s.barOpen p via = true → s.part? p = some P →
        ∃ t, exec (.hostBar4Write p off data via) s = .next t ∧ t.parts = s.parts ∧ t.streams = s.streams
          ∧ (s.bar4Segs p off data.length = none ∨ P.protectedVa off data.length = true → s.sameMemory t)
          ∧ (∀ l, s.bar4Segs p off data.length = some l →
              ∀ a, (∀ g ∈ l, ¬ g.holds .dram a) → t.dram.get a = s.dram.get a)
          ∧ (∀ x a, data = [x] → off + 1 ≤ 2 ^ 40 → s.place p P off = some (.dram, a) → P.protectedVa off 1 = false →
              s.pcOffline (addrBank a / 16) = false → t.dram.get a = x))
    ∧ (s.link.cxl = true → s.thermal.tripped = false → ∀ hpa, hpa % 64 = 0 →
        (s.power.state ≠ .watch → ∃ t, exec (.cxlMemRead hpa) s = .next t ∧ t.parts = s.parts
          ∧ (s.cxlPlace hpa = none → t.out.getLast? = some (.cxlData (zeros 64) true))
          ∧ (∀ p P va l, s.cxlPlace hpa = some (p, P, va, l) → t.out.getLast? = some (.cxlData (s.viewAll .host l) (s.badAll l))))
        ∧ (s.power.state = .watch → ∃ t, exec (.cxlMemRead hpa) s = .next t
            ∧ t.power.held = s.power.held ++ [.cxl hpa] ∧ t.out = s.out)
        ∧ ∀ data, data.length = 64 → ∃ t, exec (.cxlMemWrite hpa data) s = .next t ∧ t.out.getLast? = some .cxlDone
          ∧ (s.cxlPlace hpa = none → s.sameMemory t)
          ∧ (∀ p P va l, s.cxlPlace hpa = some (p, P, va, l) →
              (P.protectedVa va 64 = true → s.sameMemory t)
              ∧ ∀ a, (∀ g ∈ l, ¬ g.holds .dram a) → t.dram.get a = s.dram.get a))
    ∧ (∀ p base size, s.link.cxl = true → p < 32 → tget s.link.decoders p = none → base < 2 ^ 64 → size < 2 ^ 64 →
        ∃ t, exec (.hdmDecoderCommit p base size) s = .next t
          ∧ t = { s with link := { s.link with decoders := t.link.decoders, hdm := t.link.hdm } }
          ∧ (t.hdm p).base.toNat = base ∧ (t.hdm p).size.toNat = size ∧ (t.hdm p).error = !s.hdmAllowed p base size
          ∧ ∀ k, tget t.link.decoders k
            = if k = p ∧ s.hdmAllowed p base size = true then some { base := base, size := size } else tget s.link.decoders k)

/-- Writes of 8 aligned bytes to BAR0 act by access code (R11): events clear where 1 is written, the enables, the selector, ERR_SUMMARY and
the hold take the value (a hold over 600,000 ms is ignored, R296), the request buffer takes bytes while the mailbox is not BUSY, and a write
of MB_REQ_SEQ hands the request over (R302); handovers and buffer writes while BUSY are ignored and logged (R424). Read-only registers keep
their values. CTR_VALUE returns the selected counter, sampled, or bit 62 alone (R402); a finished sample goes to its place in the
ring (R409), and is counted where its enable still stands (log 19). Configuration space takes the values that its features support (R289). The model's choices:
that all 64 bits of MB_EVENT_EN are kept (log 37), that offset 0x18000 holds the read-only pending bits (log 17) and 0x30000 the read-only head of the
CXL component registers (log 41). -/
def Obligations.RegistersActByCode : Prop :=
  (∀ (s : State) (fn v : Nat) (via : Via), s.hostReaches = true → fn ≤ 32 → s.streamDrops via = false → s.fnOpen fn via = true → s.fnExists fn = true →
    exec (.registerWrite fn (.bar0 0x1018) (natLe 8 v) via) s
        = .next (s.updFunc fn (fun F => { F with event := F.event &&& ~~~(BitVec.ofNat 9 v) }))
    ∧ exec (.registerWrite fn (.bar0 0x1020) (natLe 8 v) via) s = .next (s.updFunc fn (fun F => { F with eventEn := BitVec.ofNat 64 v }))
    ∧ (∀ off ∈ [0, 0x1000, 0x1010, 0x3000, 0x18000, 0x30000], exec (.registerWrite fn (.bar0 off) (natLe 8 v) via) s = .next s)
    ∧ (s.windowOpen fn = true → exec (.registerWrite fn (.bar0 0x20000) (natLe 8 v) via) s
        = .next (s.updFunc fn (fun F => { F with ctrSelect := BitVec.ofNat 32 v })))
    ∧ (fn = 0 → exec (.registerWrite fn (.bar0 0x40000) (natLe 8 v) via) s
        = .next { s with log := { s.log with summary := s.log.summary &&& ~~~(BitVec.ofNat 12 v) } })
    ∧ (fn = 0 → exec (.registerWrite fn (.bar0 0x50000) (natLe 8 v) via) s
        = .next (if v % 2 ^ 32 ≤ 600000 then { s with log := { s.log with holdMs := BitVec.ofNat 32 v } } else s))
    ∧ (∀ i < 512, (s.func fn).busy = false →
        exec (.registerWrite fn (.bar0 (0x1100 + 8 * i)) (natLe 8 v) via) s
          = .next (s.updFunc fn (fun F => { F with req := cwrite F.req (8 * i) (natLe 8 v) })))
    ∧ (∀ i < 512, (s.func fn).busy = true ∨ s.mailReady fn = false →
        ∀ off, off = 0x1008 ∨ (off = 0x1100 + 8 * i ∧ (s.func fn).busy = true) → ∃ t e, exec (.registerWrite fn (.bar0 off) (natLe 8 v) via) s = .next t
          ∧ s.onlyMail t ∧ t.log.entries.getLast? = some e ∧ u16 e.bytes 8 = 0x101
          ∧ (t.func fn).req = (s.func fn).req ∧ (t.func fn).reqSeq = (s.func fn).reqSeq ∧ (t.func fn).busy = (s.func fn).busy)
    ∧ ((s.func fn).busy = false → s.mailReady fn = true → s.power.state = .watch →
        ∃ t, exec (.registerWrite fn (.bar0 0x1008) (natLe 8 v) via) s = .next t ∧ (t.func fn).held = true ∧ (t.func fn).busy = false
          ∧ (t.func fn).reqSeq = BitVec.ofNat 16 v ∧ t.power.wakeMail = true)
    ∧ ((s.func fn).busy = false → s.mailReady fn = true → s.power.state ≠ .watch → knownCodes.contains (s.reqCode fn) = true →
        ∃ t, exec (.registerWrite fn (.bar0 0x1008) (natLe 8 v) via) s = .next t ∧ (t.func fn).busy = true ∧ (t.func fn).respValid = false
          ∧ (t.func fn).reqSeq = BitVec.ofNat 16 v ∧ t.handed = s.handed ++ [fn] ∧ t.power.state = .active
          ∧ t = { s with power := t.power, funcs := t.funcs, handed := t.handed }))
  ∧ (∀ (s : State) (fn : Nat) (via : Via), s.hostReaches = true → fn ≤ 32 → s.streamDrops via = false → s.fnOpen fn via = true →
      (s.fnExists fn = false ∨ s.windowOpen fn = false → exec (.ctrValueRead { fn := fn, via := via }) s = .next (s.emit (.regData fn (zeros 8))))
      ∧ (s.fnExists fn = true → s.windowOpen fn = true →
          (s.selected fn = none → exec (.ctrValueRead { fn := fn, via := via }) s = .next (s.emit (.regData fn (natLe 8 (2 ^ 62)))))
          ∧ ∀ sel, s.selected fn = some sel → ∃ t c, exec (.ctrValueRead { fn := fn, via := via }) s = .next t ∧ tget t.perf.ctrs sel = some c
            ∧ t.out = s.out ++ [.regData fn (natLe 8 (c.count + b2n c.ovf * 2 ^ 63))]
            ∧ (timedEvent (tgetD s.perf.ctrs sel Counter.none).event = false → c = tgetD s.perf.ctrs sel Counter.none)
            ∧ t = { s with perf := t.perf, out := t.out, free := t.free }))
  ∧ (∀ (s : State) (fn v : Nat) (via : Via), s.hostReaches = true → fn ≤ 32 → s.streamDrops via = false → (fn = 0 ∨ (s.cfgSpace 0).vfEnable = true) →
      exec (.registerWrite fn (.config .ats) (natLe 8 v) via) s = .next (if v % 2 ^ 64 ≤ 1 then s.setCfg fn { s.cfgSpace fn with
          ats := decide (v % 2 ^ 64 = 1), translations := if v % 2 ^ 64 = 1 then (s.cfgSpace fn).translations else [] } else s)
      ∧ (∀ r ∈ [CfgReg.vendorId, .deviceId, .classCode, .headerLog, .powerReduction, .relaxedOrdering, .pri, .pasid, .msi, .intx],
          exec (.registerWrite fn (.config r) (natLe 8 v) via) s = .next s)
      ∧ exec (.registerWrite fn (.config .aspm) (natLe 8 v) via) s = .next (s.setCfg fn { s.cfgSpace fn with l1 := bit (v % 2 ^ 64) 1 })
      ∧ exec (.registerWrite fn (.config .vfEnable) (natLe 8 v) via) s
          = .next (if fn = 0 ∧ v % 2 ^ 64 ≤ 1 then s.setCfg 0 { s.cfgSpace 0 with vfEnable := decide (v % 2 ^ 64 = 1) } else s))
  ∧ ∀ (s : State) (c : Nat) (x : Sample) (m : Sampler), s.thermal.tripped = false →
      s.perf.samples.find? (fun x => x.finished && decide (x.cluster = c)) = some x → tget s.perf.samplers x.scope = some m →
      ∃ t m', exec (.sampleWrite c) s = .next t ∧ tget t.perf.samplers x.scope = some m' ∧ m' = { m with written := if m.epoch = x.epoch then m.written + 1 else m.written }
        ∧ t.perf.samples = s.perf.samples.erase x ∧ t.dram = s.dram ∧ t.flight = s.flight
        ∧ t = { s with perf := t.perf, hostMem := t.hostMem, funcs := t.funcs, out := t.out }

/-- Commands that time or the host gives the block complete: a sweep of a shard, which makes its idle streams IDLE (R228); the return of a batch of
blocks (R162, R228); an epoch of the governor, under which an island that drew nothing keeps its whole clock (R347); an update of the budget, which
keeps the measured mean (R349); the brake asserted and released (R350); a read of CTR_VALUE, which answers COUNT and OVF (R402); the write of a finished
sample (R409); and writes of BAR0 by access code: MB_EVENT W1C, MB_EVENT_EN and CTR_SELECT RW (R11, R302, R402; that MB_EVENT_EN keeps all 64 bits written
is the model's choice, log 37). -/
def Obligations.TimedAndRegisterCommandsComplete : Prop :=
  (∀ (s : State) (st : Nat) (e : Stream) (P : Partition) (o : Pool), tget s.streams st = some e → s.part? e.partition = some P → P.pool = some o →
    e.state = .active → o.idleSteps ≠ 0 → e.lastStep.toNat + o.idleSteps ≤ P.stepNo.toNat →
    ∃ t, exec (.streamSweep (st % 4)) s = .next t ∧ tget t.streams st = some { e with state := .idle } ∧ t = { s with streams := t.streams })
  ∧ (∀ (s : State) (p : Nat) (P : Partition) (o : Pool) (f : Freed) (rest : List Freed), s.part? p = some P → P.pool = some o → o.freed = f :: rest →
      (∀ id ∈ f.after, tget s.flight id = none) →
      ∃ t o', exec (.blockReturn p) s = .next t ∧ t.part? p = some { P with pool := some o' } ∧ o'.freed = rest
        ∧ (∀ u, u ∈ o'.used ↔ u ∈ o.used ∧ u ∉ f.slots) ∧ (∀ st ∈ f.streams, tget t.streams st = none))
  ∧ (∀ (s : State) (io : Nat) (draws : List (Nat × Nat)), s.alive = true → s.power.state ≠ .watch →
      ∃ t, exec (.governorEpoch io draws) s = .next t ∧ t.power = { s.power with fractions := t.power.fractions } ∧ t.flight = s.flight
        ∧ ∀ isl, tgetD draws isl 0 = 0 → t.fraction isl = 64)
  ∧ (∀ (s : State) (mean : Nat), s.alive = true →
      ∃ t, exec (.governorBudgetUpdate mean) s = .next t ∧ t.power = { s.power with mean := mean, cut := t.power.cut }
        ∧ (s.governedCap * watt < mean → t.power.cut = s.power.cut + (mean - s.governedCap * watt))
        ∧ (mean ≤ s.governedCap * watt → t.power.cut ≤ s.power.cut))
  ∧ (∀ s : State, (∃ t, exec .pwrbrkAssert s = .next t ∧ t.governedCap = 700) ∧ ∃ t, exec .pwrbrkRelease s = .next t ∧ t.governedCap = s.power.capW)
  ∧ (∀ (s : State) (fn sel : Nat) (via : Via), s.hostReaches = true → fn ≤ 32 → s.streamDrops via = false → s.fnOpen fn via = true →
      s.fnExists fn = true → s.windowOpen fn = true → s.selected fn = some sel →
      ∃ t c, exec (.ctrValueRead { fn := fn, via := via }) s = .next t ∧ tget t.perf.ctrs sel = some c
        ∧ t.out = s.out ++ [.regData fn (natLe 8 (c.count + b2n c.ovf * 2 ^ 63))] ∧ t.flight = s.flight ∧ t.dram = s.dram)
  ∧ (∀ (s : State) (x : Sample) (l : List Sample) (m : Sampler), s.thermal.tripped = false → s.perf.samples = x :: l → x.finished = true →
      tget s.perf.samplers x.scope = some m →
      ∃ t, exec (.sampleWrite x.cluster) s = .next t ∧ t.perf.samples = l
        ∧ tget t.perf.samplers x.scope = some { m with written := if m.epoch = x.epoch then m.written + 1 else m.written })
  ∧ ∀ (s : State) (fn v : Nat) (via : Via), s.hostReaches = true → fn ≤ 32 → s.streamDrops via = false → s.fnOpen fn via = true →
      s.fnExists fn = true →
      (∃ t, exec (.registerWrite fn (.bar0 0x1018) (natLe 8 v) via) s = .next t ∧ (t.func fn).event = (s.func fn).event &&& ~~~(BitVec.ofNat 9 v))
      ∧ (∃ t, exec (.registerWrite fn (.bar0 0x1020) (natLe 8 v) via) s = .next t ∧ (t.func fn).eventEn = BitVec.ofNat 64 v)
      ∧ (s.windowOpen fn = true →
          ∃ t, exec (.registerWrite fn (.bar0 0x20000) (natLe 8 v) via) s = .next t ∧ (t.func fn).ctrSelect = BitVec.ofNat 32 v)

/-! ### Trust (chapter 16) -/

/-- Interfaces and attestation. An integrity failure leaves its stream insecure and moves the locked interface bound to it to ERROR
(R339, R340). LOCK takes an unlocked VF of a partition that is not being reset, without a committed decoder, with a secure TEE-limited stream,
to CONFIG_LOCKED; START takes it to RUN; STOP takes it to CONFIG_UNLOCKED; each request is answered (R299, R340). The report of a locked
interface and the eight measurement blocks, signed where asked for, are given out (R338, R340). The responder takes no SET_CERTIFICATE, offers no
slot but 0 and opens no session beyond its room (R336, R337). IDE keys set up a stream over PCIe in a secure session with the PF, and nothing
otherwise (R339). A debug attach counts, is sticky, moves every locked interface to ERROR, raises the event of each and of the operator, is logged and
gives access, also with PERST_N low (R342, R421). The layouts of SPDM and when an interface is reported are the model's (logs 15, 42). -/
def Obligations.InterfacesAndAttestation : Prop :=
  ∀ s : State,
    (∀ k x, tget s.trust.ide k = some x → ∃ t, exec (.ideIntegrityFailure k) s = .next t
      ∧ tget t.trust.ide k = some { x with insecure := true }
      ∧ (∀ p, x.vf = some p → s.tdiLocked p = true → tget t.trust.tdi p = some .error)
      ∧ (∀ p, x.vf ≠ some p ∨ s.tdiLocked p = false → tget t.trust.tdi p = tget s.trust.tdi p)
      ∧ t = { s with trust := t.trust })
    ∧ (∀ p, s.tdispOpen p = true →
        (∀ P, s.part? p = some P →
          (∃ t ok, exec (.lockInterface p) s = .next t ∧ t.out = s.out ++ [.tdisp p ok]
            ∧ (ok = true ↔ s.tdiState p = .unlocked ∧ P.zeroing = none ∧ tget s.link.decoders p = none ∧ s.teeStream p = true)
            ∧ (ok = true → tget t.trust.tdi p = some .locked) ∧ (ok = false → t.trust = s.trust)
            ∧ t = { s with trust := t.trust, out := t.out })
          ∧ (s.tdiLocked p = true → ∃ t r, exec (.getDeviceInterfaceReport p) s = .next t ∧ t.out = s.out ++ [.report p r]
            ∧ r.length = 123 ∧ (r.drop 51).take 8 = natLe 8 s.ident.word ∧ r.drop 59 = digestBytes P.configDigest
            ∧ t = { s with out := t.out })
          ∧ (s.tdiLocked p = false → exec (.getDeviceInterfaceReport p) s = .next (s.emit (.tdisp p false))))
        ∧ (∃ t ok, exec (.startInterface p) s = .next t ∧ t.out = s.out ++ [.tdisp p ok] ∧ (ok = true ↔ s.tdiState p = .locked)
          ∧ (ok = true → tget t.trust.tdi p = some .run) ∧ (ok = false → t.trust = s.trust)
          ∧ t = { s with trust := t.trust, out := t.out })
        ∧ (∃ t, exec (.stopInterface p) s = .next t ∧ t.out = s.out ++ [.tdisp p true] ∧ t.tdiState p = .unlocked
          ∧ (∀ k, k ≠ p → tget t.trust.tdi k = tget s.trust.tdi k) ∧ t = { s with trust := t.trust, out := t.out }))
    ∧ (∀ tr signed, s.responds tr = true → tr < 35 → ∃ t sig, exec (.getMeasurements { transport := tr, signed := signed }) s = .next t
        ∧ t.out = s.out ++ [.measurements tr s.measurements sig] ∧ s.measurements.length = 8
        ∧ (signed = false → sig = []) ∧ (signed = true → sig = s.spdmSigned [] s.measurements.flatten)
        ∧ s.measurements[7]? = some (natLe 8 s.ident.word) ∧ s.measurements[6]? = some s.debugBlock
        ∧ t.trust = { s.trust with spdm := t.trust.spdm } ∧ t = { s with trust := t.trust, out := t.out })
    ∧ (∀ tr, s.responds tr = true → tr < 2 →
        (∀ b, ∃ t r, exec (.mctpSpdmRequest tr (.other b)) s = .next t ∧ t.out = s.out ++ [.spdm tr r]
          ∧ (u8 b 1 = 0xEE → r = spdmError 7 0xEE ∧ t.trust.conns = s.trust.conns)
          ∧ (u8 b 1 = 0x82 → u8 b 2 % 16 ≠ 0 → (s.conn tr).stage = .algorithms → r = spdmError 1 0)
          ∧ (u8 b 1 = 0xE4 → (s.conn tr).stage = .algorithms → u8 b 3 ≠ 0 → r = spdmError 1 0 ∧ t.trust.conns = s.trust.conns)
          ∧ (u8 b 1 = 0xE4 → (s.conn tr).stage = .algorithms → u8 b 3 = 0 → s.sessionRoom tr = false →
              r = spdmError 0x0A 0 ∧ t.trust.conns = s.trust.conns)
          ∧ (∀ k, k ≠ tr → t.conn k = s.conn k)
          ∧ tgetD t.trust.spdm tr 0 = tgetD s.trust.spdm tr 0 + 1
          ∧ t = { s with trust := { s.trust with spdm := t.trust.spdm, conns := t.trust.conns }, out := t.out })
        ∧ (∀ k vf tee, 1 ≤ k → k ≤ 8 → (∀ p, vf = some p → p < 32) → (vf = none → tee = false) →
          ∃ t r, exec (.mctpSpdmRequest tr (.ideKeys k vf tee)) s = .next t ∧ t.out = s.out ++ [.spdm tr r]
            ∧ (tr = 0 → s.pfSession = true → tget t.trust.ide k = some { vf := vf, tee := tee, insecure := false })
            ∧ (tr ≠ 0 ∨ s.pfSession = false → r = spdmError 4 0 ∧ t.trust.ide = s.trust.ide)
            ∧ t = { s with trust := { s.trust with spdm := t.trust.spdm, ide := t.trust.ide }, out := t.out }))
    ∧ (s.powerGood = true → ∃ t e, exec .debugAttach s = .next t ∧ t.trust.debugSeen = true ∧ t.trust.access = true
        ∧ t.trust.sessions.toNat = min (s.trust.sessions.toNat + 1) 0xFFFFFFFF
        ∧ (t.func 0).event.getLsbD 8 = true ∧ (∀ p < 32, s.tdiLocked p = true →
            tget t.trust.tdi p = some .error ∧ (t.func (p + 1)).event.getLsbD 8 = true)
        ∧ t.log.entries.getLast? = some e ∧ u16 e.bytes 8 = 12
        ∧ t = { s with timer := t.timer, funcs := t.funcs, out := t.out, free := t.free, trust := t.trust, log := t.log })

/-! ### Peer links (chapter 15) -/

/-- The transport of a port that is up (R314, R315): a frame with the expected number is accepted and delivered, and acknowledged at the
sixteenth; one out of order is answered by a negative acknowledgement, one that fails its check is counted, one in WATCH only wakes (R354);
an acknowledgement slides the window, frames that waited go out; a negative one and the retransmit timeout send every unacknowledged frame
again; timers send what is due; a link that locks trains, and an identity frame puts it up, or in MISMATCH, where data frames pass in neither
direction (R315). A command's record names the port whose acknowledgement came last (R134). Ports stand still without power, in reset and after a
thermal trip (R420, R421). What a frame carries, a message's total among it, is the command's to say (the model's choice, log 18); a CRECV whose BYTES
differ ends with INCONSISTENT (R160). -/
def Obligations.PeerTransport : Prop :=
  ∀ (s : State) (n : Nat), let x := s.port n
    (s.portsRun = true → x.state = .up →
      (∀ fr : Frame, fr.wellFormed = true →
        (fr.fcsOk = false → exec (.peerDataFrame n fr) s = .next (s.setPort n { x with fcsErrors := x.fcsErrors + 1 }))
        ∧ (fr.fcsOk = true → s.power.state = .watch → exec (.peerDataFrame n fr) s = .next (s.wake .peer))
        ∧ (fr.fcsOk = true → s.power.state ≠ .watch → fr.seq ≠ x.expected →
            exec (.peerDataFrame n fr) s = .next ((s.wake .peer).emit (.nakFrame n x.expected)))
        ∧ (fr.fcsOk = true → s.power.state ≠ .watch → fr.seq = x.expected →
            ∃ t, exec (.peerDataFrame n fr) s = .next t ∧ (t.port n).expected = (x.expected + 1) % 2 ^ 24
              ∧ (15 ≤ x.sinceAck → .ackFrame n ((x.expected + 1) % 2 ^ 24) ∈ t.out)
              ∧ t.power.state = .active ∧ t.ident = s.ident ∧ t.fuse = s.fuse ∧ t.pending = s.pending
              ∧ ((∀ p g op src sh, fr.carries ≠ .collective p g op src sh) → t.trust = s.trust)
              ∧ (∀ p k ch m total id f j P y rest, fr.carries = .message p k ch m total → s.recvJob p k ch m = some (id, f, j) →
                  tget s.flight id = some f → s.part? f.p = some P → takePhase 0 fr.offset fr.payload.length j.phases = some (y, rest) →
                  ∃ f' j', tget t.flight id = some f' ∧ f'.peer = some j'
                    ∧ (total = j.bytes → j'.phases = rest) ∧ (total ≠ j.bytes → j'.phases = [] ∧ .inconsistent ∈ f'.conds))))
      ∧ (∀ a f rest, a < 2 ^ 24 → x.unacked = f :: rest → (a + seqMod - f.seq) % seqMod ≤ x.unacked.length →
          let left := x.unacked.drop ((a + seqMod - f.seq) % seqMod)
          ∃ sent, sent.length = min x.backlog.length (512 - left.length)
            ∧ sent.map OutFrame.payload = (x.backlog.take sent.length).map OutFrame.payload
            ∧ (∃ t, exec (.peerAckFrame n a) s = .next t ∧ (t.port n).unacked = left ++ sent
              ∧ (t.port n).backlog = x.backlog.drop sent.length ∧ t.out = s.out ++ sent.map (Out.frame n)
              ∧ (∀ id g, tget s.flight id = some g → ∃ u, tget t.flight id = some { g with island := u })
              ∧ t = { s with perf := t.perf, out := t.out, flight := t.flight, peers := t.peers })
            ∧ ∃ t, exec (.peerNakFrame n a) s = .next t ∧ (t.port n).unacked = left ++ sent
              ∧ t.out = s.out ++ sent.map (Out.frame n) ++ (left ++ sent).map (fun f => .frame n { f with ack := x.expected })
              ∧ (t.port n).retransmits = x.retransmits + BitVec.ofNat 32 (left ++ sent).length
              ∧ t = { s with perf := t.perf, out := t.out, flight := t.flight, peers := t.peers })
      ∧ (∃ t, exec (.retransmitTimeout n) s = .next t ∧ t.out = s.out ++ x.unacked.map (fun f => .frame n { f with ack := x.expected })
          ∧ t.port n = { x with retransmits := x.retransmits + BitVec.ofNat 32 x.unacked.length }
          ∧ t = { s with perf := t.perf, out := t.out, peers := t.peers })
      ∧ (0 < x.sinceAck → exec (.ackTimer n) s = .next ((s.setPort n { x with sinceAck := 0 }).emit (.ackFrame n x.expected)))
      ∧ exec (.keepaliveTimer n) s = .next (s.emit (.keepalive n)) ∧ exec (.identityTimer n) s = .next (s.sendIdentity n))
    ∧ exec (.keepaliveFrame n) s = .next s
    ∧ (s.portsRun = true → x.state = .down → exec (.peerLinkUp n) s = .next ((s.setPort n { x with state := .training }).sendIdentity n))
    ∧ (∀ serial far l, s.portsRun = true → serial < 2 ^ 128 → far < 16 → s.peers.manifest.links.find? (fun l => decide (l.port = n)) = some l →
        x.state = .training ∨ x.state = .up ∨ x.state = .mismatch →
        ∃ t, exec (.identityFrame n serial far) s = .next t
          ∧ ((t.port n).state = .up ↔ l.remotePort = far
              ∧ (((s.peers.manifest.peers[l.peer]?).map PeerEntry.serial).getD 0).toNat = serial)
          ∧ ((t.port n).state = .up ∨ (t.port n).state = .mismatch) ∧ (t.port n).farSerial.toNat = serial ∧ (t.port n).farPort = far
          ∧ t = { s with peers := { s.peers with ports := t.peers.ports }, out := t.out, perf := t.perf })
    ∧ (x.state = .mismatch → (∀ a, a < 2 ^ 24 → exec (.peerAckFrame n a) s = .next s) ∧ exec (.retransmitTimeout n) s = .next s
        ∧ ∀ fr : Frame, fr.wellFormed = true → exec (.peerDataFrame n fr) s = .next s)
    ∧ (s.portsRun = false → ∀ a fr, ∀ i ∈ [Instr.peerDataFrame n fr, .peerAckFrame n a, .peerNakFrame n a, .retransmitTimeout n, .ackTimer n,
        .keepaliveTimer n, .identityTimer n, .peerLinkUp n], exec i s = .next s)

/-- Loss of a peer, a group at a time or whole: the groups fail, the peer leaves the manifest's included ones, their commands end with
PEER_LOST, the events rise and the loss is logged and told on (R319 to R322). A link down loses what it held and its peer (R315, R319). An abort notice
ends the match it names, now or at its dispatch (R322). A receiver's notice opens the CSEND it matches, and unequal sizes make both INCONSISTENT;
with none yet, it is kept (R160, R326). A group becomes ACTIVE once every other member has reported the digest of its own entry, its peers are
included and its links up, and not before; a report that comes earlier is held (R317). A frame of another party for a stopped device does nothing
(R420, R421). The model's choices: notices that carry match numbers, and relays (log 18); the mismatch notice and the bytes of the digest (log 43); how a loss
is logged (log 20). -/
def Obligations.PeerLossAndNotices : Prop :=
  ∀ s : State,
    (∀ i p g k port G, i = .lossNotice port p g k ∨ i = .groupResetNotice port p g k → s.carries port = true →
      s.groupEntry? p g = some G → (s.group p g).state ≠ .failed → ∃ t, exec i s = .next t ∧ (t.group p g).state = .failed
        ∧ (∀ id f j, tget s.flight id = some f → f.peer = some j → f.p = p → j.ofGroup g = true ∨ j.withPeer k = true →
            tget t.flight id = none)
        ∧ (t.func 0).event.getLsbD 3 = true ∧ (t.func (p + 1)).event.getLsbD 3 = true ∧ t.log.summary.getLsbD 4 = true
        ∧ (i = .lossNotice port p g k → ((t.peers.manifest.peers[k]?).map PeerEntry.included).getD false = false
            ∧ ∀ o ∈ s.groupPorts G, o ≠ port → s.carries o = true → .lossNotice o p g k ∈ t.out)
        ∧ (i = .groupResetNotice port p g k → t.peers.manifest = s.peers.manifest
            ∧ ∀ o ∈ s.groupPorts G, o ≠ port → s.carries o = true → .resetNotice o p g k ∈ t.out))
    ∧ (∀ i k, (i = .peerSilenceTimeout k ∧ s.portsTo k ≠ [])
          ∨ (∃ n, i = .peerLinkDown n ∧ s.portPeer n = some k ∧ (s.port n).state ∈ [PortState.up, .training, .mismatch]) →
        ∃ t, exec i s = .next t ∧ ((t.peers.manifest.peers[k]?).map PeerEntry.included).getD false = false
          ∧ (∀ G ∈ s.peers.manifest.groups, G.peers.contains k = true → (t.group G.partition G.group).state = .failed)
          ∧ (∀ id f j, tget s.flight id = some f → f.peer = some j → j.withPeer k = true → tget t.flight id = none)
          ∧ (t.func 0).event.getLsbD 3 = true ∧ t.log.summary.getLsbD 4 = true
          ∧ (∀ n, i = .peerLinkDown n → (t.port n).state = .down ∧ (t.port n).unacked = [] ∧ (t.port n).backlog = []))
    ∧ (∀ port p k P, s.part? p = some P → s.carries port = true →
        (∀ a g op kind, (a = .collective g op ∧ kind = 0) ∨ (a = .mismatch g op ∧ kind = 3) ∨ (a = .empty g op ∧ kind = 4) → ∃ t, exec (.abortNotice port p k [a] none) s = .next t
          ∧ (∀ id f j, s.collectiveJob p g op = some (id, f, j) → tget s.flight id = some f → tget t.flight id = none)
          ∧ (s.collectiveJob p g op = none → (s.group p g).opSeq.toNat ≤ op → (s.group p g).state ≠ .failed →
              t.part? p = some { P with aborts := if P.aborts.contains (g, op, 0, kind) then P.aborts else P.aborts ++ [(g, op, 0, kind)] }
                ∧ t.flight = s.flight))
        ∧ (∀ ch n, (∃ t, exec (.abortNotice port p k [.message true ch n] none) s = .next t
            ∧ ∀ id f j, s.recvJob p k ch n = some (id, f, j) → tget s.flight id = some f → tget t.flight id = none)
          ∧ ∃ t, exec (.abortNotice port p k [.message false ch n] none) s = .next t
            ∧ ∀ id f j, s.sendJob p k ch n = some (id, f, j) → tget s.flight id = some f → tget t.flight id = none))
    ∧ (∀ port p k ch n bytes, s.carries port = true →
        (∀ P, s.part? p = some P → s.sendJob p k ch n = none → tgetD P.sends (channelKey k ch) 0 ≤ n →
          ∃ t, exec (.receiverNotice p k ch { port := port, number := n, bytes := bytes }) s = .next t
            ∧ t.part? p = some { P with notices := P.notices ++ [(channelKey k ch, n, bytes)] }
            ∧ t = { s with power := t.power, parts := t.parts })
        ∧ (∀ id f j P G r, s.sendJob p k ch n = some (id, f, j) → tget s.flight id = some f → j.open? = false →
          s.partOf f = some P → s.peerGroup f.p k = some G → G.rankOf k = some r →
          ∃ t f' j', exec (.receiverNotice p k ch { port := port, number := n, bytes := bytes }) s = .next t ∧ tget t.flight id = some f' ∧ f'.peer = some j'
            ∧ j'.open? = true ∧ (bytes ≠ j.bytes → .inconsistent ∈ f'.conds ∧ t.dram = s.dram))
        ∧ (∀ id f j, s.recvJob p k ch n = some (id, f, j) → tget s.flight id = some f → bytes ≠ j.bytes →
          ∃ t f' j', exec (.receiverNotice p k ch { port := port, number := n, bytes := bytes, size := true }) s = .next t ∧ tget t.flight id = some f' ∧ f'.peer = some j'
            ∧ j'.phases = [] ∧ j'.open? = true ∧ .inconsistent ∈ f'.conds ∧ t.dram = s.dram ∧ t.spad = s.spad))
    ∧ (∀ p g own, s.portsRun = true → s.power.state ≠ .watch →
        let R := own.foldl (fun u x => u.report p g x) (if own.isEmpty then s else s.wake .peer)
        (s.groupEntry? p g = none → exec (.groupActivation p g { own := own }) s = .next R)
        ∧ ∀ G, s.groupEntry? p g = some G →
          let agreed := ∀ r < G.members.length, r ≠ G.rank → (groupKey p g, r, s.groupDigest G) ∈ R.peers.digests
          let linked := (∀ k ∈ G.peers, ((s.peers.manifest.peers[k]?).map PeerEntry.included).getD false = true)
            ∧ ∀ k ∈ G.peers, ∀ n ∈ s.portsTo k, (s.port n).state = .up
          ((s.group p g).state = .pending → agreed ∧ linked →
              exec (.groupActivation p g { own := own }) s = .next (R.setGroup p g { s.group p g with state := .active }))
          ∧ ((s.group p g).state ≠ .pending ∨ ¬(agreed ∧ linked) → exec (.groupActivation p g { own := own }) s = .next R))
    ∧ (∀ port, s.carries port = false → ∀ p g k l r, ∀ i ∈ [Instr.lossNotice port p g k, .groupResetNotice port p g k, .abortNotice port p k l r],
        exec i s = .next s)

/-! ### Messages (chapter 14) -/

/-- How the firmware takes up any message. Nothing happens where no request of the row is in hand (R302, R354, R364). A header that does not
stand ends its message: SEQ_MISMATCH, then PROTO_UNSUPPORTED, then WRONG_MAILBOX come first; a request of version 1.0 for its own mailbox,
direct, with its reserved bytes zero, stands (R303 to R307). A message that acts on a partition waits while an earlier one on it is in hand
(R303), and one of the counters while an earlier one of its code is (R406); it ends with BAD_PARTITION where its partition must exist and does not, with REFUSED
where it is one of the counters and PERF_USER_EN is clear (R400, R406), and with BAD_FIELD, or PROTO_UNSUPPORTED under a higher minor
version, where a byte of no field is not zero (R12, R304, R306). Which byte a BAD_FIELD names first and the order of these checks are the model's
(log 23); requests held in WATCH are log 22's. -/
def Obligations.MessagesAreTakenUp : Prop :=
  ∀ (i : Instr) (s : State) (fn : Nat) (row : MsgRow), messageOf i = some (fn, row) →
    let b := s.msgBody fn
    let h := s.reqHeader fn
    let p := s.msgPartition fn
    (¬s.inHand fn row → exec i s = .next s)
    ∧ (s.inHand fn row →
        (∀ e, s.headerEnds fn row = some e → ∃ t, exec i s = .next t ∧ s.answered t fn e.1 e.2 ∧ s.onlyMail t)
        ∧ (s.headerEnds fn row = none →
            ((row.acts b = true ∧ s.mustWait fn p = true) ∨ (row.inOrder = true ∧ s.behind fn row.code = true) → exec i s = .next s)
            ∧ (¬(row.acts b = true ∧ s.mustWait fn p = true) → ¬(row.inOrder = true ∧ s.behind fn row.code = true) →
                (row.exists? b = true → s.part? p = none →
                  ∃ t, exec i s = .next t ∧ s.answered t fn .badPartition [] ∧ s.onlyAnswer t fn)
                ∧ ((row.exists? b = true → (s.part? p).isSome = true) → row.user = true → s.perfUser fn p = false →
                  ∃ t, exec i s = .next t ∧ s.answered t fn .refused (refusalBody none) ∧ s.onlyAnswer t fn)
                ∧ ((row.exists? b = true → (s.part? p).isSome = true) → (row.user = true → s.perfUser fn p = true) → unusedZero b (row.used b) = false →
                    ∃ t o, exec i s = .next t ∧ s.onlyAnswer t fn
                      ∧ (s.answered t fn .badField (refusalBody (some (16 + o)))
                          ∨ (0 < reqMinor h ∧ s.answered t fn .protoUnsupported [])))))
        ∧ (u16 h 4 ≠ (s.func fn).reqSeq.toNat → s.headerEnds fn row = some (.seqMismatch, []))
        ∧ (u16 h 4 = (s.func fn).reqSeq.toNat →
            (reqMajor h ≠ 1 → s.headerEnds fn row = some (.protoUnsupported, []))
            ∧ (reqMajor h = 1 → (row.box = .operator ∧ fn ≠ 0) ∨ (row.box = .partition ∧ fn = 0) →
                s.headerEnds fn row = some (.wrongMailbox, [])))
        ∧ (s.taken fn row.code = true → (row.box = .operator → fn = 0) → (row.box = .partition → fn ≠ 0) →
            s.headerEnds fn row = none))

/-- The messages that ask only: each is answered OK with the body that R307 gives it, and nothing else changes but what it reads out:
queue.status empties the skip log it returns (R137), err.read marks what it returns as read where it is told to (R309), and the four
that return bulk write host memory (R305, R307; nothing where the link is gone, R311). The counter messages are REFUSED on a partition without
PERF_USER_EN (R404). What a body gives where the spec leaves it open is the model's (log 23; the DRAM dies of thermal.query log 20, the counters' messages log
32, the ports' addresses log 46). -/
def Obligations.QueriesAnswer : Prop :=
  ∀ (s : State) (fn : Nat), let b := s.msgBody fn
    let p := s.msgPartition fn
    let m : Msg := { fn := fn, p := p, body := b }
    let ports := (List.range 16).flatMap s.portBody
    let macs := (List.range 16).flatMap (fun n => natLe 6 (s.ident.mac n))
    s.tells (.devInfo fn) fn True True (s.infoBody fn)
    ∧ s.tells (.devLicences fn) fn True True [s.boot.licLive, s.boot.licPending]
    ∧ s.tells (.dbgStatus fn) fn True True s.debugBlock
    ∧ s.tells (.powerStateRead fn) fn (u8 b 0 = 0) True s.powerBody
    ∧ s.tells (.partConfigRead fn) fn (u8 b 0 = 0) True (s.configBody p)
    ∧ (∀ P, s.part? p = some P →
        s.tells (.partMapQuery fn) fn (u8 b 0 = 2 ∧ u8 b 1 ≤ 1) True (P.mapBody (u64 b 8))
        ∧ s.tells (.streamStats fn) fn True True (s.statsBody p P)
        ∧ (p ≠ 0xFF → s.tells (.peerStatus fn) fn True True (ports ++ (s.groupsOf p).flatMap s.groupBody ++ macs)))
    ∧ (p = 0xFF → s.tells (.peerStatus fn) fn True True (ports ++ macs))
    ∧ s.tells (.perfConfigRead fn) fn (∀ f ∈ s.perfFields b, f.2 = true) (∀ e ∈ perfEntries b, s.perfMay m e.1 = true) (s.perfBody b)
    ∧ s.tells (.perfSampleStatus fn) fn (∀ f ∈ sampleFields b, f.2 = true) (∀ c ∈ s.sampleConds m, c.2 = true)
        (s.samplerBody (scopeOf m))
    ∧ (s.perfUser fn p = false → ∀ i ∈ [Instr.perfConfigRead fn, .perfConfigWrite fn, .perfSampleEnable fn, .perfSampleDisable fn,
        .perfSampleStatus fn], ∀ row, messageOf i = some (fn, row) → s.inHand fn row → s.headerEnds fn row = none →
        s.behind fn row.code = false → (row.acts b = true → s.mustWait fn p = false) → (row.exists? b = true → (s.part? p).isSome = true) →
        ∃ t, exec i s = .next t ∧ s.answered t fn .refused (refusalBody none) ∧ s.onlyAnswer t fn)
    ∧ (∀ Q, s.queue? p (u8 b 0) = some Q → s.decides (.queueStatus fn) fn True True (fun t =>
        s.answered t fn .ok (s.statusBody p (u8 b 0) Q) ∧ t.queue? p (u8 b 0) = some { Q with skipLog := [] }
          ∧ t = { s with parts := t.parts, funcs := t.funcs, handed := t.handed, out := t.out }))
    ∧ s.decides (.devTopology fn) fn (u8 b 12 = 0) True (fun t => let r := (s.topologyRecord fn).take (u32 b 8)
        s.answered t fn .ok (natLe 4 r.length)
        ∧ t = { s with hostMem := s.hostAfter fn (u64 b 0) r, funcs := t.funcs, handed := t.handed, out := t.out })
    ∧ s.decides (.thermalQuery fn) fn True True (fun t => let r := s.sensorRecords.take (u32 b 8 / 8)
        s.answered t fn .ok (natLe 4 r.length)
        ∧ t = { s with hostMem := s.hostAfter fn (u64 b 0) r.flatten, funcs := t.funcs, handed := t.handed, out := t.out, free := t.free })
    ∧ s.decides (.errRead fn) fn (u8 b 12 ≤ 1) True (fun t => let l := (s.logFor fn).take (u32 b 8)
        s.answered t fn .ok (natLe 4 l.length ++ natLe 4 (tgetD s.log.lost fn 0))
        ∧ t.log = (if u8 b 12 = 1 then { s.log with entries := markRead fn l.length s.log.entries } else s.log)
        ∧ t = { s with hostMem := s.hostAfter fn (u64 b 0) (l.flatMap LogEntry.bytes), log := t.log, funcs := t.funcs,
                       handed := t.handed, out := t.out })
    ∧ s.decides (.memTestResults fn) fn (u8 b 0 = 3 ∧ ∀ f ∈ s.pcFields b, f.2 = true) (∀ pc ∈ testPcs b, s.lockedPc pc = false ∧ (tget s.tests pc).isSome = true)
        (fun t => ∃ r, s.answered t fn .ok (natLe 4 r.length)
          ∧ (∀ pc T, testPcs b = [pc] → tget s.tests pc = some T → r = T.record pc)
          ∧ t = { s with hostMem := s.hostAfter fn (u64 b 8) r, funcs := t.funcs, handed := t.handed, out := t.out })

/-- Partitions, their page tables, queues and contexts (R105 to R107, R264 to R272, R283, R284, R301): part.create makes the partition with
zeroised memory and new keys, and only where no partition loses anything; part.destroy and part.reset end every command and wait for the
zeroisation; part.config stages; part.map maps and unmaps; a queue and a context begin as they are described; queue.destroy
is answered once no command of the queue is in flight; ctx.teardown ends the context. The model's readings: which refusal comes first (log 23), that
part.create waits for a repair that is due, and the causes of a faulted context (log 31). -/
def Obligations.PartitionMessagesAct : Prop :=
  ∀ (s : State) (fn : Nat), let b := s.msgBody fn
    let p := s.msgPartition fn
    let n := u16 b 24
    let pc := fun i => u16 b (32 + 4 * i)
    (31 < p ∨ (s.part? p).isSome = true → s.decides (.partCreate fn) fn True False (fun _ => True))
    ∧ (p ≤ 31 → s.part? p = none → (∀ i < n, s.repairDue (pc i) = false ∨ s.inMaintenance (pc i) = false) →
        s.decides (.partCreate fn) fn
          (u8 b 0 ≤ 1 ∧ u32 b 4 ≤ 8388608 ∧ u32 b 16 < 2 ^ 20 ∧ 1 ≤ u32 b 20 ∧ u32 b 20 ≤ 2 ^ 20
            ∧ ∀ i < n, pc i < 768 ∧ s.stackFitted (pc i / 64) = true ∧ u8 b (34 + 4 * i) ≤ 16)
          ((s.parts.length < 8 ∨ s.boot.licLive.getLsbD 2 = true) ∧ (∃ c < 64, bit (u64 b 8) c = true) ∧ 1 ≤ n
            ∧ (∀ c < 64, bit (u64 b 8) c = true → s.clusterFenced c = false ∧ ∀ e ∈ s.parts, e.2.ownsCluster c = false)
            ∧ (∀ i < n, s.pcFree (pc i) = true ∧ (∀ j < i, pc j ≠ pc i) ∧ s.fencedLocal (pc i, u8 b (34 + 4 * i)) = false)
            ∧ s.rangeOk p (u32 b 16) (u32 b 20) = true ∧ s.quotaTotal p + u32 b 4 ≤ 8388608)
          (fun t => s.answered t fn .ok [] ∧ t.keyDraws = s.keyDraws + 1 ∧ t.flight = s.flight ∧ t.streams = s.streams
            ∧ (∀ k, k ≠ p → t.part? k = s.part? k)
            ∧ (∃ P, t.part? p = some P ∧ P.live = createSettings b ∧ P.staged = P.live ∧ P.keys = s.keyDraws ∧ P.queues = [] ∧ P.pages = []
              ∧ tget P.ctxs 0 = some { cls := 0, ranges := [] } ∧ P.pool = none ∧ P.zeroing = none
              ∧ (∀ i < n, tget P.pcs (pc i) = some (u8 b (34 + 4 * i))) ∧ (∀ k, (tget P.pcs k).isSome = true → ∃ i < n, k = pc i))
            ∧ (∀ a, (∃ i < n, a / (16 * bankStride) = pc i) → t.dram.get a = 0 ∧ t.dram.poison.contains (a / 8) = false)
            ∧ (∀ a, (∀ i < n, a / (16 * bankStride) ≠ pc i) → t.dram.get a = s.dram.get a)
            ∧ (∀ a, a / 2 ^ 24 < 64 → bit (u64 b 8) (a / 2 ^ 24) = true → t.spad.get a = 0)
            ∧ (∀ a, a / 2 ^ 24 < 64 → bit (u64 b 8) (a / 2 ^ 24) = false → t.spad.get a = s.spad.get a)))
    ∧ (∀ i destroy, (i = .partDestroy fn ∧ destroy = true) ∨ (i = .partReset fn ∧ destroy = false) →
        (∀ e ∈ s.funcs, e.1 = fn → e.2.waitFor = none) →
        s.decides i fn True (destroy = true → tget s.link.decoders p = none) (fun t =>
          (t.func fn).busy = true ∧ (t.func fn).waitFor = some (.zeroing p)
          ∧ (∃ P, t.part? p = some P ∧ P.zeroing = some { destroy := destroy, mailbox := some fn } ∧ P.queues = [])
          ∧ (∀ id f, tget s.flight id = some f → f.p = p → tget t.flight id = none)
          ∧ (∀ st e, tget t.streams st = some e → e.partition ≠ p)
          ∧ t.ident = s.ident ∧ t.fuse = s.fuse ∧ t.power = s.power ∧ t.boot = s.boot))
    ∧ ∀ P, s.part? p = some P →
      s.decides (.partConfigWrite fn) fn
        (u8 b 0 = 1 ∧ u16 b 2 < 64 ∧ (fn = 0 ∨ u16 b 2 = 0 ∨ u16 b 2 = 16) ∧ (bit (u16 b 2) 1 = true → u32 b 16 < 2 ^ 20)
          ∧ (bit (u16 b 2) 2 = true → 1 ≤ u32 b 20 ∧ u32 b 20 ≤ 2 ^ 20) ∧ (bit (u16 b 2) 3 = true → u32 b 24 ≤ 8388608) ∧ u8 b 28 ≤ 3)
        (u16 b 2 % 16 = 0 ∨ fn ≠ 0 ∨ s.tdiLocked p = false)
        (fun t => let P' := { P with staged := P.staged.with b }
          s.answered t fn .ok P'.blocks ∧ t.part? p = some P' ∧ (∀ k, k ≠ p → t.part? k = s.part? k)
          ∧ t = { s with parts := t.parts, funcs := t.funcs, handed := t.handed, out := t.out })
      ∧ (let size := pageSize b
         let len := u32 b 4 * size
         let va := u64 b 8
         let fields := u8 b 1 ≤ 1 ∧ 1 ≤ u32 b 4 ∧ u32 b 4 ≤ 524288 ∧ va % size = 0
         s.decides (.partMap fn) fn (u8 b 0 = 0 ∧ fields ∧ u64 b 16 % size = 0)
           ((fn ≠ 0 ∨ s.tdiLocked p = false) ∧ va + len ≤ 2 ^ 40 ∧ u64 b 16 + len ≤ P.capacity
             ∧ ∀ g ∈ P.pages, overlaps va len g.va g.bytes = false ∧ overlaps (u64 b 16) len g.pa g.bytes = false)
           (fun t => ∃ P', t.part? p = some P' ∧ s.answered t fn .ok (P'.mapBody va)
             ∧ P' = { P with pages := P.pages ++ (List.range (u32 b 4)).map (fun i =>
                 { va := va + i * size, pa := u64 b 16 + i * size, big := decide (u8 b 1 = 1) }) }
             ∧ t = { s with parts := t.parts, funcs := t.funcs, handed := t.handed, out := t.out })
         ∧ s.decides (.partMapUnmap fn) fn (u8 b 0 = 1 ∧ fields)
           ((fn ≠ 0 ∨ s.tdiLocked p = false)
             ∧ ∀ g ∈ P.pages, overlaps va len g.va g.bytes = true → va ≤ g.va ∧ g.va + g.bytes ≤ va + len)
           (fun t => ∃ P', t.part? p = some P' ∧ s.answered t fn .ok (P'.mapBody va)
             ∧ (∀ g, g ∈ P'.pages ↔ g ∈ P.pages ∧ ¬(va ≤ g.va ∧ g.va + g.bytes ≤ va + len))
             ∧ P' = { P with pages := P'.pages }
             ∧ t = { s with parts := t.parts, funcs := t.funcs, handed := t.handed, out := t.out }))
      ∧ s.decides (.queueCreate fn) fn
        (u8 b 0 ≤ 63 ∧ u8 b 2 ≤ 63 ∧ 8 ≤ u8 b 3 ∧ u8 b 3 ≤ 16 ∧ 1 ≤ u16 b 4 ∧ u16 b 4 ≤ 127 ∧ 1 ≤ u16 b 6 ∧ u16 b 6 ≤ 1024
          ∧ u32 b 8 ≤ 10000 ∧ u64 b 16 % 8 = 0 ∧ u64 b 24 % 4096 = 0 ∧ u64 b 32 % 8 = 0)
        (tget P.queues (u8 b 0) = none ∧ (tget P.ctxs (u8 b 1)).isSome = true ∧ P.ownsCluster (u8 b 2) = true
          ∧ s.clusterFenced (u8 b 2) = false ∧ (P.queues.filter (fun e => decide (e.2.cluster = u8 b 2))).length < 32
          ∧ sumNat (s.parts.map (fun e => e.2.queues.length)) < 2048)
        (fun t => s.answered t fn .ok [] ∧ t.part? p = some { P with queues := tput P.queues (u8 b 0) (Queue.fresh b) }
          ∧ t = { s with parts := t.parts, funcs := t.funcs, handed := t.handed, out := t.out })
      ∧ s.decides (.ctxCreate fn) fn
        (u8 b 1 ≤ 7 ∧ u8 b 2 ≤ 16 ∧ ∀ i < u8 b 2, u32 b (8 + 8 * i) % 64 = 0 ∧ u32 b (12 + 8 * i) % 64 = 0)
        (tget P.ctxs (u8 b 0) = none ∧ ∀ r ∈ ctxRanges b, P.ownsRange r = true
          ∧ ∀ e ∈ P.ctxs, ∀ u ∈ e.2.ranges, overlaps r.1 r.2 u.1 u.2 = false)
        (fun t => s.answered t fn .ok []
          ∧ t.part? p = some { P with ctxs := tput P.ctxs (u8 b 0) { cls := u8 b 1, ranges := ctxRanges b } }
          ∧ t = { s with parts := t.parts, funcs := t.funcs, handed := t.handed, out := t.out })
      ∧ s.decides (.ctxTeardown fn) fn True ((tget P.ctxs (u8 b 0)).isSome = true) (fun t =>
          s.answered t fn .ok [] ∧ (t.func (p + 1)).event.getLsbD 1 = true
          ∧ (∃ P', t.part? p = some P' ∧ tget P'.ctxs (u8 b 0) = none ∧ ∀ q Q, tget P'.queues q = some Q → Q.ctx ≠ u8 b 0)
          ∧ (∀ id f, tget s.flight id = some f → f.p = p → f.ctx = u8 b 0 → tget t.flight id = none)
          ∧ (∀ C, tget P.ctxs (u8 b 0) = some C → ∀ r ∈ C.ranges, ∀ a, r.1 ≤ a → a < r.1 + r.2 → t.spad.get a = 0)
          ∧ t.ident = s.ident ∧ t.fuse = s.fuse ∧ t.boot = s.boot ∧ t.power = s.power)
      ∧ ((∀ e ∈ s.funcs, e.2.waitFor ≠ some (.queueDestroy p (u8 b 0))) →
        s.decides (.queueDestroy fn) fn (u8 b 0 ≤ 63) ((tget P.queues (u8 b 0)).isSome = true) (fun t =>
          ∀ Q, tget P.queues (u8 b 0) = some Q →
            (s.queueBusy p (u8 b 0) = false → Q.held = [] → s.answered t fn .ok [] ∧ t.queue? p (u8 b 0) = none)
            ∧ (s.queueBusy p (u8 b 0) = true ∨ Q.held ≠ [] → (t.func fn).busy = true ∧ (t.func fn).waitFor = some (.queueDestroy p (u8 b 0))
                ∧ ∃ Q', t.queue? p (u8 b 0) = some Q' ∧ Q'.destroying = true ∧ Q'.ahead = [] ∧ Q'.loops = [] ∧ Q'.waiting = none)
            ∧ t.flight = s.flight ∧ t.dram = s.dram))

/-- Pools, schedules and counters: stream.pool replaces the pool of a partition without live streams, whose prefix records go (R205, R230);
sched.load stages a table that keeps R274, R275 and R280 and disarms (the model's, log 28), sched.commit arms it or starts
it at once (R276, R279); perf.config sets control words (R400, R406), perf.sample starts, replaces and stops a sampler, a command tagged under it keeping its ring (R287, R407, R410; how enables are told apart is log 19's). Which device tables
leave a locked VF's share as it is is the model's reading of R341 (log 15). -/
def Obligations.StreamScheduleAndCounterMessagesAct : Prop :=
  ∀ (s : State) (fn : Nat), let b := s.msgBody fn
    let p := s.msgPartition fn
    let m : Msg := { fn := fn, p := p, body := b }
    (∀ P, s.part? p = some P → let o := poolOf b
      let bank := fun i => u16 b (48 + 4 * u16 b 42 + 2 * i)
      s.decides (.streamPool fn) fn
        (P.live.streamBase ≤ o.firstStream ∧ o.firstStream < P.live.streamBase + P.live.streamCount ∧ 1 ≤ o.streamCount
          ∧ o.firstStream + o.streamCount ≤ P.live.streamBase + P.live.streamCount ∧ o.base % 32 = 0 ∧ o.size % 32 = 0
          ∧ o.base + o.size ≤ bankBytes ∧ 1 ≤ o.maxBlocks ∧ o.maxBlocks ≤ 131072 ∧ o.sharedGroups ≤ P.live.prefixQuota
          ∧ o.metaVa % 4096 = 0 ∧ o.tokens ∈ [16, 32, 64, 128] ∧ 1 ≤ o.groups ∧ o.groups ≤ 16 ∧ 1 ≤ u16 b 42 ∧ u16 b 42 ≤ 256
          ∧ 1 ≤ u16 b 44 ∧ u16 b 44 ≤ 12288
          ∧ (∀ i < u16 b 42, bits (u32 b (48 + 4 * i)) 3 2 ≠ 3 ∧ u32 b (48 + 4 * i) < 64)
          ∧ (∀ i < u16 b 44, bank i < 2 ^ 14 ∧ P.localBank (bank i) = true ∧ s.cuffFenced (bank i) = false ∧ ∀ j < i, bank j ≠ bank i)
          ∧ o.lowWater ≤ o.slotsPerBank * o.banks.length)
        (s.metaOk p P o = true ∧ s.liveStreams p = [])
        (fun t => s.answered t fn .ok [] ∧ (∃ P', t.part? p = some P' ∧ P'.pool = some o ∧ P'.queues = P.queues ∧ P'.pages = P.pages)
          ∧ (∀ st e, tget t.streams st = some e → e.partition ≠ p) ∧ (∀ k e, tget t.prefixes k = some e → e.partition ≠ p)
          ∧ t.spad = s.spad ∧ t.fuse = s.fuse ∧ t.boot = s.boot))
    ∧ (∀ i o device, (i = .schedLoadPartition fn ∧ o = .partition p ∧ device = false) ∨ (i = .schedLoadDevice fn ∧ o = .device ∧ device = true) →
        s.linkGone = false →
        let head := s.hostBytes (hostKey fn (u64 b 0)) 64
        let tb := s.hostBytes (hostKey fn (u64 b 0)) (min (u32 b 8) (64 + slotBytes device * 64))
        let T := readTable device tb fn (u16 b 14) (u64 b 16)
        s.decides i fn
          (u32 b 8 = 64 + slotBytes device * tableSlots head ∧ u8 b 12 = b2n device ∧ (device = true → fn = 0)
            ∧ (u16 b 14 = 0xFFFF ∨ u16 b 14 < vectorsOf fn) ∧ u64 b 16 % 8 = 0)
          (s.tableOk device tb = true ∧ (device = true → s.sharesKept T = true))
          (fun t => ∀ c, s.schedule o = some c → s.answered t fn .ok [] ∧ t.schedule o = some { c with staged := some T, armed := false }
            ∧ t = { s with parts := t.parts, sched := t.sched, funcs := t.funcs, handed := t.handed, out := t.out }))
    ∧ (let o : Owner := if u8 b 0 = 1 then .device else .partition p
       s.decides (.schedCommit fn) fn (u8 b 0 ≤ 1 ∧ (u8 b 0 = 1 → fn = 0)) (∃ c T, s.schedule o = some c ∧ c.staged = some T)
        (fun t => s.answered t fn .ok [] ∧ t.flight = s.flight ∧ t.dram = s.dram ∧ ∀ c T, s.schedule o = some c → c.staged = some T →
          (c.live.isSome = true → t.schedule o = some { c with armed := true } ∧ t.hostMem = s.hostMem)
          ∧ (c.live = none → t.schedule o
              = some { live := some T, slot := 0, inGuard := false, cycles := 1, staged := none, armed := false })))
    ∧ (s.decides (.perfConfigWrite fn) fn (∀ f ∈ s.perfFields b, f.2 = true) (∀ e ∈ perfEntries b, s.perfMay m e.1 = true)
          (fun t => s.answered t fn .ok (t.perfBody b)
            ∧ (∀ sel w, perfEntries b = [(sel, w)] → ∃ c, tget t.perf.ctrs sel = some c ∧ c.event = bits w 7 0 ∧ c.enable = bit w 8
                ∧ c.filter = bits w 20 16 ∧ c.filterKind = bits w 22 21 ∧ (bit w 9 = true → c.count = 0 ∧ c.ovf = false))
            ∧ (∀ k, (∀ e ∈ perfEntries b, e.1 ≠ k) → tget t.perf.ctrs k = tget s.perf.ctrs k)
            ∧ t = { s with perf := { s.perf with ctrs := t.perf.ctrs }, funcs := t.funcs, handed := t.handed, out := t.out, free := t.free })
        ∧ s.decides (.perfSampleEnable fn) fn (∀ f ∈ sampleFields b ++ enableFields fn b, f.2 = true) (∀ c ∈ s.sampleConds m, c.2 = true)
          (fun t => s.answered t fn .ok (t.samplerBody (scopeOf m)) ∧ t.perf.samples = s.perf.samples ∧ t.perf.ctrs = s.perf.ctrs
            ∧ (∃ e, tget t.perf.samplers (scopeOf m) = some { Sampler.fresh fn b with epoch := e }
                ∧ ∀ x, tget s.perf.samplers (scopeOf m) = some x → e = x.epoch + 1)
            ∧ (∀ k, k ≠ scopeOf m → tget t.perf.samplers k = tget s.perf.samplers k)
            ∧ t = { s with perf := t.perf, funcs := t.funcs, handed := t.handed, out := t.out })
        ∧ s.decides (.perfSampleDisable fn) fn (∀ f ∈ sampleFields b, f.2 = true) (∀ c ∈ s.sampleConds m, c.2 = true)
          (fun t => s.answered t fn .ok (t.samplerBody (scopeOf m))
            ∧ (∀ x, tget s.perf.samplers (scopeOf m) = some x → x.enabled = true →
                (∃ x', tget t.perf.samplers (scopeOf m) = some x' ∧ x'.enabled = false ∧ x.written ≤ x'.written)
                ∧ (∀ y ∈ t.perf.samples, y ∈ s.perf.samples ∧ (y.scope = scopeOf m → y.finished = false))
                ∧ ∀ y ∈ s.perf.samples, y.finished = false → y ∈ t.perf.samples)
            ∧ t.dram = s.dram ∧ t.flight = s.flight ∧ t.parts = s.parts ∧ t.perf.ctrs = s.perf.ctrs))

/-- Power, topology, firmware, licences, attestation and the peer manifest: power.cap and power.state set what they name (R345, R353, R354); a cap
set under the brake applies after it (R350); accepted mismatches count at once (R382); fw.stage writes a verified image into the spare copy
and nothing else, fw.activate names a sound copy (R331 to R333); lic.install stores a signed blob and its new features are pending (R334, R335);
attest.spdm hands the request to the responder (R336); peer.topology replaces the manifest, with new groups PENDING and new links down
(R315 to R317, R327), and the topology is to be checked again (R383). Bulk messages whose link is gone end with HOST_ACCESS (R290, R311). The model's choices:
refusals within an image or a blob and the spare copy while the boot ROM serves (log 23), what a manifest keeps of ports, groups and numbers (log 33), the
SPDM layouts (log 42). -/
def Obligations.DeviceMessagesAct : Prop :=
  ∀ (s : State) (fn : Nat), let b := s.msgBody fn
    let bulk := fun n => s.hostBytes (hostKey fn (u64 b 0)) n
    s.decides (.powerCap fn) fn (700 ≤ u16 b 0 ∧ u16 b 0 ≤ 1800 ∧ u16 b 0 % 25 = 0) True (fun t =>
      s.answered t fn .ok (natLe 2 (u16 b 0) ++ natLe 2 (s.power.mean / watt)) ∧ t.power = { s.power with capW := u16 b 0 }
        ∧ t.governedCap = (if s.power.brake then 700 else u16 b 0)
        ∧ t = { s with power := t.power, funcs := t.funcs, handed := t.handed, out := t.out })
    ∧ s.decides (.powerStateSet fn) fn (u8 b 0 = 1 ∧ u8 b 1 ≤ 2 ∧ 100 ≤ u32 b 4 ∧ u32 b 4 ≤ 1000000) True (fun t =>
        s.answered t fn .ok t.powerBody ∧ t.power = { s.power with rest := PState.ofCode (u8 b 1), watchPeriod := u32 b 4 }
          ∧ t = { s with power := t.power, funcs := t.funcs, handed := t.handed, out := t.out })
    ∧ (fn ≠ 0 → s.decides (.devTopologyAccept fn) fn True False (fun _ => True))
    ∧ (fn = 0 → s.asks (.devTopologyAccept fn) → ∃ t, exec (.devTopologyAccept fn) s = .next t
        ∧ ((t.func fn).lastStatus = 0 →
            (∀ x ∈ s.boot.mismatches, x.acceptable = true → t.accepted x = true) ∧ t.flash.accepted.length ≤ 64
            ∧ t.boot.readiness = t.readinessOf t.boot.mismatches ∧ t.boot.mismatches = s.boot.mismatches
            ∧ t = { s with flash := { s.flash with accepted := t.flash.accepted }, boot := { s.boot with readiness := t.boot.readiness },
                           hostMem := t.hostMem, funcs := t.funcs, handed := t.handed, out := t.out })
        ∧ ((t.func fn).lastStatus ≠ 0 → s.onlyAnswer t fn)
        ∧ (s.flash.accepted.length + s.boot.mismatches.length ≤ 64 → (t.func fn).lastStatus = 0))
    ∧ (s.linkGone = true → ∀ i ∈ [Instr.schedLoadPartition fn, .schedLoadDevice fn, .fwStage { fn := fn }, .licInstall fn, .peerTopology fn],
        s.asks i → ∃ t, exec i s = .next t ∧ s.answered t fn .hostAccess [] ∧ s.onlyMail t)
    ∧ (s.linkGone = false →
        s.decides (.fwStage { fn := fn }) fn (u32 b 8 ≤ 122 * 2 ^ 20) ((s.judgeImages (bulk (u32 b 8))).1 ≠ .refused) (fun t =>
          let r := s.judgeImages (bulk (u32 b 8))
          (∀ c, r.2 = some c → s.answered t fn .ok [BitVec.ofNat 8 (slotCode s.spareSlot)] ∧ t.flash.copy s.spareSlot = some c
            ∧ t.flash.copy (!s.spareSlot) = s.flash.copy (!s.spareSlot) ∧ t.flash.active = s.flash.active
            ∧ t.flash.pendingActive ≠ some s.spareSlot ∧ t.flash.store = s.flash.store)
          ∧ (r.2 = none → s.answered t fn .signature [] ∧ t.flash = s.flash)
          ∧ t = { s with flash := t.flash, funcs := t.funcs, handed := t.handed, out := t.out })
        ∧ (s.asks (.fwStage { fn := fn, cut := true }) → u32 b 8 ≤ 122 * 2 ^ 20 → ∀ c, (s.judgeImages (bulk (u32 b 8))).2 = some c →
            ∃ t c', exec (.fwStage { fn := fn, cut := true }) s = .next t ∧ t.alive = false ∧ t.flash.copy s.spareSlot = some c' ∧ c'.sound = false
              ∧ t.flash.copy (!s.spareSlot) = s.flash.copy (!s.spareSlot) ∧ t.flash.active = s.flash.active ∧ t.flash.store = s.flash.store)
        ∧ (let x := bulk blobBytes
           let new : Byte := BitVec.ofNat 8 (u32 x 4) &&& ~~~s.installed
           (s.blobSigned x = false → u32 b 8 = blobBytes → s.asks (.licInstall fn) →
             ∃ t, exec (.licInstall fn) s = .next t ∧ s.answered t fn .signature [] ∧ s.onlyAnswer t fn)
           ∧ (s.blobSigned x = true → s.decides (.licInstall fn) fn (u32 b 8 = blobBytes)
               (blobLegal x = true ∧ s.canProvide (u32 x 4) = true ∧ (new = 0 ∨ s.flash.store.length < 16))
               (fun t => s.answered t fn .ok []
                 ∧ (new = 0 → s.onlyAnswer t fn)
                 ∧ (new ≠ 0 → t.flash = { s.flash with store := s.flash.store ++ [{ features := BitVec.ofNat 8 (u32 x 4), bytes := x }] }
                     ∧ t.boot = { s.boot with licPending := s.boot.licPending ||| new })
                 ∧ t = { s with flash := t.flash, boot := t.boot, funcs := t.funcs, handed := t.handed, out := t.out })))
        ∧ (let R := readManifest (bulk (min (u32 b 8) manifestMax))
           s.decides (.peerTopology fn) fn True
             (u32 b 8 ≤ manifestMax ∧ R.legal = true ∧ s.manifestOk R.manifest = true ∧ s.manifestBusy R.manifest = false)
             (fun t => s.answered t fn .ok [] ∧ t.peers.manifest = R.manifest ∧ t.peers.rechecks = s.peers.rechecks + 1
               ∧ (∀ n < 16, (bit R.manifest.loopback n = true → (t.port n).state = .loopback)
                   ∧ (bit R.manifest.loopback n = false → (∀ l ∈ R.manifest.links, l.port ≠ n) → (t.port n).state = .disabled)
                   ∧ (bit R.manifest.loopback n = false → (∃ l ∈ R.manifest.links, l.port = n) →
                       (s.peers.manifest.sameLink R.manifest n = false → (t.port n).state = .down ∧ (t.port n).unacked = [])
                       ∧ (s.peers.manifest.sameLink R.manifest n = true → t.port n = s.port n)))
               ∧ (∀ g ∈ R.manifest.groups, s.peers.manifest.group? g = none → t.group g.partition g.group = { state := .pending, opSeq := 0 })
               ∧ t.ident = s.ident ∧ t.fuse = s.fuse ∧ t.boot = s.boot ∧ (s.strandedBy R.manifest = [] → t.trust = s.trust))))
    ∧ s.decides (.fwActivate fn) fn (u8 b 0 ≤ 1) (∃ c, s.flash.copy (decide (u8 b 0 = 1)) = some c ∧ c.sound = true) (fun t =>
        s.answered t fn .ok []
          ∧ t.flash.pendingActive = (if decide (u8 b 0 = 1) = s.flash.active then none else some (decide (u8 b 0 = 1)))
          ∧ t = { s with flash := { s.flash with pendingActive := t.flash.pendingActive }, funcs := t.funcs, handed := t.handed, out := t.out })
    ∧ s.decides (.attestSpdm fn) fn True True (fun t => ∃ r, s.answered t fn .ok r
        ∧ tgetD t.trust.spdm (2 + fn) 0 = tgetD s.trust.spdm (2 + fn) 0 + 1
        ∧ t = { s with trust := { s.trust with spdm := t.trust.spdm, conns := t.trust.conns }, funcs := t.funcs, handed := t.handed, out := t.out })

/-- Tests, map-outs and repairs of pseudo-channels: a test starts on every one named or on none, runs to its end or is stopped, and a Cuff
that fails its self-test is fenced (R38 to R40, R72); a map-out takes an idle pseudo-channel off the device for good (R32, R33); a repair of a
pseudo-channel in maintenance goes into the fuse record and keeps the words of the array (R36, R37, R377). In WATCH and after a trip no test goes on
(R352, R364). What a stopped test has found is a free value (log 8); that a map-out drops the results of an earlier test and that a second map-out is refused
are the model's choices (log 47), and results asked of a pseudo-channel no test has run on log 23's. -/
def Obligations.MaintenanceMessagesAct : Prop :=
  ∀ (s : State) (fn : Nat), let b := s.msgBody fn
    let named := ∀ f ∈ s.pcFields b, f.2 = true
    let pc := u16 b 0
    (∀ i self, (i = .memTestTraffic fn ∧ self = false) ∨ (i = .memTestSelfTest fn ∧ self = true) →
      s.decides i fn
        (u8 b 0 = b2n self ∧ named
          ∧ (self = false → u8 b 1 ≤ 7 ∧ u8 b 2 ≤ 4 ∧ u8 b 3 ≤ 1 ∧ 1 ≤ u16 b 4 ∧ u16 b 6 ≠ 0))
        (∀ k ∈ testPcs b, s.testable k = true)
        (fun t => s.answered t fn .ok []
          ∧ (∀ k ∈ testPcs b, tget t.tests k = some (newTest b self) ∧ t.boot.tested.contains k = true)
          ∧ (∀ k, k ∉ testPcs b → tget t.tests k = tget s.tests k)
          ∧ (∀ a, a / (16 * bankStride) ∉ testPcs b → t.dram.get a = s.dram.get a)
          ∧ (∀ w, 8 * w / (16 * bankStride) ∈ testPcs b → t.dram.poison.contains w = false ∧ tgetD t.dram.errs w 0 = 0)
          ∧ t = { s with tests := t.tests, boot := { s.boot with tested := t.boot.tested }, dram := t.dram, unsettled := t.unsettled,
                         near := t.near, trust := { s.trust with pokes := t.trust.pokes }, funcs := t.funcs, handed := t.handed, out := t.out }))
    ∧ s.decides (.memTestStop fn) fn (u8 b 0 = 2 ∧ named) (∀ k ∈ testPcs b, s.lockedPc k = false) (fun t => s.answered t fn .ok []
        ∧ (∀ k ∈ testPcs b, ∀ T, tget s.tests k = some T → ∃ T', tget t.tests k = some T' ∧ T'.done = true ∧ (T.done = true → T' = T))
        ∧ (∀ k, k ∉ testPcs b → tget t.tests k = tget s.tests k) ∧ t.dram = s.dram ∧ t.parts = s.parts ∧ t.flight = s.flight)
    ∧ (s.stacksRun = false → ∀ k found, exec (.memTestEnd k found) s = .next s)
    ∧ (∀ k T found, s.stacksRun = true → tget s.tests k = some T → T.done = false →
        (∀ passes banks, found = .traffic passes banks → T.selfTest = false → ∃ t T', exec (.memTestEnd k found) s = .next t
          ∧ tget t.tests k = some T' ∧ T'.done = true ∧ T'.passesDone = min passes T.passes ∧ t = { s with tests := t.tests })
        ∧ (∀ steps, found = .selfTest steps → T.selfTest = true → ∃ t T', exec (.memTestEnd k found) s = .next t
          ∧ tget t.tests k = some T' ∧ T'.done = true ∧ T'.steps = (List.range 16).map (fun i => min ((steps[i]?).getD 0) 5)
          ∧ (∀ i < 16, (steps[i]?).getD 0 ≠ 0 → s.fuse.cuffFences.contains (k * 16 + i) = false → t.cuffFenced (k * 16 + i) = true)
          ∧ t.fuse.rowRepairs = s.fuse.rowRepairs ∧ t.dram = s.dram ∧ t.flight = s.flight))
    ∧ s.decides (.memMapout fn) fn (pc < 768 ∧ s.stackFitted (pc / 64) = true)
        (s.lockedPc pc = false ∧ s.parts = [] ∧ systemPc pc = false ∧ s.mappedOut pc = false ∧ s.underTest pc = false ∧ s.fuse.hasRoom = true
          ∧ (s.fuse.mapouts.filter (fun x => decide (x / 64 = pc / 64))).length < 2)
        (fun t => s.answered t fn .ok [] ∧ t.mappedOut pc = true ∧ tget t.boot.offline pc = none ∧ tget t.tests pc = none
          ∧ (∀ a, a / (16 * bankStride) = pc → t.dram.get a = 0) ∧ (∀ a, a / (16 * bankStride) ≠ pc → t.dram.get a = s.dram.get a)
          ∧ t.fuse = { s.fuse with mapouts := t.fuse.mapouts } ∧ t.spad = s.spad)
    ∧ ∀ i col, (i = .memRepairRow fn ∧ col = false) ∨ (i = .memRepairColumn fn ∧ col = true) →
        let c := repairOf b
        s.decides i fn
          (u8 b 0 = b2n col ∧ u8 b 1 ≤ 15 ∧ u16 b 2 < 768 ∧ s.stackFitted (u16 b 2 / 64) = true
            ∧ (col = false → u32 b 4 ≤ 40959) ∧ (col = true → u8 b 8 ≤ 39 ∧ u16 b 10 ≤ 255))
          (s.inMaintenance (u16 b 2) = true ∧ s.fuse.spareLeft c = true ∧ s.fuse.hasRoom = true)
          (fun t => (∃ body, s.answered t fn .ok body ∧ body.length = 2)
            ∧ (col = true → t.fuse = { s.fuse with columnRepairs := s.fuse.columnRepairs
                ++ [{ bank := c.bank, unit := c.unit, spare := s.fuse.sparesUsed c }] })
            ∧ (col = false → t.fuse = { s.fuse with rowRepairs := s.fuse.rowRepairs
                ++ [{ bank := c.bank, unit := c.unit, spare := s.fuse.sparesUsed c }] })
            ∧ t.dram.cells = s.dram.cells ∧ t.spad = s.spad
            ∧ (∀ w, c.holds w = true → s.dram.poison.contains w = false → tget t.dram.errs w = none))
end

