-- ==== Sys2Proof/Laws/Memory.lean ====
section
/-! SUPPORT. Memory.lean: every operation on an array keeps its canonical form; a read after a write gives what was written, and
every other byte is as it was. -/

namespace Sys2Proof.Machine

/-! ### Bytes -/

theorem cellsAbove_mono {lo hi : Nat} (le : lo ≤ hi) {c : List Host.Cell} (h : cellsAbove hi c = true) :
    cellsAbove lo c = true := by
  cases c with
  | nil => rfl
  | cons e t =>
    simp only [cellsAbove, Bool.and_eq_true, decide_eq_true_eq] at h ⊢
    exact ⟨⟨by omega, h.1.2⟩, h.2⟩

/-- Every address listed lies at or above the bound. -/
theorem cellsAbove_le {lo : Nat} {c : List Host.Cell} (h : cellsAbove lo c = true) : ∀ e ∈ c, lo ≤ e.1 := by
  induction c generalizing lo with
  | nil => simp
  | cons e t ih =>
    simp only [cellsAbove, Bool.and_eq_true, decide_eq_true_eq] at h
    intro x hx
    cases List.mem_cons.mp hx with
    | inl hx => subst hx; exact h.1.1
    | inr hx => have := ih h.2 x hx; omega

theorem cellsAbove_filter {lo : Nat} {c : List Host.Cell} (f : Host.Cell → Bool) (h : cellsAbove lo c = true) :
    cellsAbove lo (c.filter f) = true := by
  induction c generalizing lo with
  | nil => rfl
  | cons e t ih =>
    simp only [cellsAbove, Bool.and_eq_true, decide_eq_true_eq] at h
    have tail := ih h.2
    by_cases hf : f e = true
    · rw [List.filter_cons_of_pos hf]
      simp only [cellsAbove, Bool.and_eq_true, decide_eq_true_eq]
      exact ⟨h.1, tail⟩
    · rw [List.filter_cons_of_neg hf]
      exact cellsAbove_mono (by omega) tail

theorem cellsAbove_clist (a : Nat) (b : Bytes) : cellsAbove a (clist a b) = true := by
  induction b generalizing a with
  | nil => rfl
  | cons x t ih =>
    by_cases hx : x = 0
    · simp only [clist, hx, if_true]; exact cellsAbove_mono (by omega) (ih (a + 1))
    · simp only [clist, hx, if_false, cellsAbove, Bool.and_eq_true, decide_eq_true_eq]
      exact ⟨⟨Nat.le_refl a, hx⟩, ih (a + 1)⟩

theorem clist_below {a : Nat} {b : Bytes} : ∀ e ∈ clist a b, e.1 < a + b.length := by
  induction b generalizing a with
  | nil => simp [clist]
  | cons x t ih =>
    intro e he
    by_cases hx : x = 0
    · simp only [clist, hx, if_true] at he
      have := ih e he
      simp only [List.length_cons]; omega
    · simp only [clist, hx, if_false, List.mem_cons] at he
      cases he with
      | inl h => subst h; simp
      | inr h => have := ih e h; simp only [List.length_cons]; omega

/-- Two canonical lists, the first one's addresses below the second's bound. -/
theorem cellsAbove_append {lo mid : Nat} {c d : List Host.Cell} (hc : cellsAbove lo c = true) (hd : cellsAbove mid d = true)
    (below : ∀ e ∈ c, e.1 < mid) (le : lo ≤ mid) : cellsAbove lo (c ++ d) = true := by
  induction c generalizing lo with
  | nil => exact cellsAbove_mono le hd
  | cons e t ih =>
    simp only [cellsAbove, Bool.and_eq_true, decide_eq_true_eq] at hc
    have he := below e (by simp)
    simp only [List.cons_append, cellsAbove, Bool.and_eq_true, decide_eq_true_eq]
    exact ⟨hc.1, ih hc.2 (fun x hx => below x (by simp [hx])) (by omega)⟩

theorem cellsAbove_from {lo : Nat} {c : List Host.Cell} (h : cellsAbove lo c = true) (hi : Nat) :
    cellsAbove hi (c.filter (fun e => decide (hi ≤ e.1))) = true := by
  induction c generalizing lo with
  | nil => rfl
  | cons e t ih =>
    simp only [cellsAbove, Bool.and_eq_true, decide_eq_true_eq] at h
    by_cases hf : hi ≤ e.1
    · simp only [List.filter_cons, hf, decide_true, if_true, cellsAbove, Bool.and_eq_true, decide_eq_true_eq, true_and]
      exact ⟨h.1.2, cellsAbove_filter _ h.2⟩
    · rw [List.filter_cons_of_neg (by simpa using hf)]; exact ih h.2

theorem cellsWf_cwrite {c : List Host.Cell} (a : Nat) (b : Bytes) (h : cellsWf c = true) : cellsWf (cwrite c a b) = true := by
  unfold cwrite cellsWf at *
  refine cellsAbove_append (mid := a + b.length) ?_ (cellsAbove_from h _) ?_ (by omega)
  · exact cellsAbove_append (mid := a) (cellsAbove_filter _ h) (cellsAbove_clist a b) (by simp) (by omega)
  · intro e he
    cases List.mem_append.mp he with
    | inl he => have := (List.mem_filter.mp he).2; simp only [decide_eq_true_eq] at this; omega
    | inr he => exact clist_below e he

theorem cellsWf_cclear {c : List Host.Cell} (lo len : Nat) (h : cellsWf c = true) : cellsWf (cclear c lo len) = true :=
  cellsAbove_filter _ h

/-! ### Word lists -/

theorem risingFrom_mono {lo hi : Nat} (le : lo ≤ hi) {l : List Nat} (h : risingFrom hi l = true) : risingFrom lo l = true := by
  cases l with
  | nil => rfl
  | cons a t =>
    simp only [risingFrom, Bool.and_eq_true, decide_eq_true_eq] at h ⊢
    exact ⟨by omega, h.2⟩

theorem risingFrom_filter {lo : Nat} {l : List Nat} (f : Nat → Bool) (h : risingFrom lo l = true) :
    risingFrom lo (l.filter f) = true := by
  induction l generalizing lo with
  | nil => rfl
  | cons a t ih =>
    simp only [risingFrom, Bool.and_eq_true, decide_eq_true_eq] at h
    by_cases hf : f a = true
    · simp [hf, risingFrom, h.1, ih h.2]
    · rw [List.filter_cons_of_neg hf]; exact risingFrom_mono (by omega) (ih h.2)

theorem risingFrom_addNat {lo : Nat} {l : List Nat} (w : Nat) (le : lo ≤ w) (h : risingFrom lo l = true) :
    risingFrom lo (addNat l w) = true := by
  induction l generalizing lo with
  | nil => simp [addNat, risingFrom, le]
  | cons b t ih =>
    simp only [risingFrom, Bool.and_eq_true, decide_eq_true_eq] at h
    simp only [addNat]
    split
    · rename_i hlt; simp only [risingFrom, Bool.and_eq_true, decide_eq_true_eq]; exact ⟨le, by omega, h.2⟩
    · split
      · simp [risingFrom, h.1, h.2]
      · simp only [risingFrom, Bool.and_eq_true, decide_eq_true_eq]; exact ⟨h.1, ih (by omega) h.2⟩

theorem risingKeys_filter {α : Type} {lo : Nat} {t : Tab α} (f : Nat × α → Bool) (h : risingFrom lo (t.map Prod.fst) = true) :
    risingFrom lo ((t.filter f).map Prod.fst) = true := by
  induction t generalizing lo with
  | nil => rfl
  | cons e t ih =>
    simp only [List.map_cons, risingFrom, Bool.and_eq_true, decide_eq_true_eq] at h
    by_cases hf : f e = true
    · simp [hf, risingFrom, h.1, ih h.2]
    · rw [List.filter_cons_of_neg hf]; exact risingFrom_mono (by omega) (ih h.2)

theorem risingKeys_tput {α : Type} {lo : Nat} {t : Tab α} (i : Nat) (x : α) (le : lo ≤ i)
    (h : risingFrom lo (t.map Prod.fst) = true) : risingFrom lo ((tput t i x).map Prod.fst) = true := by
  induction t generalizing lo with
  | nil => simp [tput, risingFrom, le]
  | cons e t ih =>
    simp only [List.map_cons, risingFrom, Bool.and_eq_true, decide_eq_true_eq] at h
    obtain ⟨k, v⟩ := e
    simp only [tput]
    split
    · rename_i hlt; simp only [List.map_cons, risingFrom, Bool.and_eq_true, decide_eq_true_eq]; exact ⟨le, by omega, h.2⟩
    · split
      · rename_i _ hk; subst hk; simp [risingFrom, h.1, h.2]
      · simp only [List.map_cons, risingFrom, Bool.and_eq_true, decide_eq_true_eq]
        exact ⟨h.1, ih (by simp at *; omega) h.2⟩

/-! ### Arrays -/

/-- The second array is canonical if the first one is. -/
def Mem.keeps (m n : Mem) : Prop := m.wf = true → n.wf = true

@[simp] theorem Mem.keeps_self (m : Mem) : m.keeps m := id

@[simp] theorem Mem.keeps_empty (m : Mem) : m.keeps Mem.empty := fun _ => rfl

theorem Mem.wf_iff (m : Mem) : m.wf = true ↔ cellsWf m.cells = true ∧ risingFrom 0 m.poison = true
    ∧ risingFrom 0 (m.errs.map Prod.fst) = true := by
  simp [Mem.wf, and_assoc]

@[simp] theorem Mem.keeps_poisonWord {m n : Mem} (w : Nat) (h : m.keeps n) : m.keeps (n.poisonWord w) := fun hm => by
  have k := (Mem.wf_iff n).mp (h hm)
  exact (Mem.wf_iff _).mpr ⟨k.1, risingFrom_addNat w (by omega) k.2.1, risingKeys_filter _ k.2.2⟩

@[simp] theorem Mem.keeps_cleanWord {m n : Mem} (w : Nat) (h : m.keeps n) : m.keeps (n.cleanWord w) := fun hm => by
  have k := (Mem.wf_iff n).mp (h hm)
  exact (Mem.wf_iff _).mpr ⟨k.1, risingFrom_filter _ k.2.1, risingKeys_filter _ k.2.2⟩

@[simp] theorem Mem.keeps_unpoison {m n : Mem} (f : Nat → Bool) (h : m.keeps n) : m.keeps (n.unpoison f) := fun hm => by
  have k := (Mem.wf_iff n).mp (h hm)
  exact (Mem.wf_iff _).mpr ⟨k.1, risingFrom_filter _ k.2.1, k.2.2⟩

@[simp] theorem Mem.keeps_setErrs {m n : Mem} (w e : Nat) (h : m.keeps n) : m.keeps (n.setErrs w e) := fun hm => by
  have k := (Mem.wf_iff n).mp (h hm)
  refine (Mem.wf_iff _).mpr ⟨k.1, k.2.1, ?_⟩
  unfold Mem.setErrs
  split
  · exact risingKeys_filter _ k.2.2
  · exact risingKeys_tput w e (by omega) k.2.2

theorem Mem.keeps_foldl {α : Type} {m n : Mem} (l : List α) (f : Mem → α → Mem) (hf : ∀ (k : Mem) (x : α), k.keeps (f k x))
    (h : m.keeps n) : m.keeps (l.foldl f n) := by
  induction l generalizing n with
  | nil => exact h
  | cons x t ih => exact ih (fun hm => hf n x (h hm))

@[simp] theorem Mem.keeps_poisonWords {m n : Mem} (l : List Nat) (h : m.keeps n) : m.keeps (l.foldl Mem.poisonWord n) :=
  Mem.keeps_foldl l _ (fun k w => k.keeps_poisonWord w k.keeps_self) h

@[simp] theorem Mem.keeps_settleWords {m n : Mem} (a len : Nat) (h : m.keeps n) : m.keeps (n.settleWords a len) :=
  Mem.keeps_foldl _ _ (fun k w => by split <;> (try split) <;> simp) h

@[simp] theorem Mem.keeps_write {m n : Mem} (a : Nat) (b : Bytes) (h : m.keeps n) : m.keeps (n.write a b) := fun hm => by
  have k := (Mem.wf_iff n).mp (h hm)
  refine Mem.keeps_settleWords a b.length (Mem.keeps_self _) ?_
  exact (Mem.wf_iff _).mpr ⟨cellsWf_cwrite a b k.1, k.2⟩

/-- Bytes set without their check bits. -/
@[simp] theorem Mem.keeps_cells {m n : Mem} (a : Nat) (b : Bytes) (h : m.keeps n) :
    m.keeps { n with cells := cwrite n.cells a b } := fun hm => by
  have k := (Mem.wf_iff n).mp (h hm)
  exact (Mem.wf_iff _).mpr ⟨cellsWf_cwrite a b k.1, k.2⟩

@[simp] theorem Mem.keeps_clear {m n : Mem} (lo len : Nat) (h : m.keeps n) : m.keeps (n.clear lo len) := fun hm => by
  have k := (Mem.wf_iff n).mp (h hm)
  exact (Mem.wf_iff _).mpr ⟨cellsWf_cclear lo len k.1, risingFrom_filter _ k.2.1, risingKeys_filter _ k.2.2⟩

/-! ### Reading after writing -/

theorem cget_append (c d : List Host.Cell) (x : Nat) :
    cget (c ++ d) x = if c.any (fun e => decide (e.1 = x)) then cget c x else cget d x := by
  induction c with
  | nil => simp
  | cons e t ih =>
    obtain ⟨k, v⟩ := e
    by_cases h : x = k
    · simp [cget, h]
    · have : k ≠ x := fun h' => h h'.symm
      simp [cget, h, this, ih]

theorem cget_absent {c : List Host.Cell} {x : Nat} (h : ∀ e ∈ c, e.1 ≠ x) : cget c x = 0 := by
  induction c with
  | nil => rfl
  | cons e t ih =>
    obtain ⟨k, v⟩ := e
    have hk := h (k, v) (by simp)
    rw [cget, if_neg (fun h' => hk h'.symm)]
    exact ih (fun e he => h e (by simp [he]))

theorem cget_filter {c : List Host.Cell} {x : Nat} (f : Host.Cell → Bool) (h : ∀ e ∈ c, e.1 = x → f e = true) :
    cget (c.filter f) x = cget c x := by
  induction c with
  | nil => rfl
  | cons e t ih =>
    obtain ⟨k, v⟩ := e
    have tail := ih (fun e he => h e (by simp [he]))
    by_cases hx : x = k
    · have := h (k, v) (by simp) hx.symm
      simp [this, cget, hx]
    · by_cases hf : f (k, v) = true
      · simp [hf, cget, hx, tail]
      · rw [List.filter_cons_of_neg hf, tail]; simp [cget, hx]

theorem cget_clist {a x : Nat} {b : Bytes} : cget (clist a b) x = if a ≤ x then (b[x - a]?).getD 0 else 0 := by
  induction b generalizing a with
  | nil => simp [clist, cget]
  | cons y t ih =>
    have step : cget (clist a (y :: t)) x = if x = a then y else cget (clist (a + 1) t) x := by
      by_cases hy : y = 0
      · simp only [clist, hy, if_true]
        by_cases hx : x = a
        · rw [if_pos hx, ih, if_neg (by omega)]
        · rw [if_neg hx]
      · simp only [clist, hy, if_false, cget]
    rw [step, ih]
    by_cases hx : x = a
    · simp [hx]
    · by_cases hle : a ≤ x
      · have h1 : a + 1 ≤ x := by omega
        have h2 : x - a = (x - (a + 1)) + 1 := by omega
        simp [hx, hle, h1, h2]
      · have h1 : ¬ a + 1 ≤ x := by omega
        simp [hx, hle, h1]

/-- A byte of what was written reads as written. -/
theorem cget_cwrite {c : List Host.Cell} {a x : Nat} {b : Bytes} :
    cget (cwrite c a b) x = if a ≤ x ∧ x < a + b.length then (b[x - a]?).getD 0 else cget c x := by
  unfold cwrite
  rw [cget_append, cget_append]
  by_cases hlo : x < a
  · have h2 : ∀ e ∈ clist a b, e.1 ≠ x := fun e he => by
      have := cellsAbove_le (cellsAbove_clist a b) e he; omega
    have h3 : ∀ e ∈ c.filter (fun e => decide (a + b.length ≤ e.1)), e.1 ≠ x := fun e he => by
      have := (List.mem_filter.mp he).2; simp only [decide_eq_true_eq] at this; omega
    have f1 : cget (c.filter (fun e => decide (e.1 < a))) x = cget c x :=
      cget_filter _ (fun e _ hx => by simp [hx, hlo])
    rw [if_neg (by omega : ¬ (a ≤ x ∧ x < a + b.length)), cget_absent h2, cget_absent h3, f1]
    split
    · split
      · rfl
      · rename_i h h'
        simp only [List.any_append, Bool.or_eq_true] at h h'
        exfalso
        cases h with
        | inl h => exact h' h
        | inr h =>
          obtain ⟨e, he, hx⟩ := List.any_eq_true.mp h
          exact h2 e he (by simpa using hx)
    · rename_i h
      simp only [List.any_append, Bool.or_eq_true, not_or] at h
      rw [← f1]
      refine (cget_absent (fun e he hx => h.1 (List.any_eq_true.mpr ⟨e, he, by simpa using hx⟩))).symm
  · have h1 : ∀ e ∈ c.filter (fun e => decide (e.1 < a)), e.1 ≠ x := fun e he => by
      have := (List.mem_filter.mp he).2; simp only [decide_eq_true_eq] at this; omega
    have n1 : (c.filter (fun e => decide (e.1 < a))).any (fun e => decide (e.1 = x)) = false :=
      List.any_eq_false.mpr (fun e he => by simpa using h1 e he)
    simp only [List.any_append, n1, Bool.false_or, Bool.false_eq_true, if_false, cget_clist]
    by_cases hhi : x < a + b.length
    · have h3 : ∀ e ∈ c.filter (fun e => decide (a + b.length ≤ e.1)), e.1 ≠ x := fun e he => by
        have := (List.mem_filter.mp he).2; simp only [decide_eq_true_eq] at this; omega
      rw [cget_absent h3, if_pos (by omega : a ≤ x), if_pos (⟨by omega, hhi⟩ : a ≤ x ∧ x < a + b.length)]
      split
      · rfl
      · rename_i h
        have hz : cget (clist a b) x = 0 :=
          cget_absent (fun e he hx => h (List.any_eq_true.mpr ⟨e, he, by simpa using hx⟩))
        rw [cget_clist, if_pos (by omega : a ≤ x)] at hz
        exact hz.symm
    · have h2 : (clist a b).any (fun e => decide (e.1 = x)) = false :=
        List.any_eq_false.mpr (fun e he => by have := clist_below e he; simp; omega)
      rw [h2, if_neg (by omega : ¬ (a ≤ x ∧ x < a + b.length))]
      simp only [Bool.false_eq_true, if_false]
      exact cget_filter _ (fun e _ hx => by simp [hx]; omega)

theorem Mem.settleWords_cells (m : Mem) (a n : Nat) : (m.settleWords a n).cells = m.cells := by
  unfold Mem.settleWords
  generalize wordsOf a n = l
  induction l generalizing m with
  | nil => rfl
  | cons w t ih =>
    rw [List.foldl_cons, ih]
    split <;> (try split) <;> rfl

/-- A byte inside the written stretch reads as written, every other as before. -/
theorem Mem.get_write (m : Mem) (a : Nat) (b : Bytes) (x : Nat) :
    (m.write a b).get x = if a ≤ x ∧ x < a + b.length then (b[x - a]?).getD 0 else m.get x := by
  unfold Mem.write Mem.get
  rw [Mem.settleWords_cells]
  exact cget_cwrite

/-- Marks of poison leave the contents alone. -/
@[simp] theorem Mem.get_unpoison (m : Mem) (f : Nat → Bool) (x : Nat) : (m.unpoison f).get x = m.get x := rfl

/-- A poisoned word reads as it did. -/
@[simp] theorem Mem.get_poisonWord (m : Mem) (w x : Nat) : (m.poisonWord w).get x = m.get x := rfl

/-- A cleared range reads as zero, every other byte as before. -/
theorem Mem.get_clear (m : Mem) (lo len x : Nat) : (m.clear lo len).get x = if lo ≤ x ∧ x < lo + len then 0 else m.get x := by
  unfold Mem.clear Mem.get cclear
  split
  · rename_i h
    refine cget_absent (fun e he hx => ?_)
    have := (List.mem_filter.mp he).2
    simp [hx, h.1, h.2] at this
  · rename_i h
    refine cget_filter _ (fun e _ hx => ?_)
    simp only [Bool.not_eq_true', Bool.and_eq_false_iff, decide_eq_false_iff_not]
    rw [hx]; omega

end Sys2Proof.Machine
end

