-- ==== Sys2Proof/Laws/State.lean ====
section
/-! SUPPORT. State.lean: what each plain update of the state leaves in each field; all true by unfolding, so that no proof
unfolds a record update. -/

namespace Sys2Proof.Machine

/-! ### setPart -/

@[simp] theorem State.ident_setPart (s : State) (p : Nat) (P : Partition) : (s.setPart p P).ident = s.ident := rfl
@[simp] theorem State.fuse_setPart (s : State) (p : Nat) (P : Partition) : (s.setPart p P).fuse = s.fuse := rfl
@[simp] theorem State.flash_setPart (s : State) (p : Nat) (P : Partition) : (s.setPart p P).flash = s.flash := rfl
@[simp] theorem State.boot_setPart (s : State) (p : Nat) (P : Partition) : (s.setPart p P).boot = s.boot := rfl
@[simp] theorem State.cross_setPart (s : State) (p : Nat) (P : Partition) : (s.setPart p P).cross = s.cross := rfl
@[simp] theorem State.timer_setPart (s : State) (p : Nat) (P : Partition) : (s.setPart p P).timer = s.timer := rfl
@[simp] theorem State.cycles_setPart (s : State) (p : Nat) (P : Partition) : (s.setPart p P).cycles = s.cycles := rfl
@[simp] theorem State.dram_setPart (s : State) (p : Nat) (P : Partition) : (s.setPart p P).dram = s.dram := rfl
@[simp] theorem State.spad_setPart (s : State) (p : Nat) (P : Partition) : (s.setPart p P).spad = s.spad := rfl
@[simp] theorem State.hostMem_setPart (s : State) (p : Nat) (P : Partition) : (s.setPart p P).hostMem = s.hostMem := rfl
@[simp] theorem State.caches_setPart (s : State) (p : Nat) (P : Partition) : (s.setPart p P).caches = s.caches := rfl
@[simp] theorem State.unsettled_setPart (s : State) (p : Nat) (P : Partition) :
    (s.setPart p P).unsettled = s.unsettled := rfl
@[simp] theorem State.parts_setPart (s : State) (p : Nat) (P : Partition) :
    (s.setPart p P).parts = tput s.parts p P := rfl
@[simp] theorem State.streams_setPart (s : State) (p : Nat) (P : Partition) : (s.setPart p P).streams = s.streams := rfl
@[simp] theorem State.prefixes_setPart (s : State) (p : Nat) (P : Partition) :
    (s.setPart p P).prefixes = s.prefixes := rfl
@[simp] theorem State.flight_setPart (s : State) (p : Nat) (P : Partition) : (s.setPart p P).flight = s.flight := rfl
@[simp] theorem State.nextId_setPart (s : State) (p : Nat) (P : Partition) : (s.setPart p P).nextId = s.nextId := rfl
@[simp] theorem State.sigs_setPart (s : State) (p : Nat) (P : Partition) : (s.setPart p P).sigs = s.sigs := rfl
@[simp] theorem State.near_setPart (s : State) (p : Nat) (P : Partition) : (s.setPart p P).near = s.near := rfl
@[simp] theorem State.keyDraws_setPart (s : State) (p : Nat) (P : Partition) :
    (s.setPart p P).keyDraws = s.keyDraws := rfl
@[simp] theorem State.funcs_setPart (s : State) (p : Nat) (P : Partition) : (s.setPart p P).funcs = s.funcs := rfl
@[simp] theorem State.handed_setPart (s : State) (p : Nat) (P : Partition) : (s.setPart p P).handed = s.handed := rfl
@[simp] theorem State.log_setPart (s : State) (p : Nat) (P : Partition) : (s.setPart p P).log = s.log := rfl
@[simp] theorem State.link_setPart (s : State) (p : Nat) (P : Partition) : (s.setPart p P).link = s.link := rfl
@[simp] theorem State.trust_setPart (s : State) (p : Nat) (P : Partition) : (s.setPart p P).trust = s.trust := rfl
@[simp] theorem State.peers_setPart (s : State) (p : Nat) (P : Partition) : (s.setPart p P).peers = s.peers := rfl
@[simp] theorem State.power_setPart (s : State) (p : Nat) (P : Partition) : (s.setPart p P).power = s.power := rfl
@[simp] theorem State.thermal_setPart (s : State) (p : Nat) (P : Partition) : (s.setPart p P).thermal = s.thermal := rfl
@[simp] theorem State.tests_setPart (s : State) (p : Nat) (P : Partition) : (s.setPart p P).tests = s.tests := rfl
@[simp] theorem State.rowHits_setPart (s : State) (p : Nat) (P : Partition) : (s.setPart p P).rowHits = s.rowHits := rfl
@[simp] theorem State.sched_setPart (s : State) (p : Nat) (P : Partition) : (s.setPart p P).sched = s.sched := rfl
@[simp] theorem State.perf_setPart (s : State) (p : Nat) (P : Partition) : (s.setPart p P).perf = s.perf := rfl
@[simp] theorem State.out_setPart (s : State) (p : Nat) (P : Partition) : (s.setPart p P).out = s.out := rfl
@[simp] theorem State.free_setPart (s : State) (p : Nat) (P : Partition) : (s.setPart p P).free = s.free := rfl
@[simp] theorem State.pending_setPart (s : State) (p : Nat) (P : Partition) : (s.setPart p P).pending = s.pending := rfl

/-! ### updPart -/

@[simp] theorem State.ident_updPart (s : State) (p : Nat) (f : Partition → Partition) :
    (s.updPart p f).ident = s.ident := rfl
@[simp] theorem State.fuse_updPart (s : State) (p : Nat) (f : Partition → Partition) :
    (s.updPart p f).fuse = s.fuse := rfl
@[simp] theorem State.flash_updPart (s : State) (p : Nat) (f : Partition → Partition) :
    (s.updPart p f).flash = s.flash := rfl
@[simp] theorem State.boot_updPart (s : State) (p : Nat) (f : Partition → Partition) :
    (s.updPart p f).boot = s.boot := rfl
@[simp] theorem State.cross_updPart (s : State) (p : Nat) (f : Partition → Partition) :
    (s.updPart p f).cross = s.cross := rfl
@[simp] theorem State.timer_updPart (s : State) (p : Nat) (f : Partition → Partition) :
    (s.updPart p f).timer = s.timer := rfl
@[simp] theorem State.cycles_updPart (s : State) (p : Nat) (f : Partition → Partition) :
    (s.updPart p f).cycles = s.cycles := rfl
@[simp] theorem State.dram_updPart (s : State) (p : Nat) (f : Partition → Partition) :
    (s.updPart p f).dram = s.dram := rfl
@[simp] theorem State.spad_updPart (s : State) (p : Nat) (f : Partition → Partition) :
    (s.updPart p f).spad = s.spad := rfl
@[simp] theorem State.hostMem_updPart (s : State) (p : Nat) (f : Partition → Partition) :
    (s.updPart p f).hostMem = s.hostMem := rfl
@[simp] theorem State.caches_updPart (s : State) (p : Nat) (f : Partition → Partition) :
    (s.updPart p f).caches = s.caches := rfl
@[simp] theorem State.unsettled_updPart (s : State) (p : Nat) (f : Partition → Partition) :
    (s.updPart p f).unsettled = s.unsettled := rfl
@[simp] theorem State.parts_updPart (s : State) (p : Nat) (f : Partition → Partition) :
    (s.updPart p f).parts = tupd s.parts p f := rfl
@[simp] theorem State.streams_updPart (s : State) (p : Nat) (f : Partition → Partition) :
    (s.updPart p f).streams = s.streams := rfl
@[simp] theorem State.prefixes_updPart (s : State) (p : Nat) (f : Partition → Partition) :
    (s.updPart p f).prefixes = s.prefixes := rfl
@[simp] theorem State.flight_updPart (s : State) (p : Nat) (f : Partition → Partition) :
    (s.updPart p f).flight = s.flight := rfl
@[simp] theorem State.nextId_updPart (s : State) (p : Nat) (f : Partition → Partition) :
    (s.updPart p f).nextId = s.nextId := rfl
@[simp] theorem State.sigs_updPart (s : State) (p : Nat) (f : Partition → Partition) :
    (s.updPart p f).sigs = s.sigs := rfl
@[simp] theorem State.near_updPart (s : State) (p : Nat) (f : Partition → Partition) :
    (s.updPart p f).near = s.near := rfl
@[simp] theorem State.keyDraws_updPart (s : State) (p : Nat) (f : Partition → Partition) :
    (s.updPart p f).keyDraws = s.keyDraws := rfl
@[simp] theorem State.funcs_updPart (s : State) (p : Nat) (f : Partition → Partition) :
    (s.updPart p f).funcs = s.funcs := rfl
@[simp] theorem State.handed_updPart (s : State) (p : Nat) (f : Partition → Partition) :
    (s.updPart p f).handed = s.handed := rfl
@[simp] theorem State.log_updPart (s : State) (p : Nat) (f : Partition → Partition) : (s.updPart p f).log = s.log := rfl
@[simp] theorem State.link_updPart (s : State) (p : Nat) (f : Partition → Partition) :
    (s.updPart p f).link = s.link := rfl
@[simp] theorem State.trust_updPart (s : State) (p : Nat) (f : Partition → Partition) :
    (s.updPart p f).trust = s.trust := rfl
@[simp] theorem State.peers_updPart (s : State) (p : Nat) (f : Partition → Partition) :
    (s.updPart p f).peers = s.peers := rfl
@[simp] theorem State.power_updPart (s : State) (p : Nat) (f : Partition → Partition) :
    (s.updPart p f).power = s.power := rfl
@[simp] theorem State.thermal_updPart (s : State) (p : Nat) (f : Partition → Partition) :
    (s.updPart p f).thermal = s.thermal := rfl
@[simp] theorem State.tests_updPart (s : State) (p : Nat) (f : Partition → Partition) :
    (s.updPart p f).tests = s.tests := rfl
@[simp] theorem State.rowHits_updPart (s : State) (p : Nat) (f : Partition → Partition) :
    (s.updPart p f).rowHits = s.rowHits := rfl
@[simp] theorem State.sched_updPart (s : State) (p : Nat) (f : Partition → Partition) :
    (s.updPart p f).sched = s.sched := rfl
@[simp] theorem State.perf_updPart (s : State) (p : Nat) (f : Partition → Partition) :
    (s.updPart p f).perf = s.perf := rfl
@[simp] theorem State.out_updPart (s : State) (p : Nat) (f : Partition → Partition) : (s.updPart p f).out = s.out := rfl
@[simp] theorem State.free_updPart (s : State) (p : Nat) (f : Partition → Partition) :
    (s.updPart p f).free = s.free := rfl
@[simp] theorem State.pending_updPart (s : State) (p : Nat) (f : Partition → Partition) :
    (s.updPart p f).pending = s.pending := rfl

/-! ### updQueue -/

@[simp] theorem State.ident_updQueue (s : State) (p q : Nat) (f : Queue → Queue) :
    (s.updQueue p q f).ident = s.ident := rfl
@[simp] theorem State.fuse_updQueue (s : State) (p q : Nat) (f : Queue → Queue) :
    (s.updQueue p q f).fuse = s.fuse := rfl
@[simp] theorem State.flash_updQueue (s : State) (p q : Nat) (f : Queue → Queue) :
    (s.updQueue p q f).flash = s.flash := rfl
@[simp] theorem State.boot_updQueue (s : State) (p q : Nat) (f : Queue → Queue) :
    (s.updQueue p q f).boot = s.boot := rfl
@[simp] theorem State.cross_updQueue (s : State) (p q : Nat) (f : Queue → Queue) :
    (s.updQueue p q f).cross = s.cross := rfl
@[simp] theorem State.timer_updQueue (s : State) (p q : Nat) (f : Queue → Queue) :
    (s.updQueue p q f).timer = s.timer := rfl
@[simp] theorem State.cycles_updQueue (s : State) (p q : Nat) (f : Queue → Queue) :
    (s.updQueue p q f).cycles = s.cycles := rfl
@[simp] theorem State.dram_updQueue (s : State) (p q : Nat) (f : Queue → Queue) :
    (s.updQueue p q f).dram = s.dram := rfl
@[simp] theorem State.spad_updQueue (s : State) (p q : Nat) (f : Queue → Queue) :
    (s.updQueue p q f).spad = s.spad := rfl
@[simp] theorem State.hostMem_updQueue (s : State) (p q : Nat) (f : Queue → Queue) :
    (s.updQueue p q f).hostMem = s.hostMem := rfl
@[simp] theorem State.caches_updQueue (s : State) (p q : Nat) (f : Queue → Queue) :
    (s.updQueue p q f).caches = s.caches := rfl
@[simp] theorem State.unsettled_updQueue (s : State) (p q : Nat) (f : Queue → Queue) :
    (s.updQueue p q f).unsettled = s.unsettled := rfl
@[simp] theorem State.parts_updQueue (s : State) (p q : Nat) (f : Queue → Queue) :
    (s.updQueue p q f).parts = tupd s.parts p (fun P => { P with queues := tupd P.queues q f }) := rfl
@[simp] theorem State.streams_updQueue (s : State) (p q : Nat) (f : Queue → Queue) :
    (s.updQueue p q f).streams = s.streams := rfl
@[simp] theorem State.prefixes_updQueue (s : State) (p q : Nat) (f : Queue → Queue) :
    (s.updQueue p q f).prefixes = s.prefixes := rfl
@[simp] theorem State.flight_updQueue (s : State) (p q : Nat) (f : Queue → Queue) :
    (s.updQueue p q f).flight = s.flight := rfl
@[simp] theorem State.nextId_updQueue (s : State) (p q : Nat) (f : Queue → Queue) :
    (s.updQueue p q f).nextId = s.nextId := rfl
@[simp] theorem State.sigs_updQueue (s : State) (p q : Nat) (f : Queue → Queue) :
    (s.updQueue p q f).sigs = s.sigs := rfl
@[simp] theorem State.near_updQueue (s : State) (p q : Nat) (f : Queue → Queue) :
    (s.updQueue p q f).near = s.near := rfl
@[simp] theorem State.keyDraws_updQueue (s : State) (p q : Nat) (f : Queue → Queue) :
    (s.updQueue p q f).keyDraws = s.keyDraws := rfl
@[simp] theorem State.funcs_updQueue (s : State) (p q : Nat) (f : Queue → Queue) :
    (s.updQueue p q f).funcs = s.funcs := rfl
@[simp] theorem State.handed_updQueue (s : State) (p q : Nat) (f : Queue → Queue) :
    (s.updQueue p q f).handed = s.handed := rfl
@[simp] theorem State.log_updQueue (s : State) (p q : Nat) (f : Queue → Queue) : (s.updQueue p q f).log = s.log := rfl
@[simp] theorem State.link_updQueue (s : State) (p q : Nat) (f : Queue → Queue) :
    (s.updQueue p q f).link = s.link := rfl
@[simp] theorem State.trust_updQueue (s : State) (p q : Nat) (f : Queue → Queue) :
    (s.updQueue p q f).trust = s.trust := rfl
@[simp] theorem State.peers_updQueue (s : State) (p q : Nat) (f : Queue → Queue) :
    (s.updQueue p q f).peers = s.peers := rfl
@[simp] theorem State.power_updQueue (s : State) (p q : Nat) (f : Queue → Queue) :
    (s.updQueue p q f).power = s.power := rfl
@[simp] theorem State.thermal_updQueue (s : State) (p q : Nat) (f : Queue → Queue) :
    (s.updQueue p q f).thermal = s.thermal := rfl
@[simp] theorem State.tests_updQueue (s : State) (p q : Nat) (f : Queue → Queue) :
    (s.updQueue p q f).tests = s.tests := rfl
@[simp] theorem State.rowHits_updQueue (s : State) (p q : Nat) (f : Queue → Queue) :
    (s.updQueue p q f).rowHits = s.rowHits := rfl
@[simp] theorem State.sched_updQueue (s : State) (p q : Nat) (f : Queue → Queue) :
    (s.updQueue p q f).sched = s.sched := rfl
@[simp] theorem State.perf_updQueue (s : State) (p q : Nat) (f : Queue → Queue) :
    (s.updQueue p q f).perf = s.perf := rfl
@[simp] theorem State.out_updQueue (s : State) (p q : Nat) (f : Queue → Queue) : (s.updQueue p q f).out = s.out := rfl
@[simp] theorem State.free_updQueue (s : State) (p q : Nat) (f : Queue → Queue) :
    (s.updQueue p q f).free = s.free := rfl
@[simp] theorem State.pending_updQueue (s : State) (p q : Nat) (f : Queue → Queue) :
    (s.updQueue p q f).pending = s.pending := rfl

/-! ### updFunc -/

@[simp] theorem State.ident_updFunc (s : State) (fn : Nat) (f : Func → Func) : (s.updFunc fn f).ident = s.ident := rfl
@[simp] theorem State.fuse_updFunc (s : State) (fn : Nat) (f : Func → Func) : (s.updFunc fn f).fuse = s.fuse := rfl
@[simp] theorem State.flash_updFunc (s : State) (fn : Nat) (f : Func → Func) : (s.updFunc fn f).flash = s.flash := rfl
@[simp] theorem State.boot_updFunc (s : State) (fn : Nat) (f : Func → Func) : (s.updFunc fn f).boot = s.boot := rfl
@[simp] theorem State.cross_updFunc (s : State) (fn : Nat) (f : Func → Func) : (s.updFunc fn f).cross = s.cross := rfl
@[simp] theorem State.timer_updFunc (s : State) (fn : Nat) (f : Func → Func) : (s.updFunc fn f).timer = s.timer := rfl
@[simp] theorem State.cycles_updFunc (s : State) (fn : Nat) (f : Func → Func) :
    (s.updFunc fn f).cycles = s.cycles := rfl
@[simp] theorem State.dram_updFunc (s : State) (fn : Nat) (f : Func → Func) : (s.updFunc fn f).dram = s.dram := rfl
@[simp] theorem State.spad_updFunc (s : State) (fn : Nat) (f : Func → Func) : (s.updFunc fn f).spad = s.spad := rfl
@[simp] theorem State.hostMem_updFunc (s : State) (fn : Nat) (f : Func → Func) :
    (s.updFunc fn f).hostMem = s.hostMem := rfl
@[simp] theorem State.caches_updFunc (s : State) (fn : Nat) (f : Func → Func) :
    (s.updFunc fn f).caches = s.caches := rfl
@[simp] theorem State.unsettled_updFunc (s : State) (fn : Nat) (f : Func → Func) :
    (s.updFunc fn f).unsettled = s.unsettled := rfl
@[simp] theorem State.parts_updFunc (s : State) (fn : Nat) (f : Func → Func) : (s.updFunc fn f).parts = s.parts := rfl
@[simp] theorem State.streams_updFunc (s : State) (fn : Nat) (f : Func → Func) :
    (s.updFunc fn f).streams = s.streams := rfl
@[simp] theorem State.prefixes_updFunc (s : State) (fn : Nat) (f : Func → Func) :
    (s.updFunc fn f).prefixes = s.prefixes := rfl
@[simp] theorem State.flight_updFunc (s : State) (fn : Nat) (f : Func → Func) :
    (s.updFunc fn f).flight = s.flight := rfl
@[simp] theorem State.nextId_updFunc (s : State) (fn : Nat) (f : Func → Func) :
    (s.updFunc fn f).nextId = s.nextId := rfl
@[simp] theorem State.sigs_updFunc (s : State) (fn : Nat) (f : Func → Func) : (s.updFunc fn f).sigs = s.sigs := rfl
@[simp] theorem State.near_updFunc (s : State) (fn : Nat) (f : Func → Func) : (s.updFunc fn f).near = s.near := rfl
@[simp] theorem State.keyDraws_updFunc (s : State) (fn : Nat) (f : Func → Func) :
    (s.updFunc fn f).keyDraws = s.keyDraws := rfl
@[simp] theorem State.funcs_updFunc (s : State) (fn : Nat) (f : Func → Func) :
    (s.updFunc fn f).funcs = tput s.funcs fn (f (s.func fn)) := rfl
@[simp] theorem State.handed_updFunc (s : State) (fn : Nat) (f : Func → Func) :
    (s.updFunc fn f).handed = s.handed := rfl
@[simp] theorem State.log_updFunc (s : State) (fn : Nat) (f : Func → Func) : (s.updFunc fn f).log = s.log := rfl
@[simp] theorem State.link_updFunc (s : State) (fn : Nat) (f : Func → Func) : (s.updFunc fn f).link = s.link := rfl
@[simp] theorem State.trust_updFunc (s : State) (fn : Nat) (f : Func → Func) : (s.updFunc fn f).trust = s.trust := rfl
@[simp] theorem State.peers_updFunc (s : State) (fn : Nat) (f : Func → Func) : (s.updFunc fn f).peers = s.peers := rfl
@[simp] theorem State.power_updFunc (s : State) (fn : Nat) (f : Func → Func) : (s.updFunc fn f).power = s.power := rfl
@[simp] theorem State.thermal_updFunc (s : State) (fn : Nat) (f : Func → Func) :
    (s.updFunc fn f).thermal = s.thermal := rfl
@[simp] theorem State.tests_updFunc (s : State) (fn : Nat) (f : Func → Func) : (s.updFunc fn f).tests = s.tests := rfl
@[simp] theorem State.rowHits_updFunc (s : State) (fn : Nat) (f : Func → Func) :
    (s.updFunc fn f).rowHits = s.rowHits := rfl
@[simp] theorem State.sched_updFunc (s : State) (fn : Nat) (f : Func → Func) : (s.updFunc fn f).sched = s.sched := rfl
@[simp] theorem State.perf_updFunc (s : State) (fn : Nat) (f : Func → Func) : (s.updFunc fn f).perf = s.perf := rfl
@[simp] theorem State.out_updFunc (s : State) (fn : Nat) (f : Func → Func) : (s.updFunc fn f).out = s.out := rfl
@[simp] theorem State.free_updFunc (s : State) (fn : Nat) (f : Func → Func) : (s.updFunc fn f).free = s.free := rfl
@[simp] theorem State.pending_updFunc (s : State) (fn : Nat) (f : Func → Func) :
    (s.updFunc fn f).pending = s.pending := rfl

/-! ### updFlight -/

@[simp] theorem State.ident_updFlight (s : State) (id : Nat) (f : Flight → Flight) :
    (s.updFlight id f).ident = s.ident := rfl
@[simp] theorem State.fuse_updFlight (s : State) (id : Nat) (f : Flight → Flight) :
    (s.updFlight id f).fuse = s.fuse := rfl
@[simp] theorem State.flash_updFlight (s : State) (id : Nat) (f : Flight → Flight) :
    (s.updFlight id f).flash = s.flash := rfl
@[simp] theorem State.boot_updFlight (s : State) (id : Nat) (f : Flight → Flight) :
    (s.updFlight id f).boot = s.boot := rfl
@[simp] theorem State.cross_updFlight (s : State) (id : Nat) (f : Flight → Flight) :
    (s.updFlight id f).cross = s.cross := rfl
@[simp] theorem State.timer_updFlight (s : State) (id : Nat) (f : Flight → Flight) :
    (s.updFlight id f).timer = s.timer := rfl
@[simp] theorem State.cycles_updFlight (s : State) (id : Nat) (f : Flight → Flight) :
    (s.updFlight id f).cycles = s.cycles := rfl
@[simp] theorem State.dram_updFlight (s : State) (id : Nat) (f : Flight → Flight) :
    (s.updFlight id f).dram = s.dram := rfl
@[simp] theorem State.spad_updFlight (s : State) (id : Nat) (f : Flight → Flight) :
    (s.updFlight id f).spad = s.spad := rfl
@[simp] theorem State.hostMem_updFlight (s : State) (id : Nat) (f : Flight → Flight) :
    (s.updFlight id f).hostMem = s.hostMem := rfl
@[simp] theorem State.caches_updFlight (s : State) (id : Nat) (f : Flight → Flight) :
    (s.updFlight id f).caches = s.caches := rfl
@[simp] theorem State.unsettled_updFlight (s : State) (id : Nat) (f : Flight → Flight) :
    (s.updFlight id f).unsettled = s.unsettled := rfl
@[simp] theorem State.parts_updFlight (s : State) (id : Nat) (f : Flight → Flight) :
    (s.updFlight id f).parts = s.parts := rfl
@[simp] theorem State.streams_updFlight (s : State) (id : Nat) (f : Flight → Flight) :
    (s.updFlight id f).streams = s.streams := rfl
@[simp] theorem State.prefixes_updFlight (s : State) (id : Nat) (f : Flight → Flight) :
    (s.updFlight id f).prefixes = s.prefixes := rfl
@[simp] theorem State.flight_updFlight (s : State) (id : Nat) (f : Flight → Flight) :
    (s.updFlight id f).flight = tupd s.flight id f := rfl
@[simp] theorem State.nextId_updFlight (s : State) (id : Nat) (f : Flight → Flight) :
    (s.updFlight id f).nextId = s.nextId := rfl
@[simp] theorem State.sigs_updFlight (s : State) (id : Nat) (f : Flight → Flight) :
    (s.updFlight id f).sigs = s.sigs := rfl
@[simp] theorem State.near_updFlight (s : State) (id : Nat) (f : Flight → Flight) :
    (s.updFlight id f).near = s.near := rfl
@[simp] theorem State.keyDraws_updFlight (s : State) (id : Nat) (f : Flight → Flight) :
    (s.updFlight id f).keyDraws = s.keyDraws := rfl
@[simp] theorem State.funcs_updFlight (s : State) (id : Nat) (f : Flight → Flight) :
    (s.updFlight id f).funcs = s.funcs := rfl
@[simp] theorem State.handed_updFlight (s : State) (id : Nat) (f : Flight → Flight) :
    (s.updFlight id f).handed = s.handed := rfl
@[simp] theorem State.log_updFlight (s : State) (id : Nat) (f : Flight → Flight) : (s.updFlight id f).log = s.log := rfl
@[simp] theorem State.link_updFlight (s : State) (id : Nat) (f : Flight → Flight) :
    (s.updFlight id f).link = s.link := rfl
@[simp] theorem State.trust_updFlight (s : State) (id : Nat) (f : Flight → Flight) :
    (s.updFlight id f).trust = s.trust := rfl
@[simp] theorem State.peers_updFlight (s : State) (id : Nat) (f : Flight → Flight) :
    (s.updFlight id f).peers = s.peers := rfl
@[simp] theorem State.power_updFlight (s : State) (id : Nat) (f : Flight → Flight) :
    (s.updFlight id f).power = s.power := rfl
@[simp] theorem State.thermal_updFlight (s : State) (id : Nat) (f : Flight → Flight) :
    (s.updFlight id f).thermal = s.thermal := rfl
@[simp] theorem State.tests_updFlight (s : State) (id : Nat) (f : Flight → Flight) :
    (s.updFlight id f).tests = s.tests := rfl
@[simp] theorem State.rowHits_updFlight (s : State) (id : Nat) (f : Flight → Flight) :
    (s.updFlight id f).rowHits = s.rowHits := rfl
@[simp] theorem State.sched_updFlight (s : State) (id : Nat) (f : Flight → Flight) :
    (s.updFlight id f).sched = s.sched := rfl
@[simp] theorem State.perf_updFlight (s : State) (id : Nat) (f : Flight → Flight) :
    (s.updFlight id f).perf = s.perf := rfl
@[simp] theorem State.out_updFlight (s : State) (id : Nat) (f : Flight → Flight) : (s.updFlight id f).out = s.out := rfl
@[simp] theorem State.free_updFlight (s : State) (id : Nat) (f : Flight → Flight) :
    (s.updFlight id f).free = s.free := rfl
@[simp] theorem State.pending_updFlight (s : State) (id : Nat) (f : Flight → Flight) :
    (s.updFlight id f).pending = s.pending := rfl

/-! ### emit -/

@[simp] theorem State.ident_emit (s : State) (o : Out) : (s.emit o).ident = s.ident := rfl
@[simp] theorem State.fuse_emit (s : State) (o : Out) : (s.emit o).fuse = s.fuse := rfl
@[simp] theorem State.flash_emit (s : State) (o : Out) : (s.emit o).flash = s.flash := rfl
@[simp] theorem State.boot_emit (s : State) (o : Out) : (s.emit o).boot = s.boot := rfl
@[simp] theorem State.cross_emit (s : State) (o : Out) : (s.emit o).cross = s.cross := rfl
@[simp] theorem State.timer_emit (s : State) (o : Out) : (s.emit o).timer = s.timer := rfl
@[simp] theorem State.cycles_emit (s : State) (o : Out) : (s.emit o).cycles = s.cycles := rfl
@[simp] theorem State.dram_emit (s : State) (o : Out) : (s.emit o).dram = s.dram := rfl
@[simp] theorem State.spad_emit (s : State) (o : Out) : (s.emit o).spad = s.spad := rfl
@[simp] theorem State.hostMem_emit (s : State) (o : Out) : (s.emit o).hostMem = s.hostMem := rfl
@[simp] theorem State.caches_emit (s : State) (o : Out) : (s.emit o).caches = s.caches := rfl
@[simp] theorem State.unsettled_emit (s : State) (o : Out) : (s.emit o).unsettled = s.unsettled := rfl
@[simp] theorem State.parts_emit (s : State) (o : Out) : (s.emit o).parts = s.parts := rfl
@[simp] theorem State.streams_emit (s : State) (o : Out) : (s.emit o).streams = s.streams := rfl
@[simp] theorem State.prefixes_emit (s : State) (o : Out) : (s.emit o).prefixes = s.prefixes := rfl
@[simp] theorem State.flight_emit (s : State) (o : Out) : (s.emit o).flight = s.flight := rfl
@[simp] theorem State.nextId_emit (s : State) (o : Out) : (s.emit o).nextId = s.nextId := rfl
@[simp] theorem State.sigs_emit (s : State) (o : Out) : (s.emit o).sigs = s.sigs := rfl
@[simp] theorem State.near_emit (s : State) (o : Out) : (s.emit o).near = s.near := rfl
@[simp] theorem State.keyDraws_emit (s : State) (o : Out) : (s.emit o).keyDraws = s.keyDraws := rfl
@[simp] theorem State.funcs_emit (s : State) (o : Out) : (s.emit o).funcs = s.funcs := rfl
@[simp] theorem State.handed_emit (s : State) (o : Out) : (s.emit o).handed = s.handed := rfl
@[simp] theorem State.log_emit (s : State) (o : Out) : (s.emit o).log = s.log := rfl
@[simp] theorem State.link_emit (s : State) (o : Out) : (s.emit o).link = s.link := rfl
@[simp] theorem State.trust_emit (s : State) (o : Out) : (s.emit o).trust = s.trust := rfl
@[simp] theorem State.peers_emit (s : State) (o : Out) : (s.emit o).peers = s.peers := rfl
@[simp] theorem State.power_emit (s : State) (o : Out) : (s.emit o).power = s.power := rfl
@[simp] theorem State.thermal_emit (s : State) (o : Out) : (s.emit o).thermal = s.thermal := rfl
@[simp] theorem State.tests_emit (s : State) (o : Out) : (s.emit o).tests = s.tests := rfl
@[simp] theorem State.rowHits_emit (s : State) (o : Out) : (s.emit o).rowHits = s.rowHits := rfl
@[simp] theorem State.sched_emit (s : State) (o : Out) : (s.emit o).sched = s.sched := rfl
@[simp] theorem State.perf_emit (s : State) (o : Out) : (s.emit o).perf = s.perf := rfl
@[simp] theorem State.out_emit (s : State) (o : Out) : (s.emit o).out = s.out ++ [o] := rfl
@[simp] theorem State.free_emit (s : State) (o : Out) : (s.emit o).free = s.free := rfl
@[simp] theorem State.pending_emit (s : State) (o : Out) : (s.emit o).pending = s.pending := rfl

/-! ### tick -/

@[simp] theorem State.ident_tick (s : State) : (s.tick).ident = s.ident := rfl
@[simp] theorem State.fuse_tick (s : State) : (s.tick).fuse = s.fuse := rfl
@[simp] theorem State.flash_tick (s : State) : (s.tick).flash = s.flash := rfl
@[simp] theorem State.boot_tick (s : State) : (s.tick).boot = s.boot := rfl
@[simp] theorem State.cross_tick (s : State) : (s.tick).cross = s.cross := rfl
@[simp] theorem State.timer_tick (s : State) : (s.tick).timer = s.timer := rfl
@[simp] theorem State.cycles_tick (s : State) : (s.tick).cycles = s.cycles := rfl
@[simp] theorem State.dram_tick (s : State) : (s.tick).dram = s.dram := rfl
@[simp] theorem State.spad_tick (s : State) : (s.tick).spad = s.spad := rfl
@[simp] theorem State.hostMem_tick (s : State) : (s.tick).hostMem = s.hostMem := rfl
@[simp] theorem State.caches_tick (s : State) : (s.tick).caches = s.caches := rfl
@[simp] theorem State.unsettled_tick (s : State) : (s.tick).unsettled = s.unsettled := rfl
@[simp] theorem State.parts_tick (s : State) : (s.tick).parts = s.parts := rfl
@[simp] theorem State.streams_tick (s : State) : (s.tick).streams = s.streams := rfl
@[simp] theorem State.prefixes_tick (s : State) : (s.tick).prefixes = s.prefixes := rfl
@[simp] theorem State.flight_tick (s : State) : (s.tick).flight = s.flight := rfl
@[simp] theorem State.nextId_tick (s : State) : (s.tick).nextId = s.nextId := rfl
@[simp] theorem State.sigs_tick (s : State) : (s.tick).sigs = s.sigs := rfl
@[simp] theorem State.near_tick (s : State) : (s.tick).near = s.near := rfl
@[simp] theorem State.keyDraws_tick (s : State) : (s.tick).keyDraws = s.keyDraws := rfl
@[simp] theorem State.funcs_tick (s : State) : (s.tick).funcs = s.funcs := rfl
@[simp] theorem State.handed_tick (s : State) : (s.tick).handed = s.handed := rfl
@[simp] theorem State.log_tick (s : State) : (s.tick).log = s.log := rfl
@[simp] theorem State.link_tick (s : State) : (s.tick).link = s.link := rfl
@[simp] theorem State.trust_tick (s : State) : (s.tick).trust = s.trust := rfl
@[simp] theorem State.peers_tick (s : State) : (s.tick).peers = s.peers := rfl
@[simp] theorem State.power_tick (s : State) : (s.tick).power = s.power := rfl
@[simp] theorem State.thermal_tick (s : State) : (s.tick).thermal = s.thermal := rfl
@[simp] theorem State.tests_tick (s : State) : (s.tick).tests = s.tests := rfl
@[simp] theorem State.rowHits_tick (s : State) : (s.tick).rowHits = s.rowHits := rfl
@[simp] theorem State.sched_tick (s : State) : (s.tick).sched = s.sched := rfl
@[simp] theorem State.perf_tick (s : State) : (s.tick).perf = s.perf := rfl
@[simp] theorem State.out_tick (s : State) : (s.tick).out = s.out := rfl
@[simp] theorem State.free_tick (s : State) : (s.tick).free = s.free + 1 := rfl
@[simp] theorem State.pending_tick (s : State) : (s.tick).pending = s.pending := rfl

/-! ### zeroCycles -/

@[simp] theorem State.ident_zeroCycles (s : State) (isl : Nat) : (s.zeroCycles isl).ident = s.ident := rfl
@[simp] theorem State.fuse_zeroCycles (s : State) (isl : Nat) : (s.zeroCycles isl).fuse = s.fuse := rfl
@[simp] theorem State.flash_zeroCycles (s : State) (isl : Nat) : (s.zeroCycles isl).flash = s.flash := rfl
@[simp] theorem State.boot_zeroCycles (s : State) (isl : Nat) : (s.zeroCycles isl).boot = s.boot := rfl
@[simp] theorem State.cross_zeroCycles (s : State) (isl : Nat) : (s.zeroCycles isl).cross = s.cross := rfl
@[simp] theorem State.timer_zeroCycles (s : State) (isl : Nat) : (s.zeroCycles isl).timer = s.timer := rfl
@[simp] theorem State.cycles_zeroCycles (s : State) (isl : Nat) : (s.zeroCycles isl).cycles = tdel s.cycles isl := rfl
@[simp] theorem State.dram_zeroCycles (s : State) (isl : Nat) : (s.zeroCycles isl).dram = s.dram := rfl
@[simp] theorem State.spad_zeroCycles (s : State) (isl : Nat) : (s.zeroCycles isl).spad = s.spad := rfl
@[simp] theorem State.hostMem_zeroCycles (s : State) (isl : Nat) : (s.zeroCycles isl).hostMem = s.hostMem := rfl
@[simp] theorem State.caches_zeroCycles (s : State) (isl : Nat) : (s.zeroCycles isl).caches = s.caches := rfl
@[simp] theorem State.unsettled_zeroCycles (s : State) (isl : Nat) : (s.zeroCycles isl).unsettled = s.unsettled := rfl
@[simp] theorem State.parts_zeroCycles (s : State) (isl : Nat) : (s.zeroCycles isl).parts = s.parts := rfl
@[simp] theorem State.streams_zeroCycles (s : State) (isl : Nat) : (s.zeroCycles isl).streams = s.streams := rfl
@[simp] theorem State.prefixes_zeroCycles (s : State) (isl : Nat) : (s.zeroCycles isl).prefixes = s.prefixes := rfl
@[simp] theorem State.flight_zeroCycles (s : State) (isl : Nat) : (s.zeroCycles isl).flight = s.flight := rfl
@[simp] theorem State.nextId_zeroCycles (s : State) (isl : Nat) : (s.zeroCycles isl).nextId = s.nextId := rfl
@[simp] theorem State.sigs_zeroCycles (s : State) (isl : Nat) : (s.zeroCycles isl).sigs = s.sigs := rfl
@[simp] theorem State.near_zeroCycles (s : State) (isl : Nat) : (s.zeroCycles isl).near = s.near := rfl
@[simp] theorem State.keyDraws_zeroCycles (s : State) (isl : Nat) : (s.zeroCycles isl).keyDraws = s.keyDraws := rfl
@[simp] theorem State.funcs_zeroCycles (s : State) (isl : Nat) : (s.zeroCycles isl).funcs = s.funcs := rfl
@[simp] theorem State.handed_zeroCycles (s : State) (isl : Nat) : (s.zeroCycles isl).handed = s.handed := rfl
@[simp] theorem State.log_zeroCycles (s : State) (isl : Nat) : (s.zeroCycles isl).log = s.log := rfl
@[simp] theorem State.link_zeroCycles (s : State) (isl : Nat) : (s.zeroCycles isl).link = s.link := rfl
@[simp] theorem State.trust_zeroCycles (s : State) (isl : Nat) : (s.zeroCycles isl).trust = s.trust := rfl
@[simp] theorem State.peers_zeroCycles (s : State) (isl : Nat) : (s.zeroCycles isl).peers = s.peers := rfl
@[simp] theorem State.power_zeroCycles (s : State) (isl : Nat) : (s.zeroCycles isl).power = s.power := rfl
@[simp] theorem State.thermal_zeroCycles (s : State) (isl : Nat) : (s.zeroCycles isl).thermal = s.thermal := rfl
@[simp] theorem State.tests_zeroCycles (s : State) (isl : Nat) : (s.zeroCycles isl).tests = s.tests := rfl
@[simp] theorem State.rowHits_zeroCycles (s : State) (isl : Nat) : (s.zeroCycles isl).rowHits = s.rowHits := rfl
@[simp] theorem State.sched_zeroCycles (s : State) (isl : Nat) : (s.zeroCycles isl).sched = s.sched := rfl
@[simp] theorem State.perf_zeroCycles (s : State) (isl : Nat) : (s.zeroCycles isl).perf = s.perf := rfl
@[simp] theorem State.out_zeroCycles (s : State) (isl : Nat) : (s.zeroCycles isl).out = s.out := rfl
@[simp] theorem State.free_zeroCycles (s : State) (isl : Nat) : (s.zeroCycles isl).free = s.free := rfl
@[simp] theorem State.pending_zeroCycles (s : State) (isl : Nat) : (s.zeroCycles isl).pending = s.pending := rfl

/-! ### setStore -/

@[simp] theorem State.ident_setStore (s : State) (st : Store) (m : Mem) : (s.setStore st m).ident = s.ident := by cases st <;> rfl
@[simp] theorem State.fuse_setStore (s : State) (st : Store) (m : Mem) : (s.setStore st m).fuse = s.fuse := by cases st <;> rfl
@[simp] theorem State.flash_setStore (s : State) (st : Store) (m : Mem) : (s.setStore st m).flash = s.flash := by cases st <;> rfl
@[simp] theorem State.boot_setStore (s : State) (st : Store) (m : Mem) : (s.setStore st m).boot = s.boot := by cases st <;> rfl
@[simp] theorem State.cross_setStore (s : State) (st : Store) (m : Mem) : (s.setStore st m).cross = s.cross := by cases st <;> rfl
@[simp] theorem State.timer_setStore (s : State) (st : Store) (m : Mem) : (s.setStore st m).timer = s.timer := by cases st <;> rfl
@[simp] theorem State.cycles_setStore (s : State) (st : Store) (m : Mem) : (s.setStore st m).cycles = s.cycles := by cases st <;> rfl
@[simp] theorem State.hostMem_setStore (s : State) (st : Store) (m : Mem) : (s.setStore st m).hostMem = s.hostMem := by cases st <;> rfl
@[simp] theorem State.caches_setStore (s : State) (st : Store) (m : Mem) : (s.setStore st m).caches = s.caches := by cases st <;> rfl
@[simp] theorem State.unsettled_setStore (s : State) (st : Store) (m : Mem) : (s.setStore st m).unsettled = s.unsettled := by cases st <;> rfl
@[simp] theorem State.parts_setStore (s : State) (st : Store) (m : Mem) : (s.setStore st m).parts = s.parts := by cases st <;> rfl
@[simp] theorem State.streams_setStore (s : State) (st : Store) (m : Mem) : (s.setStore st m).streams = s.streams := by cases st <;> rfl
@[simp] theorem State.prefixes_setStore (s : State) (st : Store) (m : Mem) : (s.setStore st m).prefixes = s.prefixes := by cases st <;> rfl
@[simp] theorem State.flight_setStore (s : State) (st : Store) (m : Mem) : (s.setStore st m).flight = s.flight := by cases st <;> rfl
@[simp] theorem State.nextId_setStore (s : State) (st : Store) (m : Mem) : (s.setStore st m).nextId = s.nextId := by cases st <;> rfl
@[simp] theorem State.sigs_setStore (s : State) (st : Store) (m : Mem) : (s.setStore st m).sigs = s.sigs := by cases st <;> rfl
@[simp] theorem State.near_setStore (s : State) (st : Store) (m : Mem) : (s.setStore st m).near = s.near := by cases st <;> rfl
@[simp] theorem State.keyDraws_setStore (s : State) (st : Store) (m : Mem) : (s.setStore st m).keyDraws = s.keyDraws := by cases st <;> rfl
@[simp] theorem State.funcs_setStore (s : State) (st : Store) (m : Mem) : (s.setStore st m).funcs = s.funcs := by cases st <;> rfl
@[simp] theorem State.handed_setStore (s : State) (st : Store) (m : Mem) : (s.setStore st m).handed = s.handed := by cases st <;> rfl
@[simp] theorem State.log_setStore (s : State) (st : Store) (m : Mem) : (s.setStore st m).log = s.log := by cases st <;> rfl
@[simp] theorem State.link_setStore (s : State) (st : Store) (m : Mem) : (s.setStore st m).link = s.link := by cases st <;> rfl
@[simp] theorem State.trust_setStore (s : State) (st : Store) (m : Mem) : (s.setStore st m).trust = s.trust := by cases st <;> rfl
@[simp] theorem State.peers_setStore (s : State) (st : Store) (m : Mem) : (s.setStore st m).peers = s.peers := by cases st <;> rfl
@[simp] theorem State.power_setStore (s : State) (st : Store) (m : Mem) : (s.setStore st m).power = s.power := by cases st <;> rfl
@[simp] theorem State.thermal_setStore (s : State) (st : Store) (m : Mem) : (s.setStore st m).thermal = s.thermal := by cases st <;> rfl
@[simp] theorem State.tests_setStore (s : State) (st : Store) (m : Mem) : (s.setStore st m).tests = s.tests := by cases st <;> rfl
@[simp] theorem State.rowHits_setStore (s : State) (st : Store) (m : Mem) : (s.setStore st m).rowHits = s.rowHits := by cases st <;> rfl
@[simp] theorem State.sched_setStore (s : State) (st : Store) (m : Mem) : (s.setStore st m).sched = s.sched := by cases st <;> rfl
@[simp] theorem State.perf_setStore (s : State) (st : Store) (m : Mem) : (s.setStore st m).perf = s.perf := by cases st <;> rfl
@[simp] theorem State.out_setStore (s : State) (st : Store) (m : Mem) : (s.setStore st m).out = s.out := by cases st <;> rfl
@[simp] theorem State.free_setStore (s : State) (st : Store) (m : Mem) : (s.setStore st m).free = s.free := by cases st <;> rfl
@[simp] theorem State.pending_setStore (s : State) (st : Store) (m : Mem) : (s.setStore st m).pending = s.pending := by cases st <;> rfl

@[simp] theorem State.store_setStore (s : State) (st : Store) (m : Mem) : (s.setStore st m).store st = m := by cases st <;> rfl

end Sys2Proof.Machine
end

