-- ==== Sys2Proof/Laws/Keeps.lean ====
section
/-! SUPPORT. Keeps.lean: what an operation may do, said once: the fields of the state that it may change, whether commands in
flight may end or be replaced by it, and that the arrays keep their canonical form. -/

namespace Sys2Proof.Machine

/-! ### Tables -/

theorem tget_tput {α : Type} (t : Tab α) (i j : Nat) (x : α) : tget (tput t i x) j = if j = i then some x else tget t j := by
  induction t with
  | nil => simp [tput, tget]
  | cons e t ih =>
    obtain ⟨k, v⟩ := e
    simp only [tput]
    split
    · rfl
    · split
      · rename_i h
        subst h
        simp only [tget]
        split <;> simp_all
      · simp only [tget, ih]
        split <;> split <;> simp_all

/-! ### Commands in flight -/

/-- The same command: record, place and engine; what it has met may differ. -/
@[simp] def Flight.sameCommand (f g : Flight) : Prop :=
  g.p = f.p ∧ g.q = f.q ∧ g.bytes = f.bytes ∧ g.pos = f.pos ∧ g.engine = f.engine

/-- Every command of the first table is in flight in the second. -/
def fliesIn (a b : Tab Flight) : Prop := ∀ id f, tget a id = some f → ∃ g, tget b id = some g ∧ f.sameCommand g

theorem fliesIn_self (a : Tab Flight) : fliesIn a a := fun _ f h => ⟨f, h, by simp [Flight.sameCommand]⟩

theorem fliesIn_trans {a b c : Tab Flight} (h : fliesIn a b) (k : fliesIn b c) : fliesIn a c := fun id f e => by
  obtain ⟨g, hg, x⟩ := h id f e
  obtain ⟨g', hg', y⟩ := k id g hg
  refine ⟨g', hg', ?_⟩
  simp only [Flight.sameCommand] at *
  simp [x, y]

theorem fliesIn_tupd (a : Tab Flight) (id : Nat) (f : Flight → Flight) (hf : ∀ x, Flight.sameCommand x (f x)) :
    fliesIn a (tupd a id f) := fun j x e => by
  unfold tupd
  split
  · rename_i v hv
    rw [tget_tput]
    split
    · rename_i hj
      subst hj
      rw [hv] at e
      cases e
      exact ⟨f x, rfl, hf x⟩
    · exact fliesIn_self a j x e
  · exact fliesIn_self a j x e

/-- The fields of State, by name; `ends` says that a command in flight may end or be replaced. -/
inductive Field where
  | ident | fuse | flash | boot | cross | timer | cycles | dram | spad | hostMem | caches | unsettled | parts
  | streams | prefixes | flight | nextId | sigs | near | keyDraws | funcs | handed | log | link | trust |
  peers | power | thermal | tests | rowHits | sched | perf | out | free | pending | ends
  deriving DecidableEq, Repr

/-- A field has the same value in two states; every command in flight still is. -/
def State.same (s t : State) : Field → Prop
  | .ident => t.ident = s.ident
  | .fuse => t.fuse = s.fuse
  | .flash => t.flash = s.flash
  | .boot => t.boot = s.boot
  | .cross => t.cross = s.cross
  | .timer => t.timer = s.timer
  | .cycles => t.cycles = s.cycles
  | .dram => t.dram = s.dram
  | .spad => t.spad = s.spad
  | .hostMem => t.hostMem = s.hostMem
  | .caches => t.caches = s.caches
  | .unsettled => t.unsettled = s.unsettled
  | .parts => t.parts = s.parts
  | .streams => t.streams = s.streams
  | .prefixes => t.prefixes = s.prefixes
  | .flight => t.flight = s.flight
  | .nextId => t.nextId = s.nextId
  | .sigs => t.sigs = s.sigs
  | .near => t.near = s.near
  | .keyDraws => t.keyDraws = s.keyDraws
  | .funcs => t.funcs = s.funcs
  | .handed => t.handed = s.handed
  | .log => t.log = s.log
  | .link => t.link = s.link
  | .trust => t.trust = s.trust
  | .peers => t.peers = s.peers
  | .power => t.power = s.power
  | .thermal => t.thermal = s.thermal
  | .tests => t.tests = s.tests
  | .rowHits => t.rowHits = s.rowHits
  | .sched => t.sched = s.sched
  | .perf => t.perf = s.perf
  | .out => t.out = s.out
  | .free => t.free = s.free
  | .pending => t.pending = s.pending
  | .ends => fliesIn s.flight t.flight

/-- From s to t no field outside the list has changed, and the arrays keep their canonical form. -/
def State.keeps (F : List Field) (s t : State) : Prop :=
  (∀ f, f ∉ F → s.same t f) ∧ s.dram.keeps t.dram ∧ s.spad.keeps t.spad

theorem State.same_trans {s t u : State} {f : Field} (h : s.same t f) (k : t.same u f) : s.same u f := by
  cases f <;> first | exact Eq.trans k h | exact fliesIn_trans h k

@[simp] theorem State.keeps_self (F : List Field) (s : State) : s.keeps F s :=
  ⟨fun f _ => by cases f <;> first | rfl | exact fliesIn_self _, id, id⟩

theorem State.keeps_trans {F : List Field} {s t u : State} (h : s.keeps F t) (k : t.keeps F u) : s.keeps F u :=
  ⟨fun f hf => State.same_trans (h.1 f hf) (k.1 f hf), fun w => k.2.1 (h.2.1 w), fun w => k.2.2 (h.2.2 w)⟩

theorem State.keeps_mono {F G : List Field} {s t : State} (h : s.keeps F t) (sub : F ⊆ G) : s.keeps G t :=
  ⟨fun f hf => h.1 f (fun m => hf (sub m)), h.2⟩

/-- The canonical form of the arrays goes over. -/
theorem State.keeps_memoryWf {F : List Field} {s t : State} (h : s.keeps F t) (w : MemoryWf s) : MemoryWf t :=
  ⟨h.2.1 w.1, h.2.2 w.2⟩

/-- An operation that keeps to a list, after steps that keep to a longer one. -/
theorem State.keeps_then {F G : List Field} {s t u : State} (k : t.keeps F u) (sub : F ⊆ G) (h : s.keeps G t) : s.keeps G u :=
  State.keeps_trans h (State.keeps_mono k sub)

/-- A fold keeps to a list if each of its steps does. -/
@[simp] theorem State.keeps_each {α : Type} {F : List Field} {s t : State} {f : State → α → State} (l : List α)
    (hf : ∀ (u : State) (x : α), u.keeps F (f u x)) (h : s.keeps F t) : s.keeps F (t.each l f) := by
  induction l generalizing t with
  | nil => exact h
  | cons x l ih => exact ih (State.keeps_trans h (hf t x))

/-- The same of a fold that carries more than the state. -/
theorem State.keeps_foldl {α β : Type} {F : List Field} {s : State} (p : β → State) (l : List α) (f : β → α → β)
    (hf : ∀ (b : β) (x : α), (p b).keeps F (p (f b x))) {b : β} (h : s.keeps F (p b)) : s.keeps F (p (l.foldl f b)) := by
  induction l generalizing b with
  | nil => exact h
  | cons x l ih => exact ih (State.keeps_trans h (hf b x))

@[simp] theorem Mem.keeps_ite {c : Prop} {_ : Decidable c} {m a b : Mem} (ha : m.keeps a) (hb : m.keeps b) :
    m.keeps (if c then a else b) := by
  split <;> assumption

@[simp] theorem State.keeps_ite {c : Prop} {_ : Decidable c} {F : List Field} {s a b : State} (ha : s.keeps F a) (hb : s.keeps F b) :
    s.keeps F (if c then a else b) := by
  split <;> assumption

@[simp] theorem State.keeps_ite_fst {α : Type} {c : Prop} {_ : Decidable c} {F : List Field} {s : State} {a b : State × α}
    (ha : s.keeps F a.1) (hb : s.keeps F b.1) : s.keeps F (if c then a else b).1 := by
  split <;> assumption

@[simp] theorem State.keeps_ite_snd {α : Type} {c : Prop} {_ : Decidable c} {F : List Field} {s : State} {a b : α × State}
    (ha : s.keeps F a.2) (hb : s.keeps F b.2) : s.keeps F (if c then a else b).2 := by
  split <;> assumption

/-! ### Fields set -/

/-- A state made of another one by setting fields. -/
@[simp] theorem State.keeps_mk {F : List Field} {s t : State} {v1 v2 v3 v4 v5 v6 v7 v8 v9 v10 v11 v12 v13 v14 v15 v16 v17 v18
    v19 v20 v21 v22 v23 v24 v25 v26 v27 v28 v29 v30 v31 v32 v33 v34}
    (h : s.keeps F t) (h1 : .fuse ∈ F ∨ v1 = t.fuse) (h2 : .flash ∈ F ∨ v2 = t.flash) (h3 : .boot ∈ F ∨ v3 = t.boot) (h4 :
    .cross ∈ F ∨ v4 = t.cross) (h5 : .timer ∈ F ∨ v5 = t.timer) (h6 : .cycles ∈ F ∨ v6 = t.cycles) (h7 : (.dram ∈ F ∧
    t.dram.keeps v7) ∨ v7 = t.dram) (h8 : (.spad ∈ F ∧ t.spad.keeps v8) ∨ v8 = t.spad) (h9 : .hostMem ∈ F ∨ v9 = t.hostMem) (h10
    : .caches ∈ F ∨ v10 = t.caches) (h11 : .unsettled ∈ F ∨ v11 = t.unsettled) (h12 : .parts ∈ F ∨ v12 = t.parts) (h13 : .streams
    ∈ F ∨ v13 = t.streams) (h14 : .prefixes ∈ F ∨ v14 = t.prefixes) (h15 : (.flight ∈ F ∧ (.ends ∈ F ∨ fliesIn t.flight v15)) ∨
    v15 = t.flight) (h16 : .nextId ∈ F ∨ v16 = t.nextId) (h17 : .sigs ∈ F ∨ v17 = t.sigs) (h18 : .near ∈ F ∨ v18 = t.near) (h19 :
    .keyDraws ∈ F ∨ v19 = t.keyDraws) (h20 : .funcs ∈ F ∨ v20 = t.funcs) (h21 : .handed ∈ F ∨ v21 = t.handed) (h22 : .log ∈ F ∨
    v22 = t.log) (h23 : .link ∈ F ∨ v23 = t.link) (h24 : .trust ∈ F ∨ v24 = t.trust) (h25 : .peers ∈ F ∨ v25 = t.peers) (h26 :
    .power ∈ F ∨ v26 = t.power) (h27 : .thermal ∈ F ∨ v27 = t.thermal) (h28 : .tests ∈ F ∨ v28 = t.tests) (h29 : .rowHits ∈ F ∨
    v29 = t.rowHits) (h30 : .sched ∈ F ∨ v30 = t.sched) (h31 : .perf ∈ F ∨ v31 = t.perf) (h32 : .out ∈ F ∨ v32 = t.out) (h33 :
    .free ∈ F ∨ v33 = t.free) (h34 : .pending ∈ F ∨ v34 = t.pending) :
    s.keeps F (State.mk t.ident v1 v2 v3 v4 v5 v6 v7 v8 v9 v10 v11 v12 v13 v14 v15 v16 v17 v18 v19 v20 v21 v22 v23 v24 v25
    v26 v27 v28 v29 v30 v31 v32 v33 v34) := by
  refine ⟨fun f hf => ?_, ?_, ?_⟩
  · cases f
    · exact h.1 .ident hf
    · exact h1.elim (fun m => absurd m hf) (fun e => Eq.trans e (h.1 .fuse hf))
    · exact h2.elim (fun m => absurd m hf) (fun e => Eq.trans e (h.1 .flash hf))
    · exact h3.elim (fun m => absurd m hf) (fun e => Eq.trans e (h.1 .boot hf))
    · exact h4.elim (fun m => absurd m hf) (fun e => Eq.trans e (h.1 .cross hf))
    · exact h5.elim (fun m => absurd m hf) (fun e => Eq.trans e (h.1 .timer hf))
    · exact h6.elim (fun m => absurd m hf) (fun e => Eq.trans e (h.1 .cycles hf))
    · exact h7.elim (fun m => absurd m.1 hf) (fun e => Eq.trans e (h.1 .dram hf))
    · exact h8.elim (fun m => absurd m.1 hf) (fun e => Eq.trans e (h.1 .spad hf))
    · exact h9.elim (fun m => absurd m hf) (fun e => Eq.trans e (h.1 .hostMem hf))
    · exact h10.elim (fun m => absurd m hf) (fun e => Eq.trans e (h.1 .caches hf))
    · exact h11.elim (fun m => absurd m hf) (fun e => Eq.trans e (h.1 .unsettled hf))
    · exact h12.elim (fun m => absurd m hf) (fun e => Eq.trans e (h.1 .parts hf))
    · exact h13.elim (fun m => absurd m hf) (fun e => Eq.trans e (h.1 .streams hf))
    · exact h14.elim (fun m => absurd m hf) (fun e => Eq.trans e (h.1 .prefixes hf))
    · exact h15.elim (fun m => absurd m.1 hf) (fun e => Eq.trans e (h.1 .flight hf))
    · exact h16.elim (fun m => absurd m hf) (fun e => Eq.trans e (h.1 .nextId hf))
    · exact h17.elim (fun m => absurd m hf) (fun e => Eq.trans e (h.1 .sigs hf))
    · exact h18.elim (fun m => absurd m hf) (fun e => Eq.trans e (h.1 .near hf))
    · exact h19.elim (fun m => absurd m hf) (fun e => Eq.trans e (h.1 .keyDraws hf))
    · exact h20.elim (fun m => absurd m hf) (fun e => Eq.trans e (h.1 .funcs hf))
    · exact h21.elim (fun m => absurd m hf) (fun e => Eq.trans e (h.1 .handed hf))
    · exact h22.elim (fun m => absurd m hf) (fun e => Eq.trans e (h.1 .log hf))
    · exact h23.elim (fun m => absurd m hf) (fun e => Eq.trans e (h.1 .link hf))
    · exact h24.elim (fun m => absurd m hf) (fun e => Eq.trans e (h.1 .trust hf))
    · exact h25.elim (fun m => absurd m hf) (fun e => Eq.trans e (h.1 .peers hf))
    · exact h26.elim (fun m => absurd m hf) (fun e => Eq.trans e (h.1 .power hf))
    · exact h27.elim (fun m => absurd m hf) (fun e => Eq.trans e (h.1 .thermal hf))
    · exact h28.elim (fun m => absurd m hf) (fun e => Eq.trans e (h.1 .tests hf))
    · exact h29.elim (fun m => absurd m hf) (fun e => Eq.trans e (h.1 .rowHits hf))
    · exact h30.elim (fun m => absurd m hf) (fun e => Eq.trans e (h.1 .sched hf))
    · exact h31.elim (fun m => absurd m hf) (fun e => Eq.trans e (h.1 .perf hf))
    · exact h32.elim (fun m => absurd m hf) (fun e => Eq.trans e (h.1 .out hf))
    · exact h33.elim (fun m => absurd m hf) (fun e => Eq.trans e (h.1 .free hf))
    · exact h34.elim (fun m => absurd m hf) (fun e => Eq.trans e (h.1 .pending hf))
    · exact fliesIn_trans (h.1 .ends hf) (h15.elim (fun m => m.2.elim (fun e => absurd e hf) id) (fun (e : v15 = t.flight) =>
    by rw [e]; exact fliesIn_self _))
  · exact fun w => h7.elim (fun m => m.2 (h.2.1 w)) (fun e => by rw [e]; exact h.2.1 w)
  · exact fun w => h8.elim (fun m => m.2 (h.2.2 w)) (fun e => by rw [e]; exact h.2.2 w)

end Sys2Proof.Machine
end

