-- ==== Sys2Proof/Laws/Ops.lean ====
section
/-! SUPPORT. Ops.lean: one lemma per operation of Machine/Ops.lean and Machine/Mail.lean: which fields it may change, and that the arrays
keep their canonical form. -/

namespace Sys2Proof.Machine

theorem fliesIn_map (a : Tab Flight) (g : Nat × Flight → Nat × Flight) (hk : ∀ e, (g e).1 = e.1)
    (hs : ∀ e : Nat × Flight, e.2.sameCommand (g e).2) : fliesIn a (a.map g) := by
  intro id f h
  induction a with
  | nil => simp [tget] at h
  | cons e t ih =>
    obtain ⟨k, v⟩ := e
    have hg : g (k, v) = (k, (g (k, v)).2) := Prod.ext (hk (k, v)) rfl
    rw [List.map_cons, hg]
    simp only [tget] at h ⊢
    split at h
    · rename_i c
      cases h
      exact ⟨(g (k, f)).2, by simp [c], hs (k, f)⟩
    · rename_i c
      obtain ⟨x, hx, hy⟩ := ih h
      exact ⟨x, by simp [c, hx], hy⟩

theorem State.keeps_updFlight {F : List Field} {s₀ s : State} (id : Nat) (f : Flight → Flight) (hF : [.flight] ⊆ F)
    (hf : ∀ x, Flight.sameCommand x (f x)) (h : s₀.keeps F s) : s₀.keeps F (s.updFlight id f) := by
  unfold State.updFlight
  simp_all [fliesIn_tupd _ _ _ hf]

@[simp] theorem State.keeps_flightIsland {F : List Field} {s₀ s : State} (id isl : Nat) (hF : [.flight] ⊆ F) (h : s₀.keeps F s) :
    s₀.keeps F (s.updFlight id (fun f => { f with island := isl })) :=
  State.keeps_updFlight id _ hF (fun x => by simp) h

@[simp] theorem State.keeps_flightPartial {F : List Field} {s₀ s : State} (id : Nat) (b : Bool) (hF : [.flight] ⊆ F)
    (h : s₀.keeps F s) : s₀.keeps F (s.updFlight id (fun f => { f with partialDone := b })) :=
  State.keeps_updFlight id _ hF (fun x => by simp) h

@[simp] theorem State.keeps_setStore {F : List Field} {s₀ s : State} (st : Store) (m : Mem) (hF : [.dram, .spad] ⊆ F)
    (hw : (s.store st).keeps m) (h : s₀.keeps F s) : s₀.keeps F (s.setStore st m) := by
  cases st <;> simp_all [State.setStore, State.store]

/-! ### Ops.lean -/

@[simp] theorem State.keeps_setPart {F : List Field} {s₀ s : State} (p : Nat) (P : Partition)
    (hF : [.parts] ⊆ F) (h : s₀.keeps F s) :
    s₀.keeps F (State.setPart s p P) := by
  unfold State.setPart
  (repeat' split) <;> simp_all (maxDischargeDepth := 40)

@[simp] theorem State.keeps_updPart {F : List Field} {s₀ s : State} (p : Nat) (f : Partition → Partition)
    (hF : [.parts] ⊆ F) (h : s₀.keeps F s) :
    s₀.keeps F (State.updPart s p f) := by
  unfold State.updPart
  (repeat' split) <;> simp_all (maxDischargeDepth := 40)

@[simp] theorem State.keeps_updQueue {F : List Field} {s₀ s : State} (p q : Nat) (f : Queue → Queue)
    (hF : [.parts] ⊆ F) (h : s₀.keeps F s) :
    s₀.keeps F (State.updQueue s p q f) := by
  unfold State.updQueue
  (repeat' split) <;> simp_all (maxDischargeDepth := 40)

@[simp] theorem State.keeps_updFunc {F : List Field} {s₀ s : State} (fn : Nat) (f : Func → Func)
    (hF : [.funcs] ⊆ F) (h : s₀.keeps F s) :
    s₀.keeps F (State.updFunc s fn f) := by
  unfold State.updFunc
  (repeat' split) <;> simp_all (maxDischargeDepth := 40)

@[simp] theorem State.keeps_emit {F : List Field} {s₀ s : State} (o : Out)
    (hF : [.out] ⊆ F) (h : s₀.keeps F s) :
    s₀.keeps F (State.emit s o) := by
  unfold State.emit
  (repeat' split) <;> simp_all (maxDischargeDepth := 40)

@[simp] theorem State.keeps_tick {F : List Field} {s₀ s : State} (hF : [.free] ⊆ F) (h : s₀.keeps F s) :
    s₀.keeps F (State.tick s) := by
  unfold State.tick
  (repeat' split) <;> simp_all (maxDischargeDepth := 40)

@[simp] theorem State.keeps_wake {F : List Field} {s₀ s : State} (w : Wake)
    (hF : [.power] ⊆ F) (h : s₀.keeps F s) :
    s₀.keeps F (State.wake s w) := by
  unfold State.wake
  (repeat' split) <;> simp_all (maxDischargeDepth := 40)

@[simp] theorem State.keeps_setCfg {F : List Field} {s₀ s : State} (fn : Nat) (c : CfgSpace)
    (hF : [.link] ⊆ F) (h : s₀.keeps F s) :
    s₀.keeps F (State.setCfg s fn c) := by
  unfold State.setCfg
  (repeat' split) <;> simp_all (maxDischargeDepth := 40)

@[simp] theorem State.keeps_readTimer {F : List Field} {s₀ s : State} (hF : [.timer, .free] ⊆ F) (h : s₀.keeps F s) :
    s₀.keeps F (State.readTimer s).2 := by
  unfold State.readTimer
  (repeat' split) <;> simp_all (maxDischargeDepth := 40)

@[simp] theorem State.keeps_readCycles {F : List Field} {s₀ s : State} (isl : Nat)
    (hF : [.cycles, .free] ⊆ F) (h : s₀.keeps F s) :
    s₀.keeps F (State.readCycles s isl).2 := by
  unfold State.readCycles
  (repeat' split) <;> simp_all (maxDischargeDepth := 40)

@[simp] theorem State.keeps_zeroCycles {F : List Field} {s₀ s : State} (isl : Nat)
    (hF : [.cycles] ⊆ F) (h : s₀.keeps F s) :
    s₀.keeps F (State.zeroCycles s isl) := by
  unfold State.zeroCycles
  (repeat' split) <;> simp_all (maxDischargeDepth := 40)

@[simp] theorem State.keeps_raiseVector {F : List Field} {s₀ s : State} (fn v : Nat)
    (hF : [.funcs, .out] ⊆ F) (h : s₀.keeps F s) :
    s₀.keeps F (State.raiseVector s fn v) := by
  unfold State.raiseVector
  dsimp only
  (repeat' split) <;> simp_all (maxDischargeDepth := 40)

@[simp] theorem State.keeps_raiseEvent {F : List Field} {s₀ s : State} (fn i : Nat)
    (hF : [.funcs, .out] ⊆ F) (h : s₀.keeps F s) :
    s₀.keeps F (State.raiseEvent s fn i) := by
  unfold State.raiseEvent
  (repeat' split) <;> simp_all (maxDischargeDepth := 40)

@[simp] theorem State.keeps_logErr {F : List Field} {s₀ s : State} (n : LogNew)
    (hF : [.timer, .funcs, .log, .out, .free] ⊆ F) (h : s₀.keeps F s) :
    s₀.keeps F (State.logErr s n) := by
  unfold State.logErr
  dsimp only
  (repeat' split) <;> simp_all (maxDischargeDepth := 40)

@[simp] theorem State.keeps_countIo {F : List Field} {s₀ s : State} (kind inst ev n part port : Nat)
    (hF : [.perf] ⊆ F) (h : s₀.keeps F s) :
    s₀.keeps F (State.countIo s kind inst ev n part port) := by
  unfold State.countIo
  (repeat' split) <;> simp_all (maxDischargeDepth := 40)

@[simp] theorem State.keeps_count {F : List Field} {s₀ s : State} (kind inst ev n : Nat)
    (hF : [.perf] ⊆ F) (h : s₀.keeps F s) :
    s₀.keeps F (State.count s kind inst ev n) := by
  unfold State.count
  (repeat' split) <;> simp_all (maxDischargeDepth := 40)

@[simp] theorem State.keeps_hostWrite {F : List Field} {s₀ s : State} (p q key : Nat) (b : Bytes)
    (hF : [.hostMem, .parts, .perf] ⊆ F) (h : s₀.keeps F s) :
    s₀.keeps F (State.hostWrite s p q key b) := by
  unfold State.hostWrite
  (repeat' split) <;> simp_all (maxDischargeDepth := 40)

@[simp] theorem State.keeps_hostWriteFw {F : List Field} {s₀ s : State} (fn addr : Nat) (b : Bytes)
    (hF : [.hostMem] ⊆ F) (h : s₀.keeps F s) :
    s₀.keeps F (State.hostWriteFw s fn addr b) := by
  unfold State.hostWriteFw
  (repeat' split) <;> simp_all (maxDischargeDepth := 40)

@[simp] theorem State.keeps_addCandidate {F : List Field} {s₀ s : State} (c : Candidate) (w place n nbits : Nat)
    (hF : [.flash, .timer, .funcs, .log, .out, .free] ⊆ F) (h : s₀.keeps F s) :
    s₀.keeps F (State.addCandidate s c w place n nbits) := by
  unfold State.addCandidate
  (repeat' split) <;> simp_all (maxDischargeDepth := 40)

@[simp] theorem State.keeps_countCorrected {F : List Field} {s₀ s : State} (w nbits : Nat) (first : Bool)
    (hF : [.flash, .timer, .funcs, .log, .rowHits, .perf, .out, .free] ⊆ F) (h : s₀.keeps F s) :
    s₀.keeps F (State.countCorrected s w nbits first) := by
  unfold State.countCorrected
  (repeat' split) <;> simp_all (maxDischargeDepth := 40)

@[simp] theorem State.keeps_meetWord {F : List Field} {s₀ s : State} (st : Store) (w : Nat) (first : Bool)
    (hF : [.flash, .timer, .dram, .spad, .near, .funcs, .log, .rowHits, .perf, .out, .free] ⊆ F) (h : s₀.keeps F s) :
    s₀.keeps F (State.meetWord s st w first) := by
  unfold State.meetWord
  (repeat' split) <;> simp_all (maxDischargeDepth := 40)

@[simp] theorem State.keeps_meetWords {F : List Field} {s₀ s : State} (st : Store) (l : List Nat)
    (hF : [.flash, .timer, .dram, .spad, .near, .funcs, .log, .rowHits, .perf, .out, .free] ⊆ F) (h : s₀.keeps F s) :
    s₀.keeps F (State.meetWords s st l) := by
  unfold State.meetWords
  (repeat' split) <;> simp_all (maxDischargeDepth := 40)

@[simp] theorem State.keeps_meetSeg {F : List Field} {s₀ s : State} (g : Seg)
    (hF : [.flash, .timer, .dram, .spad, .near, .funcs, .log, .rowHits, .perf, .out, .free] ⊆ F) (h : s₀.keeps F s) :
    s₀.keeps F (State.meetSeg s g) := by
  unfold State.meetSeg
  (repeat' split) <;> simp_all (maxDischargeDepth := 40)

@[simp] theorem State.keeps_meetAll {F : List Field} {s₀ s : State} (l : List Seg)
    (hF : [.flash, .timer, .dram, .spad, .near, .funcs, .log, .rowHits, .perf, .out, .free] ⊆ F) (h : s₀.keeps F s) :
    s₀.keeps F (State.meetAll s l) := by
  unfold State.meetAll
  (repeat' split) <;> simp_all (maxDischargeDepth := 40)

@[simp] theorem State.keeps_endLeases {F : List Field} {s₀ s : State} (hF : [.near] ⊆ F) (h : s₀.keeps F s) :
    s₀.keeps F (State.endLeases s) := by
  unfold State.endLeases
  (repeat' split) <;> simp_all (maxDischargeDepth := 40)

@[simp] theorem State.keeps_condition {F : List Field} {s₀ s : State} (id : Nat) (st : Status)
    (hF : [.flight] ⊆ F) (h : s₀.keeps F s) :
    s₀.keeps F (State.condition s id st) := by
  unfold State.condition
  exact State.keeps_updFlight _ _ hF (fun x => by split <;> simp) h

@[simp] theorem State.keeps_sysWritten {F : List Field} {s₀ s : State} (holds : SysUse → Bool)
    (hF : [.dram] ⊆ F) (h : s₀.keeps F s) :
    s₀.keeps F (State.sysWritten s holds) := by
  unfold State.sysWritten
  (repeat' split) <;> simp_all (maxDischargeDepth := 40)

@[simp] theorem State.keeps_crossReads {F : List Field} {s₀ s : State} (id : Nat) (l : List Seg)
    (hF : [.flight] ⊆ F) (h : s₀.keeps F s) :
    s₀.keeps F (State.crossReads s id l) := by
  unfold State.crossReads
  (repeat' split) <;> simp_all (maxDischargeDepth := 40)

@[simp] theorem State.keeps_readSegs {F : List Field} {s₀ s : State} (id : Nat) (l : List Seg)
    (hF : [.flash, .timer, .dram, .spad, .flight, .near, .funcs, .log, .rowHits, .perf, .out, .free] ⊆ F) (h : s₀.keeps
    F s) :
    s₀.keeps F (State.readSegs s id l) := by
  unfold State.readSegs
  (repeat' split) <;> simp_all (maxDischargeDepth := 40)

@[simp] theorem State.keeps_unsettleOne {F : List Field} {s₀ s : State} (w : Writer) (sp : Space) (a mask : Nat)
    (hF : [.unsettled] ⊆ F) (h : s₀.keeps F s) :
    s₀.keeps F (State.unsettleOne s w sp a mask) := by
  unfold State.unsettleOne
  (repeat' split) <;> simp_all (maxDischargeDepth := 40)

@[simp] theorem State.keeps_unsettle {F : List Field} {s₀ s : State} (w : Writer) (g : Seg)
    (hF : [.unsettled] ⊆ F) (h : s₀.keeps F s) :
    s₀.keeps F (State.unsettle s w g) := by
  unfold State.unsettle
  (repeat' split) <;> simp_all (maxDischargeDepth := 40)

@[simp] theorem State.keeps_raiseScope {F : List Field} {s₀ s : State} (f : Unsettled → Unsettled)
    (hF : [.unsettled] ⊆ F) (h : s₀.keeps F s) :
    s₀.keeps F (State.raiseScope s f) := by
  unfold State.raiseScope
  (repeat' split) <;> simp_all (maxDischargeDepth := 40)

@[simp] theorem State.keeps_clearArray {F : List Field} {s₀ s : State} (st : Store) (a n : Nat)
    (hF : [.dram, .spad, .unsettled] ⊆ F) (h : s₀.keeps F s) :
    s₀.keeps F (State.clearArray s st a n) := by
  unfold State.clearArray
  cases st <;> simp_all (maxDischargeDepth := 40) [State.setStore, State.store]

@[simp] theorem State.keeps_mixReaders {F : List Field} {s₀ s : State} (w : Writer) (g : Seg) (b : Bytes) (bad : Nat → Bool)
    (hF : [.flight] ⊆ F) (h : s₀.keeps F s) :
    s₀.keeps F (State.mixReaders s w g b bad) := by
  unfold State.mixReaders
  have hf := fliesIn_map s.flight (fun e => if e.2.engine < 33 ∧ ¬(w.kind = 1 ∧ e.1 = w.cmd) ∧ e.2.touches g.space g.addr b.length
      then (e.1, e.2.meet (if w.kind = 1 ∧ e.2.cluster = w.cluster ∧ e.2.engine = w.engine then
        (if w.cmd < e.1 then .earlier else .later) else .other) (w.mixes g b bad)) else e)
    (fun e => by split <;> rfl) (fun e => by split <;> simp [Flight.meet])
  simp_all

@[simp] theorem State.keeps_leaseHit {F : List Field} {s₀ s : State} (w : Writer) (a : Nat) (l : Lease)
    (hF : [.timer, .flight, .funcs, .log, .perf, .out, .free] ⊆ F) (h : s₀.keeps F s) :
    s₀.keeps F (State.leaseHit s w a l) := by
  unfold State.leaseHit
  split
  · exact h
  · dsimp only
    simp_all (maxDischargeDepth := 40)

@[simp] theorem State.keeps_mergeWords {F : List Field} {s₀ s : State} (st : Store) (a n : Nat)
    (hF : [.flash, .timer, .dram, .spad, .near, .funcs, .log, .rowHits, .perf, .out, .free] ⊆ F) (h : s₀.keeps F s) :
    s₀.keeps F (State.mergeWords s st a n) := by
  unfold State.mergeWords
  (repeat' split) <;> simp_all (maxDischargeDepth := 40)

@[simp] theorem State.keeps_writeSeg {F : List Field} {s₀ s : State} (w : Writer) (g : Seg) (b : Bytes) (bad : Bool)
    (hF : [.flash, .timer, .dram, .spad, .hostMem, .caches, .unsettled, .parts, .flight, .near, .funcs, .log, .rowHits,
    .perf, .out, .free] ⊆ F) (h : s₀.keeps F s) :
    s₀.keeps F (State.writeSeg s w g b bad) := by
  unfold State.writeSeg
  split
  · simp_all (maxDischargeDepth := 40)
  · dsimp only
    have h1 : s₀.keeps F (s.mergeWords .spad g.addr b.length) := by simp_all
    generalize s.mergeWords .spad g.addr b.length = s1 at h1 ⊢
    have hm : s1.spad.keeps (if bad = true then (wordsOf g.addr b.length).foldl Mem.poisonWord (s1.spad.write g.addr b)
        else s1.spad.write g.addr b) := by split <;> simp
    generalize (if bad = true then _ else _) = m at hm ⊢
    have h2 : s₀.keeps F ((s1.mixReaders w g b m.badWord).unsettle w g) := by simp_all
    have e2 : ((s1.mixReaders w g b m.badWord).unsettle w g).spad.keeps m := by
      have k : s1.keeps [.flight, .unsettled] ((s1.mixReaders w g b m.badWord).unsettle w g) := by simp
      rw [show ((s1.mixReaders w g b m.badWord).unsettle w g).spad = s1.spad from k.1 .spad (by decide)]
      exact hm
    generalize (s1.mixReaders w g b m.badWord).unsettle w g = s2 at h2 e2 ⊢
    generalize s1.spad.mergesBad g.addr b.length = mb
    cases mb <;> simp_all (maxDischargeDepth := 40)
  · dsimp only
    split
    · simp_all
    have h0 : s₀.keeps F (s.each (s.near.leasesHit g.addr b.length) (fun s l => s.leaseHit w g.addr l)) := by simp_all
    generalize s.each _ _ = s' at h0 ⊢
    have h1 : s₀.keeps F (s'.mergeWords .dram g.addr b.length) := by simp_all
    generalize s'.mergeWords .dram g.addr b.length = s1 at h1 ⊢
    have hm : s1.dram.keeps (if bad = true then (wordsOf g.addr b.length).foldl Mem.poisonWord (s1.dram.write g.addr b)
        else s1.dram.write g.addr b) := by split <;> simp
    generalize (if bad = true then _ else _) = m at hm ⊢
    have h2 : s₀.keeps F ((s1.mixReaders w g b m.badWord).unsettle w g) := by simp_all
    have e2 : ((s1.mixReaders w g b m.badWord).unsettle w g).dram.keeps m := by
      have k : s1.keeps [.flight, .unsettled] ((s1.mixReaders w g b m.badWord).unsettle w g) := by simp
      rw [show ((s1.mixReaders w g b m.badWord).unsettle w g).dram = s1.dram from k.1 .dram (by decide)]
      exact hm
    generalize (s1.mixReaders w g b m.badWord).unsettle w g = s2 at h2 e2 ⊢
    generalize s1.dram.mergesBad g.addr b.length = mb
    cases mb <;> simp_all (maxDischargeDepth := 40)

@[simp] theorem State.keeps_writeAll {F : List Field} {s₀ s : State} (w : Writer) (a0 : List Seg) (a1 : Bytes) (a2 : Bool)
    (hF : [.flash, .timer, .dram, .spad, .hostMem, .caches, .unsettled, .parts, .flight, .near, .funcs, .log, .rowHits,
    .perf, .out, .free] ⊆ F) (h : s₀.keeps F s) :
    s₀.keeps F (State.writeAll s w a0 a1 a2) := by
  induction a0 generalizing s a1 with
  | nil => exact h
  | cons g t ih => exact ih _ (State.keeps_writeSeg w g _ a2 hF h)

@[simp] theorem State.keeps_writeCredit {F : List Field} {s₀ s : State} (p q : Nat)
    (hF : [.hostMem, .parts, .perf] ⊆ F) (h : s₀.keeps F s) :
    s₀.keeps F (State.writeCredit s p q) := by
  unfold State.writeCredit
  (repeat' split) <;> simp_all (maxDischargeDepth := 40)

@[simp] theorem State.keeps_ringWrite {F : List Field} {s₀ s : State} (p q : Nat) (Q : Queue) (e : Bytes)
    (hF : [.hostMem, .parts, .funcs, .perf, .out] ⊆ F) (h : s₀.keeps F s) :
    s₀.keeps F (State.ringWrite s p q Q e) := by
  unfold State.ringWrite
  (repeat' split) <;> simp_all (maxDischargeDepth := 40)

@[simp] theorem State.keeps_ringDrain {F : List Field} {s₀ s : State} (p q : Nat) (a0 : Nat)
    (hF : [.hostMem, .parts, .funcs, .perf, .out] ⊆ F) (h : s₀.keeps F s) :
    s₀.keeps F (State.ringDrain s p q a0) := by
  induction a0 generalizing s with
  | zero => exact h
  | succ f ih =>
    unfold State.ringDrain
    (repeat' split) <;> simp_all (maxDischargeDepth := 40)

@[simp] theorem State.keeps_ringPut {F : List Field} {s₀ s : State} (p q : Nat) (e : Bytes)
    (hF : [.hostMem, .parts, .funcs, .perf, .out] ⊆ F) (h : s₀.keeps F s) :
    s₀.keeps F (State.ringPut s p q e) := by
  unfold State.ringPut
  (repeat' split) <;> simp_all (maxDischargeDepth := 40)

/-! ### Mail.lean -/

@[simp] theorem State.keeps_respond {F : List Field} {s₀ s : State} (fn : Nat) (a : Answer) (body : Bytes)
    (hF : [.funcs, .handed, .out] ⊆ F) (h : s₀.keeps F s) :
    s₀.keeps F (State.respond s fn a body) := by
  unfold State.respond
  (repeat' split) <;> simp_all (maxDischargeDepth := 40)

@[simp] theorem State.keeps_refuse {F : List Field} {s₀ s : State} (fn : Nat)
    (hF : [.funcs, .handed, .out] ⊆ F) (h : s₀.keeps F s) :
    s₀.keeps F (State.refuse s fn) := by
  unfold State.refuse
  (repeat' split) <;> simp_all (maxDischargeDepth := 40)

@[simp] theorem State.keeps_answerWait {F : List Field} {s₀ s : State} (w : MailWait) (a : Answer)
    (hF : [.funcs, .handed, .out] ⊆ F) (h : s₀.keeps F s) :
    s₀.keeps F (State.answerWait s w a) := by
  unfold State.answerWait
  (repeat' split) <;> simp_all (maxDischargeDepth := 40)

@[simp] theorem State.keeps_mailGone {F : List Field} {s₀ s : State} (p : Nat)
    (hF : [.funcs, .handed, .out] ⊆ F) (h : s₀.keeps F s) :
    s₀.keeps F (State.mailGone s p) := by
  unfold State.mailGone
  (repeat' split) <;> simp_all (maxDischargeDepth := 40)

end Sys2Proof.Machine
end

