-- ==== Sys2Proof/Laws/Retire.lean ====
section
/-! SUPPORT. Retire.lean: what the operations of Machine/StreamOps.lean, Machine/PeerOps.lean and Machine/Retire.lean may change. -/

namespace Sys2Proof.Machine

/-! ### StreamOps.lean -/

@[simp] theorem State.keeps_smWrite {F : List Field} {s₀ s : State} (w : Writer) (va : Nat) (b : Bytes)
    (hF : [.flash, .timer, .dram, .spad, .hostMem, .caches, .unsettled, .parts, .flight, .near, .funcs, .log, .rowHits,
    .perf, .out, .free] ⊆ F) (h : s₀.keeps F s) :
    s₀.keeps F (State.smWrite s w va b) := by
  unfold State.smWrite
  (repeat' split) <;> simp_all (maxDischargeDepth := 40)

@[simp] theorem State.keeps_bumpRefs {F : List Field} {s₀ s : State} (w : Writer) (o : Pool) (r : Nat) (up : Bool)
    (hF : [.flash, .timer, .dram, .spad, .hostMem, .caches, .unsettled, .parts, .flight, .near, .funcs, .log, .rowHits,
    .perf, .out, .free] ⊆ F) (h : s₀.keeps F s) :
    s₀.keeps F (State.bumpRefs s w o r up) := by
  unfold State.bumpRefs
  (repeat' split) <;> simp_all (maxDischargeDepth := 40)

@[simp] theorem State.keeps_freeLater {F : List Field} {s₀ s : State} (p : Nat) (after : List Nat) (slots : List SlotUse)
    (streams : List Nat)
    (hF : [.parts] ⊆ F) (h : s₀.keeps F s) :
    s₀.keeps F (State.freeLater s p after slots streams) := by
  unfold State.freeLater
  (repeat' split) <;> simp_all (maxDischargeDepth := 40)

@[simp] theorem State.keeps_firmwareDone {F : List Field} {s₀ s : State} (w : Writer)
    (hF : [.unsettled, .free] ⊆ F) (h : s₀.keeps F s) :
    s₀.keeps F (State.firmwareDone s w) := by
  unfold State.firmwareDone
  (repeat' split) <;> simp_all (maxDischargeDepth := 40)

@[simp] theorem State.keeps_releaseStream {F : List Field} {s₀ s : State} (w : Writer) (st : Nat) (after : List Nat)
    (hF : [.flash, .timer, .dram, .spad, .hostMem, .caches, .unsettled, .parts, .streams, .flight, .near, .funcs, .log,
    .rowHits, .perf, .out, .free] ⊆ F) (h : s₀.keeps F s) :
    s₀.keeps F (State.releaseStream s w st after).1 := by
  unfold State.releaseStream
  dsimp only
  (repeat' split) <;> simp_all (maxDischargeDepth := 40)

@[simp] theorem State.keeps_returnBlocks {F : List Field} {s₀ s : State} (p : Nat)
    (hF : [.parts, .streams] ⊆ F) (h : s₀.keeps F s) :
    s₀.keeps F (State.returnBlocks s p) := by
  unfold State.returnBlocks
  (repeat' split) <;> simp_all (maxDischargeDepth := 40)

@[simp] theorem State.keeps_dropStreams {F : List Field} {s₀ s : State} (p : Nat)
    (hF : [.parts, .streams, .prefixes] ⊆ F) (h : s₀.keeps F s) :
    s₀.keeps F (State.dropStreams s p) := by
  unfold State.dropStreams
  (repeat' split) <;> simp_all (maxDischargeDepth := 40)

/-! ### PeerOps.lean -/

@[simp] theorem State.keeps_setPort {F : List Field} {s₀ s : State} (n : Nat) (x : Port)
    (hF : [.peers] ⊆ F) (h : s₀.keeps F s) :
    s₀.keeps F (State.setPort s n x) := by
  unfold State.setPort
  (repeat' split) <;> simp_all (maxDischargeDepth := 40)

@[simp] theorem State.keeps_setGroup {F : List Field} {s₀ s : State} (p g : Nat) (G : Group)
    (hF : [.peers] ⊆ F) (h : s₀.keeps F s) :
    s₀.keeps F (State.setGroup s p g G) := by
  unfold State.setGroup
  (repeat' split) <;> simp_all (maxDischargeDepth := 40)

@[simp] theorem State.keeps_sendAbort {F : List Field} {s₀ s : State} (g : GroupEntry) (rank : Nat) (items : List Abandoned)
    (hF : [.out] ⊆ F) (h : s₀.keeps F s) :
    s₀.keeps F (State.sendAbort s g rank items) := by
  unfold State.sendAbort
  (repeat' split) <;> simp_all (maxDischargeDepth := 40)

@[simp] theorem State.keeps_abortAll {F : List Field} {s₀ s : State} (g : GroupEntry) (items : List Abandoned)
    (hF : [.out] ⊆ F) (h : s₀.keeps F s) :
    s₀.keeps F (State.abortAll s g items) := by
  unfold State.abortAll
  (repeat' split) <;> simp_all (maxDischargeDepth := 40)

@[simp] theorem State.keeps_abortNotices {F : List Field} {s₀ s : State} (p : Nat) (jobs : List (Nat × PeerJob))
    (hF : [.out] ⊆ F) (h : s₀.keeps F s) :
    s₀.keeps F (State.abortNotices s p jobs) := by
  unfold State.abortNotices
  refine State.keeps_each jobs (fun u j => ?_) h
  dsimp only
  (repeat' split) <;> simp_all (maxDischargeDepth := 40)

@[simp] theorem State.keeps_sendDigest {F : List Field} {s₀ s : State} (g : GroupEntry) (to_ origin : Nat) (d : BitVec 512)
    (hF : [.out] ⊆ F) (h : s₀.keeps F s) :
    s₀.keeps F (State.sendDigest s g to_ origin d) := by
  unfold State.sendDigest
  (repeat' split) <;> simp_all (maxDischargeDepth := 40)

@[simp] theorem State.keeps_forgetGroup {F : List Field} {s₀ s : State} (p g : Nat)
    (hF : [.parts, .peers] ⊆ F) (h : s₀.keeps F s) :
    s₀.keeps F (State.forgetGroup s p g) := by
  unfold State.forgetGroup
  dsimp only
  (repeat' split) <;> simp_all (maxDischargeDepth := 40)

@[simp] theorem State.keeps_forgetCopies {F : List Field} {s₀ s : State} (test : Nat → Nat → Bool)
    (hF : [.peers] ⊆ F) (h : s₀.keeps F s) :
    s₀.keeps F (State.forgetCopies s test) := by
  unfold State.forgetCopies
  (repeat' split) <;> simp_all (maxDischargeDepth := 40)

@[simp] theorem State.keeps_offerDigest {F : List Field} {s₀ s : State} (g : GroupEntry)
    (hF : [.out] ⊆ F) (h : s₀.keeps F s) :
    s₀.keeps F (State.offerDigest s g) := by
  unfold State.offerDigest
  (repeat' split) <;> simp_all (maxDischargeDepth := 40)

@[simp] theorem State.keeps_offerDigests {F : List Field} {s₀ s : State} (hF : [.out] ⊆ F) (h : s₀.keeps F s) :
    s₀.keeps F (State.offerDigests s) := by
  unfold State.offerDigests
  (repeat' split) <;> simp_all (maxDischargeDepth := 40)

@[simp] theorem State.keeps_resetNotices {F : List Field} {s₀ s : State} (p : Nat)
    (hF : [.parts, .peers, .out] ⊆ F) (h : s₀.keeps F s) :
    s₀.keeps F (State.resetNotices s p) := by
  unfold State.resetNotices
  (repeat' split) <;> simp_all (maxDischargeDepth := 40)

/-! ### Retire.lean -/

@[simp] theorem State.keeps_clearCluster {F : List Field} {s₀ s : State} (c : Nat)
    (hF : [.dram, .spad, .unsettled] ⊆ F) (h : s₀.keeps F s) :
    s₀.keeps F (State.clearCluster s c) := by
  unfold State.clearCluster
  (repeat' split) <;> simp_all (maxDischargeDepth := 40)

@[simp] theorem State.keeps_handCluster {F : List Field} {s₀ s : State} (c : Nat)
    (hF : [.dram, .spad, .caches, .unsettled] ⊆ F) (h : s₀.keeps F s) :
    s₀.keeps F (State.handCluster s c) := by
  unfold State.handCluster
  (repeat' split) <;> simp_all (maxDischargeDepth := 40)

@[simp] theorem State.keeps_resetCounters {F : List Field} {s₀ s : State} (mine : Nat → Bool)
    (hF : [.perf] ⊆ F) (h : s₀.keeps F s) :
    s₀.keeps F (State.resetCounters s mine) := by
  unfold State.resetCounters
  (repeat' split) <;> simp_all (maxDischargeDepth := 40)

@[simp] theorem State.keeps_rejectGroup {F : List Field} {s₀ s : State} (p g : Nat)
    (hF : [.timer, .parts, .funcs, .log, .out, .free] ⊆ F) (h : s₀.keeps F s) :
    s₀.keeps F (State.rejectGroup s p g) := by
  unfold State.rejectGroup
  (repeat' split) <;> simp_all (maxDischargeDepth := 40)

@[simp] theorem State.keeps_stepBoundary {F : List Field} {s₀ s : State} (p : Nat)
    (hF : [.timer, .dram, .spad, .caches, .unsettled, .parts, .funcs, .log, .perf, .out, .free] ⊆ F) (h : s₀.keeps F s) :
    s₀.keeps F (State.stepBoundary s p).1 := by
  unfold State.stepBoundary
  (repeat' split) <;> simp_all (maxDischargeDepth := 40)

@[simp] theorem State.keeps_finishSample {F : List Field} {s₀ s : State} (id : Nat) (f : Flight) (st : Status)
    (hF : [.perf, .free] ⊆ F) (h : s₀.keeps F s) :
    s₀.keeps F (State.finishSample s id f st) := by
  unfold State.finishSample
  (repeat' split) <;> simp_all (maxDischargeDepth := 40)

@[simp] theorem State.keeps_stamp {F : List Field} {s₀ s : State} (isl : Nat)
    (hF : [.cycles, .free] ⊆ F) (h : s₀.keeps F s) :
    s₀.keeps F (State.stamp s isl).2 := by
  unfold State.stamp
  (repeat' split) <;> simp_all (maxDischargeDepth := 40)

@[simp] theorem State.keeps_logSecondary {F : List Field} {s₀ s : State} (f : Flight) (st : Status)
    (hF : [.timer, .funcs, .log, .out, .free] ⊆ F) (h : s₀.keeps F s) :
    s₀.keeps F (State.logSecondary s f st) := by
  unfold State.logSecondary
  (repeat' split) <;> simp_all (maxDischargeDepth := 40)

@[simp] theorem State.keeps_countFor {F : List Field} {s₀ s : State} (f : Flight) (kind inst ev n : Nat)
    (hF : [.perf] ⊆ F) (h : s₀.keeps F s) :
    s₀.keeps F (State.countFor s f kind inst ev n) := by
  unfold State.countFor
  (repeat' split) <;> simp_all (maxDischargeDepth := 40)

@[simp] theorem State.keeps_settleDestroy {F : List Field} {s₀ s : State} (p q : Nat)
    (hF : [.parts, .sigs, .funcs, .handed, .out] ⊆ F) (h : s₀.keeps F s) :
    s₀.keeps F (State.settleDestroy s p q) := by
  unfold State.settleDestroy
  (repeat' split) <;> simp_all (maxDischargeDepth := 40)

@[simp] theorem State.keeps_retire {F : List Field} {s₀ s : State} (id : Nat)
    (hF : [.timer, .cycles, .dram, .spad, .hostMem, .caches, .unsettled, .parts, .flight, .sigs, .funcs, .handed, .log,
    .perf, .out, .free, .ends] ⊆ F) (h : s₀.keeps F s) :
    s₀.keeps F (State.retire s id) := by
  have hF' := hF
  simp only [List.cons_subset, List.nil_subset, and_true] at hF'
  unfold State.retire
  split
  · exact h
  · rename_i f _
    extract_lets b
    split
    rename_i s1 rej heq
    have h1 : s₀.keeps F s1 := by
      have e : s1 = if b = true then (s.stepBoundary f.p).1 else s := by
        have := congrArg Prod.fst heq
        rw [show s1 = (s1, rej).1 from rfl, ← this]
        split <;> rfl
      rw [e]
      split <;> simp [hF', h]
    extract_lets st s2 s3 s4 s5 s6 s7 s8 s9
    have h2 : s₀.keeps F s2 := by simp [s2, hF', h1]
    clear_value s2
    have h3 : s₀.keeps F s3 := by simp [s3, hF', h2]
    clear_value s3
    have h4 : s₀.keeps F s4 := by simp [s4, hF', h3]
    clear_value s4
    have h5 : s₀.keeps F s5 := by simp [s5, hF', h4]
    clear_value s5
    have h6 : s₀.keeps F s6 := by simp [s6, hF', h5]
    clear_value s6
    have h7 : s₀.keeps F s7 := by simp [s7, hF', h6]
    clear_value s7
    have h8 : s₀.keeps F s8 := by simp [s8, hF', h7]
    clear_value s8
    have h9 : s₀.keeps F s9 := by simp (maxDischargeDepth := 40) [s9, hF', h8]
    clear_value s9
    simp (maxDischargeDepth := 40) [hF', h9]

@[simp] theorem State.keeps_scramble {F : List Field} {s₀ s : State} (l : List Range)
    (hF : [.dram, .spad, .hostMem, .free] ⊆ F) (h : s₀.keeps F s) :
    s₀.keeps F (State.scramble s l) := by
  unfold State.scramble
  refine State.keeps_tick (by simp_all) (State.keeps_each l (fun u r => ?_) h)
  split <;> simp_all (maxDischargeDepth := 40)

@[simp] theorem State.keeps_controlFails {F : List Field} {s₀ s : State} (id : Nat)
    (hF : [.dram, .spad, .hostMem, .flight, .free] ⊆ F) (h : s₀.keeps F s) :
    s₀.keeps F (State.controlFails s id) := by
  unfold State.controlFails
  (repeat' split) <;> simp_all (maxDischargeDepth := 40)

@[simp] theorem State.keeps_dropWork {F : List Field} {s₀ s : State} (id : Nat)
    (hF : [.near] ⊆ F) (h : s₀.keeps F s) :
    s₀.keeps F (State.dropWork s id) := by
  unfold State.dropWork
  (repeat' split) <;> simp_all (maxDischargeDepth := 40)

@[simp] theorem State.keeps_abandon {F : List Field} {s₀ s : State} (id : Nat) (st : Status)
    (hF : [.timer, .cycles, .dram, .spad, .hostMem, .caches, .unsettled, .parts, .flight, .sigs, .near, .funcs, .handed,
    .log, .perf, .out, .free, .ends] ⊆ F) (h : s₀.keeps F s) :
    s₀.keeps F (State.abandon s id st) := by
  unfold State.abandon
  (repeat' split) <;> simp_all (maxDischargeDepth := 40)

@[simp] theorem State.keeps_lastRecords {F : List Field} {s₀ s : State} (p q : Nat)
    (hF : [.hostMem, .parts, .funcs, .perf, .out] ⊆ F) (h : s₀.keeps F s) :
    s₀.keeps F (State.lastRecords s p q) := by
  unfold State.lastRecords
  (repeat' split) <;> simp_all (maxDischargeDepth := 40)

@[simp] theorem State.keeps_deleteQueues {F : List Field} {s₀ s : State} (p : Nat) (f : Queue → Bool)
    (hF : [.hostMem, .parts, .sigs, .funcs, .handed, .perf, .out] ⊆ F) (h : s₀.keeps F s) :
    s₀.keeps F (State.deleteQueues s p f) := by
  unfold State.deleteQueues
  dsimp only
  (repeat' split) <;> simp_all (maxDischargeDepth := 40)

@[simp] theorem State.keeps_teardown {F : List Field} {s₀ s : State} (p ctx cause : Nat)
    (hF : [.flash, .timer, .cycles, .dram, .spad, .hostMem, .caches, .unsettled, .parts, .streams, .flight, .sigs,
    .near, .funcs, .handed, .log, .rowHits, .perf, .out, .free, .ends] ⊆ F) (h : s₀.keeps F s) :
    s₀.keeps F (State.teardown s p ctx cause) := by
  unfold State.teardown
  (repeat' split) <;> simp_all (maxDischargeDepth := 40)

@[simp] theorem State.keeps_stopSampling {F : List Field} {s₀ s : State} (scope : Nat)
    (hF : [.perf] ⊆ F) (h : s₀.keeps F s) :
    s₀.keeps F (State.stopSampling s scope) := by
  unfold State.stopSampling
  (repeat' split) <;> simp_all (maxDischargeDepth := 40)

@[simp] theorem State.keeps_tdiError {F : List Field} {s₀ s : State} (p : Nat)
    (hF : [.trust] ⊆ F) (h : s₀.keeps F s) :
    s₀.keeps F (State.tdiError s p) := by
  unfold State.tdiError
  (repeat' split) <;> simp_all (maxDischargeDepth := 40)

@[simp] theorem State.keeps_beginZeroing {F : List Field} {s₀ s : State} (p : Nat) (destroy : Bool) (mailbox : Option Nat)
    (hF : [.timer, .cycles, .dram, .spad, .hostMem, .caches, .unsettled, .parts, .streams, .prefixes, .flight, .sigs,
    .near, .funcs, .handed, .log, .link, .trust, .peers, .perf, .out, .free, .ends] ⊆ F) (h : s₀.keeps F s) :
    s₀.keeps F (State.beginZeroing s p destroy mailbox) := by
  unfold State.beginZeroing
  (repeat' split) <;> simp_all (maxDischargeDepth := 40)

@[simp] theorem State.keeps_fault {F : List Field} {s₀ s : State} (p ctx cause : Nat)
    (hF : [.flash, .timer, .cycles, .dram, .spad, .hostMem, .caches, .unsettled, .parts, .streams, .prefixes, .flight,
    .sigs, .near, .funcs, .handed, .log, .link, .trust, .peers, .rowHits, .perf, .out, .free, .ends] ⊆ F) (h : s₀.keeps
    F s) :
    s₀.keeps F (State.fault s p ctx cause) := by
  unfold State.fault
  (repeat' split) <;> simp_all (maxDischargeDepth := 40)

@[simp] theorem State.keeps_landWrites {F : List Field} {s₀ s : State} (f : Flight)
    (hF : [.caches] ⊆ F) (h : s₀.keeps F s) :
    s₀.keeps F (State.landWrites s f) := by
  unfold State.landWrites
  (repeat' split) <;> simp_all (maxDischargeDepth := 40)

@[simp] theorem State.keeps_complete {F : List Field} {s₀ s : State} (id : Nat)
    (hF : [.flash, .timer, .cycles, .dram, .spad, .hostMem, .caches, .unsettled, .parts, .streams, .prefixes, .flight,
    .sigs, .near, .funcs, .handed, .log, .link, .trust, .peers, .rowHits, .perf, .out, .free, .ends] ⊆ F) (h : s₀.keeps
    F s) :
    s₀.keeps F (State.complete s id) := by
  unfold State.complete
  dsimp only
  (repeat' split) <;> simp_all (maxDischargeDepth := 40)

@[simp] theorem State.keeps_cutShort {F : List Field} {s₀ s : State} (id : Nat) (st : Status)
    (hF : [.flash, .timer, .cycles, .dram, .spad, .hostMem, .caches, .unsettled, .parts, .streams, .prefixes, .flight,
    .sigs, .near, .funcs, .handed, .log, .link, .trust, .peers, .rowHits, .perf, .out, .free, .ends] ⊆ F) (h : s₀.keeps
    F s) :
    s₀.keeps F (State.cutShort s id st) := by
  unfold State.cutShort
  (repeat' split) <;> simp_all (maxDischargeDepth := 40)

@[simp] theorem State.keeps_markBroken {F : List Field} {s₀ s : State} (p q : Nat)
    (hF : [.hostMem, .parts, .perf] ⊆ F) (h : s₀.keeps F s) :
    s₀.keeps F (State.markBroken s p q) := by
  unfold State.markBroken
  (repeat' split) <;> simp_all (maxDischargeDepth := 40)

@[simp] theorem State.keeps_breakQueue {F : List Field} {s₀ s : State} (p q : Nat)
    (hF : [.flash, .timer, .cycles, .dram, .spad, .hostMem, .caches, .unsettled, .parts, .streams, .prefixes, .flight,
    .sigs, .near, .funcs, .handed, .log, .link, .trust, .peers, .rowHits, .perf, .out, .free, .ends] ⊆ F) (h : s₀.keeps
    F s) :
    s₀.keeps F (State.breakQueue s p q) := by
  unfold State.breakQueue
  (repeat' split) <;> simp_all (maxDischargeDepth := 40)

@[simp] theorem State.keeps_dropPokes {F : List Field} {s₀ s : State} (pc : Nat)
    (hF : [.trust] ⊆ F) (h : s₀.keeps F s) :
    s₀.keeps F (State.dropPokes s pc) := by
  unfold State.dropPokes
  (repeat' split) <;> simp_all (maxDischargeDepth := 40)

@[simp] theorem State.keeps_zeroise {F : List Field} {s₀ s : State} (P : Partition)
    (hF : [.boot, .dram, .spad, .caches, .unsettled, .near, .trust] ⊆ F) (h : s₀.keeps F s) :
    s₀.keeps F (State.zeroise s P) := by
  unfold State.zeroise
  (repeat' split) <;> simp_all (maxDischargeDepth := 40)

end Sys2Proof.Machine
end

