-- ==== Sys2Proof/Laws/Front.lean ====
section
/-! SUPPORT. Front.lean: what the operations of Machine/Front.lean and Machine/Control.lean may change; a dispatch as a whole. -/

namespace Sys2Proof.Machine

/-! ### Flags.lean -/

/-! ### Front.lean -/

@[simp] theorem State.keeps_sampleDispatch {F : List Field} {s₀ s : State} (cluster id : Nat)
    (hF : [.timer, .cycles, .perf, .free] ⊆ F) (h : s₀.keeps F s) :
    s₀.keeps F (State.sampleDispatch s cluster id) := by
  unfold State.sampleDispatch
  (repeat' split) <;> simp_all (maxDischargeDepth := 40)

@[simp] theorem State.keeps_launch {F : List Field} {s₀ s : State} (d : Site) (f : Flight) (skip : Nat)
    (hF : [.timer, .cycles, .parts, .flight, .nextId, .perf, .free, .ends] ⊆ F) (h : s₀.keeps F s) :
    s₀.keeps F (State.launch s d f skip).1 := by
  unfold State.launch
  (repeat' split) <;> simp_all (maxDischargeDepth := 40)

@[simp] theorem State.keeps_endAtDispatch {F : List Field} {s₀ s : State} (d : Site) (st : Status) (off skip : Nat)
    (hF : [.flash, .timer, .cycles, .dram, .spad, .hostMem, .caches, .unsettled, .parts, .streams, .prefixes, .flight,
    .nextId, .sigs, .near, .funcs, .handed, .log, .link, .trust, .peers, .rowHits, .perf, .out, .free, .ends] ⊆ F) (h :
    s₀.keeps F s) :
    s₀.keeps F (State.endAtDispatch s d st off skip) := by
  unfold State.endAtDispatch
  (repeat' split) <;> simp_all (maxDischargeDepth := 40)

/-! ### Control.lean -/

@[simp] theorem State.keeps_acquire {F : List Field} {s₀ s : State} (cluster : Nat)
    (hF : [.caches, .perf] ⊆ F) (h : s₀.keeps F s) :
    s₀.keeps F (State.acquire s cluster) := by
  unfold State.acquire
  (repeat' split) <;> simp_all (maxDischargeDepth := 40)

@[simp] theorem State.keeps_tell {F : List Field} {s₀ s : State} (cmds : List Nat) (p q ctr : Nat)
    (hF : [.unsettled] ⊆ F) (h : s₀.keeps F s) :
    s₀.keeps F (State.tell s cmds p q ctr) := by
  unfold State.tell
  (repeat' split) <;> simp_all (maxDischargeDepth := 40)

@[simp] theorem State.keeps_learn {F : List Field} {s₀ s : State} (p q id : Nat) (c : Comparator)
    (hF : [.unsettled] ⊆ F) (h : s₀.keeps F s) :
    s₀.keeps F (State.learn s p q id c) := by
  unfold State.learn
  (repeat' split) <;> simp_all (maxDischargeDepth := 40)

@[simp] theorem State.keeps_settleQueue {F : List Field} {s₀ s : State} (p q id : Nat) (host : Bool)
    (hF : [.unsettled] ⊆ F) (h : s₀.keeps F s) :
    s₀.keeps F (State.settleQueue s p q id host) := by
  unfold State.settleQueue
  (repeat' split) <;> simp_all (maxDischargeDepth := 40)

@[simp] theorem State.keeps_fenceDone {F : List Field} {s₀ s : State} (id : Nat) (f : Flight)
    (hF : [.unsettled] ⊆ F) (h : s₀.keeps F s) :
    s₀.keeps F (State.fenceDone s id f) := by
  unfold State.fenceDone
  (repeat' split) <;> simp_all (maxDischargeDepth := 40)

/-- What a dispatch may change: what the end of a record may, and what the command's own work does. -/
theorem State.keeps_dispatch {F : List Field} {s t : State} {p q : Nat} {mine : Bytes → Bool} {skip : Site → Nat}
    {check : Site → Verdict} {run : State → Site → State}
    (hF : [.flash, .timer, .cycles, .dram, .spad, .hostMem, .caches, .unsettled, .parts, .streams, .prefixes, .flight, .nextId,
      .sigs, .near, .funcs, .handed, .log, .link, .trust, .peers, .rowHits, .perf, .out, .free, .ends] ⊆ F)
    (hrun : ∀ d : Site, s.site? p q = some d → s.keeps F (run s d)) (e : s.dispatch p q mine skip check run = .next t) :
    s.keeps F t := by
  have hs := State.keeps_self F s
  have hF' := hF
  simp only [List.cons_subset, List.nil_subset, and_true] at hF'
  have hend := fun (d : Site) (st : Status) (off sk : Nat) => State.keeps_endAtDispatch d st off sk hF hs
  unfold State.dispatch at e
  split at e
  · cases e; exact hs
  · rename_i d hd
    have hr := hrun d hd
    split at e
    · cases e; exact hend _ _ _ _
    · split at e
      · cases e; exact hs
      · split at e
        · cases e; exact hend _ _ _ _
        · split at e
          · cases e; exact hend _ _ _ _
          · split at e
            · cases e; exact hend _ _ _ _
            · cases e; exact hs
            · split at e
              · cases e; exact hend _ _ _ _
              · split at e
                · cases e
                  exact State.keeps_tick (by simp [hF']) (State.keeps_controlFails _ (by simp [hF']) hr)
                · cases e; exact hr

/-! ### Launching -/

/-- A launch takes the next identifier, and the command is in flight under it. -/
theorem State.launch_spec (s : State) (d : Site) (f : Flight) (k : Nat) :
    (s.launch d f k).2 = s.nextId ∧ (s.launch d f k).1.nextId = s.nextId + 1
      ∧ tget (s.launch d f k).1.flight s.nextId = some (s.issue d.p f) := by
  simp only [State.launch]
  generalize hu : (((({ s with flight := tput s.flight s.nextId (s.issue d.p f), nextId := s.nextId + 1 } : State).updQueue d.p d.q
    (fun Q => Q.advance k)).updPart d.p (fun P => { P with turns := tput P.turns d.Q.cluster d.q })).count 1 d.Q.cluster 0x43 1) = u
  have h := State.keeps_sampleDispatch (F := [.timer, .cycles, .perf, .free]) (s₀ := u) (s := u) d.Q.cluster s.nextId
    (by simp) (State.keeps_self _ _)
  have h1 := h.1 .nextId (by simp)
  have h2 := h.1 .flight (by simp)
  simp only [State.same] at h1 h2
  refine ⟨trivial, ?_, ?_⟩
  · rw [h1, ← hu]; rfl
  · rw [h2, ← hu]
    show tget (tput s.flight s.nextId (s.issue d.p f)) s.nextId = some (s.issue d.p f)
    simp [tget_tput]

/-- What follows a launch and neither ends commands nor takes identifiers leaves the record launched. -/
theorem State.launched_of_keeps {s t : State} {d : Site} {f : Flight} {k : Nat} {F : List Field} {e : Nat}
    (hp : f.p = d.p) (hq : f.q = d.q) (hb : f.bytes = d.b) (hpos : f.pos = d.rcd.pos) (he : f.engine = e)
    (hF : Field.ends ∉ F) (hN : Field.nextId ∉ F) (h : (s.launch d f k).1.keeps F t) : s.launched t d e := by
  obtain ⟨_, h2, h3⟩ := State.launch_spec s d f k
  have hn := h.1 .nextId hN
  have hfl := h.1 .ends hF
  simp only [State.same] at hn hfl
  obtain ⟨g, hg, hs⟩ := hfl _ _ h3
  simp only [Flight.sameCommand, State.issue] at hs
  exact ⟨by rw [hn, h2], g, hg, by simp [hs, hp], by simp [hs, hq], by simp [hs, hb], by simp [hs, hpos],
    by simp [hs, he]⟩

/-- A record whose header is legal, whose predicate holds and whose check lets it go runs. -/
theorem State.dispatch_go {s : State} {p q : Nat} {mine : Bytes → Bool} {skip : Site → Nat} {check : Site → Verdict}
    {run : State → Site → State} {d : Site} (hs : s.site? p q = some d) (hop : opRow? (recOp d.b) ≠ none)
    (hm : mine d.b = true) (hh : headerBad d.b = none) (hp : d.Q.predicate d.b = true) (hc : check d = .go)
    (hx : s.crossBroken d = false) (ht : s.tableBad d = false) :
    s.dispatch p q mine skip check run = .next (run s d) := by
  simp [State.dispatch, hs, hm, hh, hp, hc, hx, ht, Option.isNone_iff_eq_none, hop]

end Sys2Proof.Machine
end

