-- ==== Sys2Proof/Laws/Operands.lean ====
section
/-! SUPPORT. Operands.lean: what the operations of Machine/Operands.lean and Machine/Transfer.lean may change. -/

namespace Sys2Proof.Machine

/-! ### Operands.lean -/

@[simp] theorem State.keeps_putRun {F : List Field} {s₀ s : State} (wr : Writer) (P : Partition) (r : List BytePut)
    (hF : [.flash, .timer, .dram, .spad, .hostMem, .caches, .unsettled, .parts, .flight, .near, .funcs, .log, .rowHits,
    .perf, .out, .free] ⊆ F) (h : s₀.keeps F s) :
    s₀.keeps F (State.putRun s wr P r) := by
  unfold State.putRun
  (repeat' split) <;> simp_all (maxDischargeDepth := 40)

@[simp] theorem State.keeps_putFields {F : List Field} {s₀ s : State} (wr : Writer) (P : Partition) (l : List BitPut)
    (hF : [.flash, .timer, .dram, .spad, .hostMem, .caches, .unsettled, .parts, .flight, .near, .funcs, .log, .rowHits,
    .perf, .out, .free] ⊆ F) (h : s₀.keeps F s) :
    s₀.keeps F (State.putFields s wr P l) := by
  unfold State.putFields
  (repeat' split) <;> simp_all (maxDischargeDepth := 40)

@[simp] theorem State.keeps_putBits {F : List Field} {s₀ s : State} (wr : Writer) (P : Partition) (bitAddr : Int) (w v : Nat)
    (bad : Bool)
    (hF : [.flash, .timer, .dram, .spad, .hostMem, .caches, .unsettled, .parts, .flight, .near, .funcs, .log, .rowHits,
    .perf, .out, .free] ⊆ F) (h : s₀.keeps F s) :
    s₀.keeps F (State.putBits s wr P bitAddr w v bad) := by
  unfold State.putBits
  (repeat' split) <;> simp_all (maxDischargeDepth := 40)

@[simp] theorem State.keeps_putVa {F : List Field} {s₀ s : State} (wr : Writer) (P : Partition) (va : Nat) (b : Bytes) (bad : Bool)
    (hF : [.flash, .timer, .dram, .spad, .hostMem, .caches, .unsettled, .parts, .flight, .near, .funcs, .log, .rowHits,
    .perf, .out, .free] ⊆ F) (h : s₀.keeps F s) :
    s₀.keeps F (State.putVa s wr P va b bad) := by
  unfold State.putVa
  (repeat' split) <;> simp_all (maxDischargeDepth := 40)

@[simp] theorem State.keeps_putElem {F : List Field} {s₀ s : State} (wr : Writer) (P : Partition) (d : Desc) (x : Ix) (v : Nat)
    (bad : Bool)
    (hF : [.flash, .timer, .dram, .spad, .hostMem, .caches, .unsettled, .parts, .flight, .near, .funcs, .log, .rowHits,
    .perf, .out, .free] ⊆ F) (h : s₀.keeps F s) :
    s₀.keeps F (State.putElem s wr P d x v bad) := by
  unfold State.putElem
  (repeat' split) <;> simp_all (maxDischargeDepth := 40)

@[simp] theorem State.keeps_meetVa {F : List Field} {s₀ s : State} (p : Nat) (P : Partition) (r : VaRange)
    (hF : [.flash, .timer, .dram, .spad, .near, .funcs, .log, .rowHits, .perf, .out, .free] ⊆ F) (h : s₀.keeps F s) :
    s₀.keeps F (State.meetVa s p P r) := by
  unfold State.meetVa
  (repeat' split) <;> simp_all (maxDischargeDepth := 40)

@[simp] theorem State.keeps_readVa {F : List Field} {s₀ s : State} (id p : Nat) (P : Partition) (r : VaRange)
    (hF : [.flash, .timer, .dram, .spad, .flight, .near, .funcs, .log, .rowHits, .perf, .out, .free] ⊆ F) (h : s₀.keeps
    F s) :
    s₀.keeps F (State.readVa s id p P r) := by
  unfold State.readVa
  (repeat' split) <;> simp_all (maxDischargeDepth := 40)

@[simp] theorem State.keeps_begins {F : List Field} {s₀ s : State} (id : Nat) (a : Access) (l : List Seg) (free : Nat)
    (hF : [.flight] ⊆ F) (h : s₀.keeps F s) :
    s₀.keeps F (State.begins s id a l free) := by
  unfold State.begins
  exact State.keeps_updFlight id _ hF (fun x => by simp) h

@[simp] theorem State.keeps_readRanges {F : List Field} {s₀ s : State} (id p : Nat) (P : Partition) (l : List VaRange)
    (hF : [.flash, .timer, .dram, .spad, .flight, .near, .funcs, .log, .rowHits, .perf, .out, .free] ⊆ F) (h : s₀.keeps
    F s) :
    s₀.keeps F (State.readRanges s id p P l) := by
  unfold State.readRanges
  (repeat' split) <;> simp_all (maxDischargeDepth := 40)

@[simp] theorem State.keeps_fetchLine {F : List Field} {s₀ s : State} (a : Access) (c addr : Nat)
    (hF : [.caches, .perf] ⊆ F) (h : s₀.keeps F s) :
    s₀.keeps F (State.fetchLine s a c addr) := by
  unfold State.fetchLine
  (repeat' split) <;> simp_all (maxDischargeDepth := 40)

@[simp] theorem State.keeps_installLines {F : List Field} {s₀ s : State} (a : Access) (l : List VaRange)
    (hF : [.caches, .perf] ⊆ F) (h : s₀.keeps F s) :
    s₀.keeps F (State.installLines s a l) := by
  unfold State.installLines
  (repeat' split) <;> simp_all (maxDischargeDepth := 40)

/-! ### Transfer.lean -/

@[simp] theorem State.keeps_putAll {F : List Field} {s₀ s : State} (wr : Writer) (P : Partition) (d : Desc) (l : List Put)
    (hF : [.flash, .timer, .dram, .spad, .hostMem, .caches, .unsettled, .parts, .flight, .near, .funcs, .log, .rowHits,
    .perf, .out, .free] ⊆ F) (h : s₀.keeps F s) :
    s₀.keeps F (State.putAll s wr P d l) := by
  unfold State.putAll
  (repeat' split) <;> simp_all (maxDischargeDepth := 40)

@[simp] theorem State.keeps_accumulate {F : List Field} {s₀ s : State} (wr : Writer) (P : Partition) (d : Desc) (x : Ix) (v :
    Num) (bad : Bool)
    (hF : [.flash, .timer, .dram, .spad, .hostMem, .caches, .unsettled, .parts, .flight, .near, .funcs, .log, .rowHits,
    .perf, .out, .free] ⊆ F) (h : s₀.keeps F s) :
    s₀.keeps F (State.accumulate s wr P d x v bad) := by
  unfold State.accumulate
  (repeat' split) <;> simp_all (maxDischargeDepth := 40)

@[simp] theorem State.keeps_launchTransfer {F : List Field} {s₀ s : State} (d : Site) (m : Moved)
    (hF : [.timer, .cycles, .parts, .flight, .nextId, .perf, .free, .ends] ⊆ F) (h : s₀.keeps F s) :
    s₀.keeps F (State.launchTransfer s d m).1 := by
  unfold State.launchTransfer
  (repeat' split) <;> simp_all (maxDischargeDepth := 40)

@[simp] theorem State.keeps_moveBox {F : List Field} {s₀ s : State} (a : Access) (wr : Writer) (src dst : Desc) (pad : Bool)
    (padVal : Nat) (acc : Bool)
    (hF : [.flash, .timer, .dram, .spad, .hostMem, .caches, .unsettled, .parts, .flight, .near, .funcs, .log, .rowHits,
    .perf, .out, .free] ⊆ F) (h : s₀.keeps F s) :
    s₀.keeps F (State.moveBox s a wr src dst pad padVal acc).1 := by
  unfold State.moveBox
  (repeat' split) <;> simp_all (maxDischargeDepth := 40)

/-- What a transfer may change: its launch, its reads, and what its own work does. -/
@[simp] theorem State.keeps_transferRun {F : List Field} {s₀ s : State} (d : Site) (m : Moved) (cached : Bool)
    (work : State → Access → Writer → State × Bool)
    (hF : [.flash, .timer, .cycles, .dram, .spad, .hostMem, .caches, .parts, .flight, .nextId, .near, .funcs, .log, .rowHits,
      .perf, .out, .free, .ends] ⊆ F)
    (hw : ∀ (u : State) (a : Access) (w : Writer), u.keeps F (work u a w).1) (h : s₀.keeps F s) :
    s₀.keeps F (s.transferRun d m cached work) := by
  have hF' := hF
  simp only [List.cons_subset, List.nil_subset, and_true] at hF'
  unfold State.transferRun
  split
  rename_i s1 id heq
  have h1 : s₀.keeps F s1 := by
    rw [show s1 = (s.launchTransfer d m).1 by rw [heq]]
    exact State.keeps_launchTransfer d m (by simp [hF']) h
  clear heq
  split
  · exact h1
  split
  · simp (maxDischargeDepth := 40) [hF', h1]
  · extract_lets a wr s'
    have h2 : s₀.keeps F s' := by
      exact State.keeps_begins _ _ _ _ (by simp [hF']) (State.keeps_installLines _ _ (by simp [hF']) h1)
    split
    rename_i t bad heq
    have h3 : s₀.keeps F t := State.keeps_trans h2 (by
      rw [show t = (work s' a wr).1 by rw [heq]]
      exact hw _ _ _)
    clear heq
    simp (maxDischargeDepth := 40) [hF', h3]


@[simp] theorem State.keeps_loadRun {F : List Field} {s₀ s : State} (d : Site)
    (hF : [.flash, .timer, .cycles, .dram, .spad, .hostMem, .caches, .unsettled, .parts, .flight, .nextId, .near,
    .funcs, .log, .rowHits, .perf, .out, .free, .ends] ⊆ F) (h : s₀.keeps F s) :
    s₀.keeps F (State.loadRun s d) := by
  have hF' := hF
  simp only [List.cons_subset, List.nil_subset, and_true] at hF'
  unfold State.loadRun
  dsimp only
  refine State.keeps_transferRun _ _ _ _ (by simp [hF']) (fun u a w => ?_) h
  (repeat' split) <;> simp_all (maxDischargeDepth := 40)

@[simp] theorem State.keeps_storeRun {F : List Field} {s₀ s : State} (d : Site)
    (hF : [.flash, .timer, .cycles, .dram, .spad, .hostMem, .caches, .unsettled, .parts, .flight, .nextId, .near,
    .funcs, .log, .rowHits, .perf, .out, .free, .ends] ⊆ F) (h : s₀.keeps F s) :
    s₀.keeps F (State.storeRun s d) := by
  have hF' := hF
  simp only [List.cons_subset, List.nil_subset, and_true] at hF'
  unfold State.storeRun
  dsimp only
  refine State.keeps_transferRun _ _ _ _ (by simp [hF']) (fun u a w => ?_) h
  (repeat' split) <;> simp_all (maxDischargeDepth := 40)

@[simp] theorem State.keeps_copyRun {F : List Field} {s₀ s : State} (d : Site)
    (hF : [.flash, .timer, .cycles, .dram, .spad, .hostMem, .caches, .unsettled, .parts, .flight, .nextId, .near,
    .funcs, .log, .rowHits, .perf, .out, .free, .ends] ⊆ F) (h : s₀.keeps F s) :
    s₀.keeps F (State.copyRun s d) := by
  have hF' := hF
  simp only [List.cons_subset, List.nil_subset, and_true] at hF'
  unfold State.copyRun
  dsimp only
  refine State.keeps_transferRun _ _ _ _ (by simp [hF']) (fun u a w => ?_) h
  (repeat' split) <;> simp_all (maxDischargeDepth := 40)

@[simp] theorem State.keeps_gatherRun {F : List Field} {s₀ s : State} (d : Site)
    (hF : [.flash, .timer, .cycles, .dram, .spad, .hostMem, .caches, .unsettled, .parts, .flight, .nextId, .near,
    .funcs, .log, .rowHits, .perf, .out, .free, .ends] ⊆ F) (h : s₀.keeps F s) :
    s₀.keeps F (State.gatherRun s d) := by
  have hF' := hF
  simp only [List.cons_subset, List.nil_subset, and_true] at hF'
  unfold State.gatherRun
  dsimp only
  refine State.keeps_transferRun _ _ _ _ (by simp [hF']) (fun u a w => ?_) h
  (repeat' split) <;> simp_all (maxDischargeDepth := 40)

@[simp] theorem State.keeps_scatterRun {F : List Field} {s₀ s : State} (d : Site)
    (hF : [.flash, .timer, .cycles, .dram, .spad, .hostMem, .caches, .unsettled, .parts, .flight, .nextId, .near,
    .funcs, .log, .rowHits, .perf, .out, .free, .ends] ⊆ F) (h : s₀.keeps F s) :
    s₀.keeps F (State.scatterRun s d) := by
  have hF' := hF
  simp only [List.cons_subset, List.nil_subset, and_true] at hF'
  unfold State.scatterRun
  dsimp only
  refine State.keeps_transferRun _ _ _ _ (by simp [hF']) (fun u a w => ?_) h
  (repeat' split) <;> simp_all (maxDischargeDepth := 40)

end Sys2Proof.Machine
end

