-- ==== Sys2Proof/Laws/Compute.lean ====
section
/-! SUPPORT. Compute.lean: what the operations of Machine/Matrix.lean and Machine/Vector.lean may change. -/

namespace Sys2Proof.Machine

/-! ### Matrix.lean -/

@[simp] theorem State.keeps_matrixRun {F : List Field} {s₀ s : State} (d : Site) (quant : Bool)
    (hF : [.flash, .timer, .cycles, .dram, .spad, .hostMem, .caches, .unsettled, .parts, .flight, .nextId, .near,
    .funcs, .log, .rowHits, .perf, .out, .free, .ends] ⊆ F) (h : s₀.keeps F s) :
    s₀.keeps F (State.matrixRun s d quant) := by
  unfold State.matrixRun
  (repeat' split) <;> simp_all (maxDischargeDepth := 40)

/-! ### Vector.lean -/

@[simp] theorem State.keeps_sampleCounter {F : List Field} {s₀ s : State} (sel : Nat)
    (hF : [.perf, .free] ⊆ F) (h : s₀.keeps F s) :
    s₀.keeps F (State.sampleCounter s sel).2 := by
  unfold State.sampleCounter
  (repeat' split) <;> simp_all (maxDischargeDepth := 40)

/-- What a vector command may change: its launch, its reads, and what its own work does. -/
@[simp] theorem State.keeps_vectorRun {F : List Field} {s₀ s : State} (d : Site) (idle : Bool) (reads writes : List VaRange)
    (work : State → Access → Writer → State × Bool)
    (hF : [.flash, .timer, .cycles, .dram, .spad, .parts, .flight, .nextId, .near, .funcs, .log, .rowHits, .perf, .out,
      .free, .ends] ⊆ F)
    (hw : ∀ (u : State) (a : Access) (w : Writer), u.keeps F (work u a w).1) (h : s₀.keeps F s) :
    s₀.keeps F (s.vectorRun d idle reads writes work) := by
  have hF' := hF
  simp only [List.cons_subset, List.nil_subset, and_true] at hF'
  unfold State.vectorRun
  extract_lets e _ f a
  split
  rename_i s1 id heq
  have h1 : s₀.keeps F s1 := by
    rw [show s1 = (s.launch d f 0).1 by rw [heq]]
    exact State.keeps_launch d f 0 (by simp [hF']) h
  clear heq
  extract_lets s2
  have h2 : s₀.keeps F s2 := by
    simp only [s2]
    cases idle <;> simp [hF', h1]
  clear_value s2
  split
  rename_i t bad heq
  have h3 : s₀.keeps F t := by
    cases idle
    · rw [show t = (work s2 a (d.writer id e 1)).1 by simpa using (congrArg Prod.fst heq).symm]
      exact State.keeps_trans h2 (hw _ _ _)
    · rw [show t = s2 by simpa using (congrArg Prod.fst heq).symm]
      exact h2
  clear heq
  simp (maxDischargeDepth := 40) [hF', h3]


@[simp] theorem State.keeps_vopRun {F : List Field} {s₀ s : State} (d : Site)
    (hF : [.flash, .timer, .cycles, .dram, .spad, .hostMem, .caches, .unsettled, .parts, .flight, .nextId, .near,
    .funcs, .log, .rowHits, .perf, .out, .free, .ends] ⊆ F) (h : s₀.keeps F s) :
    s₀.keeps F (State.vopRun s d) := by
  have hF' := hF
  simp only [List.cons_subset, List.nil_subset, and_true] at hF'
  unfold State.vopRun
  dsimp only
  refine State.keeps_vectorRun _ _ _ _ _ (by simp [hF']) (fun u a w => ?_) h
  (repeat' split) <;> simp_all (maxDischargeDepth := 40)

@[simp] theorem State.keeps_readCtrRun {F : List Field} {s₀ s : State} (d : Site)
    (hF : [.flash, .timer, .cycles, .dram, .spad, .hostMem, .caches, .unsettled, .parts, .flight, .nextId, .near,
    .funcs, .log, .rowHits, .perf, .out, .free, .ends] ⊆ F) (h : s₀.keeps F s) :
    s₀.keeps F (State.readCtrRun s d) := by
  have hF' := hF
  simp only [List.cons_subset, List.nil_subset, and_true] at hF'
  unfold State.readCtrRun
  dsimp only
  refine State.keeps_vectorRun _ _ _ _ _ (by simp [hF']) (fun u a w => ?_) h
  (repeat' split) <;> simp_all (maxDischargeDepth := 40)

@[simp] theorem State.keeps_vredRun {F : List Field} {s₀ s : State} (d : Site)
    (hF : [.flash, .timer, .cycles, .dram, .spad, .hostMem, .caches, .unsettled, .parts, .flight, .nextId, .near,
    .funcs, .log, .rowHits, .perf, .out, .free, .ends] ⊆ F) (h : s₀.keeps F s) :
    s₀.keeps F (State.vredRun s d) := by
  have hF' := hF
  simp only [List.cons_subset, List.nil_subset, and_true] at hF'
  unfold State.vredRun
  dsimp only
  split
  · refine State.keeps_vectorRun _ _ _ _ _ (by simp [hF']) (fun u a w => ?_) h
    (repeat' split) <;> simp_all (maxDischargeDepth := 40)
  · refine State.keeps_vectorRun _ _ _ _ _ (by simp [hF']) (fun u a w => ?_) h
    split
    · simp (maxDischargeDepth := 40) [hF']
    split
    · simp (maxDischargeDepth := 40) [hF']
    refine State.keeps_foldl Prod.fst _ _ (fun b x => ?_) (by simp (maxDischargeDepth := 40) [hF'])
    (repeat' split) <;> simp (maxDischargeDepth := 40) [hF']

@[simp] theorem State.keeps_vquantRun {F : List Field} {s₀ s : State} (d : Site)
    (hF : [.flash, .timer, .cycles, .dram, .spad, .hostMem, .caches, .unsettled, .parts, .flight, .nextId, .near,
    .funcs, .log, .rowHits, .perf, .out, .free, .ends] ⊆ F) (h : s₀.keeps F s) :
    s₀.keeps F (State.vquantRun s d) := by
  have hF' := hF
  simp only [List.cons_subset, List.nil_subset, and_true] at hF'
  unfold State.vquantRun
  dsimp only
  refine State.keeps_vectorRun _ _ _ _ _ (by simp [hF']) (fun u a w => ?_) h
  (repeat' split) <;> simp_all (maxDischargeDepth := 40)

@[simp] theorem State.keeps_vdeqRun {F : List Field} {s₀ s : State} (d : Site)
    (hF : [.flash, .timer, .cycles, .dram, .spad, .hostMem, .caches, .unsettled, .parts, .flight, .nextId, .near,
    .funcs, .log, .rowHits, .perf, .out, .free, .ends] ⊆ F) (h : s₀.keeps F s) :
    s₀.keeps F (State.vdeqRun s d) := by
  have hF' := hF
  simp only [List.cons_subset, List.nil_subset, and_true] at hF'
  unfold State.vdeqRun
  dsimp only
  refine State.keeps_vectorRun _ _ _ _ _ (by simp [hF']) (fun u a w => ?_) h
  (repeat' split) <;> simp_all (maxDischargeDepth := 40)

@[simp] theorem State.keeps_vtopkRun {F : List Field} {s₀ s : State} (d : Site)
    (hF : [.flash, .timer, .cycles, .dram, .spad, .hostMem, .caches, .unsettled, .parts, .flight, .nextId, .near,
    .funcs, .log, .rowHits, .perf, .out, .free, .ends] ⊆ F) (h : s₀.keeps F s) :
    s₀.keeps F (State.vtopkRun s d) := by
  have hF' := hF
  simp only [List.cons_subset, List.nil_subset, and_true] at hF'
  unfold State.vtopkRun
  dsimp only
  refine State.keeps_vectorRun _ _ _ _ _ (by simp [hF']) (fun u a w => ?_) h
  exact State.keeps_foldl Prod.fst _ _ (fun b x => by simp (maxDischargeDepth := 40) [hF']) (State.keeps_self _ _)

end Sys2Proof.Machine
end

