-- ==== Sys2Proof/Laws/Serve.lean ====
section
/-! SUPPORT. Serve.lean: what serving a message may change. -/

namespace Sys2Proof.Machine

/-! ### Serve.lean -/

@[simp] theorem State.keeps_hostFails {F : List Field} {s₀ s : State} (fn : Nat)
    (hF : [.timer, .funcs, .handed, .log, .out, .free] ⊆ F) (h : s₀.keeps F s) :
    s₀.keeps F (State.hostFails s fn) := by
  unfold State.hostFails
  (repeat' split) <;> simp_all (maxDischargeDepth := 40)

@[simp] theorem State.keeps_endAtHeader {F : List Field} {s₀ s : State} (fn : Nat) (e : Answer × Bytes)
    (hF : [.timer, .funcs, .handed, .log, .out, .free] ⊆ F) (h : s₀.keeps F s) :
    s₀.keeps F (State.endAtHeader s fn e) := by
  unfold State.endAtHeader
  (repeat' split) <;> simp_all (maxDischargeDepth := 40)

@[simp] theorem State.keeps_okay {F : List Field} {s₀ s : State} (m : Msg) (body : Bytes)
    (hF : [.funcs, .handed, .out] ⊆ F) (h : s₀.keeps F s) :
    s₀.keeps F (State.okay s m body) := by
  unfold State.okay
  (repeat' split) <;> simp_all (maxDischargeDepth := 40)

@[simp] theorem State.keeps_checked {F : List Field} {s₀ s go : State} (m : Msg) (fields : List (Nat × Bool))
    (conds : List (Option Nat × Bool)) (hF : [.funcs, .handed, .out] ⊆ F) (h : s₀.keeps F s) (hgo : s₀.keeps F go) :
    s₀.keeps F (s.checked m fields conds go) := by
  unfold State.checked
  split
  · exact State.keeps_respond _ _ _ hF h
  · split
    · exact State.keeps_respond _ _ _ hF h
    · exact hgo

/-- What serving a message may change: what its answer may, and what the message's own effect does. -/
theorem State.keeps_serve {F : List Field} {s t : State} {fn : Nat} {row : MsgRow} {run : State → Msg → State}
    (hF : [.timer, .funcs, .handed, .log, .out, .free] ⊆ F) (hrun : ∀ m : Msg, s.keeps F (run s m))
    (e : s.serve fn row run = .next t) : s.keeps F t := by
  have hs := State.keeps_self F s
  have hF' := hF
  simp only [List.cons_subset, List.nil_subset, and_true] at hF'
  have ans := fun (a : Answer) (b : Bytes) => State.keeps_respond (s₀ := s) (F := F) fn a b (by simp [hF']) hs
  unfold State.serve at e
  dsimp only at e
  split at e
  · cases e; exact hs
  · split at e
    · cases e; exact hs
    · split at e
      · cases e; exact State.keeps_endAtHeader _ _ hF hs
      · split at e
        · cases e; exact hs
        · split at e
          · cases e; exact ans _ _
          · split at e
            · cases e; exact ans _ _
            · split at e
              · split at e
                · cases e; exact ans _ _
                · cases e; exact ans _ _
              · cases e; exact hrun _

end Sys2Proof.Machine
end

