-- ==== Sys2Proof/Laws/Near.lean ====
section
/-! SUPPORT. Near.lean: what the operations of Machine/Mantle.lean, Machine/NearExpand.lean and Machine/NearBank.lean may change. -/

namespace Sys2Proof.Machine

/-! ### Mantle.lean -/

@[simp] theorem State.keeps_endControl {F : List Field} {s₀ s : State} (id : Nat)
    (hF : [.dram, .spad, .hostMem, .free] ⊆ F) (h : s₀.keeps F s) :
    s₀.keeps F (State.endControl s id) := by
  unfold State.endControl
  (repeat' split) <;> simp_all (maxDischargeDepth := 40)

@[simp] theorem State.keeps_attnRun {F : List Field} {s₀ s : State} (d : Site)
    (hF : [.flash, .timer, .cycles, .dram, .spad, .hostMem, .caches, .unsettled, .parts, .flight, .nextId, .near,
    .funcs, .log, .rowHits, .perf, .out, .free, .ends] ⊆ F) (h : s₀.keeps F s) :
    s₀.keeps F (State.attnRun s d) := by
  have hF' := hF
  simp only [List.cons_subset, List.nil_subset, and_true] at hF'
  unfold State.attnRun
  extract_lets t
  split
  · exact h
  extract_lets a firsts outs dones ecc rows f₀ f seed
  split
  rename_i s1 id heq
  have h1 : s₀.keeps F s1 := by
    rw [← show _ = s1 from congrArg Prod.fst heq]
    exact State.keeps_launch _ _ _ (by simp [hF']) h
  clear heq
  extract_lets s2 wr t'
  have h2 : s₀.keeps F s2 := State.keeps_begins _ _ _ _ (by simp [hF']) h1
  have ht : s₀.keeps F t' := by
    refine State.keeps_foldl (fun x => x) _ _ (fun u e => ?_) h2
    dsimp only
    split
    · simp [hF']
    · exact State.keeps_foldl (fun x => x) _ _ (fun v st => by simp [hF']) (by simp [hF'])
    · refine State.keeps_foldl (fun x => x) _ _ (fun v r => by simp (maxDischargeDepth := 40) [hF']) ?_
      (repeat' split) <;> simp (maxDischargeDepth := 40) [hF']
  clear_value t'
  simp (maxDischargeDepth := 40) [hF', ht]

@[simp] theorem State.keeps_attnMergeRun {F : List Field} {s₀ s : State} (d : Site)
    (hF : [.flash, .timer, .cycles, .dram, .spad, .hostMem, .caches, .unsettled, .parts, .flight, .nextId, .near,
    .funcs, .log, .rowHits, .perf, .out, .free, .ends] ⊆ F) (h : s₀.keeps F s) :
    s₀.keeps F (State.attnMergeRun s d) := by
  have hF' := hF
  simp only [List.cons_subset, List.nil_subset, and_true] at hF'
  unfold State.attnMergeRun
  extract_lets m a dones ecc rows f₀ f seed
  split
  rename_i s1 id heq
  have h1 : s₀.keeps F s1 := by
    rw [← show _ = s1 from congrArg Prod.fst heq]
    exact State.keeps_launch _ _ _ (by simp [hF']) h
  clear heq
  extract_lets s2 wr t'
  have h2 : s₀.keeps F s2 := State.keeps_begins _ _ _ _ (by simp [hF']) h1
  have ht : s₀.keeps F t' := by
    refine State.keeps_foldl (fun x => x) _ _ (fun u e => ?_) h2
    dsimp only
    split
    · simp (maxDischargeDepth := 40) [hF']
    · simp [hF']
    · refine State.keeps_foldl (fun x => x) _ _ (fun v r => by simp (maxDischargeDepth := 40) [hF']) ?_
      (repeat' split) <;> simp (maxDischargeDepth := 40) [hF']
  clear_value t'
  simp (maxDischargeDepth := 40) [hF', ht]

@[simp] theorem State.keeps_hostoutRun {F : List Field} {s₀ s : State} (d : Site)
    (hF : [.flash, .timer, .cycles, .dram, .spad, .hostMem, .caches, .unsettled, .parts, .flight, .nextId, .near,
    .funcs, .log, .rowHits, .perf, .out, .free, .ends] ⊆ F) (h : s₀.keeps F s) :
    s₀.keeps F (State.hostoutRun s d) := by
  have hF' := hF
  simp only [List.cons_subset, List.nil_subset, and_true] at hF'
  unfold State.hostoutRun
  extract_lets _ _ _ _ _ _ _ _ _ _ _ _ _ step
  split
  rename_i s1 id heq
  have h1 : s₀.keeps F s1 := by
    rw [← show _ = s1 from congrArg Prod.fst heq]
    exact State.keeps_launch _ _ _ (by simp [hF']) h
  clear heq
  extract_lets s2
  have h2 : s₀.keeps F s2 := State.keeps_begins _ _ _ _ (by simp [hF']) h1
  clear_value s2
  (repeat' split) <;> first | exact h2 | simp (maxDischargeDepth := 40) +zetaDelta [hF', h2]

/-! ### NearExpand.lean -/

/-! ### NearBank.lean -/

@[simp] theorem State.keeps_accept {F : List Field} {s₀ s : State} (e : Entry)
    (hF : [.near] ⊆ F) (h : s₀.keeps F s) :
    s₀.keeps F (State.accept s e) := by
  unfold State.accept
  (repeat' split) <;> simp_all (maxDischargeDepth := 40)

@[simp] theorem State.keeps_updNb {F : List Field} {s₀ s : State} (id : Nat) (g : Nb → Nb)
    (hF : [.flight] ⊆ F) (h : s₀.keeps F s) :
    s₀.keeps F (State.updNb s id g) := by
  unfold State.updNb
  exact State.keeps_updFlight _ _ hF (fun x => by simp) h

@[simp] theorem State.keeps_sendEntries {F : List Field} {s₀ s : State} (id : Nat) (a0 : Nat)
    (hF : [.flight, .near] ⊆ F) (h : s₀.keeps F s) :
    s₀.keeps F (State.sendEntries s id a0) := by
  induction a0 generalizing s with
  | zero => exact h
  | succ k ih =>
    unfold State.sendEntries
    (repeat' split) <;> simp_all (maxDischargeDepth := 40)

@[simp] theorem State.keeps_expanded {F : List Field} {s₀ s : State} (id : Nat) (f : Flight) (d : Site) (x : Exp)
    (hF : [.flight, .perf, .free] ⊆ F) (h : s₀.keeps F s) :
    s₀.keeps F (State.expanded s id f d x) := by
  have hF' := hF
  simp only [List.cons_subset, List.nil_subset, and_true] at hF'
  unfold State.expanded
  extract_lets s1 s2
  have h1 : s₀.keeps F s1 := by simp [s1, hF', h]
  clear_value s1
  have h2 : s₀.keeps F s2 := State.keeps_updFlight _ _ (by simp [hF']) (fun y => by simp) h1
  clear_value s2
  simp (maxDischargeDepth := 40) [hF', h2]

@[simp] theorem State.keeps_beginExpansion {F : List Field} {s₀ s : State} (id : Nat) (f : Flight) (l : List Span)
    (hF : [.flight, .perf, .free] ⊆ F) (h : s₀.keeps F s) :
    s₀.keeps F (State.beginExpansion s id f l) := by
  unfold State.beginExpansion
  (repeat' split) <;> simp_all (maxDischargeDepth := 40)

@[simp] theorem State.keeps_finishPartial {F : List Field} {s₀ s : State} (r : PartialRec)
    (hF : [.flight, .near] ⊆ F) (h : s₀.keeps F s) :
    s₀.keeps F (State.finishPartial s r) := by
  unfold State.finishPartial
  (repeat' split) <;> simp_all (maxDischargeDepth := 40)

@[simp] theorem State.keeps_setSram {F : List Field} {s₀ s : State} (bank : Nat) (m : Sram)
    (hF : [.near] ⊆ F) (h : s₀.keeps F s) :
    s₀.keeps F (State.setSram s bank m) := by
  unfold State.setSram
  (repeat' split) <;> simp_all (maxDischargeDepth := 40)

@[simp] theorem State.keeps_setCuff {F : List Field} {s₀ s : State} (bank : Nat) (c : Cuff)
    (hF : [.near] ⊆ F) (h : s₀.keeps F s) :
    s₀.keeps F (State.setCuff s bank c) := by
  unfold State.setCuff
  (repeat' split) <;> simp_all (maxDischargeDepth := 40)

@[simp] theorem State.keeps_cuffMeet {F : List Field} {s₀ s : State} (cmd : Nat) (g : Seg)
    (hF : [.flash, .timer, .dram, .spad, .near, .funcs, .log, .rowHits, .perf, .out, .free] ⊆ F) (h : s₀.keeps F s) :
    s₀.keeps F (State.cuffMeet s cmd g) := by
  unfold State.cuffMeet
  (repeat' split) <;> simp_all (maxDischargeDepth := 40)

@[simp] theorem State.keeps_finishBags {F : List Field} {s₀ s : State} (cmd bank : Nat) (n : Nb)
    (hF : [.flight, .near] ⊆ F) (h : s₀.keeps F s) :
    s₀.keeps F (State.finishBags s cmd bank n) := by
  unfold State.finishBags
  (repeat' split) <;> simp_all (maxDischargeDepth := 40)

@[simp] theorem State.keeps_deliver {F : List Field} {s₀ s : State} (f : Flight) (n : Nb) (id : Nat) (pair : Pair) (pc : Nat)
    (hF : [.flash, .timer, .dram, .spad, .flight, .near, .funcs, .log, .rowHits, .perf, .out, .free] ⊆ F) (h : s₀.keeps
    F s) :
    s₀.keeps F (State.deliver s f n id pair pc).1 := by
  unfold State.deliver
  (repeat' split) <;> simp_all (maxDischargeDepth := 40)

@[simp] theorem State.keeps_passes {F : List Field} {s₀ s : State} (f : Flight) (t : NbAttend) (o : Pool) (bank cmd : Nat) (h_ :
    AttHold) (rows : Bytes) (a0 : Nat) (a1 : Nat)
    (hF : [.flash, .timer, .dram, .spad, .near, .funcs, .log, .rowHits, .perf, .out, .free] ⊆ F) (h : s₀.keeps F s) :
    s₀.keeps F (State.passes s f t o bank cmd h_ rows a0 a1).1 := by
  have hF' := hF
  simp only [List.cons_subset, List.nil_subset, and_true] at hF'
  induction a0 generalizing s a1 with
  | zero => exact h
  | succ k ih =>
    unfold State.passes
    dsimp only
    exact ih _ (State.keeps_foldl Prod.fst _ _ (fun b e => by dsimp only; simp (maxDischargeDepth := 40) [hF']) (by simp [hF', h]))

@[simp] theorem State.keeps_finishPair {F : List Field} {s₀ s : State} (f : Flight) (cmd bank : Nat) (n : Nb)
    (hF : [.flash, .timer, .dram, .spad, .flight, .near, .funcs, .log, .rowHits, .perf, .out, .free] ⊆ F) (h : s₀.keeps
    F s) :
    s₀.keeps F (State.finishPair s f cmd bank n) := by
  unfold State.finishPair
  dsimp only
  (repeat' split) <;> simp_all (maxDischargeDepth := 40)

@[simp] theorem State.keeps_attendEntry {F : List Field} {s₀ s : State} (f : Flight) (n : Nb) (e : Entry) (pair : Pair) (j addr
    : Nat) (hurt : Bool)
    (hF : [.flash, .timer, .dram, .spad, .flight, .near, .funcs, .log, .rowHits, .perf, .out, .free] ⊆ F) (h : s₀.keeps
    F s) :
    s₀.keeps F (State.attendEntry s f n e pair j addr hurt) := by
  unfold State.attendEntry
  (repeat' split) <;> simp_all (maxDischargeDepth := 40)

@[simp] theorem State.keeps_poolEntry {F : List Field} {s₀ s : State} (f : Flight) (n : Nb) (e : Entry) (bag addr : Nat) (weight
    : W32) (hurt : Bool) (acc : List Nat)
    (hF : [.flash, .timer, .dram, .spad, .flight, .near, .funcs, .log, .rowHits, .perf, .out, .free] ⊆ F) (h : s₀.keeps
    F s) :
    s₀.keeps F (State.poolEntry s f n e bag addr weight hurt acc) := by
  unfold State.poolEntry
  (repeat' split) <;> simp_all (maxDischargeDepth := 40)

@[simp] theorem State.keeps_scanEntry {F : List Field} {s₀ s : State} (f : Flight) (e : Entry) (ordinal addr : Nat) (hurt :
    Bool) (row : Option Nat)
    (hF : [.flash, .timer, .dram, .spad, .flight, .near, .funcs, .log, .rowHits, .perf, .out, .free] ⊆ F) (h : s₀.keeps
    F s) :
    s₀.keeps F (State.scanEntry s f e ordinal addr hurt row) := by
  unfold State.scanEntry
  (repeat' split) <;> simp_all (maxDischargeDepth := 40)

@[simp] theorem State.keeps_cuffWrite {F : List Field} {s₀ s : State} (w : Writer) (addr : Nat) (b : Bytes) (bad : List Nat)
    (hF : [.dram, .unsettled, .flight, .near] ⊆ F) (h : s₀.keeps F s) :
    s₀.keeps F (State.cuffWrite s w addr b bad) := by
  unfold State.cuffWrite
  (repeat' split) <;> simp_all (maxDischargeDepth := 40)

@[simp] theorem State.keeps_fillEntry {F : List Field} {s₀ s : State} (f : Flight) (e : Entry) (addr len : Nat)
    (hF : [.dram, .unsettled, .flight, .near] ⊆ F) (h : s₀.keeps F s) :
    s₀.keeps F (State.fillEntry s f e addr len) := by
  unfold State.fillEntry
  (repeat' split) <;> simp_all (maxDischargeDepth := 40)

@[simp] theorem State.keeps_axpyEntry {F : List Field} {s₀ s : State} (f : Flight) (e : Entry) (x y len : Nat) (hurt : List Nat)
    (hF : [.flash, .timer, .dram, .spad, .unsettled, .flight, .near, .funcs, .log, .rowHits, .perf, .out, .free] ⊆ F) (h
    : s₀.keeps F s) :
    s₀.keeps F (State.axpyEntry s f e x y len hurt) := by
  unfold State.axpyEntry
  (repeat' split) <;> simp_all (maxDischargeDepth := 40)

@[simp] theorem State.keeps_quantEntry {F : List Field} {s₀ s : State} (f : Flight) (e : Entry) (src dst units : Nat) (hurt :
    List (Nat × Nat))
    (hF : [.flash, .timer, .dram, .spad, .unsettled, .flight, .near, .funcs, .log, .rowHits, .perf, .out, .free] ⊆ F) (h
    : s₀.keeps F s) :
    s₀.keeps F (State.quantEntry s f e src dst units hurt) := by
  unfold State.quantEntry
  (repeat' split) <;> simp_all (maxDischargeDepth := 40)

@[simp] theorem State.keeps_fenceCuff {F : List Field} {s₀ s : State} (bank cause : Nat)
    (hF : [.boot, .timer, .funcs, .log, .out, .free] ⊆ F) (h : s₀.keeps F s) :
    s₀.keeps F (State.fenceCuff s bank cause) := by
  unfold State.fenceCuff
  (repeat' split) <;> simp_all (maxDischargeDepth := 40)

@[simp] theorem State.keeps_closeBank {F : List Field} {s₀ s : State} (id bank : Nat) (f : Flight) (n : Nb)
    (hF : [.flash, .timer, .dram, .spad, .flight, .near, .funcs, .log, .rowHits, .perf, .out, .free] ⊆ F) (h : s₀.keeps
    F s) :
    s₀.keeps F (State.closeBank s id bank f n) := by
  unfold State.closeBank
  (repeat' split) <;> simp_all (maxDischargeDepth := 40)

@[simp] theorem State.keeps_closeBanks {F : List Field} {s₀ s : State} (id : Nat)
    (hF : [.flash, .timer, .dram, .spad, .flight, .near, .funcs, .log, .rowHits, .perf, .out, .free] ⊆ F) (h : s₀.keeps
    F s) :
    s₀.keeps F (State.closeBanks s id) := by
  have hF' := hF
  simp only [List.cons_subset, List.nil_subset, and_true] at hF'
  unfold State.closeBanks
  refine State.keeps_each _ (fun u b => ?_) h
  split
  · exact State.keeps_ite (by simp (maxDischargeDepth := 40) [hF']) (State.keeps_self _ _)
  · exact State.keeps_self _ _

@[simp] theorem State.keeps_afterEntry {F : List Field} {s₀ s : State} (id bank : Nat)
    (hF : [.flash, .timer, .dram, .spad, .flight, .near, .funcs, .log, .rowHits, .perf, .out, .free] ⊆ F) (h : s₀.keeps
    F s) :
    s₀.keeps F (State.afterEntry s id bank) := by
  unfold State.afterEntry
  dsimp only
  (repeat' split) <;> simp_all (maxDischargeDepth := 40)

@[simp] theorem State.keeps_runExpansions {F : List Field} {s₀ s : State} (c : Nat) (a0 : Nat)
    (hF : [.flight, .near, .perf, .free] ⊆ F) (h : s₀.keeps F s) :
    s₀.keeps F (State.runExpansions s c a0) := by
  induction a0 generalizing s with
  | zero => exact h
  | succ k ih =>
    have hF' := hF
    simp only [List.cons_subset, List.nil_subset, and_true] at hF'
    unfold State.runExpansions
    split
    · exact h
    · extract_lets s1 len s2
      have h1 : s₀.keeps F s1 := by simp [s1, hF', h]
      clear_value s1
      have h2 : s₀.keeps F s2 := by simp [s2, hF', h1]
      clear_value s2
      (repeat' split)
      · exact ih h2
      · exact h2
      · exact h2

@[simp] theorem State.keeps_nearRun {F : List Field} {s₀ s : State} (d : Site)
    (hF : [.flash, .timer, .cycles, .dram, .spad, .hostMem, .caches, .unsettled, .parts, .streams, .prefixes, .flight,
    .nextId, .sigs, .near, .funcs, .handed, .log, .link, .trust, .peers, .rowHits, .perf, .out, .free, .ends] ⊆ F) (h :
    s₀.keeps F s) :
    s₀.keeps F (State.nearRun s d) := by
  unfold State.nearRun
  (repeat' split) <;> simp_all (maxDischargeDepth := 40)

@[simp] theorem State.keeps_meetSpans {F : List Field} {s₀ s : State} (p q : Nat) (op : Nat)
    (hF : [.flash, .timer, .dram, .spad, .near, .funcs, .log, .rowHits, .perf, .out, .free] ⊆ F) (h : s₀.keeps F s) :
    s₀.keeps F (State.meetSpans s p q op) := by
  unfold State.meetSpans
  (repeat' split) <;> simp_all (maxDischargeDepth := 40)

@[simp] theorem State.keeps_runEntry {F : List Field} {s₀ s : State} (f : Flight) (n : Nb) (e : Entry) (bad : CuffPart → List
    Nat) (piece : Nat)
    (hF : [.flash, .timer, .dram, .spad, .unsettled, .flight, .near, .funcs, .log, .rowHits, .perf, .out, .free] ⊆ F) (h
    : s₀.keeps F s) :
    s₀.keeps F (State.runEntry s f n e bad piece) := by
  unfold State.runEntry
  (repeat' split) <;> simp_all (maxDischargeDepth := 40)

@[simp] theorem State.keeps_microcodeFault {F : List Field} {s₀ s : State} (e : Entry) (reloadOk : Bool)
    (hF : [.boot, .timer, .flight, .near, .funcs, .log, .out, .free] ⊆ F) (h : s₀.keeps F s) :
    s₀.keeps F (State.microcodeFault s e reloadOk) := by
  unfold State.microcodeFault
  (repeat' split) <;> simp_all (maxDischargeDepth := 40)

@[simp] theorem State.keeps_startEntry {F : List Field} {s₀ s : State} (e : Entry) (fault : CuffFault)
    (hF : [.near] ⊆ F) (h : s₀.keeps F s) :
    s₀.keeps F (State.startEntry s e fault).1 := by
  unfold State.startEntry
  (repeat' split) <;> simp_all (maxDischargeDepth := 40)

@[simp] theorem State.keeps_nearClose {F : List Field} {s₀ s : State} (id : Nat) (f : Flight) (n : Nb)
    (hF : [.flash, .timer, .dram, .spad, .hostMem, .caches, .unsettled, .parts, .flight, .near, .funcs, .log, .rowHits,
    .perf, .out, .free] ⊆ F) (h : s₀.keeps F s) :
    s₀.keeps F (State.nearClose s id f n) := by
  have hF' := hF
  simp only [List.cons_subset, List.nil_subset, and_true] at hF'
  unfold State.nearClose
  split
  · exact h
  · extract_lets w dir seed s1 s2 s3 _ s4 st
    have h1 : s₀.keeps F s1 := by simp (maxDischargeDepth := 40) [s1, hF', h]
    clear_value s1
    have h2 : s₀.keeps F s2 := by simp [s2, hF', h1]
    clear_value s2
    have h3 : s₀.keeps F s3 := by
      simp only [s3]
      split
      · exact State.keeps_updFlight _ _ (by simp [hF']) (fun x => by simp) h2
      · exact h2
    clear_value s3
    have h4 : s₀.keeps F s4 := by simp [s4, hF', h3]
    clear_value s4
    split <;> simp [hF', h4]

end Sys2Proof.Machine
end

