-- ==== Sys2Proof/Laws/Peer.lean ====
section
/-! SUPPORT. Peer.lean: what the operations of Machine/Peer.lean may change. -/

namespace Sys2Proof.Machine

/-! ### Peer.lean -/

@[simp] theorem State.keeps_pump {F : List Field} {s₀ s : State} (n : Nat) (a0 : Nat)
    (hF : [.peers, .perf, .out] ⊆ F) (h : s₀.keeps F s) :
    s₀.keeps F (State.pump s n a0) := by
  induction a0 generalizing s with
  | zero => exact h
  | succ k ih =>
    unfold State.pump
    dsimp only
    (repeat' split) <;> simp_all (maxDischargeDepth := 40)

@[simp] theorem State.keeps_enqueue {F : List Field} {s₀ s : State} (n : Nat) (f : OutFrame)
    (hF : [.peers, .perf, .out] ⊆ F) (h : s₀.keeps F s) :
    s₀.keeps F (State.enqueue s n f) := by
  unfold State.enqueue
  (repeat' split) <;> simp_all (maxDischargeDepth := 40)

@[simp] theorem State.keeps_takeAck {F : List Field} {s₀ s : State} (n a : Nat)
    (hF : [.flight, .peers, .perf, .out] ⊆ F) (h : s₀.keeps F s) :
    s₀.keeps F (State.takeAck s n a) := by
  unfold State.takeAck
  (repeat' split) <;> simp_all (maxDischargeDepth := 40)

@[simp] theorem State.keeps_resend {F : List Field} {s₀ s : State} (n : Nat)
    (hF : [.peers, .perf, .out] ⊆ F) (h : s₀.keeps F s) :
    s₀.keeps F (State.resend s n) := by
  unfold State.resend
  (repeat' split) <;> simp_all (maxDischargeDepth := 40)

@[simp] theorem State.keeps_sendTo {F : List Field} {s₀ s : State} (g : GroupEntry) (rank : Nat) (inner : Carries) (base : Nat)
    (data : Bytes) (bad : List Nat) (job : Option Nat) (ends : Bool)
    (hF : [.peers, .perf, .out] ⊆ F) (h : s₀.keeps F s) :
    s₀.keeps F (State.sendTo s g rank inner base data bad job ends) := by
  have hF' := hF
  simp only [List.cons_subset, List.nil_subset, and_true] at hF'
  unfold State.sendTo
  dsimp only
  split
  · exact h
  · refine State.keeps_each _ (fun u i => ?_) h
    (repeat' split) <;> simp (maxDischargeDepth := 40) [hF']

@[simp] theorem State.keeps_sendStretch {F : List Field} {s₀ s : State} (id : Nat) (f : Flight) (j : PeerJob) (rank off len :
    Nat) (ends : Bool)
    (hF : [.peers, .perf, .out] ⊆ F) (h : s₀.keeps F s) :
    s₀.keeps F (State.sendStretch s id f j rank off len ends) := by
  unfold State.sendStretch
  (repeat' split) <;> simp_all (maxDischargeDepth := 40)

@[simp] theorem State.keeps_updJob {F : List Field} {s₀ s : State} (id : Nat) (h_ : PeerJob → PeerJob)
    (hF : [.flight] ⊆ F) (h : s₀.keeps F s) :
    s₀.keeps F (State.updJob s id h_) := by
  unfold State.updJob
  exact State.keeps_updFlight _ _ hF (fun x => by simp) h

@[simp] theorem State.keeps_collectiveData {F : List Field} {s₀ s : State} (id src off : Nat) (data : Bytes) (bad : List Nat)
    (hF : [.flight, .peers, .perf, .out] ⊆ F) (h : s₀.keeps F s) :
    s₀.keeps F (State.collectiveData s id src off data bad) := by
  have hF' := hF
  simp only [List.cons_subset, List.nil_subset, and_true] at hF'
  unfold State.collectiveData
  split
  · exact h
  · split
    · exact h
    · extract_lets words came mine acc kept j' s1 more s2
      have h1 : s₀.keeps F s1 := by simp [s1, hF', h]
      clear_value s1
      have h2 : s₀.keeps F s2 := by simp [s2, hF', h1]
      clear_value s2
      split
      · exact h2
      · exact State.keeps_each _ (fun u r => by simp [hF']) h2

@[simp] theorem State.keeps_losePeer {F : List Field} {s₀ s : State} (id : Nat) (st : Status)
    (hF : [.flash, .timer, .cycles, .dram, .spad, .hostMem, .caches, .unsettled, .parts, .streams, .prefixes, .flight,
    .sigs, .near, .funcs, .handed, .log, .link, .trust, .peers, .rowHits, .perf, .out, .free, .ends] ⊆ F) (h : s₀.keeps
    F s) :
    s₀.keeps F (State.losePeer s id st) := by
  have hF' := hF
  simp only [List.cons_subset, List.nil_subset, and_true] at hF'
  unfold State.losePeer
  split
  · exact h
  · exact State.keeps_cutShort _ _ (by simp [hF']) (State.keeps_updFlight _ _ (by simp [hF']) (fun x => by simp) h)

@[simp] theorem State.keeps_losePeerJobs {F : List Field} {s₀ s : State} (test : Flight → PeerJob → Bool)
    (hF : [.flash, .timer, .cycles, .dram, .spad, .hostMem, .caches, .unsettled, .parts, .streams, .prefixes, .flight,
    .sigs, .near, .funcs, .handed, .log, .link, .trust, .peers, .rowHits, .perf, .out, .free, .ends] ⊆ F) (h : s₀.keeps
    F s) :
    s₀.keeps F (State.losePeerJobs s test) := by
  unfold State.losePeerJobs
  (repeat' split) <;> simp_all (maxDischargeDepth := 40)

@[simp] theorem State.keeps_mismatch {F : List Field} {s₀ s : State} (id : Nat)
    (hF : [.flash, .timer, .cycles, .dram, .spad, .hostMem, .caches, .unsettled, .parts, .streams, .prefixes, .flight,
    .sigs, .near, .funcs, .handed, .log, .link, .trust, .peers, .rowHits, .perf, .out, .free, .ends] ⊆ F) (h : s₀.keeps
    F s) :
    s₀.keeps F (State.mismatch s id) := by
  unfold State.mismatch
  (repeat' split) <;> simp_all (maxDischargeDepth := 40)

@[simp] theorem State.keeps_failGroup {F : List Field} {s₀ s : State} (p g k : Nat)
    (hF : [.flash, .timer, .cycles, .dram, .spad, .hostMem, .caches, .unsettled, .parts, .streams, .prefixes, .flight,
    .sigs, .near, .funcs, .handed, .log, .link, .trust, .peers, .rowHits, .perf, .out, .free, .ends] ⊆ F) (h : s₀.keeps
    F s) :
    s₀.keeps F (State.failGroup s p g k) := by
  unfold State.failGroup
  (repeat' split) <;> simp_all (maxDischargeDepth := 40)

@[simp] theorem State.keeps_exclude {F : List Field} {s₀ s : State} (k : Nat)
    (hF : [.peers] ⊆ F) (h : s₀.keeps F s) :
    s₀.keeps F (State.exclude s k) := by
  unfold State.exclude
  (repeat' split) <;> simp_all (maxDischargeDepth := 40)

@[simp] theorem State.keeps_logLoss {F : List Field} {s₀ s : State} (p port k : Nat)
    (hF : [.timer, .funcs, .log, .out, .free] ⊆ F) (h : s₀.keeps F s) :
    s₀.keeps F (State.logLoss s p port k) := by
  unfold State.logLoss
  (repeat' split) <;> simp_all (maxDischargeDepth := 40)

@[simp] theorem State.keeps_declareLost {F : List Field} {s₀ s : State} (k port : Nat)
    (hF : [.flash, .timer, .cycles, .dram, .spad, .hostMem, .caches, .unsettled, .parts, .streams, .prefixes, .flight,
    .sigs, .near, .funcs, .handed, .log, .link, .trust, .peers, .rowHits, .perf, .out, .free, .ends] ⊆ F) (h : s₀.keeps
    F s) :
    s₀.keeps F (State.declareLost s k port) := by
  unfold State.declareLost
  (repeat' split) <;> simp_all (maxDischargeDepth := 40)

@[simp] theorem State.keeps_noticed {F : List Field} {s₀ s : State} (port p group k : Nat) (reset : Bool)
    (hF : [.flash, .timer, .cycles, .dram, .spad, .hostMem, .caches, .unsettled, .parts, .streams, .prefixes, .flight,
    .sigs, .near, .funcs, .handed, .log, .link, .trust, .peers, .rowHits, .perf, .out, .free, .ends] ⊆ F) (h : s₀.keeps
    F s) :
    s₀.keeps F (State.noticed s port p group k reset) := by
  unfold State.noticed
  (repeat' split) <;> simp_all (maxDischargeDepth := 40)

@[simp] theorem State.keeps_abortItem {F : List Field} {s₀ s : State} (p peer : Nat) (a : Abandoned)
    (hF : [.flash, .timer, .cycles, .dram, .spad, .hostMem, .caches, .unsettled, .parts, .streams, .prefixes, .flight,
    .sigs, .near, .funcs, .handed, .log, .link, .trust, .peers, .rowHits, .perf, .out, .free, .ends] ⊆ F) (h : s₀.keeps
    F s) :
    s₀.keeps F (State.abortItem s p peer a) := by
  unfold State.abortItem
  dsimp only
  (repeat' split) <;> simp_all (maxDischargeDepth := 40)

@[simp] theorem State.keeps_sendIdentity {F : List Field} {s₀ s : State} (port : Nat)
    (hF : [.out] ⊆ F) (h : s₀.keeps F s) :
    s₀.keeps F (State.sendIdentity s port) := by
  unfold State.sendIdentity
  (repeat' split) <;> simp_all (maxDischargeDepth := 40)

@[simp] theorem State.keeps_peerPut {F : List Field} {s₀ s : State} (w : Writer) (P : Partition) (va : Nat) (data : Bytes) (bad
    : List Nat)
    (hF : [.flash, .timer, .dram, .spad, .hostMem, .caches, .unsettled, .parts, .flight, .near, .funcs, .log, .rowHits,
    .perf, .out, .free] ⊆ F) (h : s₀.keeps F s) :
    s₀.keeps F (State.peerPut s w P va data bad) := by
  unfold State.peerPut
  (repeat' split) <;> simp_all (maxDischargeDepth := 40)

@[simp] theorem State.keeps_answerCopy {F : List Field} {s₀ s : State} (p peer : Nat) (inner : Carries) (data : Bytes) (bad :
    List Nat)
    (hF : [.peers, .perf, .out] ⊆ F) (h : s₀.keeps F s) :
    s₀.keeps F (State.answerCopy s p peer inner data bad) := by
  unfold State.answerCopy
  (repeat' split) <;> simp_all (maxDischargeDepth := 40)

@[simp] theorem State.keeps_arrive {F : List Field} {s₀ s : State} (id port : Nat) (f : Flight) (j : PeerJob) (off : Nat) (data
    : Bytes) (bad : List Nat)
    (hF : [.flash, .timer, .dram, .spad, .hostMem, .caches, .unsettled, .parts, .flight, .near, .funcs, .log, .rowHits,
    .perf, .out, .free] ⊆ F) (h : s₀.keeps F s) :
    s₀.keeps F (State.arrive s id port f j off data bad) := by
  have hF' := hF
  simp only [List.cons_subset, List.nil_subset, and_true] at hF'
  unfold State.arrive
  split
  · extract_lets s1 s2
    have h1 : s₀.keeps F s1 := by simp [s1, hF', h]
    clear_value s1
    have h2 : s₀.keeps F s2 := by simp [s2, hF', h1]
    clear_value s2
    simp [hF', h2]
  · exact h

@[simp] theorem State.keeps_contradicted {F : List Field} {s₀ s : State} (p g op : Nat)
    (hF : [.out] ⊆ F) (h : s₀.keeps F s) :
    s₀.keeps F (State.contradicted s p g op) := by
  unfold State.contradicted
  (repeat' split) <;> simp_all (maxDischargeDepth := 40)

@[simp] theorem State.keeps_remoteWrite {F : List Field} {s₀ s : State} (p k id va total off : Nat) (data : Bytes) (bad : List Nat)
    (hF : [.flash, .timer, .dram, .spad, .hostMem, .caches, .unsettled, .parts, .flight, .near, .funcs, .log, .peers,
    .rowHits, .perf, .out, .free] ⊆ F) (h : s₀.keeps F s) :
    s₀.keeps F (State.remoteWrite s p k id va total off data bad) := by
  unfold State.remoteWrite
  dsimp only
  (repeat' split) <;> simp_all (maxDischargeDepth := 40)

@[simp] theorem State.keeps_deliverFrame {F : List Field} {s₀ s : State} (port : Nat) (c : Carries) (last : Bool) (off : Nat)
    (data : Bytes) (bad : List Nat)
    (hF : [.flash, .timer, .cycles, .dram, .spad, .hostMem, .caches, .unsettled, .parts, .streams, .prefixes, .flight,
    .sigs, .near, .funcs, .handed, .log, .link, .trust, .peers, .rowHits, .perf, .out, .free, .ends] ⊆ F) (h : s₀.keeps
    F s) :
    s₀.keeps F (State.deliverFrame s port c last off data bad) := by
  have hF' := hF
  simp only [List.cons_subset, List.nil_subset, and_true] at hF'
  unfold State.deliverFrame
  split
  · split
    · exact h
    · split
      · dsimp only
        split <;> simp (maxDischargeDepth := 40) [hF', h]
      · split <;> simp (maxDischargeDepth := 40) [hF', h]
  · split
    · exact h
    · split <;> simp (maxDischargeDepth := 40) [hF', h]
  · simp (maxDischargeDepth := 40) [hF', h]
  · split
    · simp (maxDischargeDepth := 40) [hF', h]
    · dsimp only
      split <;> simp (maxDischargeDepth := 40) [hF', h]
  · (repeat' split) <;> simp (maxDischargeDepth := 40) [hF', h]
  · split
    · (repeat' split) <;> first | exact h | simp (maxDischargeDepth := 40) [hF', h]
    · exact h
  · split
    · exact h
    · split
      · exact h
      · dsimp only
        split <;> simp (maxDischargeDepth := 40) [hF', h]

@[simp] theorem State.keeps_dropEarly {F : List Field} {s₀ s : State} (p g op : Nat)
    (hF : [.peers] ⊆ F) (h : s₀.keeps F s) :
    s₀.keeps F (State.dropEarly s p g op) := by
  unfold State.dropEarly
  (repeat' split) <;> simp_all (maxDischargeDepth := 40)

@[simp] theorem State.keeps_takeEarly {F : List Field} {s₀ s : State} (id p g op : Nat) (shape : Shape)
    (hF : [.flash, .timer, .cycles, .dram, .spad, .hostMem, .caches, .unsettled, .parts, .streams, .prefixes, .flight,
    .sigs, .near, .funcs, .handed, .log, .link, .trust, .peers, .rowHits, .perf, .out, .free, .ends] ⊆ F) (h : s₀.keeps
    F s) :
    s₀.keeps F (State.takeEarly s id p g op shape) := by
  have hF' := hF
  simp only [List.cons_subset, List.nil_subset, and_true] at hF'
  unfold State.takeEarly
  refine State.keeps_each _ (fun u e => ?_) ?_
  · split
    · split <;> simp [hF']
    · simp
  · simp (maxDischargeDepth := 40) [hF', h]

@[simp] theorem State.keeps_emptyCollective {F : List Field} {s₀ s : State} (d : Site) (G : GroupEntry) (g op : Nat)
    (hF : [.flash, .timer, .cycles, .dram, .spad, .hostMem, .caches, .unsettled, .parts, .streams, .prefixes, .flight,
    .nextId, .sigs, .near, .funcs, .handed, .log, .link, .trust, .peers, .rowHits, .perf, .out, .free, .ends] ⊆ F) (h :
    s₀.keeps F s) :
    s₀.keeps F (State.emptyCollective s d G g op) := by
  unfold State.emptyCollective
  (repeat' split) <;> simp_all (maxDischargeDepth := 40)

@[simp] theorem State.keeps_collectiveRun {F : List Field} {s₀ s : State} (d : Site)
    (hF : [.flash, .timer, .cycles, .dram, .spad, .hostMem, .caches, .unsettled, .parts, .streams, .prefixes, .flight,
    .nextId, .sigs, .near, .funcs, .handed, .log, .link, .trust, .peers, .rowHits, .perf, .out, .free, .ends] ⊆ F) (h :
    s₀.keeps F s) :
    s₀.keeps F (State.collectiveRun s d) := by
  unfold State.collectiveRun
  dsimp only
  (repeat' split) <;> simp_all (maxDischargeDepth := 40)

@[simp] theorem State.keeps_sendSize {F : List Field} {s₀ s : State} (G : GroupEntry) (r ch n bytes : Nat)
    (hF : [.out] ⊆ F) (h : s₀.keeps F s) :
    s₀.keeps F (State.sendSize s G r ch n bytes) := by
  unfold State.sendSize
  (repeat' split) <;> simp_all (maxDischargeDepth := 40)

@[simp] theorem State.keeps_sendReady {F : List Field} {s₀ s : State} (G : GroupEntry) (r ch n bytes : Nat)
    (hF : [.out] ⊆ F) (h : s₀.keeps F s) :
    s₀.keeps F (State.sendReady s G r ch n bytes) := by
  unfold State.sendReady
  (repeat' split) <;> simp_all (maxDischargeDepth := 40)

@[simp] theorem State.keeps_openSend {F : List Field} {s₀ s : State} (id bytes : Nat)
    (hF : [.flash, .timer, .dram, .spad, .flight, .near, .funcs, .log, .peers, .rowHits, .perf, .out, .free] ⊆ F) (h :
    s₀.keeps F s) :
    s₀.keeps F (State.openSend s id bytes) := by
  have hF' := hF
  simp only [List.cons_subset, List.nil_subset, and_true] at hF'
  unfold State.openSend
  split
  · exact h
  · split
    · split
      · split
        · exact h
        · extract_lets s1 data s2
          have h1 : s₀.keeps F s1 := by simp [s1, hF', h]
          clear_value s1
          have h2 : s₀.keeps F s2 := by simp (maxDischargeDepth := 40) [s2, hF', h1]
          clear_value s2
          (repeat' split) <;> simp (maxDischargeDepth := 40) [hF', h1, h2]
      · exact h
    · exact h

@[simp] theorem State.keeps_takeSize {F : List Field} {s₀ s : State} (port p peer ch n bytes : Nat)
    (hF : [.flight] ⊆ F) (h : s₀.keeps F s) :
    s₀.keeps F (State.takeSize s port p peer ch n bytes) := by
  unfold State.takeSize
  (repeat' split) <;> simp_all (maxDischargeDepth := 40)

@[simp] theorem State.keeps_takeNotice {F : List Field} {s₀ s : State} (port p peer ch n bytes : Nat)
    (hF : [.flash, .timer, .dram, .spad, .parts, .flight, .near, .funcs, .log, .peers, .rowHits, .perf, .out, .free] ⊆
    F) (h : s₀.keeps F s) :
    s₀.keeps F (State.takeNotice s port p peer ch n bytes) := by
  unfold State.takeNotice
  (repeat' split) <;> simp_all (maxDischargeDepth := 40)

@[simp] theorem State.keeps_peerClose {F : List Field} {s₀ s : State} (id : Nat) (f : Flight) (j : PeerJob)
    (hF : [.flash, .timer, .dram, .spad, .hostMem, .caches, .unsettled, .parts, .flight, .near, .funcs, .log, .rowHits,
    .perf, .out, .free] ⊆ F) (h : s₀.keeps F s) :
    s₀.keeps F (State.peerClose s id f j) := by
  unfold State.peerClose
  (repeat' split) <;> simp_all (maxDischargeDepth := 40)

@[simp] theorem State.keeps_report {F : List Field} {s₀ s : State} (p group : Nat) (x : Nat × BitVec 512)
    (hF : [.peers] ⊆ F) (h : s₀.keeps F s) :
    s₀.keeps F (State.report s p group x) := by
  unfold State.report
  (repeat' split) <;> simp_all (maxDischargeDepth := 40)

end Sys2Proof.Machine
end

