-- ==== Sys2Proof/Laws/Streams.lean ====
section
/-! SUPPORT. Streams.lean: what the operations of Machine/Streams.lean may change. -/

namespace Sys2Proof.Machine

/-! ### Streams.lean -/

@[simp] theorem State.keeps_meetFault {F : List Field} {s₀ s : State} (id : Nat) (st : Option Status)
    (hF : [.flight] ⊆ F) (h : s₀.keeps F s) :
    s₀.keeps F (State.meetFault s id st) := by
  unfold State.meetFault
  (repeat' split) <;> simp_all (maxDischargeDepth := 40)

@[simp] theorem State.keeps_evict {F : List Field} {s₀ s : State} (w : Writer) (o : Pool) (e : Nat × PrefixEntry) (why : Evict)
    (hF : [.flash, .timer, .dram, .spad, .hostMem, .caches, .unsettled, .parts, .prefixes, .flight, .near, .funcs, .log,
    .rowHits, .perf, .out, .free] ⊆ F) (h : s₀.keeps F s) :
    s₀.keeps F (State.evict s w o e why) := by
  unfold State.evict
  (repeat' split) <;> simp_all (maxDischargeDepth := 40)

@[simp] theorem State.keeps_refill {F : List Field} {s₀ s : State} (w : Writer) (a0 : Nat)
    (hF : [.flash, .timer, .dram, .spad, .hostMem, .caches, .unsettled, .parts, .prefixes, .flight, .near, .funcs, .log,
    .rowHits, .perf, .out, .free] ⊆ F) (h : s₀.keeps F s) :
    s₀.keeps F (State.refill s w a0) := by
  induction a0 generalizing s with
  | zero => exact h
  | succ k ih =>
    unfold State.refill
    (repeat' split) <;> simp_all (maxDischargeDepth := 40)

@[simp] theorem State.keeps_allocate {F : List Field} {s₀ s : State} (w : Writer) (st layer j : Nat) (a0 : Nat)
    (hF : [.flash, .timer, .dram, .spad, .hostMem, .caches, .unsettled, .parts, .prefixes, .flight, .near, .funcs, .log,
    .rowHits, .perf, .out, .free] ⊆ F) (h : s₀.keeps F s) :
    s₀.keeps F (State.allocate s w st layer j a0).1 := by
  have hF' := hF
  simp only [List.cons_subset, List.nil_subset, and_true] at hF'
  induction a0 generalizing s with
  | zero => exact h
  | succ k ih =>
    unfold State.allocate
    split
    · exact h
    · split
      · exact h
      · split
        · dsimp only
          simp [hF', h]
        · extract_lets s1
          have h1 : s₀.keeps F s1 := State.keeps_meetFault _ _ (by simp [hF']) h
          clear_value s1
          split
          · exact h1
          · exact ih (State.keeps_evict _ _ _ _ (by simp [hF']) h1)

@[simp] theorem State.keeps_setStream {F : List Field} {s₀ s : State} (st : Nat) (e : Stream)
    (hF : [.streams] ⊆ F) (h : s₀.keeps F s) :
    s₀.keeps F (State.setStream s st e) := by
  unfold State.setStream
  (repeat' split) <;> simp_all (maxDischargeDepth := 40)

@[simp] theorem State.keeps_appendToken {F : List Field} {s₀ s : State} (d : Site) (w : Writer) (o : Pool) (L : Layer) (addr tok
    : Nat) (data : List (Bytes × List Nat))
    (hF : [.flash, .timer, .dram, .spad, .hostMem, .caches, .unsettled, .parts, .flight, .near, .funcs, .log, .rowHits,
    .perf, .out, .free] ⊆ F) (h : s₀.keeps F s) :
    s₀.keeps F (State.appendToken s d w o L addr tok data) := by
  unfold State.appendToken
  (repeat' split) <;> simp_all (maxDischargeDepth := 40)

@[simp] theorem State.keeps_allocAll {F : List Field} {s₀ s : State} (w : Writer) (st layer : Nat) (need : List Nat)
    (hF : [.flash, .timer, .dram, .spad, .hostMem, .caches, .unsettled, .parts, .prefixes, .flight, .near, .funcs, .log,
    .rowHits, .perf, .out, .free] ⊆ F) (h : s₀.keeps F s) :
    s₀.keeps F (State.allocAll s w st layer need).1 := by
  have hF' := hF
  simp only [List.cons_subset, List.nil_subset, and_true] at hF'
  unfold State.allocAll
  refine State.keeps_foldl Prod.fst need _ (fun b x => ?_) h
  split
  · split
    · rename_i u y heq
      rw [← show _ = u from congrArg Prod.fst heq]
      exact State.keeps_allocate _ _ _ _ _ (by simp [hF']) (State.keeps_self _ _)
    · rename_i u heq
      rw [← show _ = u from congrArg Prod.fst heq]
      exact State.keeps_allocate _ _ _ _ _ (by simp [hF']) (State.keeps_self _ _)
  · simp

@[simp] theorem State.keeps_exhausted {F : List Field} {s₀ s : State} (p layer : Nat) (got : List (Nat × Nat × Nat))
    (hF : [.parts] ⊆ F) (h : s₀.keeps F s) :
    s₀.keeps F (State.exhausted s p layer got) := by
  unfold State.exhausted
  (repeat' split) <;> simp_all (maxDischargeDepth := 40)

@[simp] theorem State.keeps_attach {F : List Field} {s₀ s : State} (w : Writer) (P : Partition) (o : Pool) (table j : Nat) (e :
    Nat × PrefixEntry)
    (hF : [.flash, .timer, .dram, .spad, .hostMem, .caches, .unsettled, .parts, .prefixes, .flight, .near, .funcs, .log,
    .rowHits, .perf, .out, .free] ⊆ F) (h : s₀.keeps F s) :
    s₀.keeps F (State.attach s w P o table j e) := by
  unfold State.attach
  (repeat' split) <;> simp_all (maxDischargeDepth := 40)

@[simp] theorem State.keeps_fillRecord {F : List Field} {s₀ s : State} (w : Writer) (P : Partition) (o : Pool) (e : Stream) (j :
    Nat) (h_ : BitVec 128) (tokens : Bytes) (entry record : Nat)
    (hF : [.flash, .timer, .dram, .spad, .hostMem, .caches, .unsettled, .parts, .prefixes, .flight, .near, .funcs, .log,
    .rowHits, .perf, .out, .free] ⊆ F) (h : s₀.keeps F s) :
    s₀.keeps F (State.fillRecord s w P o e j h_ tokens entry record) := by
  unfold State.fillRecord
  (repeat' split) <;> simp_all (maxDischargeDepth := 40)

@[simp] theorem State.keeps_roomFor {F : List Field} {s₀ s : State} (w : Writer) (bucket : Nat)
    (hF : [.flash, .timer, .dram, .spad, .hostMem, .caches, .unsettled, .parts, .prefixes, .flight, .near, .funcs, .log,
    .rowHits, .perf, .out, .free] ⊆ F) (h : s₀.keeps F s) :
    s₀.keeps F (State.roomFor s w bucket).1 := by
  have hF' := hF
  simp only [List.cons_subset, List.nil_subset, and_true] at hF'
  unfold State.roomFor
  split
  · exact h
  split
  · exact h
  extract_lets s1 quotaOk s2
  have h1 : s₀.keeps F s1 := State.keeps_ite h (State.keeps_meetFault _ _ (by simp [hF']) h)
  clear_value s1
  have h2 : s₀.keeps F s2 := by
    simp only [s2]
    (repeat' split) <;> first | exact h1 | exact State.keeps_evict _ _ _ _ (by simp [hF']) h1
  clear_value s2
  split
  · split <;> assumption
  · exact h1

@[simp] theorem State.keeps_publishRange {F : List Field} {s₀ s : State} (w : Writer) (st j list : Nat)
    (hF : [.flash, .flash, .timer, .dram, .spad, .hostMem, .caches, .unsettled, .parts, .streams, .prefixes, .flight,
    .near, .funcs, .log, .rowHits, .rowHits, .perf, .out, .free] ⊆ F) (h : s₀.keeps F s) :
    s₀.keeps F (State.publishRange s w st j list).1 := by
  have hF' := hF
  simp only [List.cons_subset, List.nil_subset, and_true] at hF'
  unfold State.publishRange
  split
  · split
    · exact h
    · extract_lets prev tokens hh up
      clear_value prev tokens hh
      split
      · simp (maxDischargeDepth := 40) [hF', h]
      split
      · (repeat' split) <;> simp (maxDischargeDepth := 40) [up, hF', h]
      · split
        · rename_i s1 i r heq
          have h1 : s₀.keeps F s1 := by
            rw [← show _ = s1 from congrArg Prod.fst heq]
            exact State.keeps_roomFor _ _ (by simp [hF']) h
          split <;> simp (maxDischargeDepth := 40) [up, hF', h1]
        · rename_i s1 heq
          have h1 : s₀.keeps F s1 := by
            rw [← show _ = s1 from congrArg Prod.fst heq]
            exact State.keeps_roomFor _ _ (by simp [hF']) h
          simp (maxDischargeDepth := 40) [hF', h1]
  · exact h

@[simp] theorem State.keeps_lookupRange {F : List Field} {s₀ s : State} (w : Writer) (st j list : Nat) (prev : BitVec 128)
    (hF : [.flash, .timer, .dram, .spad, .hostMem, .caches, .unsettled, .parts, .prefixes, .flight, .near, .funcs, .log,
    .rowHits, .perf, .out, .free] ⊆ F) (h : s₀.keeps F s) :
    s₀.keeps F (State.lookupRange s w st j list prev).1 := by
  unfold State.lookupRange
  dsimp only
  (repeat' split) <;> simp_all (maxDischargeDepth := 40)

@[simp] theorem State.keeps_touched {F : List Field} {s₀ s : State} (d : Site) (st : Nat)
    (hF : [.streams] ⊆ F) (h : s₀.keeps F s) :
    s₀.keeps F (State.touched s d st) := by
  unfold State.touched
  (repeat' split) <;> simp_all (maxDischargeDepth := 40)

/-- What a stream command may change: its launch, its reads, and what the work on one stream does. -/
theorem State.keeps_streamRun {F : List Field} {s₀ s : State} (work : State → Site → Writer → StreamCmd → StreamItem → Worked) (d : Site)
    (hF : [.flash, .timer, .cycles, .dram, .spad, .hostMem, .caches, .unsettled, .parts, .streams, .prefixes, .flight,
      .nextId, .sigs, .near, .funcs, .handed, .log, .link, .trust, .peers, .rowHits, .perf, .out, .free, .ends] ⊆ F)
    (hw : ∀ (u : State) (w : Writer) (t : StreamCmd) (x : StreamItem), u.keeps F (work u d w t x).1) (h : s₀.keeps F s) :
    s₀.keeps F (State.streamRun work s d) := by
  have hF' := hF
  simp only [List.cons_subset, List.nil_subset, and_true] at hF'
  unfold State.streamRun
  extract_lets t
  split
  · simp [hF', h]
  · split
    rename_i items bad hitems
    clear hitems
    extract_lets _ _ _ _
    split
    rename_i s1 id heq
    have h1 : s₀.keeps F s1 := by
      rw [← show _ = s1 from congrArg Prod.fst heq]
      exact State.keeps_launch _ _ _ (by simp [hF']) h
    clear heq
    extract_lets s2 r s3 s4 w s5 s6
    have h2 : s₀.keeps F s2 := by simp [s2, hF', h1]
    clear_value s2
    have hr : s₀.keeps F r.1 := by
      refine State.keeps_foldl Prod.fst _ _ (fun b x => ?_) h2
      dsimp only
      split
      · simp [hF']
      split
      · split <;> simp [hF']
      · split
        · rename_i u a c heq
          rw [← show _ = u from congrArg Prod.fst heq]
          exact hw _ _ _ _
        · rename_i u st heq
          have hu : b.1.keeps F u := by
            rw [← show _ = u from congrArg Prod.fst heq]
            exact hw _ _ _ _
          refine State.keeps_condition _ _ (by simp [hF']) ?_
          split <;> simp [hF', hu]
    clear_value r
    have h4 : s₀.keeps F s4 := by simp [s4, s3, hF', hr]
    clear_value s4
    have h5 : s₀.keeps F s5 := by simp (maxDischargeDepth := 40) [s5, hF', h4]
    clear_value s5
    have h6 : s₀.keeps F s6 := by simp (maxDischargeDepth := 40) [s6, hF', h5]
    clear_value s6
    (repeat' split) <;> simp [hF', h2, h6]

end Sys2Proof.Machine
end

