-- ==== Sys2Proof/Laws/Manage.lean ====
section
/-! SUPPORT. Manage.lean: what the operations of Machine/Topology.lean, Maintain.lean, Replay.lean, Sleeve.lean, Partitions.lean and Schedule.lean may
change. -/

namespace Sys2Proof.Machine

@[simp] theorem Mem.keeps_settleBits {m n : Mem} (a bits bad : Nat) (h : m.keeps n) : m.keeps (n.settleBits a bits bad) :=
  Mem.keeps_foldl _ _ (fun k i => by dsimp only; (repeat' split) <;> simp) h

/-! ### Topology.lean -/

@[simp] theorem State.keeps_setReadiness {F : List Field} {s₀ s : State} (r : Readiness)
    (hF : [.boot, .funcs, .out] ⊆ F) (h : s₀.keeps F s) :
    s₀.keeps F (State.setReadiness s r) := by
  unfold State.setReadiness
  (repeat' split) <;> simp_all (maxDischargeDepth := 40)

@[simp] theorem State.keeps_topologyCheck {F : List Field} {s₀ s : State} (peers : Bool)
    (hF : [.boot, .funcs, .out] ⊆ F) (h : s₀.keeps F s) :
    s₀.keeps F (State.topologyCheck s peers) := by
  unfold State.topologyCheck
  (repeat' split) <;> simp_all (maxDischargeDepth := 40)

@[simp] theorem State.keeps_writeTopology {F : List Field} {s₀ s : State} (m : Msg)
    (hF : [.hostMem, .funcs, .handed, .out] ⊆ F) (h : s₀.keeps F s) :
    s₀.keeps F (State.writeTopology s m) := by
  unfold State.writeTopology
  (repeat' split) <;> simp_all (maxDischargeDepth := 40)

/-! ### Maintain.lean -/

@[simp] theorem State.keeps_logUnit {F : List Field} {s₀ s : State} (island part word : Nat)
    (hF : [.timer, .funcs, .log, .out, .free] ⊆ F) (h : s₀.keeps F s) :
    s₀.keeps F (State.logUnit s island part word) := by
  unfold State.logUnit
  (repeat' split) <;> simp_all (maxDischargeDepth := 40)

@[simp] theorem State.keeps_scrubCache {F : List Field} {s₀ s : State} (c word : Nat)
    (hF : [.timer, .caches, .funcs, .log, .perf, .out, .free] ⊆ F) (h : s₀.keeps F s) :
    s₀.keeps F (State.scrubCache s c word) := by
  unfold State.scrubCache
  (repeat' split) <;> simp_all (maxDischargeDepth := 40)

@[simp] theorem State.keeps_scrubFront {F : List Field} {s₀ s : State} (p q word : Nat)
    (hF : [.flash, .timer, .cycles, .dram, .spad, .hostMem, .caches, .unsettled, .parts, .streams, .prefixes, .flight,
    .sigs, .near, .funcs, .handed, .log, .link, .trust, .peers, .rowHits, .perf, .out, .free, .ends] ⊆ F) (h : s₀.keeps
    F s) :
    s₀.keeps F (State.scrubFront s p q word) := by
  unfold State.scrubFront
  (repeat' split) <;> simp_all (maxDischargeDepth := 40)

@[simp] theorem State.keeps_scrubDispatcher {F : List Field} {s₀ s : State} (pc word : Nat)
    (hF : [.flash, .timer, .dram, .spad, .flight, .near, .funcs, .log, .rowHits, .perf, .out, .free] ⊆ F) (h : s₀.keeps
    F s) :
    s₀.keeps F (State.scrubDispatcher s pc word) := by
  unfold State.scrubDispatcher
  (repeat' split) <;> simp_all (maxDischargeDepth := 40)

@[simp] theorem State.keeps_scrubCuff {F : List Field} {s₀ s : State} (bank : Nat) (part : CuffPart) (word wrongBits : Nat)
    (hF : [.timer, .near, .funcs, .log, .out, .free] ⊆ F) (h : s₀.keeps F s) :
    s₀.keeps F (State.scrubCuff s bank part word wrongBits) := by
  unfold State.scrubCuff
  (repeat' split) <;> simp_all (maxDischargeDepth := 40)

@[simp] theorem State.keeps_scrubUnit {F : List Field} {s₀ s : State} (island word : Nat)
    (hF : [.boot, .timer, .funcs, .log, .out, .free] ⊆ F) (h : s₀.keeps F s) :
    s₀.keeps F (State.scrubUnit s island word) := by
  unfold State.scrubUnit
  (repeat' split) <;> simp_all (maxDischargeDepth := 40)

@[simp] theorem State.keeps_applyRepair {F : List Field} {s₀ s : State} (c : Candidate)
    (hF : [.fuse, .flash, .timer, .dram, .spad, .near, .funcs, .log, .rowHits, .perf, .out, .free] ⊆ F) (h : s₀.keeps F s) :
    s₀.keeps F (State.applyRepair s c) := by
  unfold State.applyRepair
  (repeat' split) <;> simp_all (maxDischargeDepth := 40)

@[simp] theorem State.keeps_applyPending {F : List Field} {s₀ s : State} (pc : Nat)
    (hF : [.fuse, .flash, .timer, .dram, .spad, .near, .funcs, .log, .rowHits, .perf, .out, .free] ⊆ F) (h : s₀.keeps F s) :
    s₀.keeps F (State.applyPending s pc) := by
  unfold State.applyPending
  (repeat' split) <;> simp_all (maxDischargeDepth := 40)

@[simp] theorem State.keeps_memRepair {F : List Field} {s₀ s : State} (m : Msg)
    (hF : [.fuse, .flash, .timer, .dram, .spad, .near, .funcs, .handed, .log, .rowHits, .perf, .out, .free] ⊆ F) (h :
    s₀.keeps F s) :
    s₀.keeps F (State.memRepair s m) := by
  have hF' := hF
  simp only [List.cons_subset, List.nil_subset, and_true] at hF'
  unfold State.memRepair
  exact State.keeps_checked _ _ _ (by simp [hF']) h (by dsimp only; simp (maxDischargeDepth := 40) [hF', h])

@[simp] theorem State.keeps_emptyPc {F : List Field} {s₀ s : State} (pc : Nat)
    (hF : [.dram, .spad, .unsettled, .near, .trust] ⊆ F) (h : s₀.keeps F s) :
    s₀.keeps F (State.emptyPc s pc) := by
  unfold State.emptyPc
  (repeat' split) <;> simp_all (maxDischargeDepth := 40)

@[simp] theorem State.keeps_mapOut {F : List Field} {s₀ s : State} (pc : Nat)
    (hF : [.fuse, .boot, .dram, .spad, .unsettled, .near, .funcs, .trust, .tests, .perf, .out] ⊆ F) (h : s₀.keeps F s) :
    s₀.keeps F (State.mapOut s pc) := by
  unfold State.mapOut
  (repeat' split) <;> simp_all (maxDischargeDepth := 40)

@[simp] theorem State.keeps_startTests {F : List Field} {s₀ s : State} (m : Msg) (self : Bool)
    (hF : [.boot, .dram, .spad, .unsettled, .near, .funcs, .handed, .trust, .tests, .out] ⊆ F) (h : s₀.keeps F s) :
    s₀.keeps F (State.startTests s m self) := by
  have hF' := hF
  simp only [List.cons_subset, List.nil_subset, and_true] at hF'
  unfold State.startTests
  refine State.keeps_checked _ _ _ (by simp [hF']) h ?_
  exact State.keeps_okay _ _ (by simp [hF']) (State.keeps_each _ (fun u x => by dsimp only; simp (maxDischargeDepth := 40) [hF']) h)

@[simp] theorem State.keeps_fenceTested {F : List Field} {s₀ s : State} (bank : Nat)
    (hF : [.fuse, .boot, .timer, .funcs, .log, .out, .free] ⊆ F) (h : s₀.keeps F s) :
    s₀.keeps F (State.fenceTested s bank) := by
  unfold State.fenceTested
  (repeat' split) <;> simp_all (maxDischargeDepth := 40)

@[simp] theorem State.keeps_endTest {F : List Field} {s₀ s : State} (pc : Nat) (t : TestRun) (found : TestFindings)
    (hF : [.fuse, .boot, .timer, .funcs, .log, .tests, .out, .free] ⊆ F) (h : s₀.keeps F s) :
    s₀.keeps F (State.endTest s pc t found) := by
  unfold State.endTest
  (repeat' split) <;> simp_all (maxDischargeDepth := 40)

@[simp] theorem State.keeps_stopTest {F : List Field} {s₀ s : State} (pc : Nat)
    (hF : [.fuse, .boot, .timer, .funcs, .log, .tests, .out, .free] ⊆ F) (h : s₀.keeps F s) :
    s₀.keeps F (State.stopTest s pc) := by
  unfold State.stopTest
  (repeat' split) <;> simp_all (maxDischargeDepth := 40)

/-! ### Replay.lean -/

@[simp] theorem State.keeps_setBits {F : List Field} {s₀ s : State} (sp : Space) (a bits val bad : Nat)
    (hF : [.dram, .spad, .hostMem] ⊆ F) (h : s₀.keeps F s) :
    s₀.keeps F (State.setBits s sp a bits val bad) := by
  have hF' := hF
  simp only [List.cons_subset, List.nil_subset, and_true] at hF'
  unfold State.setBits
  dsimp only
  split
  · simp (maxDischargeDepth := 40) [hF', h]
  · simp (maxDischargeDepth := 40) [hF', h]
  · refine State.keeps_ite h (State.keeps_each _ (fun u e => ?_) h)
    split <;> simp [hF']

@[simp] theorem State.keeps_asSeen {F : List Field} {s₀ s : State} (l : List Seen)
    (hF : [.dram, .spad, .hostMem] ⊆ F) (h : s₀.keeps F s) :
    s₀.keeps F (State.asSeen s l) := by
  have hF' := hF
  simp only [List.cons_subset, List.nil_subset, and_true] at hF'
  unfold State.asSeen
  refine State.keeps_each _ (fun u x => ?_) h
  have hs (m n : Mem) (hn : m.keeps n) : m.keeps ((wordsOf x.addr x.bytes.length).foldl
      (fun m w => if x.bad.contains w then m.poisonWord w else m.cleanWord w) n) :=
    Mem.keeps_foldl _ _ (fun k w => by split <;> simp) hn
  dsimp only
  split
  · have hd := hs u.dram { u.dram with cells := cwrite u.dram.cells x.addr x.bytes } (by simp)
    generalize List.foldl _ _ _ = m at hd ⊢
    simp [hF', hd]
  · have hd := hs u.spad { u.spad with cells := cwrite u.spad.cells x.addr x.bytes } (by simp)
    generalize List.foldl _ _ _ = m at hd ⊢
    simp [hF', hd]
  · simp [hF']

@[simp] theorem State.keeps_putAgain {F : List Field} {s₀ s : State} (id : Nat) (f : Flight) (wr : Writer) (one : Bool) (x : Mix)
    (hF : [.dram, .spad, .hostMem, .unsettled, .flight] ⊆ F) (h : s₀.keeps F s) :
    s₀.keeps F (State.putAgain s id f wr one x) := by
  have hF' := hF
  simp only [List.cons_subset, List.nil_subset, and_true] at hF'
  unfold State.putAgain
  extract_lets others late m cur badNow same top s1 s2
  refine State.keeps_ite h ?_
  have h1 : s₀.keeps F s1 := State.keeps_ite h (State.keeps_unsettleOne _ _ _ _ (by simp [hF']) h)
  clear_value s1
  have h2 : s₀.keeps F s2 := State.keeps_setBits _ _ _ _ _ (by simp [hF']) h1
  clear_value s2
  have hf := fliesIn_map s2.flight (fun e => if e.1 ≠ id ∧ e.2.engine < 33 ∧ e.2.touches x.space x.addr 64 then
      (e.1, e.2.meet (if e.2.cluster = f.cluster ∧ e.2.engine = f.engine then (if id < e.1 then .earlier else .later) else .other)
        [{ x with bits := m, val := x.val &&& m }]) else e)
    (fun e => by split <;> rfl) (fun e => by split <;> simp [Flight.meet])
  simp_all

@[simp] theorem State.keeps_settleMix {F : List Field} {s₀ s : State} (id : Nat)
    (hF : [.flash, .timer, .cycles, .dram, .spad, .hostMem, .caches, .unsettled, .parts, .flight, .nextId, .near,
    .funcs, .log, .rowHits, .perf, .out, .free, .ends] ⊆ F) (h : s₀.keeps F s) :
    s₀.keeps F (State.settleMix s id) := by
  have hF' := hF
  simp only [List.cons_subset, List.nil_subset, and_true] at hF'
  unfold State.settleMix
  split
  · exact h
  split
  · exact h
  split
  · exact h
  split
  · extract_lets wr r acc puts one g s1
    have h1 : s₀.keeps F s1 := State.keeps_each _ (fun u x => by simp [hF']) h
    clear_value s1
    exact State.keeps_tick (by simp [hF']) (State.keeps_updFlight id _ (by simp [hF']) (fun x => by simp) h1)
  · exact h

@[simp] theorem State.keeps_settleEngine {F : List Field} {s₀ s : State} (id : Nat) (f : Flight)
    (hF : [.flash, .timer, .cycles, .dram, .spad, .hostMem, .caches, .unsettled, .parts, .flight, .nextId, .near,
    .funcs, .log, .rowHits, .perf, .out, .free, .ends] ⊆ F) (h : s₀.keeps F s) :
    s₀.keeps F (State.settleEngine s id f) := by
  unfold State.settleEngine
  (repeat' split) <;> simp_all (maxDischargeDepth := 40)

/-! ### Sleeve.lean -/

@[simp] theorem State.keeps_settleHost {F : List Field} {s₀ s : State} (hF : [.unsettled] ⊆ F) (h : s₀.keeps F s) :
    s₀.keeps F (State.settleHost s) := by
  unfold State.settleHost
  (repeat' split) <;> simp_all (maxDischargeDepth := 40)

@[simp] theorem State.keeps_unstall {F : List Field} {s₀ s : State} (p q : Nat)
    (hF : [.hostMem, .parts, .perf] ⊆ F) (h : s₀.keeps F s) :
    s₀.keeps F (State.unstall s p q) := by
  unfold State.unstall
  (repeat' split) <;> simp_all (maxDischargeDepth := 40)

@[simp] theorem State.keeps_slotWrite {F : List Field} {s₀ s : State} (p q w off : Nat) (data : Bytes)
    (hF : [.timer, .dram, .hostMem, .unsettled, .parts, .funcs, .log, .power, .perf, .out, .free] ⊆ F) (h : s₀.keeps F s) :
    s₀.keeps F (State.slotWrite s p q w off data) := by
  unfold State.slotWrite
  (repeat' split) <;> simp_all (maxDischargeDepth := 40)

@[simp] theorem State.keeps_consumeSlot {F : List Field} {s₀ s : State} (p q : Nat)
    (hF : [.hostMem, .parts, .perf] ⊆ F) (h : s₀.keeps F s) :
    s₀.keeps F (State.consumeSlot s p q) := by
  unfold State.consumeSlot
  (repeat' split) <;> simp_all (maxDischargeDepth := 40)

@[simp] theorem State.keeps_consume {F : List Field} {s₀ s : State} (p q : Nat) (Q : Queue) (r : Rec)
    (hF : [.hostMem, .parts, .perf] ⊆ F) (h : s₀.keeps F s) :
    s₀.keeps F (State.consume s p q Q r) := by
  unfold State.consume
  (repeat' split) <;> simp_all (maxDischargeDepth := 40)

@[simp] theorem State.keeps_fetchBurst {F : List Field} {s₀ s : State} (p q : Nat) (a0 : Nat) (a1 : Nat)
    (hF : [.flash, .timer, .cycles, .dram, .spad, .hostMem, .caches, .unsettled, .parts, .streams, .prefixes, .flight,
    .sigs, .near, .funcs, .handed, .log, .link, .trust, .peers, .rowHits, .perf, .out, .free, .ends] ⊆ F) (h : s₀.keeps
    F s) :
    s₀.keeps F (State.fetchBurst s p q a0 a1) := by
  induction a0 generalizing s a1 with
  | zero => exact h
  | succ k ih =>
    unfold State.fetchBurst
    (repeat' split) <;> simp_all (maxDischargeDepth := 40)

@[simp] theorem State.keeps_holdTranslations {F : List Field} {s₀ s : State} (f : Flight)
    (hF : [.link] ⊆ F) (h : s₀.keeps F s) :
    s₀.keeps F (State.holdTranslations s f) := by
  unfold State.holdTranslations
  (repeat' split) <;> simp_all (maxDischargeDepth := 40)

@[simp] theorem State.keeps_consumerFails {F : List Field} {s₀ s : State} (p q : Nat)
    (hF : [.flash, .timer, .cycles, .dram, .spad, .hostMem, .caches, .unsettled, .parts, .streams, .prefixes, .flight,
    .sigs, .near, .funcs, .handed, .log, .link, .trust, .peers, .rowHits, .perf, .out, .free, .ends] ⊆ F) (h : s₀.keeps
    F s) :
    s₀.keeps F (State.consumerFails s p q) := by
  unfold State.consumerFails
  (repeat' split) <;> simp_all (maxDischargeDepth := 40)

/-! ### Partitions.lean -/

@[simp] theorem State.keeps_createPartition {F : List Field} {s₀ s : State} (p : Nat) (b : Bytes)
    (hF : [.boot, .dram, .spad, .caches, .unsettled, .parts, .near, .keyDraws, .trust, .perf] ⊆ F) (h : s₀.keeps F s) :
    s₀.keeps F (State.createPartition s p b) := by
  unfold State.createPartition
  (repeat' split) <;> simp_all (maxDischargeDepth := 40)

@[simp] theorem State.keeps_awaitZeroing {F : List Field} {s₀ s : State} (m : Msg) (destroy : Bool)
    (hF : [.timer, .cycles, .dram, .spad, .hostMem, .caches, .unsettled, .parts, .streams, .prefixes, .flight, .sigs,
    .near, .funcs, .handed, .log, .link, .trust, .peers, .perf, .out, .free, .ends] ⊆ F) (h : s₀.keeps F s) :
    s₀.keeps F (State.awaitZeroing s m destroy) := by
  unfold State.awaitZeroing
  (repeat' split) <;> simp_all (maxDischargeDepth := 40)

@[simp] theorem State.keeps_removePartition {F : List Field} {s₀ s : State} (p : Nat) (P : Partition)
    (hF : [.parts, .link, .perf] ⊆ F) (h : s₀.keeps F s) :
    s₀.keeps F (State.removePartition s p P) := by
  unfold State.removePartition
  (repeat' split) <;> simp_all (maxDischargeDepth := 40)

@[simp] theorem State.keeps_mapAnswer {F : List Field} {s₀ s : State} (m : Msg)
    (hF : [.funcs, .handed, .out] ⊆ F) (h : s₀.keeps F s) :
    s₀.keeps F (State.mapAnswer s m) := by
  unfold State.mapAnswer
  (repeat' split) <;> simp_all (maxDischargeDepth := 40)

@[simp] theorem State.keeps_clearRecords {F : List Field} {s₀ s : State} (p : Nat) (o : Pool)
    (hF : [.flash, .timer, .dram, .spad, .hostMem, .caches, .unsettled, .parts, .flight, .near, .funcs, .log, .rowHits,
    .perf, .out, .free] ⊆ F) (h : s₀.keeps F s) :
    s₀.keeps F (State.clearRecords s p o) := by
  unfold State.clearRecords
  (repeat' split) <;> simp_all (maxDischargeDepth := 40)

/-! ### Schedule.lean -/

@[simp] theorem State.keeps_setSchedule {F : List Field} {s₀ s : State} (o : Owner) (c : Sched)
    (hF : [.parts, .sched] ⊆ F) (h : s₀.keeps F s) :
    s₀.keeps F (State.setSchedule s o c) := by
  unfold State.setSchedule
  (repeat' split) <;> simp_all (maxDischargeDepth := 40)

@[simp] theorem State.keeps_schedLoad {F : List Field} {s₀ s : State} (m : Msg) (o : Owner) (device : Bool)
    (hF : [.timer, .parts, .funcs, .handed, .log, .sched, .out, .free] ⊆ F) (h : s₀.keeps F s) :
    s₀.keeps F (State.schedLoad s m o device) := by
  have hF' := hF
  simp only [List.cons_subset, List.nil_subset, and_true] at hF'
  unfold State.schedLoad
  dsimp only
  split
  · simp (maxDischargeDepth := 40) [hF', h]
  · refine State.keeps_checked _ _ _ (by simp [hF']) h ?_
    split <;> simp [hF', h]

@[simp] theorem State.keeps_cycleWrite {F : List Field} {s₀ s : State} (fn addr : Nat) (b : Bytes)
    (hF : [.hostMem, .link] ⊆ F) (h : s₀.keeps F s) :
    s₀.keeps F (State.cycleWrite s fn addr b) := by
  unfold State.cycleWrite
  (repeat' split) <;> simp_all (maxDischargeDepth := 40)

@[simp] theorem State.keeps_announceCycle {F : List Field} {s₀ s : State} (t : SchedTable) (cycles : Nat)
    (hF : [.timer, .hostMem, .funcs, .link, .out, .free] ⊆ F) (h : s₀.keeps F s) :
    s₀.keeps F (State.announceCycle s t cycles) := by
  unfold State.announceCycle
  dsimp only
  (repeat' split) <;> simp_all (maxDischargeDepth := 40)

@[simp] theorem State.keeps_startTable {F : List Field} {s₀ s : State} (o : Owner) (t : SchedTable)
    (hF : [.timer, .hostMem, .parts, .funcs, .link, .sched, .out, .free] ⊆ F) (h : s₀.keeps F s) :
    s₀.keeps F (State.startTable s o t) := by
  unfold State.startTable
  (repeat' split) <;> simp_all (maxDischargeDepth := 40)

@[simp] theorem State.keeps_boundaryOverruns {F : List Field} {s₀ s : State} (p : Nat)
    (hF : [.timer, .funcs, .log, .out, .free] ⊆ F) (h : s₀.keeps F s) :
    s₀.keeps F (State.boundaryOverruns s p) := by
  have hF' := hF
  simp only [List.cons_subset, List.nil_subset, and_true] at hF'
  unfold State.boundaryOverruns
  split
  · exact h
  · refine State.keeps_each _ (fun u e => ?_) h
    split <;> simp (maxDischargeDepth := 40) [hF']

@[simp] theorem State.keeps_overtake {F : List Field} {s₀ s : State} (a0 : Owner)
    (hF : [.timer, .funcs, .log, .out, .free] ⊆ F) (h : s₀.keeps F s) :
    s₀.keeps F (State.overtake s a0) := by
  unfold State.overtake
  (repeat' split) <;> simp_all (maxDischargeDepth := 40)

end Sys2Proof.Machine
end

