-- ==== Sys2Proof/Laws/Device.lean ====
section
/-! SUPPORT. Device.lean: what the operations of Machine/HostConfig.lean, HostLink.lean, Power.lean, Resets.lean, Trust.lean, PeerAdmin.lean and Perf.lean may
change. -/

namespace Sys2Proof.Machine

@[simp] theorem State.keeps_onReg {F : List Field} {s₀ s : State} (off : Nat) (data : Bytes) (reg cur : Nat) (f : State → Nat → State)
    (hf : ∀ (u : State) (v : Nat), u.keeps F (f u v)) (h : s₀.keeps F s) : s₀.keeps F (s.onReg off data reg cur f) := by
  unfold State.onReg
  split
  · exact State.keeps_trans h (hf _ _)
  · exact h

theorem State.keeps_bootCopy {F : List Field} {s t : State} {found : BootFindings} (hF : [.boot, .timer, .funcs, .log, .out, .free] ⊆ F)
    (e : s.bootCopy found = some t) : s.keeps F t := by
  have hF' := hF
  simp only [List.cons_subset, List.nil_subset, and_true] at hF'
  unfold State.bootCopy at e
  dsimp only at e
  (repeat' split at e) <;> first | (cases e; simp (maxDischargeDepth := 40) [hF']) | (simp at e)

@[simp] theorem Mem.keeps_clearAssignable {m n : Mem} (h : m.keeps n) : m.keeps n.clearAssignable :=
  Mem.keeps_unpoison _ (Mem.keeps_clear _ _ (Mem.keeps_clear _ _ h))

@[simp] theorem State.keeps_perfConfig {F : List Field} {s₀ s run : State} (m : Msg) (hF : [.funcs, .handed, .out] ⊆ F)
    (h : s₀.keeps F s) (hr : s₀.keeps F run) : s₀.keeps F (s.perfConfig m run) := by
  unfold State.perfConfig
  exact State.keeps_checked _ _ _ hF h (State.keeps_okay _ _ hF hr)

@[simp] theorem State.keeps_perfSample {F : List Field} {s₀ s run : State} (m : Msg) (fields : List (Nat × Bool))
    (hF : [.funcs, .handed, .out] ⊆ F) (h : s₀.keeps F s) (hr : s₀.keeps F run) : s₀.keeps F (s.perfSample m fields run) := by
  unfold State.perfSample
  exact State.keeps_checked _ _ _ hF h (State.keeps_okay _ _ hF hr)

/-! ### HostConfig.lean -/

@[simp] theorem State.keeps_sendPending {F : List Field} {s₀ s : State} (fn : Nat)
    (hF : [.funcs, .out] ⊆ F) (h : s₀.keeps F s) :
    s₀.keeps F (State.sendPending s fn) := by
  unfold State.sendPending
  (repeat' split) <;> simp_all (maxDischargeDepth := 40)

@[simp] theorem State.keeps_cfgWrite {F : List Field} {s₀ s : State} (fn : Nat) (r : CfgReg) (v : Nat)
    (hF : [.funcs, .link, .out] ⊆ F) (h : s₀.keeps F s) :
    s₀.keeps F (State.cfgWrite s fn r v) := by
  unfold State.cfgWrite
  (repeat' split) <;> simp_all (maxDischargeDepth := 40)

@[simp] theorem State.keeps_hostCfgWrite {F : List Field} {s₀ s : State} (fn : Nat) (r : CfgReg) (v : Nat)
    (hF : [.funcs, .link, .out] ⊆ F) (h : s₀.keeps F s) :
    s₀.keeps F (State.hostCfgWrite s fn r v) := by
  unfold State.hostCfgWrite
  (repeat' split) <;> simp_all (maxDischargeDepth := 40)

@[simp] theorem State.keeps_logAer {F : List Field} {s₀ s : State} (fn b : Nat)
    (hF : [.link] ⊆ F) (h : s₀.keeps F s) :
    s₀.keeps F (State.logAer s fn b) := by
  unfold State.logAer
  (repeat' split) <;> simp_all (maxDischargeDepth := 40)

@[simp] theorem State.keeps_logHeader {F : List Field} {s₀ s : State} (fn b : Nat)
    (hF : [.link, .free] ⊆ F) (h : s₀.keeps F s) :
    s₀.keeps F (State.logHeader s fn b) := by
  unfold State.logHeader
  dsimp only
  (repeat' split) <;> simp_all (maxDischargeDepth := 40)

@[simp] theorem State.keeps_bar2Read {F : List Field} {s₀ s : State} (p len : Nat) (via : Via)
    (hF : [.link, .out, .free] ⊆ F) (h : s₀.keeps F s) :
    s₀.keeps F (State.bar2Read s p len via) := by
  unfold State.bar2Read
  (repeat' split) <;> simp_all (maxDischargeDepth := 40)

@[simp] theorem State.keeps_setHdm {F : List Field} {s₀ s : State} (p : Nat) (h_ : Hdm)
    (hF : [.link] ⊆ F) (h : s₀.keeps F s) :
    s₀.keeps F (State.setHdm s p h_) := by
  unfold State.setHdm
  (repeat' split) <;> simp_all (maxDischargeDepth := 40)

@[simp] theorem State.keeps_hdmCommit {F : List Field} {s₀ s : State} (p : Nat)
    (hF : [.link] ⊆ F) (h : s₀.keeps F s) :
    s₀.keeps F (State.hdmCommit s p) := by
  unfold State.hdmCommit
  (repeat' split) <;> simp_all (maxDischargeDepth := 40)

@[simp] theorem State.keeps_hdmUncommit {F : List Field} {s₀ s : State} (p : Nat)
    (hF : [.link] ⊆ F) (h : s₀.keeps F s) :
    s₀.keeps F (State.hdmUncommit s p) := by
  unfold State.hdmUncommit
  (repeat' split) <;> simp_all (maxDischargeDepth := 40)

@[simp] theorem State.keeps_writeDecoder {F : List Field} {s₀ s : State} (p at_ off : Nat) (data : Bytes)
    (hF : [.link] ⊆ F) (h : s₀.keeps F s) :
    s₀.keeps F (State.writeDecoder s p at_ off data) := by
  unfold State.writeDecoder
  (repeat' split) <;> simp_all (maxDischargeDepth := 40)

@[simp] theorem State.keeps_writeCxl {F : List Field} {s₀ s : State} (off : Nat) (data : Bytes)
    (hF : [.link] ⊆ F) (h : s₀.keeps F s) :
    s₀.keeps F (State.writeCxl s off data) := by
  unfold State.writeCxl
  (repeat' split) <;> simp_all (maxDischargeDepth := 40)

/-! ### HostLink.lean -/

@[simp] theorem State.keeps_mailIgnored {F : List Field} {s₀ s : State} (fn : Nat)
    (hF : [.timer, .funcs, .log, .out, .free] ⊆ F) (h : s₀.keeps F s) :
    s₀.keeps F (State.mailIgnored s fn) := by
  unfold State.mailIgnored
  (repeat' split) <;> simp_all (maxDischargeDepth := 40)

@[simp] theorem State.keeps_handOver {F : List Field} {s₀ s : State} (fn : Nat)
    (hF : [.funcs, .handed, .out] ⊆ F) (h : s₀.keeps F s) :
    s₀.keeps F (State.handOver s fn) := by
  unfold State.handOver
  dsimp only
  (repeat' split) <;> simp_all (maxDischargeDepth := 40)

@[simp] theorem State.keeps_writeReqSeq {F : List Field} {s₀ s : State} (fn v : Nat)
    (hF : [.timer, .funcs, .handed, .log, .power, .out, .free] ⊆ F) (h : s₀.keeps F s) :
    s₀.keeps F (State.writeReqSeq s fn v) := by
  unfold State.writeReqSeq
  (repeat' split) <;> simp_all (maxDischargeDepth := 40)

@[simp] theorem State.keeps_writeRequest {F : List Field} {s₀ s : State} (fn i : Nat) (b : Bytes)
    (hF : [.timer, .funcs, .log, .out, .free] ⊆ F) (h : s₀.keeps F s) :
    s₀.keeps F (State.writeRequest s fn i b) := by
  unfold State.writeRequest
  (repeat' split) <;> simp_all (maxDischargeDepth := 40)

@[simp] theorem State.keeps_writeMsix {F : List Field} {s₀ s : State} (fn : Nat) (off : Nat) (data : Bytes)
    (hF : [.funcs, .out] ⊆ F) (h : s₀.keeps F s) :
    s₀.keeps F (State.writeMsix s fn off data) := by
  unfold State.writeMsix
  (repeat' split) <;> simp_all (maxDischargeDepth := 40)

@[simp] theorem State.keeps_writeWindow {F : List Field} {s₀ s : State} (fn off : Nat) (data : Bytes)
    (hF : [.funcs, .perf, .free] ⊆ F) (h : s₀.keeps F s) :
    s₀.keeps F (State.writeWindow s fn off data) := by
  have hF' := hF
  simp only [List.cons_subset, List.nil_subset, and_true] at hF'
  unfold State.writeWindow
  split
  · exact h
  · refine State.keeps_onReg _ _ _ _ _ (fun u v => ?_) (State.keeps_onReg _ _ _ _ _ (fun u v => by simp [hF']) h)
    dsimp only
    (repeat' split) <;> simp [hF']

@[simp] theorem State.keeps_writePf {F : List Field} {s₀ s : State} (off : Nat) (data : Bytes)
    (hF : [.log, .link] ⊆ F) (h : s₀.keeps F s) :
    s₀.keeps F (State.writePf s off data) := by
  have hF' := hF
  simp only [List.cons_subset, List.nil_subset, and_true] at hF'
  unfold State.writePf
  refine State.keeps_onReg _ _ _ _ _ (fun u v => ?_) (State.keeps_onReg _ _ _ _ _ (fun u v => by simp [hF'])
    (State.keeps_writeCxl _ _ (by simp [hF']) h))
  split <;> simp [hF']

@[simp] theorem State.keeps_writeBar0 {F : List Field} {s₀ s : State} (fn off : Nat) (data : Bytes)
    (hF : [.timer, .funcs, .handed, .log, .link, .power, .perf, .out, .free] ⊆ F) (h : s₀.keeps F s) :
    s₀.keeps F (State.writeBar0 s fn off data) := by
  have hF' := hF
  simp only [List.cons_subset, List.nil_subset, and_true] at hF'
  unfold State.writeBar0
  extract_lets s1 s2 buf s3 s4 s5 s6
  have h1 : s₀.keeps F s1 := by simp [s1, hF', h]
  clear_value s1
  have h2 : s₀.keeps F s2 := by simp [s2, hF', h1]
  clear_value s2
  have h3 : s₀.keeps F s3 := by simp [s3, hF', h2]
  clear_value s3
  have h4 : s₀.keeps F s4 := by simp [s4, hF', h3]
  clear_value s4
  have h5 : s₀.keeps F s5 := by simp [s5, hF', h4]
  clear_value s5
  have h6 : s₀.keeps F s6 := by simp [s6, hF', h5]
  clear_value s6
  simp [hF', h6]

@[simp] theorem State.keeps_logHost {F : List Field} {s₀ s : State} (cls part addr : Nat)
    (hF : [.timer, .funcs, .log, .out, .free] ⊆ F) (h : s₀.keeps F s) :
    s₀.keeps F (State.logHost s cls part addr) := by
  unfold State.logHost
  (repeat' split) <;> simp_all (maxDischargeDepth := 40)

@[simp] theorem State.keeps_bar4Read {F : List Field} {s₀ s : State} (p off len : Nat)
    (hF : [.flash, .timer, .dram, .spad, .near, .funcs, .log, .link, .rowHits, .perf, .out, .free] ⊆ F) (h : s₀.keeps F s) :
    s₀.keeps F (State.bar4Read s p off len) := by
  unfold State.bar4Read
  (repeat' split) <;> simp_all (maxDischargeDepth := 40)

@[simp] theorem State.keeps_hostStore {F : List Field} {s₀ s : State} (p : Nat) (P : Partition) (va at? : Nat) (l : List Seg)
    (data : Bytes)
    (hF : [.flash, .timer, .dram, .spad, .hostMem, .caches, .unsettled, .parts, .flight, .near, .funcs, .log, .rowHits,
    .perf, .out, .free] ⊆ F) (h : s₀.keeps F s) :
    s₀.keeps F (State.hostStore s p P va at? l data) := by
  unfold State.hostStore
  (repeat' split) <;> simp_all (maxDischargeDepth := 40)

@[simp] theorem State.keeps_cxlRead {F : List Field} {s₀ s : State} (hpa : Nat)
    (hF : [.flash, .timer, .dram, .spad, .near, .funcs, .log, .rowHits, .perf, .out, .free] ⊆ F) (h : s₀.keeps F s) :
    s₀.keeps F (State.cxlRead s hpa) := by
  unfold State.cxlRead
  (repeat' split) <;> simp_all (maxDischargeDepth := 40)

@[simp] theorem State.keeps_settleCxl {F : List Field} {s₀ s : State} (seed : Nat)
    (hF : [.unsettled] ⊆ F) (h : s₀.keeps F s) :
    s₀.keeps F (State.settleCxl s seed) := by
  unfold State.settleCxl
  (repeat' split) <;> simp_all (maxDischargeDepth := 40)

@[simp] theorem State.keeps_commandReadFails {F : List Field} {s₀ s : State} (id : Nat) (f : Flight) (st : Status)
    (hF : [.flash, .timer, .cycles, .dram, .spad, .hostMem, .caches, .unsettled, .parts, .streams, .prefixes, .flight,
    .sigs, .near, .funcs, .handed, .log, .link, .trust, .peers, .rowHits, .perf, .out, .free, .ends] ⊆ F) (h : s₀.keeps
    F s) :
    s₀.keeps F (State.commandReadFails s id f st) := by
  have hF' := hF
  simp only [List.cons_subset, List.nil_subset, and_true] at hF'
  unfold State.commandReadFails
  split
  · exact State.keeps_condition _ _ (by simp [hF']) (State.keeps_updFlight _ _ (by simp [hF']) (fun x => by simp) h)
  · simp (maxDischargeDepth := 40) [hF', h]

@[simp] theorem State.keeps_spanReadFails {F : List Field} {s₀ s : State} (p q : Nat) (st : Status)
    (hF : [.flash, .timer, .cycles, .dram, .spad, .hostMem, .caches, .unsettled, .parts, .streams, .prefixes, .flight,
    .nextId, .sigs, .near, .funcs, .handed, .log, .link, .trust, .peers, .rowHits, .perf, .out, .free, .ends] ⊆ F) (h :
    s₀.keeps F s) :
    s₀.keeps F (State.spanReadFails s p q st) := by
  unfold State.spanReadFails
  (repeat' split) <;> simp_all (maxDischargeDepth := 40)

@[simp] theorem State.keeps_aerFailure {F : List Field} {s₀ s : State} (fn : Nat) (failure : ReadFailure)
    (hF : [.link] ⊆ F) (h : s₀.keeps F s) :
    s₀.keeps F (State.aerFailure s fn failure) := by
  unfold State.aerFailure
  (repeat' split) <;> simp_all (maxDischargeDepth := 40)

@[simp] theorem State.keeps_endStreams {F : List Field} {s₀ s : State} (hF : [.trust] ⊆ F) (h : s₀.keeps F s) :
    s₀.keeps F (State.endStreams s) := by
  unfold State.endStreams
  (repeat' split) <;> simp_all (maxDischargeDepth := 40)

@[simp] theorem State.keeps_holdEnds {F : List Field} {s₀ s : State} (hF : [.timer, .cycles, .dram, .spad, .hostMem, .caches,
    .unsettled, .parts, .streams, .prefixes, .flight, .sigs, .near, .funcs, .handed, .log, .link, .trust, .peers, .perf,
    .out, .free, .ends] ⊆ F) (h : s₀.keeps F s) :
    s₀.keeps F (State.holdEnds s) := by
  unfold State.holdEnds
  (repeat' split) <;> simp_all (maxDischargeDepth := 40)

@[simp] theorem State.keeps_readsEnd {F : List Field} {s₀ s : State} (hF : [.flash, .timer, .cycles, .dram, .spad, .hostMem,
    .caches, .unsettled, .parts, .streams, .prefixes, .flight, .sigs, .near, .funcs, .handed, .log, .link, .trust,
    .peers, .rowHits, .perf, .out, .free, .ends] ⊆ F) (h : s₀.keeps F s) :
    s₀.keeps F (State.readsEnd s) := by
  have hF' := hF
  simp only [List.cons_subset, List.nil_subset, and_true] at hF'
  unfold State.readsEnd
  extract_lets reading
  refine State.keeps_each _ (fun u x => ?_) (State.keeps_tick (by simp [hF']) h)
  split
  · exact State.keeps_commandReadFails _ _ _ (by simp [hF']) (State.keeps_self _ _)
  · exact State.keeps_self _ _

/-! ### Power.lean -/

@[simp] theorem State.keeps_setPower {F : List Field} {s₀ s : State} (p : PState)
    (hF : [.near, .power] ⊆ F) (h : s₀.keeps F s) :
    s₀.keeps F (State.setPower s p) := by
  unfold State.setPower
  (repeat' split) <;> simp_all (maxDischargeDepth := 40)

@[simp] theorem State.keeps_reloadFails {F : List Field} {s₀ s : State} (bank : Nat)
    (hF : [.boot, .timer, .near, .funcs, .log, .out, .free] ⊆ F) (h : s₀.keeps F s) :
    s₀.keeps F (State.reloadFails s bank) := by
  unfold State.reloadFails
  (repeat' split) <;> simp_all (maxDischargeDepth := 40)

@[simp] theorem State.keeps_reloadCuffs {F : List Field} {s₀ s : State} (pcs : List Nat)
    (hF : [.boot, .timer, .near, .funcs, .log, .out, .free] ⊆ F) (h : s₀.keeps F s) :
    s₀.keeps F (State.reloadCuffs s pcs) := by
  unfold State.reloadCuffs
  (repeat' split) <;> simp_all (maxDischargeDepth := 40)

@[simp] theorem State.keeps_servedHeld {F : List Field} {s₀ s : State} (a0 : HeldRead)
    (hF : [.flash, .timer, .dram, .spad, .near, .funcs, .log, .link, .rowHits, .perf, .out, .free] ⊆ F) (h : s₀.keeps F s) :
    s₀.keeps F (State.servedHeld s a0) := by
  unfold State.servedHeld
  (repeat' split) <;> simp_all (maxDischargeDepth := 40)

@[simp] theorem State.keeps_leaveWatch {F : List Field} {s₀ s : State} (hF : [.flash, .boot, .timer, .dram, .spad, .near,
    .funcs, .handed, .log, .link, .power, .rowHits, .perf, .out, .free] ⊆ F) (h : s₀.keeps F s) :
    s₀.keeps F (State.leaveWatch s) := by
  unfold State.leaveWatch
  (repeat' split) <;> simp_all (maxDischargeDepth := 40)

@[simp] theorem State.keeps_failSensors {F : List Field} {s₀ s : State} (die : Nat) (l : List Int)
    (hF : [.timer, .funcs, .log, .thermal, .out, .free] ⊆ F) (h : s₀.keeps F s) :
    s₀.keeps F (State.failSensors s die l) := by
  unfold State.failSensors
  (repeat' split) <;> simp_all (maxDischargeDepth := 40)

@[simp] theorem State.keeps_holdDie {F : List Field} {s₀ s : State} (die : Nat)
    (hF : [.thermal] ⊆ F) (h : s₀.keeps F s) :
    s₀.keeps F (State.holdDie s die) := by
  unfold State.holdDie
  (repeat' split) <;> simp_all (maxDischargeDepth := 40)

@[simp] theorem State.keeps_setLevel {F : List Field} {s₀ s : State} (die l : Nat)
    (hF : [.timer, .funcs, .log, .thermal, .out, .free] ⊆ F) (h : s₀.keeps F s) :
    s₀.keeps F (State.setLevel s die l) := by
  unfold State.setLevel
  (repeat' split) <;> simp_all (maxDischargeDepth := 40)

/-! ### Resets.lean -/

@[simp] theorem State.keeps_endCommand {F : List Field} {s₀ s : State} (id : Nat) (st : Status) (isl : Nat)
    (hF : [.timer, .cycles, .dram, .spad, .hostMem, .caches, .unsettled, .parts, .flight, .sigs, .near, .funcs, .handed,
    .log, .perf, .out, .free, .ends] ⊆ F) (h : s₀.keeps F s) :
    s₀.keeps F (State.endCommand s id st isl) := by
  have hF' := hF
  simp only [List.cons_subset, List.nil_subset, and_true] at hF'
  unfold State.endCommand
  split
  · exact h
  · refine State.keeps_retire _ (by simp [hF']) (State.keeps_updFlight _ _ (by simp [hF']) (fun x => by simp) ?_)
    simp (maxDischargeDepth := 40) [hF', h]

@[simp] theorem State.keeps_faultAll {F : List Field} {s₀ s : State} (ctxs : List (Nat × Nat)) (cause : Nat)
    (hF : [.flash, .timer, .cycles, .dram, .spad, .hostMem, .caches, .unsettled, .parts, .streams, .prefixes, .flight,
    .sigs, .near, .funcs, .handed, .log, .link, .trust, .peers, .rowHits, .perf, .out, .free, .ends] ⊆ F) (h : s₀.keeps
    F s) :
    s₀.keeps F (State.faultAll s ctxs cause) := by
  unfold State.faultAll
  (repeat' split) <;> simp_all (maxDischargeDepth := 40)

@[simp] theorem State.keeps_endAll {F : List Field} {s₀ s : State} (mine : Nat → Flight → Bool) (st : Status) (isl : Nat)
    (hF : [.timer, .cycles, .dram, .spad, .hostMem, .caches, .unsettled, .parts, .flight, .sigs, .near, .funcs, .handed,
    .log, .perf, .out, .free, .ends] ⊆ F) (h : s₀.keeps F s) :
    s₀.keeps F (State.endAll s mine st isl) := by
  unfold State.endAll
  (repeat' split) <;> simp_all (maxDischargeDepth := 40)

@[simp] theorem State.keeps_endCommands {F : List Field} {s₀ s : State} (mine : Nat → Flight → Bool) (st : Status) (cause isl : Nat)
    (hF : [.flash, .timer, .cycles, .dram, .spad, .hostMem, .caches, .unsettled, .parts, .streams, .prefixes, .flight,
    .sigs, .near, .funcs, .handed, .log, .link, .trust, .peers, .rowHits, .perf, .out, .free, .ends] ⊆ F) (h : s₀.keeps
    F s) :
    s₀.keeps F (State.endCommands s mine st cause isl) := by
  unfold State.endCommands
  (repeat' split) <;> simp_all (maxDischargeDepth := 40)

@[simp] theorem State.keeps_poisonWords {F : List Field} {s₀ s : State} (r : Range) (pick : Nat → Bool)
    (hF : [.dram, .spad] ⊆ F) (h : s₀.keeps F s) :
    s₀.keeps F (State.poisonWords s r pick) := by
  unfold State.poisonWords
  (repeat' split) <;> simp_all (maxDischargeDepth := 40)

@[simp] theorem State.keeps_answerPoison {F : List Field} {s₀ s : State} (id : Nat)
    (hF : [.dram, .spad, .hostMem, .flight, .free] ⊆ F) (h : s₀.keeps F s) :
    s₀.keeps F (State.answerPoison s id) := by
  unfold State.answerPoison
  (repeat' split) <;> simp_all (maxDischargeDepth := 40)

@[simp] theorem State.keeps_answerReaders {F : List Field} {s₀ s : State} (a n : Nat) (mine : Nat → Flight → Bool)
    (hF : [.dram, .spad, .hostMem, .flight, .free] ⊆ F) (h : s₀.keeps F s) :
    s₀.keeps F (State.answerReaders s a n mine) := by
  unfold State.answerReaders
  (repeat' split) <;> simp_all (maxDischargeDepth := 40)

@[simp] theorem State.keeps_clearSpad {F : List Field} {s₀ s : State} (a n : Nat)
    (hF : [.spad, .unsettled, .near] ⊆ F) (h : s₀.keeps F s) :
    s₀.keeps F (State.clearSpad s a n) := by
  unfold State.clearSpad
  (repeat' split) <;> simp_all (maxDischargeDepth := 40)

@[simp] theorem State.keeps_resetSpad {F : List Field} {s₀ s : State} (a n : Nat) (mine : Nat → Flight → Bool)
    (hF : [.spad, .unsettled, .near, .free] ⊆ F) (h : s₀.keeps F s) :
    s₀.keeps F (State.resetSpad s a n mine) := by
  unfold State.resetSpad
  (repeat' split) <;> simp_all (maxDischargeDepth := 40)

@[simp] theorem State.keeps_fenceCore {F : List Field} {s₀ s : State} (c k : Nat)
    (hF : [.boot, .timer, .funcs, .log, .out, .free] ⊆ F) (h : s₀.keeps F s) :
    s₀.keeps F (State.fenceCore s c k) := by
  unfold State.fenceCore
  (repeat' split) <;> simp_all (maxDischargeDepth := 40)

@[simp] theorem State.keeps_fenceCluster {F : List Field} {s₀ s : State} (c : Nat)
    (hF : [.boot, .timer, .funcs, .log, .out, .free] ⊆ F) (h : s₀.keeps F s) :
    s₀.keeps F (State.fenceCluster s c) := by
  unfold State.fenceCluster
  (repeat' split) <;> simp_all (maxDischargeDepth := 40)

@[simp] theorem State.keeps_restoreCrossings {F : List Field} {s₀ s : State} (far : Nat → Bool)
    (hF : [.cross] ⊆ F) (h : s₀.keeps F s) :
    s₀.keeps F (State.restoreCrossings s far) := by
  unfold State.restoreCrossings
  (repeat' split) <;> simp_all (maxDischargeDepth := 40)

@[simp] theorem State.keeps_drainCluster {F : List Field} {s₀ s : State} (u : ClusterRestart) (fence : Bool)
    (hF : [.boot, .cross, .timer, .cycles, .dram, .spad, .hostMem, .caches, .unsettled, .parts, .flight, .sigs, .near,
    .funcs, .handed, .log, .perf, .out, .free, .ends] ⊆ F) (h : s₀.keeps F s) :
    s₀.keeps F (State.drainCluster s u fence).1 := by
  unfold State.drainCluster
  (repeat' split) <;> simp_all (maxDischargeDepth := 40)

@[simp] theorem State.keeps_resetCluster {F : List Field} {s₀ s : State} (u : ClusterRestart) (fence : Bool)
    (hF : [.flash, .boot, .cross, .timer, .cycles, .dram, .spad, .hostMem, .caches, .unsettled, .parts, .streams,
    .prefixes, .flight, .sigs, .near, .funcs, .handed, .log, .link, .trust, .peers, .rowHits, .perf, .out, .free, .ends]
    ⊆ F) (h : s₀.keeps F s) :
    s₀.keeps F (State.resetCluster s u fence) := by
  unfold State.resetCluster
  (repeat' split) <;> simp_all (maxDischargeDepth := 40)

@[simp] theorem State.keeps_testCluster {F : List Field} {s₀ s : State} (u : ClusterRestart)
    (hF : [.boot, .timer, .spad, .caches, .unsettled, .near, .funcs, .log, .out, .free] ⊆ F) (h : s₀.keeps F s) :
    s₀.keeps F (State.testCluster s u) := by
  unfold State.testCluster
  (repeat' split) <;> simp_all (maxDischargeDepth := 40)

@[simp] theorem State.keeps_recoverGroup {F : List Field} {s₀ s : State} (pc : Nat) (again : Bool)
    (hF : [.boot, .cross, .timer, .cycles, .near, .funcs, .log, .out, .free] ⊆ F) (h : s₀.keeps F s) :
    s₀.keeps F (State.recoverGroup s pc again) := by
  unfold State.recoverGroup
  (repeat' split) <;> simp_all (maxDischargeDepth := 40)

@[simp] theorem State.keeps_goOffline {F : List Field} {s₀ s : State} (pc cause : Nat)
    (hF : [.boot] ⊆ F) (h : s₀.keeps F s) :
    s₀.keeps F (State.goOffline s pc cause) := by
  unfold State.goOffline
  (repeat' split) <;> simp_all (maxDischargeDepth := 40)

@[simp] theorem State.keeps_recoverIsland {F : List Field} {s₀ s : State} (far : Nat) (ctxs : List (Nat × Nat))
    (hF : [.flash, .boot, .cross, .timer, .cycles, .dram, .spad, .hostMem, .caches, .unsettled, .parts, .streams,
    .prefixes, .flight, .sigs, .near, .funcs, .handed, .log, .link, .trust, .peers, .rowHits, .perf, .out, .free, .ends]
    ⊆ F) (h : s₀.keeps F s) :
    s₀.keeps F (State.recoverIsland s far ctxs) := by
  have hF' := hF
  simp only [List.cons_subset, List.nil_subset, and_true] at hF'
  unfold State.recoverIsland
  extract_lets n again _ s1 x _ s2
  have h1 : s₀.keeps F s1 := by simp [s1, hF', h]
  have hx : s₀.keeps F x.1 := State.keeps_drainCluster _ _ (by simp [hF']) h1
  have h2 : s₀.keeps F s2 := by simp (maxDischargeDepth := 40) [s2, hF', h1]
  clear_value s2 x s1
  split
  · split <;> simp (maxDischargeDepth := 40) [hF', h1, hx]
  · split <;> simp (maxDischargeDepth := 40) [hF', h1, hx]
  · simp (maxDischargeDepth := 40) [hF', h1]
  · simp (maxDischargeDepth := 40) [hF', h1]
  · split <;> simp (maxDischargeDepth := 40) [hF', h2]
  · simp (maxDischargeDepth := 40) [hF', h1]

@[simp] theorem State.keeps_emptied {F : List Field} {s₀ s : State} (hF : [.cross, .cycles, .spad, .caches, .unsettled, .parts,
    .streams, .prefixes, .flight, .sigs, .near, .funcs, .handed, .link, .rowHits, .sched, .perf, .ends] ⊆ F) (h :
    s₀.keeps F s) :
    s₀.keeps F (State.emptied s) := by
  unfold State.emptied
  (repeat' split) <;> simp_all (maxDischargeDepth := 40)

@[simp] theorem State.keeps_fullReset {F : List Field} {s₀ s : State} (hF : [.boot, .cross, .timer, .cycles, .dram, .spad,
    .caches, .unsettled, .parts, .streams, .prefixes, .flight, .sigs, .near, .funcs, .handed, .log, .link, .trust,
    .peers, .power, .thermal, .tests, .rowHits, .sched, .perf, .ends] ⊆ F) (h : s₀.keeps F s) :
    s₀.keeps F (State.fullReset s) := by
  unfold State.fullReset
  (repeat' split) <;> simp_all (maxDischargeDepth := 40)

@[simp] theorem State.keeps_romServes {F : List Field} {s₀ s : State} (hF : [.boot] ⊆ F) (h : s₀.keeps F s) :
    s₀.keeps F (State.romServes s) := by
  unfold State.romServes
  (repeat' split) <;> simp_all (maxDischargeDepth := 40)

@[simp] theorem State.keeps_addMismatch {F : List Field} {s₀ s : State} (m : Mismatch)
    (hF : [.boot] ⊆ F) (h : s₀.keeps F s) :
    s₀.keeps F (State.addMismatch s m) := by
  unfold State.addMismatch
  (repeat' split) <;> simp_all (maxDischargeDepth := 40)

@[simp] theorem State.keeps_bootEntropy {F : List Field} {s₀ s : State} (ok : Bool)
    (hF : [.boot, .timer, .funcs, .log, .out, .free] ⊆ F) (h : s₀.keeps F s) :
    s₀.keeps F (State.bootEntropy s ok) := by
  unfold State.bootEntropy
  (repeat' split) <;> simp_all (maxDischargeDepth := 40)

@[simp] theorem State.keeps_takeActivation {F : List Field} {s₀ s : State} (hF : [.flash] ⊆ F) (h : s₀.keeps F s) :
    s₀.keeps F (State.takeActivation s) := by
  unfold State.takeActivation
  (repeat' split) <;> simp_all (maxDischargeDepth := 40)

@[simp] theorem State.keeps_bootFuse {F : List Field} {s₀ s : State} (train : Bool)
    (hF : [.boot] ⊆ F) (h : s₀.keeps F s) :
    s₀.keeps F (State.bootFuse s train) := by
  unfold State.bootFuse
  (repeat' split) <;> simp_all (maxDischargeDepth := 40)

@[simp] theorem State.keeps_switchIn {F : List Field} {s₀ s : State} (path : Path) (pc bank lane : Nat)
    (hF : [.fuse, .boot, .timer, .funcs, .log, .out, .free] ⊆ F) (h : s₀.keeps F s) :
    s₀.keeps F (State.switchIn s path pc bank lane) := by
  unfold State.switchIn
  (repeat' split) <;> simp_all (maxDischargeDepth := 40)

@[simp] theorem State.keeps_loseColumn {F : List Field} {s₀ s : State} (bank : Nat)
    (hF : [.boot, .timer, .funcs, .log, .out, .free] ⊆ F) (h : s₀.keeps F s) :
    s₀.keeps F (State.loseColumn s bank) := by
  unfold State.loseColumn
  (repeat' split) <;> simp_all (maxDischargeDepth := 40)

@[simp] theorem State.keeps_trainGirdle {F : List Field} {s₀ s : State} (g : GirdleLanes)
    (hF : [.fuse, .boot, .timer, .funcs, .log, .out, .free] ⊆ F) (h : s₀.keeps F s) :
    s₀.keeps F (State.trainGirdle s g) := by
  unfold State.trainGirdle
  (repeat' split) <;> simp_all (maxDischargeDepth := 40)

@[simp] theorem State.keeps_bootTrain {F : List Field} {s₀ s : State} (f : BootFindings)
    (hF : [.fuse, .boot, .timer, .funcs, .log, .out, .free] ⊆ F) (h : s₀.keeps F s) :
    s₀.keeps F (State.bootTrain s f) := by
  unfold State.bootTrain
  (repeat' split) <;> simp_all (maxDischargeDepth := 40)

@[simp] theorem State.keeps_bootUnit {F : List Field} {s₀ s : State} (a0 : BootUnit)
    (hF : [.boot, .timer, .funcs, .log, .out, .free] ⊆ F) (h : s₀.keeps F s) :
    s₀.keeps F (State.bootUnit s a0) := by
  unfold State.bootUnit
  (repeat' split) <;> simp_all (maxDischargeDepth := 40)

@[simp] theorem State.keeps_bootLicences {F : List Field} {s₀ s : State} (bad : List Nat)
    (hF : [.boot, .trust, .peers] ⊆ F) (h : s₀.keeps F s) :
    s₀.keeps F (State.bootLicences s bad) := by
  unfold State.bootLicences
  (repeat' split) <;> simp_all (maxDischargeDepth := 40)

@[simp] theorem State.keeps_pruneAccepted {F : List Field} {s₀ s : State} (hF : [.flash] ⊆ F) (h : s₀.keeps F s) :
    s₀.keeps F (State.pruneAccepted s) := by
  unfold State.pruneAccepted
  (repeat' split) <;> simp_all (maxDischargeDepth := 40)

@[simp] theorem State.keeps_raiseSvn {F : List Field} {s₀ s : State} (hF : [.fuse] ⊆ F) (h : s₀.keeps F s) :
    s₀.keeps F (State.raiseSvn s) := by
  unfold State.raiseSvn
  (repeat' split) <;> simp_all (maxDischargeDepth := 40)

@[simp] theorem State.keeps_bootEnds {F : List Field} {s₀ s : State} (bad : List Nat)
    (hF : [.fuse, .flash, .boot, .funcs, .trust, .peers, .out] ⊆ F) (h : s₀.keeps F s) :
    s₀.keeps F (State.bootEnds s bad) := by
  unfold State.bootEnds
  (repeat' split) <;> simp_all (maxDischargeDepth := 40)

@[simp] theorem State.keeps_bootZero {F : List Field} {s₀ s : State} (train : Bool)
    (hF : [.dram, .spad] ⊆ F) (h : s₀.keeps F s) :
    s₀.keeps F (State.bootZero s train) := by
  unfold State.bootZero
  (repeat' split) <;> simp_all (maxDischargeDepth := 40)

@[simp] theorem State.keeps_setCdcTimeout {F : List Field} {s₀ s : State} (hF : [.cross] ⊆ F) (h : s₀.keeps F s) :
    s₀.keeps F (State.setCdcTimeout s) := by
  unfold State.setCdcTimeout
  (repeat' split) <;> simp_all (maxDischargeDepth := 40)

@[simp] theorem State.keeps_bootFrom {F : List Field} {s₀ s : State} (f : BootFindings) (train : Bool)
    (hF : [.fuse, .flash, .boot, .cross, .timer, .dram, .spad, .near, .funcs, .log, .trust, .peers, .rowHits, .perf,
    .out, .free] ⊆ F) (h : s₀.keeps F s) :
    s₀.keeps F (State.bootFrom s f train) := by
  have hF' := hF
  simp only [List.cons_subset, List.nil_subset, and_true] at hF'
  unfold State.bootFrom
  extract_lets s1
  have h1 : s₀.keeps F s1 := by simp [s1, State.takeActivation, hF', h]
  clear_value s1
  split
  · simp [hF', h1]
  · rename_i u hu
    have h2 : s₀.keeps F u := State.keeps_trans h1 (State.keeps_bootCopy (by simp [hF']) hu)
    split
    · simp [hF', h2]
    · extract_lets s3 s4 s5 s6
      have h3 : s₀.keeps F s3 := by simp [s3, hF', h2]
      clear_value s3
      have h4 : s₀.keeps F s4 := by simp [s4, hF', h3]
      clear_value s4
      have h5 : s₀.keeps F s5 := by simp [s5, hF', h4]
      clear_value s5
      have h6 : s₀.keeps F s6 := by simp [s6, hF', h5]
      clear_value s6
      simp (maxDischargeDepth := 40) [hF', h6]

@[simp] theorem State.keeps_trainLink {F : List Field} {s₀ s : State} (hF : [.link] ⊆ F) (h : s₀.keeps F s) :
    s₀.keeps F (State.trainLink s) := by
  unfold State.trainLink
  (repeat' split) <;> simp_all (maxDischargeDepth := 40)

@[simp] theorem State.keeps_deviceReset {F : List Field} {s₀ s : State} (hF : [.fuse, .boot, .cross, .timer, .cycles, .dram,
    .spad, .caches, .unsettled, .parts, .streams, .prefixes, .flight, .sigs, .near, .funcs, .handed, .log, .link,
    .trust, .peers, .power, .tests, .rowHits, .sched, .perf, .out, .free, .ends] ⊆ F) (h : s₀.keeps F s) :
    s₀.keeps F (State.deviceReset s) := by
  have hF' := hF
  simp only [List.cons_subset, List.nil_subset, and_true] at hF'
  unfold State.deviceReset
  extract_lets s1 s2 columns s3 s4 b s5
  have h1 : s₀.keeps F s1 := by simp [s1, hF', h]
  clear_value s1
  have h2 : s₀.keeps F s2 := by simp [s2, hF', h1]
  have h4 : s₀.keeps F s4 := State.keeps_trans (t := s3) (by simp [s3, hF', h2]) (by
    have e : s3.dram = s2.dram := rfl
    simp [s4, hF', e])
  clear_value s4
  have h5 : s₀.keeps F s5 := by simp [s5, hF', h4]
  clear_value s5
  simp [hF', h5]

/-! ### Trust.lean -/

@[simp] theorem State.keeps_cutStaging {F : List Field} {s₀ s : State} (c : FwCopy)
    (hF : [.flash, .boot, .cross, .timer, .cycles, .dram, .spad, .caches, .unsettled, .parts, .streams, .prefixes,
    .flight, .sigs, .near, .funcs, .handed, .log, .link, .trust, .peers, .power, .thermal, .tests, .rowHits, .sched,
    .perf, .ends] ⊆ F) (h : s₀.keeps F s) :
    s₀.keeps F (State.cutStaging s c) := by
  unfold State.cutStaging
  (repeat' split) <;> simp_all (maxDischargeDepth := 40)

@[simp] theorem State.keeps_stageImages {F : List Field} {s₀ s : State} (m : Msg) (c : FwCopy)
    (hF : [.flash, .funcs, .handed, .out] ⊆ F) (h : s₀.keeps F s) :
    s₀.keeps F (State.stageImages s m c) := by
  unfold State.stageImages
  (repeat' split) <;> simp_all (maxDischargeDepth := 40)

@[simp] theorem State.keeps_storeBlob {F : List Field} {s₀ s : State} (b : Bytes)
    (hF : [.flash, .boot] ⊆ F) (h : s₀.keeps F s) :
    s₀.keeps F (State.storeBlob s b) := by
  unfold State.storeBlob
  (repeat' split) <;> simp_all (maxDischargeDepth := 40)

@[simp] theorem State.keeps_setConn {F : List Field} {s₀ s : State} (t : Nat) (c : SpdmConn)
    (hF : [.trust] ⊆ F) (h : s₀.keeps F s) :
    s₀.keeps F (State.setConn s t c) := by
  unfold State.setConn
  (repeat' split) <;> simp_all (maxDischargeDepth := 40)

@[simp] theorem State.keeps_spdmTick {F : List Field} {s₀ s : State} (t : Nat)
    (hF : [.trust] ⊆ F) (h : s₀.keeps F s) :
    s₀.keeps F (State.spdmTick s t) := by
  unfold State.spdmTick
  (repeat' split) <;> simp_all (maxDischargeDepth := 40)

@[simp] theorem State.keeps_spdmReply {F : List Field} {s₀ s : State} (t : Nat) (req : Bytes)
    (hF : [.trust] ⊆ F) (h : s₀.keeps F s) :
    s₀.keeps F (State.spdmReply s t req).2 := by
  unfold State.spdmReply
  dsimp only
  (repeat' split) <;> simp_all (maxDischargeDepth := 40)

@[simp] theorem State.keeps_setIde {F : List Field} {s₀ s : State} (stream : Nat) (vf : Option Nat) (tee : Bool)
    (hF : [.trust] ⊆ F) (h : s₀.keeps F s) :
    s₀.keeps F (State.setIde s stream vf tee) := by
  unfold State.setIde
  (repeat' split) <;> simp_all (maxDischargeDepth := 40)

@[simp] theorem State.keeps_setTdi {F : List Field} {s₀ s : State} (p : Nat) (t : TdiState)
    (hF : [.trust] ⊆ F) (h : s₀.keeps F s) :
    s₀.keeps F (State.setTdi s p t) := by
  unfold State.setTdi
  (repeat' split) <;> simp_all (maxDischargeDepth := 40)

@[simp] theorem State.keeps_poke {F : List Field} {s₀ s : State} (key : Nat) (b : Bytes)
    (hF : [.trust] ⊆ F) (h : s₀.keeps F s) :
    s₀.keeps F (State.poke s key b) := by
  unfold State.poke
  (repeat' split) <;> simp_all (maxDischargeDepth := 40)

@[simp] theorem State.keeps_debugWrite {F : List Field} {s₀ s : State} (t : DebugTarget) (b : Bytes)
    (hF : [.timer, .dram, .spad, .funcs, .handed, .log, .link, .trust, .power, .perf, .out, .free] ⊆ F) (h : s₀.keeps F s) :
    s₀.keeps F (State.debugWrite s t b) := by
  unfold State.debugWrite
  (repeat' split) <;> simp_all (maxDischargeDepth := 40)

/-! ### PeerAdmin.lean -/

@[simp] theorem State.keeps_applyManifest {F : List Field} {s₀ s : State} (m : Manifest)
    (hF : [.flash, .timer, .cycles, .dram, .spad, .hostMem, .caches, .unsettled, .parts, .streams, .prefixes, .flight,
    .sigs, .near, .funcs, .handed, .log, .link, .trust, .peers, .rowHits, .perf, .out, .free, .ends] ⊆ F) (h : s₀.keeps
    F s) :
    s₀.keeps F (State.applyManifest s m) := by
  unfold State.applyManifest
  (repeat' split) <;> simp_all (maxDischargeDepth := 40)

/-! ### Perf.lean -/

@[simp] theorem State.keeps_setControl {F : List Field} {s₀ s : State} (sel w : Nat)
    (hF : [.perf, .free] ⊆ F) (h : s₀.keeps F s) :
    s₀.keeps F (State.setControl s sel w) := by
  unfold State.setControl
  dsimp only
  (repeat' split) <;> simp_all (maxDischargeDepth := 40)

@[simp] theorem State.keeps_sampleProduce {F : List Field} {s₀ s : State} (m : Sampler)
    (hF : [.hostMem, .funcs, .out] ⊆ F) (h : s₀.keeps F s) :
    s₀.keeps F (State.sampleProduce s m) := by
  unfold State.sampleProduce
  (repeat' split) <;> simp_all (maxDischargeDepth := 40)

@[simp] theorem State.keeps_sampleOut {F : List Field} {s₀ s : State} (x : Sample)
    (hF : [.hostMem, .funcs, .perf, .out] ⊆ F) (h : s₀.keeps F s) :
    s₀.keeps F (State.sampleOut s x) := by
  unfold State.sampleOut
  dsimp only
  (repeat' split) <;> simp_all (maxDischargeDepth := 40)

@[simp] theorem State.keeps_sampleStop {F : List Field} {s₀ s : State} (scope : Nat)
    (hF : [.hostMem, .funcs, .perf, .out] ⊆ F) (h : s₀.keeps F s) :
    s₀.keeps F (State.sampleStop s scope) := by
  unfold State.sampleStop
  dsimp only
  (repeat' split) <;> simp_all (maxDischargeDepth := 40)

@[simp] theorem State.keeps_sampleStart {F : List Field} {s₀ s : State} (m : Msg)
    (hF : [.perf] ⊆ F) (h : s₀.keeps F s) :
    s₀.keeps F (State.sampleStart s m) := by
  unfold State.sampleStart
  (repeat' split) <;> simp_all (maxDischargeDepth := 40)

end Sys2Proof.Machine
end

