-- ==== Sys2Proof/Tests/Slice0.lean ====
section
/-! SUPPORT. Slice0.lean: own tests. Ill-formed commands that WellFormed refuses; and for every statement of
Certificates/Slice0/Obligations.lean a small state with operands that meet its hypotheses, a clause at a time. The states are
built from the spec's encodings; no expected value comes from running the model. -/

namespace Sys2Proof.Tests

open Sys2Proof Sys2Proof.Machine

set_option Elab.async false

/-! ### Builders -/

/-- Bytes with fields written at (offset, width, value). -/
def fields (n : Nat) (l : List (Nat × Nat × Nat)) : Bytes :=
  l.foldl (fun b e => b.take e.1 ++ natLe e.2.1 e.2.2 ++ b.drop (e.1 + e.2.1)) (zeros n)

/-- A record: opcode, flags byte, fields from offset 8 on; two slots where LONG is set (R116). -/
def record (op flags : Nat) (l : List (Nat × Nat × Nat)) : Bytes :=
  fields (if flags / 32 % 2 = 1 then 128 else 64) ([(0, 2, op), (3, 1, flags), (6, 1, 15)] ++ l)

/-- A scratchpad descriptor of a box e0 × e1 at an address, row after row (R163). -/
def sdBox (o addr type e0 e1 : Nat) : List (Nat × Nat × Nat) :=
  [(o, 4, addr), (o + 4, 1, type), (o + 8, 2, e0), (o + 10, 2, e1), (o + 12, 2, 1), (o + 14, 2, 1), (o + 16, 2, 1), (o + 18, 2, e0)]

/-- A global descriptor of a box e0 × e1 of a type of some bytes (R164). -/
def gdBox (o addr type bytes e0 e1 : Nat) : List (Nat × Nat × Nat) :=
  [(o, 8, addr), (o + 8, 1, type), (o + 12, 2, e0), (o + 14, 2, e1), (o + 16, 2, 1), (o + 18, 2, 1), (o + 20, 4, bytes),
   (o + 24, 4, bytes * e0)]

def spadAt (a : Nat) : Nat := 0x200000000000 + a

/-- A partition that owns cluster 0 and pseudo-channel 4 with eight bank-local banks, and maps one page. -/
def part : Partition :=
  { Partition.fresh { clusters := 1, streamBase := 0, streamCount := 16, prefixQuota := 4, policyPartition := false, perfUser := true }
      [(4, 8)] 0 with pages := [{ va := 0, pa := 0, big := false }] }

/-- A queue of cluster 0 that has fetched the given records. -/
def queue (l : List Bytes) : Queue :=
  { Queue.fresh (fields 40 [(3, 1, 8), (4, 2, 1), (6, 2, 1)]) with
    ahead := ((List.range l.length).zip l).map (fun e => { pos := e.1, bytes := e.2 }) }

/-- The module after a boot: served, READY, powered, its link up, one partition of number 0 with queue 0. -/
def ready : State :=
  { State.reset with boot := { Boot.reset with perstLow := false, served := true, readiness := .ready },
                     link := { State.reset.link with cfg := [(0, { vfEnable := true }), (1, { msixEnable := true })] } }

def withPart (P : Partition) : State := { ready with parts := [(0, P)] }

def run (l : List Bytes) : State := withPart { part with queues := [(0, queue l)] }

/-- Every requirement of State.runs, decided. -/
def runsOk (s : State) (i : Instr) : Bool :=
  match i.record? with
  | none => false
  | some (p, q, _) =>
    match s.site? p q with
    | none => false
    | some d => i.takes d.b && !recordWaits i d && (headerBad d.b).isNone && d.Q.predicate d.b
        && decide ((recordBegun i s).checks d i = .go) && !s.crossBroken d && !s.tableBad d

/-- The site of the head of queue 0 of partition 0. -/
def site (s : State) : Site := (s.site? 0 0).getD { p := 0, q := 0, P := part, Q := queue [], rcd := { pos := 0, bytes := [] } }

theorem runs_of_check (s : State) (i : Instr) (op : Nat) (hi : i.record? = some (0, 0, op)) (h : runsOk s i = true) :
    s.runs i (site s) := by
  unfold runsOk at h
  rw [hi] at h
  simp only at h
  split at h
  · exact absurd h (by decide)
  · rename_i d hd
    simp only [Bool.and_eq_true, Bool.not_eq_true', decide_eq_true_eq] at h
    obtain ⟨⟨⟨⟨⟨⟨h1, h2⟩, h3⟩, h4⟩, h5⟩, h6⟩, h7⟩ := h
    have : site s = d := by unfold site; rw [hd]; rfl
    rw [this]
    exact ⟨0, 0, op, hi, hd, h1, h2, Option.isNone_iff_eq_none.mp h3, h4, h5, h6, h7⟩

/-! ### Records -/

/-- A pool with one shared group, one unrotated and one rotated layer, in bank 64 of pseudo-channel 4. -/
def pool : Pool :=
  { firstStream := 0, streamCount := 4, base := 0, size := 2 ^ 20, maxBlocks := 4, sharedGroups := 0, lowWater := 0, idleSteps := 2,
    metaVa := 0x1000, tokens := 64, groups := 1, layers := [{ cache := 0, group := 32, scaleE4m3 := false, rotated := true }],
    banks := [64], used := [], freed := [] }

/-- Partition 0 with its pool, and queue 0 holding the records. -/
def runPool (l : List Bytes) : State := withPart { part with queues := [(0, queue l)], pool := some pool }

/-- Peer 0 is included and reached over port 0, which is up; group 0 of partition 0 has it as its second member. -/
def peersUp : Peers :=
  { manifest := { Manifest.none with peers := [{ serial := 2, included := true }],
                                     links := [{ port := 0, peer := 0, remotePort := 1, switched := false, mac := 0 }],
                                     groups := [{ partition := 0, group := 0, rank := 0, members := [(0xFF, 0), (0, 0)] }] },
    ports := [(0, { (ready.port 0) with state := .up, farSerial := 2, farPort := 1 })],
    groups := [(0, { state := .active, opSeq := 0 })], early := [] }

def runPeer (l : List Bytes) : State := { run l with peers := peersUp }

def noOp : Bytes := record 0x0001 1 []
def longNoOp : Bytes := record 0x1001 0x21 []

/-- WAIT on counter 0 = 0, and on counter 0 = 1. -/
def waitNow : Bytes := record 0x0002 0x40 []
def waitLater : Bytes := record 0x0002 0 [(16, 4, 1)]
/-- SIGNAL adds 1 to counter 3 of queue 0. -/
def signalOwn : Bytes := record 0x0003 0 [(9, 1, 3), (10, 1, 1), (12, 4, 1)]
def signalOther : Bytes := record 0x0003 0 [(8, 1, 1), (9, 1, 3), (10, 1, 1), (12, 4, 1)]
def compare : Bytes := record 0x0004 0 [(8, 1, 2), (9, 1, 1), (10, 1, 4), (16, 4, 7)]
def compareBad : Bytes := record 0x0004 0 [(10, 1, 6)]
def loopTwice : Bytes := record 0x0005 0 [(8, 2, 1), (12, 4, 2)]
def loopNever : Bytes := record 0x0005 0 [(8, 2, 1)]
def loopLong : Bytes := record 0x0005 0 [(8, 2, 129), (12, 4, 1)]
def fenceHost : Bytes := record 0x0006 0 [(8, 1, 2)]
def stepSet : Bytes := record 0x0007 0 [(8, 1, 1), (16, 8, 9)]

/-- LOAD of one E4M3 byte of the striped page to the cluster's scratchpad, past the cache. -/
def loadByte : Bytes := record 0x1001 0x21 ([(9, 1, 1)] ++ gdBox 16 0x40 4 1 1 1 ++ sdBox 56 0x100 4 1 1)
def storeByte : Bytes := record 0x1002 0x21 (sdBox 16 0x100 4 1 1 ++ gdBox 40 0x40 4 1 1 1)
def copyByte : Bytes := record 0x1003 0x21 (gdBox 16 0x40 4 1 1 1 ++ gdBox 56 0x80 4 1 1 1)
/-- GATHER and SCATTER of one block of one element. -/
def gatherByte : Bytes :=
  record 0x1004 0x21 ([(10, 2, 1), (12, 2, 1), (14, 2, 1), (96, 4, 0x200)] ++ gdBox 16 0x40 4 1 1 1 ++ gdBox 56 0x80 4 1 1 1)
def scatterByte : Bytes :=
  record 0x1005 0x21 ([(10, 2, 1), (12, 2, 1), (14, 2, 1), (96, 4, 0x200)] ++ gdBox 16 0x40 4 1 1 1 ++ gdBox 56 0x80 4 1 1 1)
def hostOut : Bytes :=
  record 0x1006 0 [(10, 2, 1), (12, 4, 1), (16, 8, 0x40), (24, 4, 0x100), (28, 4, 1), (40, 8, 0x300000000000), (48, 4, 0x1000), (52, 4, 1)]

/-- MMA of one INT8 element in core 0's scratchpad. -/
def mmaByte : Bytes := record 0x2001 0x21 (sdBox 16 0x800000 9 1 1 ++ sdBox 40 0x800100 9 1 1 ++ sdBox 64 0x800200 10 1 1)
def packs (o addr type e0 : Nat) : List (Nat × Nat × Nat) :=
  [(o, 4, addr), (o + 4, 1, type), (o + 5, 1, 4), (o + 8, 2, e0), (o + 10, 2, 1), (o + 12, 2, 1), (o + 14, 2, 1), (o + 18, 2, 1)]
def mmaqGroup : Bytes := record 0x2002 0x21 (packs 16 0x800000 4 32 ++ packs 40 0x801000 4 32 ++ sdBox 64 0x802000 1 1 1)
def addFp32 : Bytes := record 0x3001 0x21 (sdBox 16 0 1 1 1 ++ sdBox 40 0x10 1 1 1 ++ sdBox 64 0x20 1 1 1)
/-- READ_CTR of counter 0 of cluster 0's unit to scratchpad address 0x20. -/
def readCounter : Bytes := record 0x3001 0x21 ([(9, 1, 0x30)] ++ sdBox 64 0x20 1 1 1)
def reduceRow : Bytes := record 0x3002 0x21 (sdBox 16 0 1 2 1 ++ sdBox 40 0x20 1 1 1)
def reduceBags : Bytes := record 0x3002 0x21 ([(10, 1, 1), (12, 4, 1), (64, 4, 0x100), (68, 4, 0x200), (72, 4, 32), (76, 2, 1)] ++ sdBox 40 0x20 1 1 1)
def quantRow : Bytes := record 0x3003 0x21 ([(12, 4, 0x2000)] ++ sdBox 16 0 1 32 1 ++ packs 40 0x1000 4 32)
def dequantRow : Bytes := record 0x3004 0x21 (packs 16 0x1000 4 32 ++ sdBox 40 0 1 32 1)
def topk : Bytes := record 0x3005 0 [(12, 2, 1), (16, 4, 0), (20, 4, 4), (28, 4, 1), (32, 4, 1), (36, 1, 1), (40, 4, 0x20), (44, 4, 8)]

/-- SIGMA 1.0 of FP32. -/
def one32 : Nat := 0x3F800000
def attention : Bytes :=
  record 0x4001 0x21 [(10, 1, 1), (28, 4, 1), (36, 4, 256), (40, 4, 0x10000), (44, 4, 0x20000), (52, 4, 256), (56, 4, one32), (64, 2, 64)]
def attentionMerge : Bytes := record 0x4002 0 [(12, 4, 1), (16, 4, 0x100), (20, 4, 0x200), (28, 4, 32), (32, 4, 0x1000), (36, 4, 32)]

def nbAttendOne : Bytes :=
  record 0x5001 0x21 [(10, 1, 1), (14, 2, 1), (16, 8, 0x40), (24, 4, 1), (28, 4, one32), (32, 8, 0x80), (40, 4, 544), (44, 4, 1),
    (48, 8, 0x10000), (56, 8, 0x20000)]
def nbPoolOne : Bytes := record 0x5002 0 [(8, 1, 4), (12, 2, 32), (16, 4, 1), (20, 4, 1), (24, 8, 0x40), (32, 4, 1), (48, 8, 0x1000), (56, 8, 0x2000)]
def nbScanOne : Bytes :=
  record 0x5003 0 [(8, 1, 4), (9, 1, 1), (10, 1, 1), (12, 2, 32), (14, 2, 1), (20, 4, one32), (24, 8, 0x40), (32, 4, 0), (36, 4, 1),
    (40, 4, 32), (44, 4, 1), (48, 8, 0x80), (56, 8, 0x1000)]
def nbFillZero : Bytes := record 0x5004 0 [(8, 1, 1), (10, 2, 1), (16, 4, 32), (24, 8, 0x80)]
/-- Span lists lie at 0x200 of the striped page, one entry. -/
def nbAxpyOne : Bytes := record 0x5005 0 [(8, 1, 1), (12, 4, one32), (16, 4, 1), (24, 8, 0x200)]
def nbQuantOne : Bytes := record 0x5006 0 [(8, 1, 2), (9, 1, 4), (12, 4, 1), (24, 8, 0x200), (32, 8, 0x400)]

def gatherAll : Bytes := record 0x6001 0 [(10, 1, 1), (16, 8, 0), (24, 8, 0x1000), (32, 8, 64)]
def reduceScatter : Bytes := record 0x6002 0 [(10, 1, 1), (16, 8, 0), (24, 8, 0x1000), (32, 8, 64)]
def allReduce : Bytes := record 0x6003 0 [(10, 1, 1), (16, 8, 0), (24, 8, 0x1000), (32, 8, 64)]
def send : Bytes := record 0x6004 0 [(16, 8, 0), (24, 8, 64)]
def recv : Bytes := record 0x6005 0 [(16, 8, 0), (24, 8, 64)]
def peerCopy : Bytes := record 0x6006 0 [(16, 8, 0), (32, 8, 64)]

def stOpen : Bytes := record 0x7001 0 [(40, 4, 32)]
def stAppend (n : Nat) : Bytes := record 0x7002 0 [(12, 4, n), (32, 8, 0x40000), (40, 4, 1024)]
def stCommit (n : Nat) : Bytes := record 0x7003 0 [(12, 4, n), (40, 4, 32)]
def stRollback (n : Nat) : Bytes := record 0x7004 0 [(12, 4, n), (40, 4, 32)]
def stRelease : Bytes := record 0x7005 0 [(40, 4, 32)]
def lookup : Bytes := record 0x7006 0 [(12, 4, 1), (40, 4, 4)]
def publish : Bytes := record 0x7007 0 [(12, 4, 1), (40, 4, 4)]

/-! ### Ill-formed commands are refused, one term for each check of WellFormed -/

def frame (seq : Nat) (n : Nat) (c : Carries) : Frame :=
  { fcsOk := true, seq := seq, ack := 0, offset := 0, last := true, poison := [], carries := c, payload := zeros n }

theorem test_ill_formed_accesses :
    (Instr.sleeveWrite 0 0 [] {}).wellFormed = false ∧ (Instr.hostBar4Write 0 0 [] {}).wellFormed = false
      ∧ (Instr.hostBar4Read 0 0 0 {}).wellFormed = false ∧ (Instr.registerWrite 0 (.bar0 0) [] {}).wellFormed = false
      ∧ (Instr.cxlMemWrite 0 [0]).wellFormed = false ∧ (Instr.cxlMemWrite 32 (zeros 64)).wellFormed = false
      ∧ (Instr.cxlMemRead 32).wellFormed = false := by decide +kernel

theorem test_ill_formed_frames :
    (Instr.peerDataFrame 0 (frame 0 32 (.copyData 0))).wellFormed = false
      ∧ (Instr.peerDataFrame 0 (frame 0 4160 (.copyData 0))).wellFormed = false
      ∧ (Instr.peerDataFrame 0 (frame 0 96 (.copyData 0))).wellFormed = false
      ∧ (Instr.peerDataFrame 0 (frame (2 ^ 24) 64 (.copyData 0))).wellFormed = false
      ∧ (Instr.peerDataFrame 0 { (frame 0 64 (.copyData 0)) with ack := 2 ^ 24 }).wellFormed = false
      ∧ (Instr.peerDataFrame 0 { (frame 0 64 (.copyData 0)) with offset := 2 ^ 64 }).wellFormed = false
      ∧ (Instr.peerDataFrame 0 (frame 0 64 (.copyData 0))).wellFormed = true := by decide +kernel

theorem test_ill_formed_numbers :
    (Instr.peerAckFrame 0 (2 ^ 24)).wellFormed = false ∧ (Instr.peerNakFrame 0 (2 ^ 24)).wellFormed = false
      ∧ (Instr.identityFrame 0 (2 ^ 128) 0).wellFormed = false ∧ (Instr.identityFrame 0 0 16).wellFormed = false
      ∧ (Instr.identityFrame 0 (2 ^ 128 - 1) 15).wellFormed = true := by decide +kernel

/-! ### The block -/

def braking : State := { ready with pending := [.pwrbrkAssert] }

theorem witness_StepTakesFront : braking.pending = .pwrbrkAssert :: [] ∧ ready.pending = [] := ⟨rfl, rfl⟩

theorem witness_StepKeepsArraysCanonical : MemoryWf braking ∧ ∃ t, step braking = .next t :=
  ⟨⟨by decide +kernel, by decide +kernel⟩, _, rfl⟩

theorem witness_EveryCommandAnswers :
    Instr.illFormed .pwrbrkAssert = none ∧ Instr.illFormed (.cxlMemRead 32) = some "a CXL.mem access is a line of 64 bytes" := by
  decide +kernel

/-! ### Records: dispatch -/

/-- A record's row takes it at its site. -/
def taken (s : State) (i : Instr) : Bool :=
  decide (s.site? 0 0 = some (site s)) && i.takes (site s).b && !recordWaits i (site s)

/-- NOP with nonzero reserved flag bits, with a false predicate, and with a nonzero reserved byte. -/
def noOpBadFlag : Bytes := record 0x0001 0x80 []
def noOpPredicated : Bytes := record 0x0001 1 [(2, 1, 0xC0)]
def noOpBadByte : Bytes := record 0x0001 0 [(8, 1, 1)]
def unknown : Bytes := record 0x0FFF 0 []

/-- Sixteen commands of the transfer engine of core 0 are in flight. -/
def fullEngine : State :=
  let s := run [loadByte]
  { s with flight := (List.range 16).map (fun k => (k, (site s).flight 3 0)) }

/-- The crossing from cluster 0's arithmetic island to the Girdle of its die is broken. -/
def brokenGirdle : State := { (run [loadByte]) with cross := { Crossings.reset with broken := [(islArith 0, 0x7000)] } }

theorem witness_RecordsFollowTheirChecks :
    (run []).site? 0 0 = none
      ∧ (taken (run [noOpBadFlag]) (.nop 0 0) = true ∧ headerBad (site (run [noOpBadFlag])).b = some 3)
      ∧ (taken (run [noOpPredicated]) (.nop 0 0) = true ∧ headerBad (site (run [noOpPredicated])).b = none
          ∧ (site (run [noOpPredicated])).Q.predicate (site (run [noOpPredicated])).b = false)
      ∧ (taken (run [noOpBadByte]) (.nop 0 0) = true ∧ (run [noOpBadByte]).checks (site (run [noOpBadByte])) (.nop 0 0) = .fail .illegal 8)
      ∧ (taken fullEngine (.load 0 0) = true ∧ fullEngine.checks (site fullEngine) (.load 0 0) = .hold)
      ∧ (taken brokenGirdle (.load 0 0) = true ∧ brokenGirdle.checks (site brokenGirdle) (.load 0 0) = .go
          ∧ brokenGirdle.crossBroken (site brokenGirdle) = true) := by decide +kernel

theorem witness_UnknownOpcodesAreIllegal :
    ((run [unknown]).site? 0 0 = some (site (run [unknown])) ∧ opRow? (recOp (site (run [unknown])).b) = none)
      ∧ ((run [noOp]).site? 0 0 = some (site (run [noOp])) ∧ opRow? (recOp (site (run [noOp])).b) ≠ none
          ∧ Instr.takes (.fence 0 0) (site (run [noOp])).b = false) := by decide +kernel

theorem witness_EndingAtDispatch :
    (run [noOp]).site? 0 0 = some (site (run [noOp])) ∧ Status.ok.faultClass = none ∧ Status.illegal.faultClass = none
      ∧ Status.ok.skips = false ∧ Status.illegal.skips = true ∧ 6 ≤ (site (run [noOp])).b.length := by decide +kernel

theorem witness_FalsePredicatesSkip :
    bit (u8 noOpPredicated 2) 7 = true ∧ (queue []).cmps[bits (u8 noOpPredicated 2) 2 0]? = some Comparator.reset
      ∧ bit (u8 noOp 2) 7 = false ∧ taken (run [noOpPredicated]) (.nop 0 0) = true ∧ recComplete (site (run [noOpPredicated])).b = true
      ∧ headerBad (site (run [noOpPredicated])).b = none
      ∧ (site (run [noOpPredicated])).Q.predicate (site (run [noOpPredicated])).b = false := by decide +kernel

/-- Queues 1 and 2 of partition 0 lie in cluster 0 and in cluster 1. -/
def runThree (l : List Bytes) : State :=
  withPart { part with live := { part.live with clusters := 3 }, queues := [(0, queue l), (1, queue []), (2, { queue [] with cluster := 1 })] }

def signalFar : Bytes := record 0x0003 0 [(8, 1, 2), (9, 1, 3), (12, 4, 5)]

theorem witness_ControlRecordsComplete :
    ((run [noOp]).runs (.nop 0 0) (site (run [noOp])) ∧ recStepEnd noOp = false)
      ∧ (run [stepSet]).runs (.step 0 0) (site (run [stepSet]))
      ∧ ((run [signalOwn]).runs (.signal 0 0) (site (run [signalOwn])) ∧ recSignal signalOwn = 15)
      ∧ ((runThree [signalOther]).runs (.signal 0 0) (site (runThree [signalOther]))
          ∧ tget (site (runThree [signalOther])).P.queues 1 = some (queue []))
      ∧ ((runThree [signalFar]).runs (.signal 0 0) (site (runThree [signalFar]))
          ∧ tget (site (runThree [signalFar])).P.queues 2 = some { queue [] with cluster := 1 }) := by
  and_intros <;> first | exact runs_of_check _ _ _ rfl (by decide +kernel) | decide +kernel

theorem witness_CmpSetsAComparator :
    (run [compare]).runs (.cmp 0 0) (site (run [compare])) ∧ (run [compareBad]).site? 0 0 = some (site (run [compareBad]))
      ∧ recOp compareBad = 4 ∧ headerBad compareBad = none ∧ (queue []).predicate compareBad = true ∧ u8 compareBad 10 = 6 := by
  and_intros <;> first | exact runs_of_check _ _ _ rfl (by decide +kernel) | decide +kernel

/-- Queue 0 is held by a WAIT for counter 0 = 1, and counter 0 has a value. -/
def waiting : Waiting := { cond := comparatorOf waitLater, rcd := { pos := 0, bytes := waitLater }, looped := false }
def heldQueue (v : Nat) : Queue :=
  { queue [] with waiting := some waiting, ctrs := (List.replicate 16 0).set 0 (BitVec.ofNat 32 v) }
def held (v : Nat) : State := withPart { part with queues := [(0, heldQueue v)] }

theorem witness_WaitsHoldAndEnd :
    ((run [waitNow]).runs (.wait 0 0) (site (run [waitNow])) ∧ (site (run [waitNow])).Q.holds (comparatorOf waitNow) = true
        ∧ recAcquire waitNow = true)
      ∧ ((run [waitLater]).runs (.wait 0 0) (site (run [waitLater])) ∧ (site (run [waitLater])).Q.holds (comparatorOf waitLater) = false)
      ∧ ((held 0).queue? 0 0 = some (heldQueue 0) ∧ (heldQueue 0).waiting = some waiting ∧ (heldQueue 0).holds waiting.cond = false)
      ∧ ((held 1).queue? 0 0 = some (heldQueue 1) ∧ (heldQueue 1).holds waiting.cond = true ∧ (heldQueue 1).destroying = false) := by
  and_intros <;> first | exact runs_of_check _ _ _ rfl (by decide +kernel) | decide +kernel

/-- Two updates of one counter cross the Girdle. -/
def crossing : State :=
  { (runThree []) with sigs := [{ p := 0, fromQ := 0, toQ := 2, ctr := 3, add := true, value := 1, tells := [] },
                                { p := 0, fromQ := 0, toQ := 2, ctr := 3, add := false, value := 7, tells := [] }] }

theorem witness_CrossingUpdatesApplyInOrder :
    crossing.sigs[0]? = some { p := 0, fromQ := 0, toQ := 2, ctr := 3, add := true, value := 1, tells := [] }
      ∧ crossing.sigs[1]? = some { p := 0, fromQ := 0, toQ := 2, ctr := 3, add := false, value := 7, tells := [] }
      ∧ (crossing.queue? 0 2).isSome = true := by decide +kernel

/-- A loop at the first record of its body. -/
def looping : Queue := { queue [] with loops := [{ body := [{ pos := 0, bytes := noOp }], idx := 0, left := 1, again := false }] }

theorem witness_LoopsRunTheirBody :
    (run [loopNever, noOp]).runs (.loop 0 0) (site (run [loopNever, noOp])) ∧ u32 loopNever 12 = 0
      ∧ (run [loopTwice, noOp]).runs (.loop 0 0) (site (run [loopTwice, noOp])) ∧ u32 loopTwice 12 = 2
      ∧ looping.loops.map (fun f => (f.idx, f.body.length, f.left)) = [(0, 1, 1)] := by
  and_intros <;> first | exact runs_of_check _ _ _ rfl (by decide +kernel) | decide +kernel

def runLong : State := run (loopLong :: List.replicate 129 longNoOp)

theorem witness_LongLoopBodiesAreIllegal :
    runLong.site? 0 0 = some (site runLong) ∧ headerBad loopLong = none ∧ (site runLong).Q.predicate loopLong = true
      ∧ u16 loopLong 8 = 129 ∧ 129 ≤ (site runLong).Q.after.length
      ∧ 256 < sumNat (((site runLong).Q.after.take 129).map (fun r => if 64 < r.bytes.length then 2 else 1)) := by decide +kernel

theorem runs_of_ok (s : State) (i : Instr) (h : runsOk s i = true) : ∃ d, s.runs i d := by
  unfold runsOk at h
  split at h
  · exact absurd h (by decide)
  · rename_i p q op hi
    split at h
    · exact absurd h (by decide)
    · rename_i d hd
      simp only [Bool.and_eq_true, Bool.not_eq_true', decide_eq_true_eq] at h
      obtain ⟨⟨⟨⟨⟨⟨h1, h2⟩, h3⟩, h4⟩, h5⟩, h6⟩, h7⟩ := h
      exact ⟨d, p, q, op, hi, hd, h1, h2, Option.isNone_iff_eq_none.mp h3, h4, h5, h6, h7⟩

/-- Every row of an engine, with a record that runs. -/
def transferRuns : List (State × Instr) :=
  [(run [fenceHost], .fence 0 0), (run [loadByte], .load 0 0), (run [storeByte], .store 0 0), (run [copyByte], .copy 0 0),
   (run [gatherByte], .gather 0 0), (run [scatterByte], .scatter 0 0), (run [hostOut], .hostout 0 0)]

def computeRuns : List (State × Instr) :=
  [(run [mmaByte], .mma 0 0), (run [mmaqGroup], .mmaq 0 0), (run [addFp32], .vop 0 0), (run [readCounter], .readCtr 0 0),
   (run [reduceRow], .vred 0 0), (run [reduceBags], .vred 0 0), (run [quantRow], .vquant 0 0), (run [dequantRow], .vdeq 0 0),
   (run [topk], .vtopk 0 0), (runPool [attention], .attn 0 0), (run [attentionMerge], .attnMerge 0 0)]

def nearRuns : List (State × Instr) :=
  [(runPool [nbAttendOne], .nbAttend 0 0), (run [nbPoolOne], .nbPool 0 0), (run [nbScanOne], .nbScan 0 0), (run [nbFillZero], .nbFill 0 0),
   (run [nbAxpyOne], .nbAxpy 0 0), (run [nbQuantOne], .nbQuant 0 0)]

def peerRuns : List (State × Instr) :=
  [(runPeer [gatherAll], .cag 0 0), (runPeer [reduceScatter], .crs 0 0), (runPeer [allReduce], .car 0 0), (runPeer [send], .csend 0 0),
   (runPeer [recv], .crecv 0 0), (runPeer [peerCopy], .peercopy 0 0)]

def streamRuns : List (State × Instr) :=
  [(runPool [stOpen], .stOpen 0 0), (runPool [stAppend 4], .stAppend 0 0), (runPool [stCommit 4], .stCommit 0 0),
   (runPool [stRollback 4], .stRollback 0 0), (runPool [stRelease], .stRelease 0 0), (runPool [lookup], .prefixLookup 0 0),
   (runPool [publish], .prefixPublish 0 0)]

/-- The conditions of EngineRecordsGoIntoFlight beside State.runs. -/
def flies (e : State × Instr) : Bool :=
  let b := (site e.1).b
  runsOk e.1 e.2 && (decide (recOp b = 0x0006) || decide (1 ≤ recOp b / 2 ^ 12)) && (decide (recOp b / 2 ^ 12 ≠ 5) || !nearEmpty b)
    && (decide (recOp b / 2 ^ 12 ≠ 7) || decide (u64 b 16 = 0))
    && (decide (recOp b / 2 ^ 12 ≠ 6) || ((site e.1).P.aborts.isEmpty && e.1.peers.early.isEmpty
      && decide (u64 b (if recOp b = 0x6004 ∨ recOp b = 0x6005 then 24 else 32) ≠ 0)))

theorem witness_EngineRecordsGoIntoFlight_transfers : transferRuns.all flies = true := by decide +kernel
theorem witness_EngineRecordsGoIntoFlight_compute : computeRuns.all flies = true := by decide +kernel
theorem witness_EngineRecordsGoIntoFlight_near : nearRuns.all flies = true := by decide +kernel
theorem witness_EngineRecordsGoIntoFlight_peer : peerRuns.all flies = true := by decide +kernel
theorem witness_EngineRecordsGoIntoFlight_streams : streamRuns.all flies = true := by decide +kernel

theorem witness_EngineRecordsGoIntoFlight (e : State × Instr)
    (h : e ∈ transferRuns ++ computeRuns ++ nearRuns ++ peerRuns ++ streamRuns) : ∃ d, e.1.runs e.2 d := by
  apply runs_of_ok
  have all : (transferRuns ++ computeRuns ++ nearRuns ++ peerRuns ++ streamRuns).all flies = true := by
    simp only [List.all_append, witness_EngineRecordsGoIntoFlight_transfers, witness_EngineRecordsGoIntoFlight_compute,
      witness_EngineRecordsGoIntoFlight_near, witness_EngineRecordsGoIntoFlight_peer, witness_EngineRecordsGoIntoFlight_streams,
      Bool.and_self]
  have := List.all_eq_true.mp all e h
  unfold flies at this
  simp only [Bool.and_eq_true] at this
  exact this.1.1.1.1

theorem witness_RecordsLeaveTheDevice : Instr.record? (.load 0 0) = some (0, 0, 0x1001) ∧ ∃ t, exec (.load 0 0) ready = .next t :=
  ⟨rfl, _, rfl⟩

theorem witness_LaunchMovesTheQueue : (run [noOp]).site? (site (run [noOp])).p (site (run [noOp])).q = some (site (run [noOp])) := by
  decide +kernel

/-! ### Records: memory. LOAD, STORE, COPY, MMA, MMAQ, VOP, VDEQ, READ_CTR, HOSTOUT, ATTN_MERGE and ATTN run in the states above. -/

theorem witness_TransfersStoreOnlyTheirElements :
    (run [loadByte]).runs (.load 0 0) (site (run [loadByte])) ∧ (run [storeByte]).runs (.store 0 0) (site (run [storeByte]))
      ∧ (run [copyByte]).runs (.copy 0 0) (site (run [copyByte])) ∧ (run [loadByte]).linkGone = false := by
  and_intros <;> first | exact runs_of_check _ _ _ rfl (by decide +kernel) | decide +kernel

theorem witness_ComputeStoresOnlyItsResult :
    (run [mmaByte]).runs (.mma 0 0) (site (run [mmaByte])) ∧ (run [mmaqGroup]).runs (.mmaq 0 0) (site (run [mmaqGroup]))
      ∧ (run [addFp32]).runs (.vop 0 0) (site (run [addFp32])) ∧ (run [dequantRow]).runs (.vdeq 0 0) (site (run [dequantRow]))
      ∧ (run [readCounter]).runs (.readCtr 0 0) (site (run [readCounter])) := by
  and_intros <;> exact runs_of_check _ _ _ rfl (by decide +kernel)

theorem witness_OtherEnginesStoreOnlyTheirResult :
    ((run [gatherByte]).runs (.gather 0 0) (site (run [gatherByte])) ∧ (run [gatherByte]).linkGone = false
        ∧ ((run [gatherByte]).blockList ((site (run [gatherByte])).access 3 false) gatherByte).2 = false)
      ∧ ((run [scatterByte]).runs (.scatter 0 0) (site (run [scatterByte]))
        ∧ ((run [scatterByte]).blockList ((site (run [scatterByte])).access 3 false) scatterByte).2 = false)
      ∧ ((run [reduceRow]).runs (.vred 0 0) (site (run [reduceRow])) ∧ u8 reduceRow 10 = 0)
      ∧ ((run [reduceBags]).runs (.vred 0 0) (site (run [reduceBags])) ∧ u8 reduceBags 10 = 1
        ∧ ((run [reduceBags]).fetch ((site (run [reduceBags])).access 2 false) (segDir reduceBags) (8 * segBags reduceBags)).2 = false)
      ∧ (run [topk]).runs (.vtopk 0 0) (site (run [topk])) ∧ (run [quantRow]).runs (.vquant 0 0) (site (run [quantRow]))
      ∧ (run [hostOut]).runs (.hostout 0 0) (site (run [hostOut]))
      ∧ (run [attentionMerge]).runs (.attnMerge 0 0) (site (run [attentionMerge]))
      ∧ (runPool [attention]).runs (.attn 0 0) (site (runPool [attention])) := by
  and_intros <;> first | exact runs_of_check _ _ _ rfl (by decide +kernel) | decide +kernel

/-- Counter 0 of unit 0 counts event 0x44 and holds 5, with its overflow bit. -/
def counter : Counter := { event := 0x44, enable := true, filter := 0, filterKind := 0, count := 5, ovf := true }
def counting : State := { (run [readCounter]) with perf := { ctrs := [(0, counter)], samplers := [], samples := [] } }

theorem witness_ReadCtrWritesTheCounter :
    counting.runs (.readCtr 0 0) (site counting) ∧ tget counting.perf.ctrs (u32 readCounter 12) = some counter
      ∧ counter.event ≠ 0x43 ∧ timedEvent counter.event = false ∧ counting.place 0 (site counting).P (sdAt readCounter 64).base = some (.spad, 0x20) := by
  and_intros <;> first | exact runs_of_check _ _ _ rfl (by decide +kernel) | decide +kernel

theorem witness_LoadMovesAByte :
    (run [loadByte]).runs (.load 0 0) (site (run [loadByte])) ∧ (run [loadByte]).linkGone = false
      ∧ (gdAt loadByte 16).dtype = (sdAt loadByte 56).dtype ∧ (gdAt loadByte 16).type.width = 8 ∧ (gdAt loadByte 16).layout = 0
      ∧ (sdAt loadByte 56).layout = 0 ∧ (gdAt loadByte 16).all.length = 1 ∧ (sdAt loadByte 56).all.length = 1
      ∧ recPadFill loadByte = false ∧ u8 loadByte 9 = 1 ∧ (run [loadByte]).unsettled = []
      ∧ (run [loadByte]).place 0 (site (run [loadByte])).P (gdAt loadByte 16).base = some (.dram, bankAddr 72 0x40)
      ∧ (run [loadByte]).place 0 (site (run [loadByte])).P (sdAt loadByte 56).base = some (.spad, 0x100) := by
  and_intros <;> first | exact runs_of_check _ _ _ rfl (by decide +kernel) | decide +kernel

theorem witness_MmaMultipliesOneElement :
    (run [mmaByte]).runs (.mma 0 0) (site (run [mmaByte])) ∧ (sdAt mmaByte 16).all.length = 1 ∧ (sdAt mmaByte 40).all.length = 1
      ∧ (sdAt mmaByte 64).all.length = 1 ∧ (sdAt mmaByte 16).type = .int8 ∧ (sdAt mmaByte 16).layout = 0 ∧ (sdAt mmaByte 40).layout = 0
      ∧ (sdAt mmaByte 64).layout = 0 ∧ (run [mmaByte]).unsettled = []
      ∧ (run [mmaByte]).place 0 (site (run [mmaByte])).P (sdAt mmaByte 16).base = some (.spad, 0x800000)
      ∧ (run [mmaByte]).place 0 (site (run [mmaByte])).P (sdAt mmaByte 40).base = some (.spad, 0x800100)
      ∧ (run [mmaByte]).place 0 (site (run [mmaByte])).P (sdAt mmaByte 64).base = some (.spad, 0x800200) := by
  and_intros <;> first | exact runs_of_check _ _ _ rfl (by decide +kernel) | decide +kernel

/-- Cluster 0's read cache holds lines at 0 and 128. -/
def cached : State := { ready with caches := [(0, [{ addr := 0, bytes := zeros 128 }, { addr := 128, bytes := zeros 128 }])] }
def writer (kind engine : Nat) : Writer := { cmd := 0, p := 0, q := 0, cluster := 0, engine := engine, kind := kind }
def line : Seg := { space := .dram, addr := 0, len := 8 }

theorem witness_CacheLinesAndWrites :
    line.space = .dram ∧ cached.pcOffline (addrBank line.addr / 16) = false ∧ ¬((writer 2 0).kind = 1 ∧ (writer 2 0).engine < 32)
      ∧ (writer 1 3).kind = 1 ∧ (writer 1 3).engine < 32 ∧ (tget cached.caches 0).isSome = true := by decide +kernel

/-- The span list at 0x200 of the page holds one entry, its last four bytes 1. -/
def badSpan (r : Bytes) : State := { (run [r]) with dram := { Mem.empty with cells := [(bankAddr 72 0x214, 1)] } }

def spanOf (s : State) (i : Instr) : List Span := match (recordBegun i s).spans (site s) with | .ok l => l | .error _ => []

theorem legal_axpy : spanFieldsLegal nbAxpyOne :=
  ⟨fun _ => by decide +kernel, fun h => absurd h (by decide +kernel)⟩

theorem legal_quant : spanFieldsLegal nbQuantOne :=
  ⟨fun h => absurd h (by decide +kernel), fun _ => by decide +kernel⟩

theorem witness_SpanReservedBytesAreIllegal :
    ((badSpan nbAxpyOne).site? 0 0 = some (site (badSpan nbAxpyOne)) ∧ headerBad nbAxpyOne = none
        ∧ (queue []).predicate nbAxpyOne = true ∧ 6 ≤ nbAxpyOne.length
        ∧ (spanOf (badSpan nbAxpyOne) (.nbAxpy 0 0)).map Span.rest = [1])
      ∧ ((badSpan nbQuantOne).site? 0 0 = some (site (badSpan nbQuantOne)) ∧ headerBad nbQuantOne = none
        ∧ (spanOf (badSpan nbQuantOne) (.nbQuant 0 0)).map Span.rest = [1]) := by
  decide +kernel

/-- Stream 0 holds six tokens, four of them committed. -/
def stream : Stream :=
  { state := .active, priority := 0, partition := 0, ctx := 0, domain := 0, committed := 4, speculative := 6, appendBase := 4,
    positionBase := 0, blocks := 1, chainValid := true, shared := 0, published := 0, blockTable := 0x1000, lastStep := 0, chainHash := 0 }
def runStream (l : List Bytes) : State := { (runPool l) with streams := [(0, stream)] }

theorem witness_StreamCommandsChangeTheirEntry :
    ((runPool [stOpen]).runs (.stOpen 0 0) (site (runPool [stOpen])) ∧ (site (runPool [stOpen])).P.pool = some pool
        ∧ tget (runPool [stOpen]).streams 0 = none)
      ∧ tget (runStream []).streams 0 = some stream ∧ stream.live = true ∧ stream.ctx = (queue []).ctx
      ∧ (runStream [stCommit 5]).runs (.stCommit 0 0) (site (runStream [stCommit 5]))
      ∧ (runStream [stRollback 5]).runs (.stRollback 0 0) (site (runStream [stRollback 5]))
      ∧ (runStream [stRelease]).runs (.stRelease 0 0) (site (runStream [stRelease]))
      ∧ ((runStream [stCommit 7]).runs (.stCommit 0 0) (site (runStream [stCommit 7])) ∧ stream.speculative < (streamCmdOf (stCommit 7)).length)
      ∧ ((runStream [stRollback 3]).runs (.stRollback 0 0) (site (runStream [stRollback 3]))
        ∧ (streamCmdOf (stRollback 3)).length < stream.committed) := by
  and_intros <;> first | exact runs_of_check _ _ _ rfl (by decide +kernel) | decide +kernel

/-- Four blocks of 64 tokens are all a stream may have; an append of 256 from token 4 on needs a fifth. -/
theorem witness_AppendBeyondMaxBlocks :
    (runStream [stAppend 256]).runs (.stAppend 0 0) (site (runStream [stAppend 256])) ∧ (site (runStream [stAppend 256])).P.pool = some pool
      ∧ (runStream []).streamOutside (site (runStream [stAppend 256])).P 0 0 = false ∧ (stream.touch 0).appendBase = 4
      ∧ (streamCmdOf (stAppend 256)).length = 256 ∧ pool.maxBlocks ≤ (4 + 256 - 1) / pool.tokens := by
  and_intros <;> first | exact runs_of_check _ _ _ rfl (by decide +kernel) | decide +kernel

/-! ### The Sleeve, fetch and completion -/

/-- The cells of a slot. -/
def cells (b : Bytes) : List Host.Cell := (List.range b.length).zip b

/-- A queue of partition 0 with slots arrived. -/
def slotted (Q : Queue) : State := withPart { part with queues := [(0, Q)] }

def oneSealed : Queue := { queue [] with slots := [(0, cells noOp)], fpos := 1, hpos := 1 }
def halfLong : Queue := { queue [] with slots := [(0, cells (longNoOp.take 64))], fpos := 1, hpos := 1 }
def wholeLong : Queue := { halfLong with slots := [(0, cells (longNoOp.take 64)), (1, cells (longNoOp.drop 64))] }

theorem witness_SlotsSealWhenWhole :
    (oneSealed.arrived 0).Pairwise (fun a b => a.1 < b.1) ∧ (∀ c ∈ oneSealed.arrived 0, c.1 < 64)
      ∧ oneSealed.sealed 1 = false ∧ (oneSealed.sealed 0 = true ∧ recLong (oneSealed.slotBytes 0) = false)
      ∧ (halfLong.sealed 0 = true ∧ recLong (halfLong.slotBytes 0) = true ∧ halfLong.sealed 1 = false)
      ∧ (wholeLong.sealed 0 = true ∧ recLong (wholeLong.slotBytes 0) = true ∧ wholeLong.sealed 1 = true)
      ∧ ({ queue [] with fpos := 1000 } : Queue).fpos ≤ 1023 ∧ 1023 + 1 < ({ queue [] with fpos := 1000 } : Queue).fpos + 1024 := by
  decide +kernel

/-- A write to slot 1 is taken, one to slot 0, which is sealed, is not. -/
theorem witness_SleeveWritesReachTheirSlot :
    (slotted oneSealed).hostReaches = true ∧ (slotted oneSealed).barOpen 0 {} = true ∧ (slotted oneSealed).queue? 0 0 = some oneSealed
      ∧ oneSealed.broken = false ∧ oneSealed.destroying = false
      ∧ (oneSealed.sealed (oneSealed.position 1) || decide (oneSealed.cpos + 4096 ≤ oneSealed.position 1)) = false
      ∧ ({ oneSealed with fpos := 0 } : Queue).sealed (({ oneSealed with fpos := 0 } : Queue).position 0) = true := by decide +kernel

/-- No word of memory is poisoned, so no slot or stream entry of the system region is. -/
theorem witness_no_slot_bad (pos n : Nat) : (slotted oneSealed).slotsBad 0 0 pos n = false := by
  simp only [State.slotsBad, List.any_eq_false]
  intro i _
  exact Bool.false_ne_true

theorem witness_no_stream_bad :
    (runPool [stOpen]).streamBad (site (runPool [stOpen])).P 0 = false
      ∧ [stCommit 5, stRollback 5, stRelease, stCommit 7, stRollback 3, stAppend 256].all
          (fun r => !(runStream [r]).streamBad (site (runStream [r])).P 0) = true := by decide +kernel

theorem witness_FetchTakesRecordsInOrder :
    (slotted oneSealed).queue? 0 0 = some oneSealed ∧ oneSealed.recordAt oneSealed.cpos = some { pos := 0, bytes := noOp }
      ∧ (slotted oneSealed).mayFetch oneSealed = true ∧ recSlots { pos := 0, bytes := noOp } ≤ min 16 16
      ∧ (slotted halfLong).queue? 0 0 = some halfLong ∧ halfLong.recordAt halfLong.cpos = none := by decide +kernel

/-- Command 0 is in flight: an engine's, and a near-bank one that still has an entry to send. -/
def flying (r : Bytes) (engine : Nat) : Flight := { (site (run [r])).flight engine 0 with nb := none }
def inFlight (f : Flight) : State := { (run []) with flight := [(0, f)], nextId := 1 }
def entry (w : Work) : Entry := { cmd := 0, bank := 64, work := w, rowLo := 0, rowHi := 1 }
def nbOf (r : Bytes) (l : List Entry) (wait : Bool) : Nb :=
  { record := r, waiting := wait, toSend := l, slots := [], items := [], poisonedItems := [], stat := (0, 0, 0, 0), groups := [],
    ended := [], delivered := [] }
def nearJob (r : Bytes) (l : List Entry) (wait : Bool) : Flight := { flying r 33 with nb := some (nbOf r l wait) }

theorem witness_CommandsEndWhenDone :
    (let s := inFlight (nearJob nbFillZero [entry (.fill (bankAddr 64 0) 32)] false)
     (s.thermal.tripped || s.atWork 0 (nearJob nbFillZero [entry (.fill (bankAddr 64 0) 32)] false)) = true)
      ∧ (let s := inFlight (flying fenceHost 34)
         (s.thermal.tripped || s.atWork 0 (flying fenceHost 34)) = false ∧ (flying fenceHost 34).final.faultClass = none
           ∧ (s.queue? 0 0).map Queue.destroying = some false ∧ recOp (flying fenceHost 34).bytes = 6 ∧ u8 (flying fenceHost 34).bytes 8 = 2) := by
  decide +kernel

/-- A full ring of 256 entries with one more that waits; a ring with an entry not signalled; a queue held at an unsealed slot; a queue
whose destruction a mailbox waits for. -/
def fullRing : Queue := { queue [] with written := 256, held := [zeros 16] }
def unsignalled : Queue := { queue [] with coTime := 10, unsignalled := 1 }
def holding : Queue := { queue [] with hpos := 1 }
def dying : Queue := { queue [] with destroying := true }

def vectorOpen : State :=
  { (slotted unsignalled) with funcs := [(1, { Func.reset with msix := [(1, { addr := 0, data := 0, masked := false })] })] }
def dyingState : State := { (slotted dying) with funcs := [(1, { Func.reset with busy := true, waitFor := some (.queueDestroy 0 0) })] }

theorem witness_QueueTimersAct :
    ((slotted fullRing).queue? 0 0 = some fullRing ∧ fullRing.full = true ∧ (slotted fullRing).linkGone = false ∧ fullRing.destroying = false)
      ∧ (vectorOpen.queue? 0 0 = some unsignalled ∧ 0 < unsignalled.coTime ∧ 0 < unsignalled.unsignalled
        ∧ tget (vectorOpen.func 1).msix unsignalled.vector = some { addr := 0, data := 0, masked := false })
      ∧ ((slotted holding).queue? 0 0 = some holding ∧ holding.holding = true ∧ holding.stalled = false)
      ∧ (dyingState.queue? 0 0 = some dying ∧ dying.destroying = true ∧ (dyingState.func 1).waitFor = some (.queueDestroy 0 0)) := by
  decide +kernel

/-! ### Near-bank units, banks and words -/

/-- Bank 64's dispatcher holds one entry of command 0. -/
def working (r : Bytes) (w : Work) : State :=
  { (inFlight (nearJob r [] false)) with near := { Near.empty with entries := [entry w] } }

/-- The next entry of bank 64 is that of the command, which is in flight. -/
def entryReady (r : Bytes) (w : Work) : Bool :=
  let s := working r w
  decide (s.nextEntry 64 = some (entry w)) && decide (s.nb? 0 = some (nearJob r [] false, nbOf r [] false)) && !s.cuffFenced 64

theorem witness_CuffEntriesRun :
    (entryReady nbFillZero (.fill (bankAddr 64 0) 32) = true ∧ (nbFillOf nbFillZero).zero = true)
      ∧ entryReady nbAxpyOne (.axpy (bankAddr 64 0) (bankAddr 64 0x100) 32) = true
      ∧ (entryReady nbQuantOne (.quant (bankAddr 64 0) (bankAddr 64 0x1000) 1) = true ∧ quantDst (u8 nbQuantOne 9) = true)
      ∧ entryReady nbScanOne (.scan 0 (bankAddr 64 0)) = true := by decide +kernel

/-- A finished partial of command 0, and an expansion that waits. -/
def onePartial : PartialRec := { cmd := 0, bank := 64, slot := 0, item := 0, bytes := zeros 32, poison := false }
def finished : State := { (inFlight (nearJob nbPoolOne [] false)) with near := { Near.empty with finished := [onePartial] } }

theorem witness_PartialsAndExpansionsMove :
    (finished.near.finished.find? (fun r => decide (r.bank / 16 = 4)) = some onePartial
        ∧ tget finished.flight onePartial.cmd = some (nearJob nbPoolOne [] false) ∧ (finished.part? 0).isSome = true ∧ finished.linkGone = false)
      ∧ (((inFlight (nearJob nbFillZero [] true)).expander 0).map Prod.fst = some 0
        ∧ tget (inFlight (nearJob nbFillZero [] true)).flight 0 = some (nearJob nbFillZero [] true)) := by decide +kernel

/-- Word 8 of the device memory waits for its write-back; word 0 of the scratchpads holds one wrong bit. -/
def upset : State :=
  { ready with near := { Near.empty with writeBacks := [(.dram, 8)] }, dram := { Mem.empty with errs := [(8, 1)] },
               spad := { Mem.empty with errs := [(0, 1)] } }

theorem witness_BanksRefreshAndCorrect :
    upset.near.writeBacks.contains (.dram, 8) = true ∧ tgetD (upset.store .dram).errs 8 0 ≤ 2 ∧ upset.pcPresent (64 / 16) = true
      ∧ upset.scrubs .spad 0 = true ∧ (upset.store .spad).poison.contains 0 = false ∧ max 0 (tgetD (upset.store .spad).errs 0 0) = 1
      ∧ max 3 (tgetD (upset.store .spad).errs 0 0) = 3 ∧ max 0 (tgetD (upset.store .spad).errs 1 0) = 0 := by decide +kernel

def rowFault : Candidate := { column := false, bank := 80, unit := 3 }
def columnFault : Candidate := { column := true, bank := 80, unit := 3 }
def repairing (c : Candidate) : State := { ready with flash := { ready.flash with pendingRepairs := [c] } }

theorem witness_PendingRepairsApply :
    ∀ c ∈ [rowFault, columnFault], (repairing c).inMaintenance 5 = true
      ∧ (repairing c).flash.pendingRepairs.filter (fun c => decide (c.bank / 16 = 5)) = [c] ∧ (repairing c).fuse.spareLeft c = true
      ∧ (repairing c).fuse.hasRoom = true := by decide +kernel

/-! ### Streams and partitions -/

/-- Stream 0 was last touched at step 0, and two steps have passed. -/
def idleStream : State := { withPart { part with pool := some pool, stepNo := 2 } with streams := [(0, stream)] }

def batch : Freed := { after := [], slots := [{ bank := 64, slot := 0, layer := 0 }], streams := [0] }
def freeing : State :=
  { withPart { part with pool := some { pool with used := [{ bank := 64, slot := 0, layer := 0 }], freed := [batch] } } with
    streams := [(0, { stream with state := .draining })] }

theorem witness_SweepsAndReturns :
    (tget idleStream.streams 0 = some stream ∧ stream.state = .active ∧ pool.idleSteps ≠ 0
        ∧ (idleStream.part? 0).map Partition.pool = some (some pool)
        ∧ pool.idleSteps ≤ ((2 : W64) - stream.lastStep).toNat)
      ∧ (pool.idleSteps ≤ 2 ∧ ((freeing.part? 0).bind Partition.pool).map
          (fun o => o.freed.find? (fun f => f.after.all (fun id => (tget freeing.flight id).isNone))) = some (some batch)) := by
  decide +kernel

/-- Partition 0 waits for its zeroisation: a reset that mailbox 1 asked for, and a destruction. -/
def clearing (destroy : Bool) : State := withPart { part with zeroing := some { destroy := destroy, mailbox := some 1 } }

theorem witness_ZeroisationClears :
    (∀ d ∈ [true, false], ((clearing d).part? 0).map Partition.zeroing = some (some { destroy := d, mailbox := some 1 }))
      ∧ ((run []).part? 0).map Partition.zeroing = some none := by decide +kernel

/-! ### Schedule, power, temperature -/

/-- A table of two slots, and schedules in slot 0, in the last slot, and in the last slot with a table armed. -/
def table : SchedTable :=
  { majorUs := 1000, enabled := true, guardUs := 10, slots := [(0, zeros 64), (500, zeros 64)], fn := 0, vector := 0xFFFF, cycleWord := 0 }
def inSlot (n : Nat) (staged : Option SchedTable) : Sched :=
  { live := some table, slot := n, inGuard := false, cycles := 3, staged := staged, armed := staged.isSome }
def timed (c : Sched) : State := { (withPart { part with sched := c }) with sched := c }

theorem witness_ScheduleMovesAndReports :
    (∀ o ∈ [Owner.device, .partition 0],
        (timed (inSlot 0 none)).schedule o = some (inSlot 0 none) ∧ (timed (inSlot 1 none)).schedule o = some (inSlot 1 none)
          ∧ (timed (inSlot 1 (some table))).schedule o = some (inSlot 1 (some table)))
      ∧ 0 + 1 < table.slots.length ∧ table.slots.length ≤ 1 + 1 ∧ 0 < table.guardUs
      ∧ (((timed (inSlot 0 none)).part? 0).isSome = true ∧ table.enabled = true ∧ (timed (inSlot 0 none)).heldDown 0 part = false)
      ∧ ({ (timed (inSlot 0 none)) with power := { ready.power with brake := true } } : State).heldDown 0 part = true := by decide +kernel

theorem witness_GovernorHoldsTheCap :
    (∀ g ∈ [{ isl := 1, demand := 1, peak := 4 }, ({ isl := 2, demand := 3, peak := 4 } : Governed)], 0 < g.peak ∧ g.demand ≤ g.peak)
      ∧ [{ isl := 1, demand := 1, peak := 4 }, ({ isl := 2, demand := 3, peak := 4 } : Governed)].Pairwise (fun x y => ratioLe x y = true)
      ∧ ready.alive = true ∧ ready.power.state ≠ .watch ∧ ready.governedCap * watt < 1501 * watt ∧ 1499 * watt < ready.governedCap * watt := by
  decide +kernel

def resting (rest state : PState) (exiting d3 : Bool) : State :=
  { ready with power := { ready.power with rest := rest, state := state, exiting := exiting }, link := { ready.link with d3hot := d3 } }

theorem witness_PowerStatesMove :
    ((resting .idle .active false false).alive = true ∧ (resting .idle .active false false).quiet = true)
      ∧ (resting .watch .idle false false).quiet = true ∧ (resting .watch .watch false false).alive = true
      ∧ (resting .watch .watch false true).link.d3hot = true ∧ (resting .active .active false false).hostReaches = true
      ∧ (resting .watch .watch true false).power.exiting = true ∧ (resting .watch .watch false true).hostReaches = true := by decide +kernel

/-- Die 0 reads 96 sensors at count 380, and stands at level 2. -/
def warmed : State := { ready with thermal := { ready.thermal with levels := [(0, 2)] } }

theorem witness_SensorSamplesSetLevels : warmed.alive = true ∧ warmed.dieFitted 0 = true ∧ warmed.dieFitted 17 = true := by decide +kernel

/-! ### Crossings and resets -/

theorem witness_CrossingsBreakAndRecover :
    ∀ far ∈ [islArith 1, 0x3004, 0x8005, islPeer 0, 0x9000], ready.alive = true ∧ ready.islandExists (islControl 0) = true
      ∧ ready.islandExists far = true ∧ islControl 0 ≠ far ∧ ready.clocked (islControl 0) = true ∧ ready.clocked far = true
      ∧ ready.cross.broken.contains (islControl 0, far) = false := by decide +kernel

theorem witness_CoresAndClustersReset :
    ready.alive = true ∧ ready.clusterFenced 0 = false ∧ ready.coreFenced 0 7 = false
      ∧ ({ ready with boot := { ready.boot with resetOnce := [7, 1024] } } : State).boot.resetOnce.contains (0 * 8 + 7) = true := by decide +kernel

def tripped : State := { State.reset with thermal := { State.reset.thermal with tripped := true } }

theorem witness_ResetsAndBoots :
    ready.boot.perstLow = false ∧ ready.boot.switchClosed = true
      ∧ (({ ready with boot := { ready.boot with switchClosed := false } } : State).boot.overcurrent = false)
      ∧ (State.reset.boot.perstLow = true ∧ State.reset.boot.switchClosed = true ∧ State.reset.thermal.tripped = false ∧ State.reset.boot.rom = false)
      ∧ (tripped.boot.perstLow = true ∧ tripped.thermal.tripped = true)
      ∧ (ready.hostReaches = true ∧ ready.boot.served = true ∧ ready.thermal.tripped = false ∧ ready.flash.pendingRepairs = [] ∧ ready.boot.rom = false) := by
  decide +kernel

/-! ### The host -/

def linked (x : LinkState) : State := { (withPart { part with queues := [(0, { queue [] with discarded := 1 })] }) with link := { ready.link with state := x } }
def reading : State := inFlight { flying loadByte 3 with readsHost := true }

/-- A request in the mailbox of a function: its header (R303) and its body. -/
def posed (s : State) (fn code : Nat) (body : Bytes) : State :=
  let h := natLe 2 code ++ natLe 2 body.length ++ natLe 2 1 ++ [1, 0, 0xFF, 0] ++ zeros 6
  s.updFunc fn (fun F => { F with busy := true, reqSeq := 1, req := cwrite [] 0 (h ++ body) })

theorem witness_HostLinkHoldsAndFails :
    (linked .up).link.state = .up ∧ (linked .down).link.state = .down ∧ (linked .down).log.holdMs ≠ 0
      ∧ ({ (linked .down) with log := { ready.log with holdMs := 0 } } : State).log.holdMs = 0
      ∧ (linked .lost).link.state = .lost ∧ ((linked .lost).part? 0).map Partition.zeroing = some none ∧ (linked .expired).link.state = .expired
      ∧ (tget reading.flight 0).map (fun f => (f.readsHost, f.nb)) = some (true, none)
      ∧ (posed ready 0 0x0090 (zeros 12)).firmwareReads 0 = true := by decide +kernel

/-- An HDM decoder of partition 0 maps host addresses from 2^28 on; the link is CXL. -/
def mapped : State := { (run []) with link := { ready.link with cxl := true, decoders := [(0, { base := 2 ^ 28, size := 2 ^ 28 })] } }
def unmapped : State := { mapped with link := { mapped.link with decoders := [] } }
def inWatch (s : State) : State := { s with power := { s.power with state := .watch } }

theorem witness_HostReachesMappedMemory :
    (mapped.hostReaches = true ∧ mapped.barOpen 0 {} = true ∧ mapped.power.state ≠ .watch ∧ (inWatch mapped).power.state = .watch
        ∧ (inWatch mapped).hostReaches = true)
      ∧ (ready.part? 0 = none ∧ (mapped.part? 0).isSome = true ∧ mapped.bar4Segs 0 (2 ^ 21) 8 = none ∧ (mapped.bar4Segs 0 0 8).isSome = true)
      ∧ (mapped.place 0 part 0 = some (.dram, bankAddr 72 0) ∧ part.protectedVa 0 1 = false ∧ mapped.pcOffline (addrBank (bankAddr 72 0) / 16) = false)
      ∧ (mapped.link.cxl = true ∧ (mapped.cxlPlace (2 ^ 28)).isSome = true ∧ mapped.cxlPlace 0 = none)
      ∧ (unmapped.link.cxl = true ∧ (unmapped.part? 0).isSome = true ∧ unmapped.tdiLocked 0 = false ∧ tget unmapped.link.decoders 0 = none
        ∧ ∀ e ∈ mapped.link.decoders, overlaps (2 ^ 29) (2 ^ 28) e.2.base e.2.size = false) := by decide +kernel

/-- A finished sample of cluster 0 for the device's sampler. -/
def sampler : Sampler :=
  { k := 1, buffer := 0, log2 := 4, vector := 0, producer := 0, fn := 0, enabled := true, taken := 1, written := 0, dropped := 0, windows := [] }
def sample : Sample := { scope := 256, cluster := 0, cmd := none, seq := 0, bytes := zeros 64, finished := true }
def sampling : State := { ready with perf := { ctrs := [], samplers := [(256, sampler)], samples := [sample] } }

theorem witness_RegistersActByCode :
    (∀ fn ∈ [0, 1], (run []).hostReaches = true ∧ (run []).fnOpen fn {} = true ∧ (run []).fnExists fn = true ∧ (run []).windowOpen fn = true
        ∧ ((run []).func fn).busy = false ∧ (run []).mailReady fn = true)
      ∧ ((posed (run []) 0 0x0001 []).func 0).busy = true ∧ (ready.fnExists 2 = false)
      ∧ (inWatch (run [])).power.state = .watch ∧ (run []).power.state ≠ .watch
      ∧ knownCodes.contains (({ (posed (run []) 0 0x0001 []) with pending := [] } : State).reqCode 0) = true
      ∧ ((run []).selected 0 = some 0 ∧ ({ (run []) with funcs := [(0, { Func.reset with ctrSelect := 0xFFFFFFFF })] } : State).selected 0 = none)
      ∧ (sampling.thermal.tripped = false ∧ sampling.perf.samples.find? (fun x => x.finished && decide (x.cluster = 0)) = some sample
        ∧ tget sampling.perf.samplers sample.scope = some sampler) := by decide +kernel

/-! ### Trust -/

/-- Partition 0's interface, with its IDE stream. -/
def trusted (x : Option TdiState) : State :=
  { (run []) with trust := { ready.trust with tdi := (x.map (fun t => [(0, t)])).getD [], ide := [(1, { vf := some 0, tee := true, insecure := false })],
                                              conns := [(0, { stage := .algorithms, sessions := [(0, true)] })] } }

theorem witness_InterfacesAndAttestation :
    ((tget (trusted (some .locked)).trust.ide 1).map IdeStream.vf = some (some 0) ∧ (trusted (some .locked)).tdiLocked 0 = true)
      ∧ ((trusted none).tdispOpen 0 = true ∧ ((trusted none).part? 0).isSome = true ∧ (trusted none).tdiState 0 = .unlocked
        ∧ (trusted none).teeStream 0 = true ∧ (trusted none).tdiLocked 0 = false)
      ∧ ((trusted none).responds 0 = true ∧ (trusted none).responds 1 = true ∧ (trusted none).alive = true) := by decide +kernel

/-! ### Messages -/

/-- Every requirement of State.asks, decided. -/
def asksOk (s : State) (i : Instr) : Bool :=
  match messageOf i with
  | none => false
  | some (fn, row) =>
    let b := s.msgBody fn
    (s.func fn).busy && (s.func fn).waitFor.isNone && decide (s.power.state ≠ .watch) && !s.thermal.tripped
      && decide (s.reqCode fn = row.code) && row.mine b && (s.headerEnds fn row).isNone
      && (!row.acts b || !s.mustWait fn (s.msgPartition fn)) && (!row.inOrder || !s.behind fn row.code)
      && (!row.user || s.perfUser fn (s.msgPartition fn)) && (!row.exists? b || (s.part? (s.msgPartition fn)).isSome)
      && unusedZero b (row.used b)

theorem asks_of_ok (s : State) (i : Instr) (h : asksOk s i = true) : s.asks i := by
  unfold asksOk at h
  split at h
  · exact absurd h (by decide)
  · rename_i fn row hm
    simp only [Bool.and_eq_true, Bool.not_eq_true', decide_eq_true_eq, Bool.or_eq_true, Option.isNone_iff_eq_none] at h
    obtain ⟨⟨⟨⟨⟨⟨⟨⟨⟨⟨⟨h1, h2⟩, h3⟩, h4⟩, h5⟩, h6⟩, h7⟩, h8⟩, h9⟩, h10⟩, h11⟩, h12⟩ := h
    have imp : ∀ a b : Bool, a = false ∨ b = true → a = true → b = true := by decide
    have non : ∀ a b : Bool, a = false ∨ b = false → a = true → b = false := by decide
    exact ⟨fn, row, hm, ⟨h1, h2, h3, h4, h5, h6⟩, h7, non _ _ h8, non _ _ h9, imp _ _ h10, imp _ _ h11, h12⟩

/-- Requests of the operator mailbox, of partition 0's mailbox, and of the operator on partition 0 or 1. -/
def op (code : Nat) (body : Bytes) : State := posed (run []) 0 code body
def vf (code : Nat) (body : Bytes) : State := posed (run []) 1 code body
def opOn (p code : Nat) (body : Bytes) : State :=
  (op code body).updFunc 0 (fun F => { F with req := cwrite F.req 8 [BitVec.ofNat 8 p] })

/-- Bytes in host memory at an address of a function. -/
def withHost (s : State) (fn addr : Nat) (b : Bytes) : State := { s with hostMem := hostWriteAll s.hostMem (hostKey fn addr) b }

/-- Queries. -/
def queries : List (State × Instr) :=
  [(op 0x0001 [], .devInfo 0), (op 0x0003 [], .devLicences 0), (op 0x00D0 [], .dbgStatus 0), (op 0x0081 [0], .powerStateRead 0),
   (vf 0x0012 [0], .partConfigRead 1), (vf 0x0014 (fields 24 [(0, 1, 2)]), .partMapQuery 1), (posed (runPool []) 1 0x0041 [], .streamStats 1),
   (vf 0x00C1 [], .peerStatus 1), (op 0x00C1 [], .peerStatus 0), (vf 0x0060 (fields 24 [(1, 1, 1)]), .perfConfigRead 1),
   (vf 0x0061 (fields 32 [(0, 1, 2)]), .perfSampleStatus 1), (vf 0x0022 [0], .queueStatus 1), (op 0x0002 (fields 16 [(8, 4, 64)]), .devTopology 0),
   (op 0x0082 (fields 12 [(8, 4, 16)]), .thermalQuery 0), (op 0x0070 (fields 16 [(8, 4, 4), (12, 1, 1)]), .errRead 0)]

def testRun : TestRun := newTest (fields 32 [(4, 2, 1), (6, 2, 1)]) false
def testing (self : Bool) (s : State) : State := { s with tests := [(5, { testRun with selfTest := self })] }
/-- A mem.test request on pseudo-channel 5. -/
def testBody (k : Nat) : Bytes := fields 32 [(0, 1, k), (4, 2, 1), (6, 2, 1), (16, 2, 1), (24, 2, 5)]

/-- The messages with an effect, by family. -/
def createBody : Bytes := fields 36 [(8, 8, 2), (16, 4, 16), (20, 4, 16), (24, 2, 1), (32, 2, 5), (34, 1, 8)]
def poolBody : Bytes :=
  fields 54 [(4, 4, 4), (12, 4, 1024), (16, 4, 1), (32, 8, 0x1000), (40, 1, 32), (41, 1, 1), (42, 2, 1), (44, 2, 1), (52, 2, 64)]
def queueBody : Bytes := fields 40 [(0, 1, 1), (3, 1, 8), (4, 2, 1), (6, 2, 1), (24, 8, 0x1000)]

def partitionMessages : List (State × Instr) :=
  [(opOn 1 0x0010 createBody, .partCreate 0), (opOn 0 0x0011 [], .partDestroy 0), (opOn 0 0x0013 [], .partReset 0),
   (vf 0x0012 (fields 40 [(0, 1, 1)]), .partConfigWrite 1), (vf 0x0014 (fields 24 [(4, 4, 1), (8, 8, 2 ^ 21), (16, 8, 2 ^ 21)]), .partMap 1),
   (vf 0x0014 (fields 16 [(0, 1, 1), (4, 4, 1)]), .partMapUnmap 1), (vf 0x0020 queueBody, .queueCreate 1), (vf 0x0021 [0], .queueDestroy 1),
   (vf 0x0030 (fields 16 [(0, 1, 1), (2, 1, 1), (8, 4, 64), (12, 4, 64)]), .ctxCreate 1), (vf 0x0031 [0], .ctxTeardown 1)]

/-- A table of one slot, for a partition and for the device. -/
def tableBytes (device : Bool) : Bytes := fields (if device then 384 else 960) [(0, 4, 1000), (4, 2, 1)]
def loadBody (device : Bool) : Bytes := fields 24 [(0, 8, 0x100), (8, 4, (tableBytes device).length), (12, 1, b2n device), (14, 2, 0xFFFF)]
def staged : State := { (posed (timed (inSlot 0 (some table))) 0 0x0051 [1]) with pending := [] }

def scheduleMessages : List (State × Instr) :=
  [(vf 0x0040 poolBody, .streamPool 1), (withHost (vf 0x0050 (loadBody false)) 1 0x100 (tableBytes false), .schedLoadPartition 1),
   (withHost (op 0x0050 (loadBody true)) 0 0x100 (tableBytes true), .schedLoadDevice 0), (staged, .schedCommit 0),
   (op 0x0060 (fields 24 [(0, 1, 1), (1, 1, 1), (16, 8, 0x101)]), .perfConfigWrite 0),
   (op 0x0061 (fields 32 [(0, 1, 1), (1, 1, 4), (2, 1, 2), (16, 1, 6), (18, 2, 0xFFFF)]), .perfSampleEnable 0),
   (op 0x0061 (fields 32 [(2, 1, 2)]), .perfSampleDisable 0)]

/-- A manifest of one peer over port 0. -/
def manifestBytes : Bytes := fields 80 [(0, 2, 1), (2, 2, 1), (4, 2, 1), (8, 2, 0x88B5), (32, 8, 2), (48, 1, 1), (64, 1, 0), (66, 1, 1)]

def deviceMessages : List (State × Instr) :=
  [(op 0x0080 (fields 2 [(0, 2, 1000)]), .powerCap 0), (op 0x0081 (fields 8 [(0, 1, 1), (1, 1, 1), (4, 4, 1000)]), .powerStateSet 0),
   (op 0x0002 (fields 16 [(12, 1, 1)]), .devTopologyAccept 0), (op 0x0091 [0], .fwActivate 0),
   (op 0x00A0 [1, 2, 3], .attestSpdm 0), (withHost (op 0x00C0 (fields 12 [(0, 8, 0x100), (8, 4, 80)])) 0 0x100 manifestBytes, .peerTopology 0)]

def maintenanceMessages : List (State × Instr) :=
  [(op 0x00B0 (testBody 0), .memTestTraffic 0), (op 0x00B0 (testBody 1), .memTestSelfTest 0), (testing false (op 0x00B0 (testBody 2)), .memTestStop 0),
   (testing false (op 0x00B0 (testBody 3)), .memTestResults 0), (posed ready 0 0x00B1 (natLe 2 5), .memMapout 0),
   (op 0x00B2 (fields 12 [(2, 2, 5), (4, 4, 7)]), .memRepairRow 0), (op 0x00B2 (fields 12 [(0, 1, 1), (2, 2, 5), (8, 1, 1)]), .memRepairColumn 0)]

/-! ### Witnesses: messages -/

theorem witness_MessagesAreTakenUp :
    (¬ready.inHand 0 { code := 1, box := .either })
      ∧ asksOk (op 0x0001 []) (.devInfo 0) = true
      ∧ ((op 0x0001 []).updFunc 0 (fun F => { F with reqSeq := 2 })).headerEnds 0 { code := 1, box := .either } = some (.seqMismatch, [])
      ∧ (let s := (vf 0x0012 [0]).updPart 0 (fun P => { P with zeroing := some { destroy := false, mailbox := none } })
         s.headerEnds 1 (configRow 0) = none ∧ (configRow 0).acts (s.msgBody 1) = true ∧ s.mustWait 1 (s.msgPartition 1) = true)
      ∧ (let s := opOn 1 0x0012 [0]
         s.headerEnds 0 (configRow 0) = none ∧ (configRow 0).exists? (s.msgBody 0) = true ∧ s.part? (s.msgPartition 0) = none
           ∧ s.mustWait 0 (s.msgPartition 0) = false)
      ∧ (let s := opOn 0 0x0012 [0, 1]
         s.headerEnds 0 (configRow 0) = none ∧ (s.part? (s.msgPartition 0)).isSome = true ∧ s.mustWait 0 (s.msgPartition 0) = false
           ∧ unusedZero (s.msgBody 0) ((configRow 0).used (s.msgBody 0)) = false)
      ∧ (vf 0x0080 (zeros 2)).headerEnds 1 { code := 0x80, box := .operator } = some (.wrongMailbox, [])
      ∧ (op 0x0001 []).taken 0 1 = true := by
  refine ⟨fun h => absurd h.1 (by decide +kernel), ?_⟩
  decide +kernel

theorem witness_QueriesAnswer : queries.all (fun e => asksOk e.1 e.2) = true := by decide +kernel

theorem witness_QueriesAnswer_asks (e : State × Instr) (h : e ∈ queries) : e.1.asks e.2 :=
  asks_of_ok _ _ (List.all_eq_true.mp witness_QueriesAnswer e h)

/-- The fields and conditions of those queries that have any. -/
theorem witness_QueriesAnswer_fields :
    (vf 0x0060 (fields 24 [(1, 1, 1)])).perfUser 1 0 = true
      ∧ (∀ f ∈ (vf 0x0060 []).perfFields (fields 24 [(1, 1, 1)]), f.2 = true)
      ∧ (∀ e ∈ perfEntries (fields 24 [(1, 1, 1)]), (vf 0x0060 []).perfMay { fn := 1, p := 0, body := fields 24 [(1, 1, 1)] } e.1 = true)
      ∧ (∀ f ∈ sampleFields (fields 32 [(0, 1, 2)]), f.2 = true)
      ∧ (∀ c ∈ (vf 0x0061 []).sampleConds { fn := 1, p := 0, body := fields 32 [(0, 1, 2)] }, c.2 = true)
      ∧ ((vf 0x0022 [0]).queue? 0 0).isSome = true
      ∧ (withPart { part with live := { part.live with perfUser := false } }).perfUser 1 0 = false
      ∧ (asksOk (testing false (op 0x00B0 (testBody 3))) (.memTestResults 0) = true
        ∧ (∀ f ∈ (op 0x00B0 (testBody 3)).pcFields (testBody 3), f.2 = true) ∧ testPcs (testBody 3) = [5]
        ∧ (tget (testing false (op 0x00B0 (testBody 3))).tests 5).isSome = true) := by decide +kernel

theorem witness_PartitionMessagesAct : partitionMessages.all (fun e => asksOk e.1 e.2) = true := by decide +kernel
theorem witness_ScheduleMessagesAct : scheduleMessages.all (fun e => asksOk e.1 e.2) = true := by decide +kernel
theorem witness_DeviceMessagesAct : deviceMessages.all (fun e => asksOk e.1 e.2) = true := by decide +kernel
theorem witness_MaintenanceMessagesAct : maintenanceMessages.all (fun e => asksOk e.1 e.2) = true := by decide +kernel

theorem witness_messages_ask (e : State × Instr)
    (h : e ∈ partitionMessages ∨ e ∈ scheduleMessages ∨ e ∈ deviceMessages ∨ e ∈ maintenanceMessages) : e.1.asks e.2 := by
  apply asks_of_ok
  rcases h with h | h | h | h
  · exact List.all_eq_true.mp witness_PartitionMessagesAct e h
  · exact List.all_eq_true.mp witness_ScheduleMessagesAct e h
  · exact List.all_eq_true.mp witness_DeviceMessagesAct e h
  · exact List.all_eq_true.mp witness_MaintenanceMessagesAct e h

/-- What PartitionMessagesAct asks of part.create, of part.map and part.map unmap. -/
theorem witness_PartitionMessagesAct_create :
    (run []).part? 1 = none ∧ ((run []).repairDue 5 = false) ∧ (u8 createBody 0 ≤ 1 ∧ u32 createBody 4 ≤ 8388608 ∧ u32 createBody 16 < 2 ^ 20
        ∧ 1 ≤ u32 createBody 20 ∧ u32 createBody 20 ≤ 2 ^ 20 ∧ u16 createBody 24 = 1 ∧ u16 createBody 32 = 5 ∧ u8 createBody 34 ≤ 16)
      ∧ (run []).stackFitted (5 / 64) = true ∧ (run []).parts.length < 8 ∧ bit (u64 createBody 8) 1 = true
      ∧ (∀ c < 64, bit (u64 createBody 8) c = true → (run []).clusterFenced c = false ∧ ∀ e ∈ (run []).parts, e.2.ownsCluster c = false)
      ∧ (run []).pcFree 5 = true ∧ (run []).fencedLocal (5, 8) = false ∧ (run []).rangeOk 1 16 16 = true
      ∧ (run []).quotaTotal 1 + u32 createBody 4 ≤ 8388608 := by decide +kernel

theorem witness_PartitionMessagesAct_map :
    (let b := fields 24 [(4, 4, 1), (8, 8, 2 ^ 21), (16, 8, 2 ^ 21)]
     u8 b 0 = 0 ∧ u8 b 1 ≤ 1 ∧ u32 b 4 = 1 ∧ u64 b 8 % pageSize b = 0 ∧ u64 b 16 % pageSize b = 0 ∧ u64 b 8 + pageSize b ≤ 2 ^ 40
       ∧ u64 b 16 + pageSize b ≤ part.capacity
       ∧ ∀ g ∈ part.pages, overlaps (u64 b 8) (pageSize b) g.va g.bytes = false ∧ overlaps (u64 b 16) (pageSize b) g.pa g.bytes = false)
      ∧ (let b := fields 16 [(0, 1, 1), (4, 4, 1)]
         u8 b 0 = 1 ∧ u32 b 4 = 1 ∧ ∀ g ∈ part.pages, overlaps (u64 b 8) (pageSize b) g.va g.bytes = true →
           u64 b 8 ≤ g.va ∧ g.va + g.bytes ≤ u64 b 8 + pageSize b) := by decide +kernel

/-- What it asks of a queue, of a context, and of the destruction of a queue, whose commands have ended or not. -/
theorem witness_PartitionMessagesAct_queue :
    (u8 queueBody 0 ≤ 63 ∧ u8 queueBody 2 ≤ 63 ∧ 8 ≤ u8 queueBody 3 ∧ u8 queueBody 3 ≤ 16 ∧ 1 ≤ u16 queueBody 4 ∧ u16 queueBody 4 ≤ 127
        ∧ 1 ≤ u16 queueBody 6 ∧ u16 queueBody 6 ≤ 1024 ∧ u32 queueBody 8 ≤ 10000 ∧ u64 queueBody 16 % 8 = 0 ∧ u64 queueBody 24 % 4096 = 0
        ∧ u64 queueBody 32 % 8 = 0)
      ∧ (tget part.queues 1 = none ∧ (tget part.ctxs 0).isSome = true ∧ part.ownsCluster 0 = true ∧ (run []).clusterFenced 0 = false)
      ∧ (let b := fields 16 [(0, 1, 1), (2, 1, 1), (8, 4, 64), (12, 4, 64)]
         u8 b 1 ≤ 7 ∧ u8 b 2 = 1 ∧ tget part.ctxs (u8 b 0) = none ∧ ∀ r ∈ ctxRanges b, part.ownsRange r = true
           ∧ ∀ e ∈ part.ctxs, ∀ u ∈ e.2.ranges, overlaps r.1 r.2 u.1 u.2 = false)
      ∧ ((∀ e ∈ (vf 0x0021 [0]).funcs, e.2.waitFor ≠ some (.queueDestroy 0 0)) ∧ (vf 0x0021 [0]).queueBusy 0 0 = false
        ∧ (inFlight (flying fenceHost 34)).queueBusy 0 0 = true) := by decide +kernel

/-- The fields and conditions of the messages of the schedule family. -/
theorem witness_ScheduleMessagesAct_pool :
    (let o := poolOf poolBody
     part.live.streamBase ≤ o.firstStream ∧ o.firstStream + o.streamCount ≤ part.live.streamBase + part.live.streamCount ∧ o.streamCount = 4
       ∧ o.base % 32 = 0 ∧ o.size % 32 = 0 ∧ o.base + o.size ≤ bankBytes ∧ o.maxBlocks = 1 ∧ o.sharedGroups = 0 ∧ o.metaVa % 4096 = 0
       ∧ o.tokens ∈ [16, 32, 64, 128] ∧ o.groups = 1 ∧ u16 poolBody 42 = 1 ∧ u16 poolBody 44 = 1 ∧ u32 poolBody 48 = 0
       ∧ part.localBank (u16 poolBody 52) = true ∧ (run []).cuffFenced (u16 poolBody 52) = false ∧ o.lowWater ≤ o.slotsPerBank * o.banks.length
       ∧ (run []).metaOk 0 part o = true ∧ (run []).liveStreams 0 = []) := by decide +kernel

theorem witness_ScheduleMessagesAct_tables :
    (∀ d ∈ [false, true], (run []).tableOk d (tableBytes d) = true ∧ u32 (loadBody d) 8 = 64 + slotBytes d * tableSlots (tableBytes d)
        ∧ u16 (loadBody d) 14 = 0xFFFF ∧ u64 (loadBody d) 16 % 8 = 0)
      ∧ (run []).sharesKept (readTable true (tableBytes true) 0 0xFFFF 0) = true
      ∧ staged.schedule .device = some (inSlot 0 (some table)) := by decide +kernel

theorem witness_ScheduleMessagesAct_perf :
    (let b := fields 24 [(0, 1, 1), (1, 1, 1), (16, 8, 0x101)]
     (run []).perfUser 0 0xFF = true ∧ (∀ f ∈ (run []).perfFields b, f.2 = true) ∧ perfEntries b = [(0, 0x101)])
      ∧ (let b := fields 32 [(0, 1, 1), (1, 1, 4), (2, 1, 2), (16, 1, 6), (18, 2, 0xFFFF)]
         (∀ f ∈ sampleFields b ++ enableFields 0 b, f.2 = true)
           ∧ ∀ c ∈ (run []).sampleConds { fn := 0, p := 0xFF, body := b }, c.2 = true) := by decide +kernel

/-- The fields and conditions of the device messages; a link that is gone while the bulk messages ask. -/
theorem witness_DeviceMessagesAct_fields :
    (run []).flash.accepted.length + (run []).boot.mismatches.length ≤ 64
      ∧ ((run []).flash.copy false).map FwCopy.sound = some true
      ∧ (let R := readManifest manifestBytes
         R.legal = true ∧ (run []).manifestOk R.manifest = true ∧ (run []).manifestBusy R.manifest = false)
      ∧ (let s := ({ (op 0x0090 (zeros 12)) with link := { ready.link with state := .lost } } : State)
         s.linkGone = true ∧ asksOk s (.fwStage { fn := 0 }) = true)
      ∧ asksOk (op 0x00E0 (fields 12 [(8, 4, 3328)])) (.licInstall 0) = true ∧ asksOk (op 0x0090 (fields 12 [(8, 4, 8194)])) (.fwStage { fn := 0 }) = true
      ∧ asksOk (vf 0x0002 (fields 16 [(12, 1, 1)])) (.devTopologyAccept 1) = true := by decide +kernel

/-- The fields and conditions of the maintenance messages, and tests that end. -/
theorem witness_MaintenanceMessagesAct_fields :
    (∀ f ∈ (run []).pcFields (testBody 0), f.2 = true) ∧ testPcs (testBody 0) = [5] ∧ (run []).testable 5 = true
      ∧ (ready.lockedPc 5 = false ∧ ready.parts = [] ∧ systemPc 5 = false ∧ ready.mappedOut 5 = false ∧ ready.underTest 5 = false
        ∧ ready.fuse.hasRoom = true ∧ ready.fuse.mapouts = [])
      ∧ ((run []).inMaintenance 5 = true ∧ (run []).fuse.spareLeft (repairOf (fields 12 [(2, 2, 5), (4, 4, 7)])) = true
        ∧ (run []).fuse.spareLeft (repairOf (fields 12 [(0, 1, 1), (2, 2, 5), (8, 1, 1)])) = true)
      ∧ (∀ b ∈ [false, true], (tget (testing b ready).tests 5).map (fun T => (T.done, T.selfTest)) = some (false, b)) := by decide +kernel

/-! ### Images and blobs in host memory -/

theorem host_list_find (b : Bytes) : ∀ (key i : Nat), i < b.length → hostFind (hostList key b) (key + i) = b[i]? := by
  induction b with
  | nil => intro key i h; exact absurd h (by simp)
  | cons x t ih =>
    intro key i h
    cases i with
    | zero => simp [hostList, hostFind]
    | succ n =>
      have h1 : key + (n + 1) = key + 1 + n := by omega
      have h2 : key + 1 + n ≠ key := by omega
      have h3 : n < t.length := by simpa using h
      simp only [hostList, hostFind, h1, h2, if_false, ih (key + 1) n h3]
      simp

theorem host_list_within (b : Bytes) : ∀ (key : Nat) (e : Host.Cell), e ∈ hostList key b → key ≤ e.1 ∧ e.1 < key + b.length := by
  induction b with
  | nil => intro key e h; simp [hostList] at h
  | cons x t ih =>
    intro key e h
    simp only [hostList, List.mem_cons] at h
    rcases h with rfl | h
    · simp
    · have := ih (key + 1) e h
      simp only [List.length_cons]
      omega

/-- Host memory with bytes at an address of a function reads as these bytes. -/
theorem withHost_reads (s : State) (fn addr : Nat) (b : Bytes) (h : s.hostMem = []) :
    (withHost s fn addr b).hostBytes (hostKey fn addr) b.length = b := by
  have hm : (withHost s fn addr b).hostMem = hostList (hostKey fn addr) b := by simp [withHost, hostWriteAll, h]
  have hs : cslice (hostList (hostKey fn addr) b) (hostKey fn addr) b.length = hostList (hostKey fn addr) b := by
    unfold cslice
    rw [List.filter_eq_self]
    intro e he
    have := host_list_within b _ e he
    simp [this.1, this.2]
  unfold State.hostBytes
  rw [hm, hs]
  apply List.ext_getElem
  · simp
  · intro i h1 h2
    simp only [List.getElem_map, List.getElem_range]
    rw [host_list_find b _ i h2]
    simp [List.getElem?_eq_getElem h2]

/-- A first-stage image with one byte of payload, and a main image whose component manifest is empty. -/
def images : Bytes :=
  fields 4097 [(0, 2, 1), (8, 8, 1), (16, 4, 7)] ++ fields 4112 [(0, 2, 1), (2, 1, 1), (8, 8, 16), (16, 4, 7)]

def judged : Bool :=
  let main := images.drop (imageBytes images)
  imagesLegal images && bit (u32 images 16 &&& u32 main 16) ready.ident.part.fwBit && !decide (u8 images 3 < ready.fuse.fwSvn.toNat)
    && !decide (u8 main 3 < ready.fuse.fwSvn.toNat)

theorem images_judged : judged = true := by decide +kernel

/-- Legal images for the part are never refused, whether their signatures verify or not: which, only Config.falconOk says. -/
theorem witness_DeviceMessagesAct_images : (ready.judgeImages images).1 ≠ .refused := by
  have h := images_judged
  unfold judged at h
  simp only [Bool.and_eq_true, Bool.not_eq_true'] at h
  obtain ⟨⟨⟨h1, h2⟩, h3⟩, h4⟩ := h
  unfold State.judgeImages
  split
  · exact fun h => nomatch h
  · simp only [h1, h2, h3, h4, Bool.not_true, Bool.or_self, Bool.false_eq_true, if_false]
    exact fun h => nomatch h

def blob : Bytes := fields 3328 [(0, 2, 1), (4, 4, 1), (8, 16, 1)]

theorem witness_DeviceMessagesAct_blob :
    blob.length = blobBytes ∧ blobLegal blob = true ∧ ready.canProvide (u32 blob 4) = true ∧ ready.flash.store.length < 16
      ∧ BitVec.ofNat 8 (u32 blob 4) &&& ~~~ready.installed = 0
      ∧ BitVec.ofNat 8 (u32 blob 4) &&& ~~~(State.resetOf .drc8s1x).installed ≠ 0 := by decide +kernel

/-! ### Witnesses: sensors and peers -/

/-- Readings of die 0 at the bounds of levels 2 and 3 (R360, R361): 95.0 °C and 97.0 °C, and 94.0 °C, 1 °C below the bound of level 2. -/
def cold : State := { ready with thermal := { ready.thermal with readings := [(0, List.replicate 96 376)], levels := [(0, 2)] } }

theorem witness_SensorSamplesSetLevels_bounds :
    cold.dieTemp 0 = some 376 ∧ cold.levelOf 0 = 2 ∧ cold.thermal.heldDies.contains 0 = false ∧ (2, (380 : Int)) ∈ levelBounds 0
      ∧ levelAt 0 376 = 1 ∧ levelAt 0 380 = 2 ∧ levelAt 0 388 = 3 ∧ levelAt 0 420 = 8 ∧ ¬((380 : Int) - 4 < 376) ∧ (376 : Int) ≤ 380 - 4 := by
  decide +kernel

/-- The port is up and expects frame 5; one frame of number 7 is not acknowledged and one waits. -/
def outFrame (n : Nat) : OutFrame := { seq := n, last := true, offset := 0, carries := .copyData 0, payload := zeros 64, poison := [], job := none }
def portUp : Port :=
  { (ready.port 0) with state := .up, expected := 5, unacked := [outFrame 7], backlog := [outFrame 0], sinceAck := 15, nextSeq := 8 }
def ported (x : Port) : State := { (run []) with peers := { peersUp with ports := [(0, x)] } }

/-- A CRECV of 128 bytes waits for its data. -/
def receiving : State :=
  { (ported portUp) with flight := [(0, { flying recv 35 with peer := some (messageJob (record 0x6005 0 [(24, 8, 128)]) (.recv 0 0 0)) })] }

theorem witness_PeerTransport :
    (((ported portUp).port 0).state = .up ∧ (frame 5 64 (.copyData 0)).wellFormed = true ∧ (frame 5 64 (.copyData 0)).seq = portUp.expected
        ∧ (frame 6 64 (.copyData 0)).seq ≠ portUp.expected ∧ (ported portUp).power.state ≠ .watch ∧ (inWatch (ported portUp)).power.state = .watch
        ∧ 15 ≤ portUp.sinceAck)
      ∧ ((receiving.recvJob 0 0 0 0).map Prod.fst = some 0 ∧ (receiving.part? 0).isSome = true ∧ (tget receiving.flight 0).isSome = true
        ∧ (takePhase 0 0 64 (messageJob (record 0x6005 0 [(24, 8, 128)]) (.recv 0 0 0)).phases).isSome = true)
      ∧ (portUp.unacked = outFrame 7 :: [] ∧ (8 + seqMod - (outFrame 7).seq) % seqMod ≤ portUp.unacked.length
        ∧ (7 + seqMod - (outFrame 7).seq) % seqMod ≤ portUp.unacked.length)
      ∧ ((ported { portUp with state := .down }).port 0).state = .down
      ∧ (peersUp.manifest.links.find? (fun l => decide (l.port = 0))).map LinkEntry.peer = some 0
      ∧ ((ported { portUp with state := .training }).port 0).state = .training := by decide +kernel

/-- A CSEND of 64 bytes waits for its receiver; a collective of group 0, OP_SEQ 0 is in flight. -/
def sending : State := { (runPeer []) with flight := [(0, { flying send 35 with peer := some (messageJob send (.send 0 0 0)) })] }
def pendingGroup : State := { (runPeer []) with peers := { peersUp with groups := [(0, { state := .pending, opSeq := 0 })] } }

theorem witness_PeerLossAndNotices :
    (((runPeer []).groupEntry? 0 0).isSome = true ∧ ((runPeer []).group 0 0).state ≠ .failed)
      ∧ ((runPeer []).portsTo 0 ≠ [] ∧ (runPeer []).portPeer 0 = some 0 ∧ ((runPeer []).port 0).state ∈ [PortState.up, .training, .mismatch])
      ∧ (((runPeer []).part? 0).isSome = true ∧ (runPeer []).flight = [] ∧ ((runPeer []).group 0 0).opSeq.toNat ≤ 0)
      ∧ (sending.flight.length = 1 ∧ (sending.peerGroup 0 0).isSome = true ∧ ((sending.peerGroup 0 0).bind (fun G => G.rankOf 0)) = some 1
        ∧ (messageJob send (.send 0 0 0)).open? = false)
      ∧ ((pendingGroup.groupEntry? 0 0).isSome = true ∧ (pendingGroup.group 0 0).state = .pending
        ∧ (∀ k ∈ ((pendingGroup.groupEntry? 0 0).map GroupEntry.peers).getD [], ((pendingGroup.peers.manifest.peers[k]?).map PeerEntry.included).getD false = true)
        ∧ ∀ n ∈ ((pendingGroup.groupEntry? 0 0).map pendingGroup.groupPorts).getD [], (pendingGroup.port n).state = .up) := by decide +kernel

/-! ### Witnesses: further clauses -/

/-- Records that do no work: a fill of no bytes, a collective and a PEERCOPY of none, a stream table of no entries, a READ_CTR whose D has a zero
extent. -/
def idleFill : Bytes := record 0x5004 0 [(8, 1, 1), (10, 2, 1), (24, 8, 0x80)]
def idleReduce : Bytes := record 0x6003 0 [(10, 1, 1), (16, 8, 0), (24, 8, 0x1000)]
def idleCopy : Bytes := record 0x6006 0 [(16, 8, 0)]
def idleCommit : Bytes := record 0x7003 0 [(16, 8, 0x20)]
def idleCounter : Bytes := record 0x3001 0x21 ([(9, 1, 0x30)] ++ sdBox 64 0x20 1 0 1)

theorem witness_EngineRecordsGoIntoFlight_idle :
    runsOk (run [idleFill]) (.nbFill 0 0) = true ∧ nearEmpty idleFill = true ∧ runsOk (runPeer [idleReduce]) (.car 0 0) = true
      ∧ runsOk (runPeer [idleCopy]) (.peercopy 0 0) = true ∧ runsOk (runPool [idleCommit]) (.stCommit 0 0) = true
      ∧ u64 idleCommit 16 ≠ 0 ∧ u32 idleCommit 24 = 0 := by decide +kernel

theorem witness_ReadCtrWritesTheCounter_empty :
    runsOk ({ counting with parts := (run [idleCounter]).parts } : State) (.readCtr 0 0) = true ∧ (sdAt idleCounter 64).empty = true := by
  decide +kernel

theorem witness_working :
    (held 1).working = true ∧ (inWatch (held 1)).working = false ∧ crossing.working = true ∧ (inWatch crossing).working = false
      ∧ finished.working = true ∧ (finished.partOf (nearJob nbPoolOne [] false)).isSome = true ∧ (clearing true).working = true
      ∧ (inFlight (flying fenceHost 34)).working = true ∧ (inFlight (flying fenceHost 34)).atWork 0 (flying fenceHost 34) = false
      ∧ (inWatch (inFlight (flying fenceHost 34))).working = false := by decide +kernel

theorem witness_StreamCommandsChangeTheirEntry_rows :
    (runStream [stRollback 5]).rowsFault 0 (site (runStream [stRollback 5])).P pool stream.blockTable (cdiv 5 pool.tokens) stream.blocks = none
      ∧ (runStream [stRelease]).rowsFault 0 (site (runStream [stRelease])).P pool stream.blockTable 0 stream.blocks = none
      ∧ ((runStream [stRelease]).segs 0 (site (runStream [stRelease])).P stream.blockTable pool.tableBytes).isSome = true
      ∧ ((runPool [stOpen]).segs 0 (site (runPool [stOpen])).P (pool.tableVa 0) pool.tableBytes).isSome = true := by decide +kernel

theorem witness_requests_not_dropped :
    (slotted oneSealed).streamDrops {} = false ∧ mapped.streamDrops {} = false ∧ (run []).streamDrops {} = false := by decide +kernel

theorem witness_CuffEntriesRun_sram : ((working nbFillZero (.fill (bankAddr 64 0) 32)).sram 64).badWords .microcode = [] := by decide +kernel

theorem witness_SensorSamplesSetLevels_power : warmed.diePowered 0 = true ∧ (inWatch warmed).diePowered 17 = true := by decide +kernel

theorem witness_PowerStatesMove_exits :
    (resting .watch .watch true false).link.d3hot = false ∧ (resting .watch .watch true true).link.d3hot = true
      ∧ (resting .watch .watch false true).pcPresent (64 / 16) = true := by decide +kernel

/-- An engine of cluster 1 is at work while the Girdle sees the cluster's arithmetic island stop. -/
def stuck : State := { (inFlight { flying loadByte 3 with cluster := 1 }) with cross := { Crossings.reset with brokeOnce := [0x3004] } }

theorem witness_CrossingsBreakAndRecover_waits :
    stuck.arithWaits 0x7000 (islArith 1) = true ∧ stuck.arithWaits (islControl 1) (islArith 1) = false
      ∧ stuck.waitsOn (islControl 1) (islArith 1) 0 { flying loadByte 3 with cluster := 1 } = true
      ∧ stuck.cross.brokeOnce.contains 0x3004 = true ∧ stuck.clusterFenced 1 = false := by decide +kernel

theorem witness_HostLinkHoldsAndFails_reads :
    reading.commandFails { flying loadByte 3 with readsHost := true } .timeout = true
      ∧ (inFlight (nearJob nbFillZero [] false)).commandFails { nearJob nbFillZero [] false with readsHost := true } .timeout = true
      ∧ (posed ready 0 0x0090 (zeros 12)).mayFail 0 .timeout = true := by decide +kernel

theorem witness_HostReachesMappedMemory_decoders :
    (unmapped.hostReaches = true ∧ unmapped.hdmAllowed 0 (2 ^ 29) (2 ^ 28) = true ∧ unmapped.hdmAllowed 0 1 (2 ^ 28) = false) := by decide +kernel

/-- Four sessions stand on the PF: no room for a fifth. -/
def fullSessions : State :=
  { (trusted none) with trust := { (trusted none).trust with conns := [(0, { stage := .algorithms, sessions := (List.range 4).map (fun n => (n, true)) })] } }

theorem witness_InterfacesAndAttestation_sessions :
    (trusted none).pfSession = true ∧ (run []).pfSession = false ∧ (fullSessions.conn 0).stage = .algorithms ∧ fullSessions.sessionRoom 0 = false
      ∧ fullSessions.responds 0 = true := by decide +kernel

/-- A collective of group 0, number 0, and a CRECV are in flight. -/
def collecting : PeerJob := { messageJob send (.collective 0 0 0 2) with opcode := 0x6003, open? := true }
def gathering : State := { (runPeer []) with flight := [(0, { flying allReduce 35 with peer := some collecting })] }
def receivingUp : State := { (runPeer []) with flight := [(0, { flying recv 35 with peer := some (messageJob recv (.recv 0 0 0)) })] }

theorem witness_PeerLossAndNotices_matches :
    ((runPeer []).port 0).state = .up ∧ (gathering.collectiveJob 0 0 0).map Prod.fst = some 0 ∧ (runPeer []).collectiveJob 0 0 0 = none
      ∧ (sending.sendJob 0 0 0 0).map Prod.fst = some 0 ∧ (runPeer []).sendJob 0 0 0 0 = none ∧ (sending.partOf (flying send 35)).isSome = true
      ∧ (receivingUp.recvJob 0 0 0 0).map Prod.fst = some 0 ∧ (messageJob recv (.recv 0 0 0)).bytes ≠ 128
      ∧ (messageJob send (.send 0 0 0)).bytes = 64 ∧ ((ported { portUp with state := .mismatch }).port 0).state = .mismatch := by decide +kernel

/-- The one other member of the group has told the digest of its entry. -/
theorem witness_PeerLossAndNotices_digests (G : GroupEntry) (h : G.members.length = 2) (h0 : G.rank = 0) :
    let R := [(1, pendingGroup.groupDigest G)].foldl (fun u x => u.report 0 0 x) (pendingGroup.wake .peer)
    ∀ r < G.members.length, r ≠ G.rank → (groupKey 0 0, r, pendingGroup.groupDigest G) ∈ R.peers.digests := by
  intro R r hr hn
  have : r = 1 := by omega
  subst this
  simp [R, State.report]

theorem witness_PeerLossAndNotices_group :
    (pendingGroup.groupEntry? 0 0).map (fun G => (G.members.length, G.rank)) = some (2, 0) := by decide +kernel

theorem witness_DeviceMessagesAct_cut : asksOk (op 0x0090 (fields 12 [(8, 4, 8194)])) (.fwStage { fn := 0, cut := true }) = true := by decide +kernel

theorem witness_MaintenanceMessagesAct_unlocked : (run []).lockedPc 5 = false ∧ testPcs (testBody 0) = [5] := by decide +kernel

theorem witness_TimedAndRegisterCommandsComplete :
    (tget idleStream.streams 0 = some stream ∧ (idleStream.part? stream.partition).map Partition.pool = some (some pool) ∧ stream.state = .active
        ∧ stream.lastStep.toNat + pool.idleSteps ≤ ((idleStream.part? 0).map (fun P => P.stepNo.toNat)).getD 0 ∧ pool.idleSteps ≠ 0)
      ∧ (((freeing.part? 0).bind Partition.pool).map Pool.freed = some [batch] ∧ batch.after = [])
      ∧ (ready.alive = true ∧ ready.power.state ≠ .watch)
      ∧ ((run []).hostReaches = true ∧ (run []).streamDrops {} = false ∧ (run []).fnOpen 1 {} = true ∧ (run []).fnExists 1 = true
        ∧ (run []).windowOpen 1 = true ∧ (run []).selected 0 = some 0)
      ∧ (sampling.thermal.tripped = false ∧ sampling.perf.samples = [sample] ∧ sample.finished = true
        ∧ tget sampling.perf.samplers sample.scope = some sampler) := by decide +kernel

/-! ### Witnesses: states in which a clause of a rule of the whole device applies -/

/-- An update crosses the Girdle, or a WAIT holds its queue, in ACTIVE and in IDLE. -/
theorem witness_control_runs :
    crossing.controlRuns = true ∧ (held 1).controlRuns = true
      ∧ ({ crossing with power := { crossing.power with state := .idle } } : State).controlRuns = false := by decide +kernel

theorem witness_CommandsEndWhenDone_unmixed :
    let s := inFlight (flying fenceHost 34)
    s.working = true ∧ (∀ e ∈ (inFlight (flying loadByte 3)).flight, e.2.mixed = []) ∧ (flying loadByte 3).engine < 33
      ∧ (s.queue? 0 0).map Queue.destroying = some false := by decide +kernel

theorem witness_QueueTimersAct_running :
    (slotted fullRing).working = true ∧ vectorOpen.vectorsOn 1 = true ∧ vectorOpen.thermal.tripped = false
      ∧ (slotted holding).linkGone = false ∧ (slotted oneSealed).mayFetch { queue [] with broken := true } = false := by decide +kernel

theorem witness_CuffEntriesRun_ended : (nbOf nbFillZero [] false).ended.contains 64 = false := by decide +kernel

/-- The slot of a Sleeve write of eight bytes lies within the aperture. -/
theorem witness_SleeveWritesReachTheirSlot_offset :
    (64 : Nat) + (zeros 8).length ≤ 0x400000 ∧ 64 % 64 + (zeros 8).length ≤ 64 ∧ zeros 8 ≠ [] := by decide +kernel

/-! Stream commands: an append of four tokens to a stream of six, of which row 0 has no block; a lookup and a publication of one range of 64 tokens. -/

def oneGroup : Pool := { pool with sharedGroups := 1 }
def full : Stream := { stream with committed := 64, speculative := 64, appendBase := 64 }
def bare : Stream := { stream with committed := 0, speculative := 0, appendBase := 0, blocks := 0 }
def runPrefix (x : Stream) (l : List Bytes) : State :=
  { (withPart { part with queues := [(0, queue l)], pool := some oneGroup }) with streams := [(0, x)] }
def lookupOne : Bytes := record 0x7006 0 [(12, 4, 65), (40, 4, 4)]
def publishOne : Bytes := record 0x7007 0 [(12, 4, 64), (40, 4, 4)]

theorem witness_StreamCommandsChangeTheirEntry_append :
    let s := runStream [stAppend 4]
    let d := site s
    runsOk s (.stAppend 0 0) = true ∧ (4 + 4 - 1) / pool.tokens = 0 ∧ 0 < pool.maxBlocks
      ∧ s.deviceOk d 0x40000 (3 * 1024 + pool.groups * 1024) = true
      ∧ s.rawFault 0 d.P (pool.entryVa stream.blockTable 0 0) 4 = none
      ∧ entryValid (u32 (s.rawVa 0 d.P (pool.entryVa stream.blockTable 0 0) 4) 0) = false ∧ (pool.choose 0 0 0).isSome = true := by decide +kernel

theorem witness_StreamCommandsChangeTheirEntry_prefixes :
    (let s := runPrefix bare [lookupOne]
     let d := site s
     runsOk s (.prefixLookup 0 0) = true ∧ s.streamBad d.P 0 = false ∧ min ((65 - 1) / max oneGroup.tokens 1) oneGroup.maxBlocks = 1
       ∧ s.deviceOk d 0 (4 * 65) = true ∧ (s.fetch (nearAccess 0 d.P) 0 (4 * 64)).2 = false ∧ s.confirmFault 0 d.P oneGroup 0 = none
       ∧ s.rawFault 0 d.P (oneGroup.entryVa bare.blockTable 0 0) 4 = none ∧ s.unsettled = [])
      ∧ (let s := runPrefix full [publishOne]
         let d := site s
         runsOk s (.prefixPublish 0 0) = true ∧ s.streamBad d.P 0 = false ∧ 64 / max oneGroup.tokens 1 = 1 ∧ s.deviceOk d 0 (4 * 64) = true
           ∧ s.rowsFault 0 d.P oneGroup full.blockTable 0 1 = none ∧ s.prefixes = [] ∧ 0 < d.P.live.prefixQuota
           ∧ s.freeRecord 0 d.P oneGroup = some 0) := by decide +kernel

/-- The index holds a hash, or it does not; its bucket holds no bad word, and has room. -/
theorem witness_StreamCommandsChangeTheirEntry_index (h : BitVec 128) (l : List Bytes) :
    let x : PrefixEntry := { hash := h, record := 0, partition := 0, domain := 0, priority := 0, lastUse := 0 }
    let at_ := h.toNat % 2 ^ 20 * 8
    ({ (runPrefix bare l) with prefixes := [(at_, x)] } : State).findPrefix 0 0 h = some (at_, x)
      ∧ (runPrefix bare l).findPrefix 0 0 h = none ∧ (runPrefix bare l).bucketBad h = false
      ∧ (runPrefix bare l).freeEntry (h.toNat % 2 ^ 20) = some at_ := by
  refine ⟨?_, rfl, rfl, rfl⟩
  simp [State.findPrefix]

theorem witness_BanksRefreshAndCorrect_scrubbed :
    upset.stacksRun = true ∧ (inWatch upset).stacksRun = false ∧ (repairing rowFault).stacksRun = true ∧ upset.alive = true
      ∧ ((run [noOp]).queue? 0 0).map Queue.frontWords = some 8
      ∧ ((working nbFillZero (.fill (bankAddr 64 0) 32)).near.entries.filter (fun e => decide (e.bank / 16 = 4)))[0]?
          = some (entry (.fill (bankAddr 64 0) 32))
      ∧ upset.pcPresent (64 / 16) = true ∧ upset.unitIsland 0xA000 = true ∧ cached.stacksRun = true ∧ (tget cached.caches 0).isSome = true := by
  decide +kernel

theorem witness_PowerStatesMove_d3hot :
    (resting .active .active false true).settled = true ∧ (inFlight (flying loadByte 3)).settled = false
      ∧ (inFlight (flying loadByte 3)).power.state ≠ .watch ∧ (inFlight (flying loadByte 3)).hostReaches = true
      ∧ (resting .active .active false true).thermal.tripped = false ∧ tripped.thermal.tripped = true := by decide +kernel

/-- Count 800 lies above the critical limit of die 0, which is 105.0 °C (R364). -/
theorem witness_SensorSamplesSetLevels_critical :
    criticalLimit 0 = 420 ∧ ((warmed.sampled 0 (List.replicate 96 4095))[0]?).any (fun x => decide (420 ≤ x)) = true
      ∧ ((List.replicate 96 4095)[0]?).any (fun c => outOfRange (sensorTemp (warmed.calOf (sensorId 0 0)) c)) = true := by decide +kernel

/-- The watchdog of one end of a crossing has counted CDC_TIMEOUT cycles while command 0 waited; while a command waited that has ended since. -/
def watched (near far : Nat) (w : Watchdog) : State := { stuck with cross := { stuck.cross with watch := [(crossKey near far, w)] } }

theorem witness_CrossingsBreakAndRecover_watchdogs :
    (∀ near ∈ [0x7000, islControl 1], ∀ far ∈ [islArith 1],
      let s := watched near far { cycles := 65536, waiting := [0] }
      s.watchdogDue near far = true ∧ s.parked far = false ∧ s.alive = true ∧ s.islandExists near = true ∧ s.islandExists far = true
        ∧ s.clocked near = true ∧ s.cross.broken.contains (near, far) = false
        ∧ s.waitedOn near far 0 { flying loadByte 3 with cluster := 1 } = true)
      ∧ (∀ far ∈ [islArith 2, 0x3004, 0x8005, islPeer 0, 0x9000],
          (watched (islControl 1) far { cycles := 65536, waiting := [0] }).watchdogDue (islControl 1) far = true)
      ∧ ([7].any (fun id => (tget (watched (islControl 1) (islArith 1) { cycles := 256, waiting := [7] }).flight id).isNone)) = true
      ∧ (clearing true).parked (islArith 0) = true := by decide +kernel

theorem witness_CoresAndClustersReset_owner :
    ready.ownerResets 0 = false ∧ (clearing true).ownerResets 0 = true ∧ ready.parts = [] ∧ ready.flight = [] := by decide +kernel

theorem witness_ResetsAndBoots_recheck :
    0 < ({ ready with peers := { ready.peers with rechecks := 1 } } : State).peers.rechecks ∧ ready.peers.rechecks = 0 ∧ ready.boot.served = true
      ∧ ready.boot.rom = false := by decide +kernel

theorem witness_HostLinkHoldsAndFails_alive : (∀ x ∈ [LinkState.up, .down, .lost, .expired], (linked x).alive = true) ∧ State.reset.alive = false := by
  decide +kernel

/-- Without VF Enable a request to a VF is an Unsupported Request; one on a stream that does not stand is dropped. -/
theorem witness_requests_turned_away :
    let s : State := { (run []) with link := { ready.link with cfg := [] } }
    s.hostReaches = true ∧ s.streamDrops {} = false ∧ s.barOpen 0 {} = false ∧ s.thermal.tripped = false ∧ s.streamDrops { stream := some 5 } = true
      ∧ ((run []).cfgSpace 0).vfEnable = true := by decide +kernel

theorem witness_InterfacesAndAttestation_requests :
    ready.powerGood = true ∧ State.reset.powerGood = true ∧ ((trusted none).conn 0).stage = .algorithms
      ∧ (let b := fields 8 [(1, 1, 0xE4), (3, 1, 1)]
         u8 b 1 = 0xE4 ∧ u8 b 3 ≠ 0) ∧ (let b := fields 8 [(1, 1, 0x82), (2, 1, 1)]
         u8 b 1 = 0x82 ∧ u8 b 2 % 16 ≠ 0) := by decide +kernel

/-- The port runs; a frame carries the message that a CRECV waits for, with its total and with another. -/
theorem witness_PeerTransport_runs :
    (ported portUp).portsRun = true ∧ (ported portUp).carries 0 = true ∧ tripped.portsRun = false ∧ tripped.carries 0 = false
      ∧ (∀ total ∈ [128, 64], (frame 5 64 (.message 0 0 0 0 total)).wellFormed = true)
      ∧ (∀ a ∈ (receiving.recvJob 0 0 0 0).toList, a.2.2.bytes = 128) := by decide +kernel

theorem witness_PeerLossAndNotices_runs :
    (runPeer []).carries 0 = true ∧ pendingGroup.portsRun = true ∧ pendingGroup.power.state ≠ .watch
      ∧ (runPeer []).groupEntry? 0 1 = none ∧ (runPeer []).sendJob 0 0 0 0 = none
      ∧ ((runPeer []).part? 0).map (fun P => tgetD P.sends (channelKey 0 0) 0) = some 0 := by decide +kernel

/-- A perf.config request stands behind an earlier one of the operator; one of a partition without PERF_USER_EN. -/
def twoCounters : State := { (posed (vf 0x0060 (fields 24 [(1, 1, 1)])) 0 0x0060 (fields 24 [(1, 1, 1)])) with handed := [0, 1] }
def noUser (code : Nat) (body : Bytes) : State := posed (withPart { part with live := { part.live with perfUser := false } }) 1 code body

theorem witness_MessagesAreTakenUp_counters :
    (twoCounters.headerEnds 1 (perfRow 0) = none ∧ (perfRow 0).inOrder = true ∧ twoCounters.behind 1 (perfRow 0).code = true
        ∧ (twoCounters.func 1).busy = true)
      ∧ (let s := noUser 0x0060 (fields 24 [(1, 1, 1)])
         s.headerEnds 1 (perfRow 0) = none ∧ (perfRow 0).user = true ∧ s.perfUser 1 (s.msgPartition 1) = false
           ∧ s.behind 1 (perfRow 0).code = false ∧ (s.part? (s.msgPartition 1)).isSome = true
           ∧ ((perfRow 0).acts (s.msgBody 1) = true → s.mustWait 1 (s.msgPartition 1) = false)) := by decide +kernel

theorem witness_MaintenanceMessagesAct_stopped :
    (inWatch (testing false ready)).stacksRun = false ∧ (testing false ready).stacksRun = true := by decide +kernel

/-! ### A few values worked out from the spec -/

/-- One byte 0x38 of device memory reaches the scratchpads; a sum of products of INT8 elements wraps in 32 bits (R90). -/
def loaded : State := { (run [loadByte]) with dram := { Mem.empty with cells := [(bankAddr 72 0x40, 0x38)] } }
theorem test_load_byte : (match exec (.load 0 0) loaded with | .next t => t.spad.get 0x100 | _ => 0) = 0x38 := by decide +kernel

/-- 3 × -1 is -3 in four bytes. -/
def factors : State := { (run [mmaByte]) with spad := { Mem.empty with cells := [(0x800000, 3), (0x800100, 0xFF)] } }
theorem test_mma_signed :
    (match exec (.mma 0 0) factors with | .next t => leNat (t.spad.bytes 0x800200 4) | _ => 0) = 0xFFFFFFFD := by decide +kernel

/-- STEP with SET writes the step number. -/
theorem test_step_set :
    (match exec (.step 0 0) (run [stepSet]) with | .next t => ((t.part? 0).map Partition.stepNo).getD 0 | _ => 0) = 9 := by decide +kernel

/-- power.cap takes 1,000 W (R345), and the brake puts 700 W in its place (R350). -/
theorem test_power_cap :
    (match exec (.powerCap 0) (op 0x0080 (fields 2 [(0, 2, 1000)])) with | .next t => t.governedCap | _ => 0) = 1000
      ∧ (match exec .pwrbrkAssert ready with | .next t => t.governedCap | _ => 0) = 700 := by decide +kernel

/-- The sixteenth frame in order is acknowledged with the next number expected (R314). -/
theorem test_ack_sixteenth :
    Out.ackFrame 0 6 ∈ (match exec (.peerDataFrame 0 (frame 5 64 (.copyData 9))) (ported portUp) with | .next t => t.out | _ => []) := by
  decide +kernel

/-- E4M3 codes 0x38, 0xC0 and 0x7E are 1, -2 and 448 (R188); FP32 codes written out by hand. -/
theorem test_e4m3_values :
    fp32.encode .nearest false (e4m3.decode 0x38) = 0x3F800000 ∧ fp32.encode .nearest false (e4m3.decode 0xC0) = 0xC0000000
      ∧ fp32.encode .nearest false (e4m3.decode 0x7E) = 0x43E00000 := by decide +kernel

end Sys2Proof.Tests
end

section
/-! SUPPORT. Commands.lean: what a command may change, said once for every command. -/

namespace Sys2Proof

/-- Commands that may write the fuse record: repairs, map-outs, tests that fence, boots. -/
def Instr.burnsFuses : Instr → Bool
  | .pendingRepairApply _ | .memRepairRow _ | .memRepairColumn _ | .memMapout _ | .memTestEnd _ _ | .memTestStop _
  | .perstRelease _ | .pfFlr _ => true
  | _ => false

namespace Machine

/-! ### Outcomes -/

/-- Every field but what assembly fixed, the fuse record and the waiting commands: what a command that blows no fuse may change. -/
def unfusedFields : List Field :=
  [.flash, .boot, .cross, .timer, .cycles, .dram, .spad, .hostMem, .caches, .unsettled, .parts, .streams, .prefixes, .flight,
   .nextId, .sigs, .near, .keyDraws, .funcs, .handed, .log, .link, .trust, .peers, .power, .thermal, .tests, .rowHits, .sched,
   .perf, .out, .free, .ends]

/-- What any command may change. -/
def commandFields : List Field := .fuse :: unfusedFields

@[simp] theorem mem_unfusedFields {f : Field} : f ∈ unfusedFields ↔ f ≠ .ident ∧ f ≠ .fuse ∧ f ≠ .pending := by
  cases f <;> decide

@[simp] theorem mem_commandFields {f : Field} : f ∈ commandFields ↔ f ≠ .ident ∧ f ≠ .pending := by
  cases f <;> decide

theorem unfusedFields_subset : unfusedFields ⊆ commandFields := List.subset_cons_self _ _

/-- The next state of an outcome, if it has one, satisfies P. -/
def leadsTo (o : Host.Outcome State Fault Refusal) (P : State → Prop) : Prop := ∀ t, o = .next t → P t

@[simp] theorem leadsTo_next {t : State} {P : State → Prop} : leadsTo (.next t) P ↔ P t :=
  ⟨fun h => h t rfl, fun h u e => by cases e; exact h⟩

/-- An outcome changes only fields of a list. -/
def State.mayChange (s : State) (F : List Field) (o : Host.Outcome State Fault Refusal) : Prop := leadsTo o (s.keeps F)

@[simp] theorem State.mayChange_next {s t : State} {F : List Field} : s.mayChange F (.next t) ↔ s.keeps F t := leadsTo_next

theorem State.mayChange_mono {s : State} {F G : List Field} {o : Host.Outcome State Fault Refusal} (sub : F ⊆ G)
    (h : s.mayChange F o) : s.mayChange G o := fun t e => State.keeps_mono (h t e) sub

/-- A command that begins where another operation has ended. -/
theorem State.mayChange_trans {s u : State} {F : List Field} {o : Host.Outcome State Fault Refusal} (h : s.keeps F u)
    (k : u.mayChange F o) : s.mayChange F o := fun t e => State.keeps_trans h (k t e)

theorem State.mayChange_serve {s : State} {fn : Nat} {row : MsgRow} {run : State → Msg → State} {F : List Field}
    (hF : unfusedFields ⊆ F) (hrun : ∀ m : Msg, s.keeps F (run s m)) : s.mayChange F (s.serve fn row run) :=
  fun _ e => State.keeps_serve (List.Subset.trans (by simp) hF) hrun e

theorem State.mayChange_dispatch {s : State} {p q : Nat} {mine : Bytes → Bool} {skip : Site → Nat} {check : Site → Verdict}
    {run : State → Site → State} (hrun : ∀ d : Site, s.keeps unfusedFields (run s d)) :
    s.mayChange unfusedFields (s.dispatch p q mine skip check run) :=
  fun _ e => State.keeps_dispatch (by simp) (fun d _ => hrun d) e

/-! ### Stream commands -/

theorem State.keeps_stOpen (s : State) (d : Site) (w : Writer) (t : StreamCmd) (x : StreamItem) :
    s.keeps unfusedFields (s.stOpen d w t x).1 := by
  unfold State.stOpen
  (repeat' split) <;> simp (maxDischargeDepth := 40)

theorem State.keeps_onLive {s : State} (d : Site) (st : Nat) {f : Partition → Pool → Stream → Worked}
    (hf : ∀ P o e, s.keeps unfusedFields (f P o e).1) : s.keeps unfusedFields (s.onLive d st f).1 := by
  unfold State.onLive
  (repeat' split) <;> simp [hf]

theorem State.keeps_stCommit (s : State) (d : Site) (w : Writer) (t : StreamCmd) (x : StreamItem) :
    s.keeps unfusedFields (s.stCommit d w t x).1 :=
  State.keeps_onLive d x.st (fun P _ e => by split <;> simp)

theorem State.keeps_stRollback (s : State) (d : Site) (w : Writer) (t : StreamCmd) (x : StreamItem) :
    s.keeps unfusedFields (s.stRollback d w t x).1 := by
  refine State.keeps_onLive d x.st (fun P o e => ?_)
  dsimp only
  (repeat' split) <;> simp (maxDischargeDepth := 40)

theorem State.keeps_stRelease (s : State) (d : Site) (w : Writer) (t : StreamCmd) (x : StreamItem) :
    s.keeps unfusedFields (s.stRelease d w t x).1 := by
  refine State.keeps_onLive d x.st (fun P o e => ?_)
  (repeat' split) <;> simp (maxDischargeDepth := 40)

theorem State.keeps_stAppend (s : State) (d : Site) (w : Writer) (t : StreamCmd) (x : StreamItem) :
    s.keeps unfusedFields (s.stAppend d w t x).1 := by
  refine State.keeps_onLive d x.st (fun P o e => ?_)
  dsimp only
  (repeat' split) <;> simp (maxDischargeDepth := 40)

theorem State.keeps_prefixPublish (s : State) (d : Site) (w : Writer) (t : StreamCmd) (x : StreamItem) :
    s.keeps unfusedFields (s.prefixPublish d w t x).1 := by
  refine State.keeps_onLive d x.st (fun P o e => ?_)
  refine State.keeps_ite_fst (by simp) (State.keeps_ite_fst (by simp) (State.keeps_ite_fst (by simp) (State.keeps_ite_fst (by simp) ?_)))
  refine State.keeps_foldl Prod.fst _ _ (fun r i => ?_) (by simp)
  split <;> simp

theorem State.keeps_prefixLookup (s : State) (d : Site) (w : Writer) (t : StreamCmd) (x : StreamItem) :
    s.keeps unfusedFields (s.prefixLookup d w t x).1 := by
  refine State.keeps_onLive d x.st (fun P o e => ?_)
  refine State.keeps_ite_fst (by simp) (State.keeps_ite_fst (by simp) (State.keeps_ite_fst (by simp) ?_))
  refine State.keeps_setStream _ _ (by simp) (State.keeps_foldl Prod.fst _ _ (fun r j => ?_) (by simp))
  split
  · simp
  · have step := State.keeps_lookupRange (F := unfusedFields) w x.st j t.data r.2.1 (by simp) (State.keeps_self _ r.1)
    split <;> simp_all

theorem State.mayChange_stream {s : State} {p q : Nat} {mine : Bytes → Bool} {skip : Site → Nat} {check : Site → Verdict}
    {work : State → Site → Writer → StreamCmd → StreamItem → Worked}
    (hw : ∀ (u : State) (d : Site) (w : Writer) (t : StreamCmd) (x : StreamItem), u.keeps unfusedFields (work u d w t x).1) :
    s.mayChange unfusedFields (s.dispatch p q mine skip check (State.streamRun work)) :=
  State.mayChange_dispatch (fun d => State.keeps_streamRun work d (by simp) (fun u => hw u d) (State.keeps_self _ s))

theorem State.mayChange_execLoop (p q : Nat) (s : State) : s.mayChange unfusedFields (execLoop p q s) := by
  unfold execLoop
  split
  · simp
  · split
    · simp
    · refine State.mayChange_dispatch (fun d => ?_)
      dsimp only
      split <;> simp

theorem State.mayChange_execCorrectedWriteBack (store : Store) (word : Nat) (s : State) :
    s.mayChange unfusedFields (execCorrectedWriteBack store word s) := by
  unfold execCorrectedWriteBack
  split
  · cases store <;> dsimp only [State.setStore, State.store] <;> split <;> simp (maxDischargeDepth := 40)
  · simp

theorem State.mayChange_execHostReadTimeout (reader : HostReader) (failure : ReadFailure) (s : State) :
    s.mayChange unfusedFields (execHostReadTimeout reader failure s) := by
  unfold execHostReadTimeout
  (repeat' split) <;> simp (maxDischargeDepth := 40)

/-! ### Every command -/

/-- Every record row, whatever becomes of the record at the head of its queue. -/
theorem exec_record_mayChange (i : Instr) (s : State) (h : i.record? ≠ none) : s.mayChange unfusedFields (exec i s) := by
  cases i with
  | loop p q => exact State.mayChange_execLoop p q s
  | stOpen => exact State.mayChange_stream State.keeps_stOpen
  | stAppend => exact State.mayChange_stream State.keeps_stAppend
  | stCommit => exact State.mayChange_stream State.keeps_stCommit
  | stRollback => exact State.mayChange_stream State.keeps_stRollback
  | stRelease => exact State.mayChange_stream State.keeps_stRelease
  | prefixLookup => exact State.mayChange_stream State.keeps_prefixLookup
  | prefixPublish => exact State.mayChange_stream State.keeps_prefixPublish
  | nbAxpy p q | nbQuant p q =>
    dsimp only [exec]
    exact State.mayChange_trans (State.keeps_meetSpans p q _ (by simp) (State.keeps_self _ s))
      (State.mayChange_dispatch (fun d => by simp))
  | wait =>
    dsimp only [exec]
    exact State.mayChange_dispatch (fun d => by simp (maxDischargeDepth := 40))
  | signal | csend | crecv | peercopy =>
    dsimp only [exec]
    refine State.mayChange_dispatch (fun d => ?_)
    dsimp only
    (repeat' split) <;> simp (maxDischargeDepth := 40)
  | nop | cmp | fence | step | load | store | copy | gather | scatter | hostout | mma | mmaq | vop | readCtr | vred | vquant | vdeq | vtopk
    | attn | attnMerge | nbAttend | nbPool | nbScan | nbFill | cag | crs | car =>
    dsimp only [exec]
    exact State.mayChange_dispatch (fun d => by simp)
  | _ => exact absurd rfl h

/-- Every message row but those that blow fuses. -/
theorem exec_message_mayChange (i : Instr) (s : State) (h : messageOf i ≠ none) (hb : i.burnsFuses = false) :
    s.mayChange unfusedFields (exec i s) := by
  cases i with
  | partMap | partMapUnmap | queueCreate | ctxCreate | streamStats =>
    dsimp only [exec]
    refine State.mayChange_serve (List.Subset.refl _) (fun m => ?_)
    split <;> simp (maxDischargeDepth := 40)
  | queueStatus | streamPool | schedCommit | fwStage =>
    dsimp only [exec]
    refine State.mayChange_serve (List.Subset.refl _) (fun m => ?_)
    dsimp only
    (repeat' split) <;> simp (maxDischargeDepth := 40)
  | devInfo | devTopology | devTopologyAccept | devLicences | partCreate | partDestroy | partConfigRead | partConfigWrite | partReset
    | partMapQuery | queueDestroy | ctxTeardown | schedLoadPartition | schedLoadDevice | perfConfigRead | perfConfigWrite
    | perfSampleEnable | perfSampleDisable | perfSampleStatus | errRead | powerCap | powerStateRead | powerStateSet | thermalQuery
    | fwActivate | attestSpdm | memTestTraffic | memTestSelfTest | memTestResults | peerTopology | peerStatus | dbgStatus | licInstall =>
    dsimp only [exec]
    exact State.mayChange_serve (List.Subset.refl _) (fun m => by simp (maxDischargeDepth := 40))
  | memTestStop | memMapout | memRepairRow | memRepairColumn => cases hb
  | _ => exact absurd rfl h

/-- Every other command but those that blow fuses. -/
theorem exec_other_mayChange (i : Instr) (s : State) (h : i.record? = none ∧ messageOf i = none) (hb : i.burnsFuses = false) :
    s.mayChange unfusedFields (exec i s) := by
  cases i with
  | correctedWriteBack store word => exact State.mayChange_execCorrectedWriteBack store word s
  | hostReadTimeout reader failure => exact State.mayChange_execHostReadTimeout reader failure s
  | sleeveWrite | recordFetch | commandComplete | cqConsumerReread | coalesceTimer | stallTimer | waitSatisfied | signalUpdateApply
    | queueDestroyTimeout =>
    dsimp only [exec, execSleeveWrite, execRecordFetch, execCommandComplete, execCqConsumerReread, execCoalesceTimer, execStallTimer,
      execWaitSatisfied, execSignalUpdateApply, execQueueDestroyTimeout]
    (repeat' split) <;> simp (maxDischargeDepth := 40)
  | expansionResume | cuffEntry | partialEgress | bankRefresh | patrolScrub | streamSweep | blockReturn | zeroisation =>
    dsimp only [exec, execExpansionResume, execCuffEntry, execPartialEgress, execBankRefresh, execPatrolScrub, execStreamSweep,
      execBlockReturn, execZeroisation]
    (repeat' split) <;> simp (maxDischargeDepth := 40)
  | slotBoundary | guardInterval | majorCycleStart | shareGuardExpiry | governorEpoch | governorBudgetUpdate | pwrbrkAssert
    | pwrbrkRelease | idleEntry | watchEntry | watchWakeSample | watchExitComplete | pfD3hot | pfD0 | sensorSample =>
    dsimp only [exec, execSlotBoundary, execGuardInterval, execMajorCycleStart, execShareGuardExpiry, execGovernorEpoch,
      execGovernorBudgetUpdate, execPwrbrkAssert, execPwrbrkRelease, execIdleEntry, execWatchEntry, execWatchWakeSample,
      execWatchExitComplete, execPfD3hot, execPfD0, execSensorSample]
    (repeat' split) <;> simp (maxDischargeDepth := 40)
  | heartbeat | cdcWatchdogFire | coreReset | clusterReset | perstAssert | topologyRecheck | vfFlr | inputSwitchClose | inputSwitchOpen =>
    dsimp only [exec, execHeartbeat, execCdcWatchdogFire, execCoreReset, execClusterReset, execPerstAssert, execTopologyRecheck,
      execVfFlr, execInputSwitchClose, execInputSwitchOpen]
    (repeat' split) <;> simp (maxDischargeDepth := 40)
  | hostLinkLoss | hostLinkRestored | hostLinkHoldExpiry | hostLinkDown | hostLinkRecovery | hostBar4Read | hostBar4Write | cxlMemRead
    | cxlMemWrite | hdmDecoderCommit | ctrValueRead | sampleWrite | registerWrite =>
    dsimp only [exec, execHostLinkLoss, execHostLinkRestored, execHostLinkHoldExpiry, execHostLinkDown, execHostLinkRecovery,
      execHostBar4Read, execHostBar4Write, execCxlMemRead, execCxlMemWrite, execHdmDecoderCommit, execCtrValueRead, execSampleWrite,
      execRegisterWrite]
    (repeat' split) <;> simp (maxDischargeDepth := 40)
  | ideIntegrityFailure | lockInterface | startInterface | stopInterface | getDeviceInterfaceReport | getMeasurements | mctpSpdmRequest
    | debugAttach =>
    dsimp only [exec, execIdeIntegrityFailure, execLockInterface, execStartInterface, execStopInterface, execGetDeviceInterfaceReport,
      execGetMeasurements, execMctpSpdmRequest, execDebugAttach]
    (repeat' split) <;> simp (maxDischargeDepth := 40)
  | peerDataFrame | peerAckFrame | peerNakFrame | keepaliveFrame | identityFrame | lossNotice | abortNotice | groupResetNotice | ackTimer
    | retransmitTimeout | keepaliveTimer | identityTimer | peerSilenceTimeout | peerLinkDown | peerLinkUp | groupActivation
    | receiverNotice =>
    dsimp only [exec, execPeerDataFrame, execPeerAckFrame, execPeerNakFrame, execKeepaliveFrame, execIdentityFrame, execLossNotice,
      execAbortNotice, execGroupResetNotice, execAckTimer, execRetransmitTimeout, execKeepaliveTimer, execIdentityTimer,
      execPeerSilenceTimeout, execPeerLinkDown, execPeerLinkUp, execGroupActivation, execReceiverNotice]
    (repeat' split) <;> simp (maxDischargeDepth := 40)
  | pendingRepairApply | memTestEnd | perstRelease | pfFlr => cases hb
  | _ => simp [Instr.record?, messageOf] at h

/-- Every command that blows no fuse keeps what assembly fixed, the fuse record and the waiting commands. -/
theorem exec_mayChange (i : Instr) (s : State) (hb : i.burnsFuses = false) : s.mayChange unfusedFields (exec i s) := by
  by_cases hr : i.record? = none
  · by_cases hm : messageOf i = none
    · exact exec_other_mayChange i s ⟨hr, hm⟩ hb
    · exact exec_message_mayChange i s hm hb
  · exact exec_record_mayChange i s hr

end Machine

end Sys2Proof
end

section
/-! SUPPORT. Fuses.lean: fuses only blow, whatever the command; what a step keeps (O5). -/

namespace Sys2Proof.Machine

/-! ### The fuse record (R328, R376) -/

/-- What fuses do: entries are added, none is taken back, FW_SVN does not fall, and the rest of the record stays. -/
structure Fuse.Burnt (f g : Fuse) : Prop where
  rowRepairs : f.rowRepairs ⊆ g.rowRepairs
  columnRepairs : f.columnRepairs ⊆ g.columnRepairs
  spareLanes : f.spareLanes ⊆ g.spareLanes
  mapouts : f.mapouts ⊆ g.mapouts
  cuffFences : f.cuffFences ⊆ g.cuffFences
  fwSvn : f.fwSvn ≤ g.fwSvn
  disabled : g.disabled = f.disabled
  calDefault : g.calDefault = f.calDefault
  cal : g.cal = f.cal

theorem Fuse.Burnt.refl (f : Fuse) : f.Burnt f := by constructor <;> simp

theorem Fuse.Burnt.trans {f g h : Fuse} (a : f.Burnt g) (b : g.Burnt h) : f.Burnt h where
  rowRepairs := List.Subset.trans a.rowRepairs b.rowRepairs
  columnRepairs := List.Subset.trans a.columnRepairs b.columnRepairs
  spareLanes := List.Subset.trans a.spareLanes b.spareLanes
  mapouts := List.Subset.trans a.mapouts b.mapouts
  cuffFences := List.Subset.trans a.cuffFences b.cuffFences
  fwSvn := BitVec.le_trans a.fwSvn b.fwSvn
  disabled := b.disabled.trans a.disabled
  calDefault := b.calDefault.trans a.calDefault
  cal := b.cal.trans a.cal

/-- From s to t fuses have only blown. -/
def State.burns (s t : State) : Prop := s.fuse.Burnt t.fuse

@[simp] theorem State.burns_self (s : State) : s.burns s := Fuse.Burnt.refl _

theorem State.burns_trans {s t u : State} (h : s.burns t) (k : t.burns u) : s.burns u := Fuse.Burnt.trans h k

theorem State.burns_of_keeps {s t : State} {F : List Field} (k : s.keeps F t) (hF : .fuse ∉ F) : s.burns t := by
  have e : t.fuse = s.fuse := k.1 .fuse hF
  unfold State.burns
  rw [e]
  exact Fuse.Burnt.refl _

/-- An operation that leaves the fuse record alone, after one that may have burnt fuses. -/
theorem State.burns_then {s t u : State} (k : t.keeps unfusedFields u) (h : s.burns t) : s.burns u :=
  State.burns_trans h (State.burns_of_keeps k (by simp))

theorem State.burns_each {α : Type} {s t : State} {f : State → α → State} (l : List α)
    (hf : ∀ (u : State) (x : α), u.burns (f u x)) (h : s.burns t) : s.burns (t.each l f) := by
  induction l generalizing t with
  | nil => exact h
  | cons x l ih => exact ih (State.burns_trans h (hf t x))

theorem subset_addNat (l : List Nat) (w : Nat) : l ⊆ addNat l w := by
  induction l with
  | nil => simp
  | cons a t ih =>
    unfold addNat
    split
    · simp
    · split
      · simp
      · exact List.cons_subset_cons a ih

theorem State.burns_applyRepair (s : State) (c : Candidate) : s.burns (s.applyRepair c) := by
  unfold State.applyRepair
  extract_lets words t r inRow f
  have ht : s.burns t := State.burns_of_keeps (F := unfusedFields)
    (State.keeps_each _ (fun u x => by split <;> simp) (State.keeps_self _ s)) (by simp)
  refine State.burns_trans ht ?_
  unfold State.burns
  split <;> constructor <;> simp [f]

theorem State.burns_applyPending (s : State) (pc : Nat) : s.burns (s.applyPending pc) := by
  unfold State.applyPending
  split
  · refine State.burns_each _ (fun u c => ?_) (State.burns_self s)
    dsimp only
    split
    · exact State.burns_of_keeps (F := unfusedFields) (by simp) (by simp)
    · split
      · exact State.burns_then (by simp) (State.burns_applyRepair u c)
      · exact State.burns_self u
  · exact State.burns_self s

theorem State.burns_checked {s go : State} (m : Msg) (fields : List (Nat × Bool)) (conds : List (Option Nat × Bool))
    (h : s.burns go) : s.burns (s.checked m fields conds go) := by
  have answer (a : Answer) (b : Bytes) : s.burns (s.respond m.fn a b) :=
    State.burns_of_keeps (F := unfusedFields) (by simp) (by simp)
  unfold State.checked
  split
  · exact answer _ _
  · split
    · exact answer _ _
    · exact h

theorem State.burns_memRepair (s : State) (m : Msg) : s.burns (s.memRepair m) :=
  State.burns_checked m _ _ (State.burns_then (State.keeps_okay m _ (by simp) (State.keeps_self _ _)) (State.burns_applyRepair s _))

theorem State.burns_mapOut (s : State) (pc : Nat) : s.burns (s.mapOut pc) := by
  unfold State.mapOut
  extract_lets t f b u
  have ht : s.burns t := State.burns_of_keeps (F := unfusedFields) (by simp [t]) (by simp)
  have hu : t.burns u := by constructor <;> simp [u, f, subset_addNat]
  exact State.burns_then (by simp) (State.burns_trans ht hu)

theorem State.burns_fenceTested (s : State) (bank : Nat) : s.burns (s.fenceTested bank) := by
  unfold State.fenceTested
  split
  · exact State.burns_self s
  · extract_lets t f
    have ht : s.burns t := State.burns_of_keeps (F := unfusedFields) (by simp [t]) (by simp)
    split
    · refine State.burns_trans ht ?_
      constructor <;> simp [f, subset_addNat]
    · exact State.burns_then (by simp) ht

theorem State.burns_endTest (s : State) (pc : Nat) (t : TestRun) (found : TestFindings) : s.burns (s.endTest pc t found) := by
  cases found with
  | traffic passes banks => exact State.burns_self s
  | selfTest steps =>
    refine State.burns_each _ (fun u i => ?_) (State.burns_self s)
    split
    · exact State.burns_self u
    · exact State.burns_fenceTested u _

theorem State.burns_stopTest (s : State) (pc : Nat) : s.burns (s.stopTest pc) := by
  unfold State.stopTest
  split
  · split
    · exact State.burns_self s
    · exact State.burns_then (State.keeps_tick (by simp) (State.keeps_self _ _)) (State.burns_endTest s pc _ _)
  · exact State.burns_self s

/-! ### Boots -/

theorem State.burns_switchIn (s : State) (path : Path) (pc bank lane : Nat) : s.burns (s.switchIn path pc bank lane) := by
  unfold State.switchIn
  extract_lets x b t f
  split
  · constructor <;> simp [t, f]
  · exact State.burns_of_keeps (F := unfusedFields) (by simp [t]) (by simp)

theorem State.burns_trainGirdle (s : State) (g : GirdleLanes) : s.burns (s.trainGirdle g) := by
  unfold State.trainGirdle
  split
  · exact State.burns_each _ (fun u l => State.burns_switchIn u _ _ _ _) (State.burns_self s)
  · exact State.burns_of_keeps (F := unfusedFields) (by simp) (by simp)

theorem State.burns_bootTrain (s : State) (f : BootFindings) : s.burns (s.bootTrain f) := by
  unfold State.bootTrain
  extract_lets t u odd v
  have ht : s.burns t := by
    refine State.burns_each _ (fun w e => ?_) (State.burns_self s)
    dsimp only
    split
    · exact State.burns_each _ (fun x l => State.burns_switchIn x _ _ _ _) (State.burns_self w)
    · exact State.burns_of_keeps (F := unfusedFields) (by simp) (by simp)
  have hu : t.burns u := by
    refine State.burns_each _ (fun w e => ?_) (State.burns_self t)
    dsimp only
    split
    · exact State.burns_each _ (fun x l => State.burns_switchIn x _ _ _ _) (State.burns_self w)
    · exact State.burns_of_keeps (F := unfusedFields) (by simp) (by simp)
  have hv : u.burns v := State.burns_of_keeps (F := unfusedFields) (by simp [v]) (by simp)
  exact State.burns_each _ State.burns_trainGirdle (State.burns_trans ht (State.burns_trans hu hv))

theorem State.burns_raiseSvn (s : State) : s.burns s.raiseSvn := by
  unfold State.raiseSvn
  split
  · rename_i c _
    split
    · rename_i h
      have rises : s.fuse.fwSvn ≤ BitVec.ofNat 6 (min c.svn 63) := by
        have low := s.fuse.fwSvn.isLt
        simp only [Bool.and_eq_true, decide_eq_true_eq] at h
        rw [BitVec.le_def, BitVec.toNat_ofNat]
        omega
      constructor <;> simp [rises]
    · exact State.burns_self s
  · exact State.burns_self s

theorem State.burns_bootEnds (s : State) (bad : List Nat) : s.burns (s.bootEnds bad) := by
  unfold State.bootEnds
  exact State.burns_trans (State.burns_of_keeps (F := unfusedFields) (by simp (maxDischargeDepth := 40)) (by simp))
    (State.burns_raiseSvn _)

theorem State.burns_bootFrom (s : State) (f : BootFindings) (train : Bool) : s.burns (s.bootFrom f train) := by
  unfold State.bootFrom
  extract_lets t
  have ht : s.keeps unfusedFields t := by simp [t]
  split
  · exact State.burns_of_keeps (F := unfusedFields) (by simp [ht]) (by simp)
  · rename_i u hc
    have hu : s.keeps unfusedFields u := State.keeps_trans ht (State.keeps_bootCopy (by simp) hc)
    split
    · exact State.burns_of_keeps (F := unfusedFields) (by simp [hu]) (by simp)
    · extract_lets v w x y
      have hv : s.keeps unfusedFields v := by simp [v, hu]
      have hw : s.burns w := by
        have hv : s.burns v := State.burns_of_keeps hv (by simp)
        simp only [w]
        split
        · exact State.burns_trans hv (State.burns_bootTrain v f)
        · exact hv
      have hx : s.burns x := State.burns_then (by simp [x]) hw
      have hy : s.burns y := State.burns_each _ State.burns_applyPending hx
      have hz : s.burns (y.bootZero train).setCdcTimeout := State.burns_then (t := y) (by simp) hy
      exact State.burns_trans hz (State.burns_bootEnds _ _)

theorem State.burns_deviceReset (s : State) : s.burns s.deviceReset := by
  unfold State.deviceReset
  extract_lets t u columns v w
  have ht : s.burns t := State.burns_of_keeps (F := unfusedFields) (by simp [t]) (by simp)
  have hu : t.burns u := State.burns_each _ State.burns_stopTest (State.burns_self t)
  exact State.burns_trans ht hu

/-! ### Commands that burn fuses -/

theorem State.burns_serve {s : State} {fn : Nat} {row : MsgRow} {run : State → Msg → State}
    (hrun : ∀ m : Msg, s.burns (run s m)) : leadsTo (s.serve fn row run) s.burns := by
  have answer (a : Answer) (b : Bytes) : s.burns (s.respond fn a b) :=
    State.burns_of_keeps (F := unfusedFields) (by simp) (by simp)
  unfold State.serve
  dsimp only
  split
  · simp
  split
  · simp
  split
  · exact leadsTo_next.mpr (State.burns_of_keeps (F := unfusedFields) (by simp) (by simp))
  split
  · simp
  split
  · simp [answer]
  split
  · simp [answer]
  split
  · split <;> simp [answer]
  · simp [hrun]

theorem State.burns_perstRelease (s : State) (found : BootFindings) : leadsTo (execPerstRelease found s) s.burns := by
  unfold execPerstRelease
  split
  · simp
  · extract_lets b t
    split
    · exact leadsTo_next.mpr (State.burns_self s)
    · have ht : s.burns (t.bootEntropy found.entropyOk) := State.burns_of_keeps (F := unfusedFields) (by simp [t]) (by simp)
      exact leadsTo_next.mpr (State.burns_trans ht (State.burns_bootFrom _ found true))

/-- Whatever the command, fuses only blow. -/
theorem exec_burns (i : Instr) (s : State) : leadsTo (exec i s) s.burns := by
  by_cases hb : i.burnsFuses = false
  · exact fun t e => State.burns_of_keeps (exec_mayChange i s hb t e) (by simp)
  cases i with
  | memMapout =>
    dsimp only [exec]
    exact State.burns_serve (fun m => State.burns_checked m _ _
      (State.burns_then (State.keeps_okay m _ (by simp) (State.keeps_self _ _)) (State.burns_mapOut s _)))
  | memRepairRow | memRepairColumn =>
    dsimp only [exec]
    exact State.burns_serve (State.burns_memRepair s)
  | memTestStop =>
    dsimp only [exec]
    exact State.burns_serve (fun m => State.burns_checked m _ _ (State.burns_then (State.keeps_okay m _ (by simp) (State.keeps_self _ _))
      (State.burns_each _ State.burns_stopTest (State.burns_self s))))
  | pendingRepairApply =>
    dsimp only [exec, execPendingRepairApply]
    split <;> simp [State.burns_applyPending]
  | memTestEnd =>
    dsimp only [exec, execMemTestEnd]
    (repeat' split) <;> simp [State.burns_endTest]
  | perstRelease found => exact State.burns_perstRelease s found
  | pfFlr found =>
    dsimp only [exec, execPfFlr]
    split
    · exact leadsTo_next.mpr (State.burns_trans (State.burns_deviceReset s) (State.burns_bootFrom _ found false))
    · simp
  | _ => exact absurd rfl hb

/-- Whatever the command, what assembly fixed and the waiting commands stay. -/
theorem exec_mayChange_command (i : Instr) (s : State) : s.mayChange commandFields (exec i s) := by
  by_cases hb : i.burnsFuses = false
  · exact State.mayChange_mono unfusedFields_subset (exec_mayChange i s hb)
  cases i with
  | memMapout | memRepairRow | memRepairColumn | memTestStop =>
    dsimp only [exec]
    exact State.mayChange_serve unfusedFields_subset (fun m => by simp (maxDischargeDepth := 40))
  | pendingRepairApply | memTestEnd | perstRelease | pfFlr =>
    dsimp only [exec, execPendingRepairApply, execMemTestEnd, execPerstRelease, execPfFlr]
    (repeat' split) <;> simp (maxDischargeDepth := 40)
  | _ => exact absurd rfl hb

/-! ### A step -/

theorem step_keeps_assembly {s t : State} (e : step s = .next t) : t.ident = s.ident ∧ t.pending = s.pending.tail ∧ s.burns t := by
  unfold step at e
  split at e
  · rename_i he
    cases e
    simp [he]
  · rename_i i rest he
    have kept := exec_mayChange_command i _ t e
    have hi : t.ident = s.ident := kept.1 .ident (by simp)
    have hp : t.pending = rest := kept.1 .pending (by simp)
    have hb : s.burns t := exec_burns i { s with pending := rest } t e
    exact ⟨hi, by simp [he, hp], hb⟩

/-- Settles O5: every command keeps all fields but those of `commandFields` and only burns fuses, and a step runs the front command
on the queue's rest. -/
theorem stepKeepsAssemblyAndFuses : Obligations.StepKeepsAssemblyAndFuses := by
  unfold Obligations.StepKeepsAssemblyAndFuses
  refine ⟨fun s t e => ?_, fun s t e => ?_⟩
  · obtain ⟨hi, hp, -⟩ := step_keeps_assembly e
    exact ⟨hi, hp⟩
  · obtain ⟨-, -, hb⟩ := step_keeps_assembly e
    exact ⟨hb.rowRepairs, hb.columnRepairs, hb.spareLanes, hb.mapouts, hb.cuffFences, hb.fwSvn, hb.disabled, hb.calDefault, hb.cal⟩

end Sys2Proof.Machine
end

section
/-! SUPPORT. Answers.lean: what an answer leaves in the mailboxes, and how serving a message goes on, case by case (O55). -/

namespace Sys2Proof.Machine

/-! ### States that agree field by field -/

theorem State.eq_of_same {s t : State} (h : ∀ f, s.same t f) : t = s := by
  cases s
  cases t
  simp only [State.mk.injEq]
  exact ⟨h .ident, h .fuse, h .flash, h .boot, h .cross, h .timer, h .cycles, h .dram, h .spad, h .hostMem, h .caches, h .unsettled,
    h .parts, h .streams, h .prefixes, h .flight, h .nextId, h .sigs, h .near, h .keyDraws, h .funcs, h .handed, h .log, h .link,
    h .trust, h .peers, h .power, h .thermal, h .tests, h .rowHits, h .sched, h .perf, h .out, h .free, h .pending⟩

/-- What keeps to a list of fields is the old state with those fields put in. -/
theorem State.eq_of_keeps {F : List Field} {s t u : State} (h : s.keeps F t) (hu : ∀ f, (f ∉ F → s.same t f) → u.same t f) :
    t = u :=
  State.eq_of_same (fun f => hu f (h.1 f))

theorem State.onlyMail_of_keeps {s t : State} (h : s.keeps [.timer, .funcs, .handed, .log, .out, .free] t) : s.onlyMail t :=
  State.eq_of_keeps h (fun f k => by cases f <;> simp_all [State.same])

/-! ### Register files -/

theorem State.func_updFunc (s : State) (fn : Nat) (f : Func → Func) (k : Nat) :
    (s.updFunc fn f).func k = if k = fn then f (s.func fn) else s.func k := by
  simp only [State.func, State.updFunc, tgetD, tget_tput]
  split <;> simp

/-- A vector changes pending bits of its function alone. -/
theorem State.func_raiseVector (s : State) (fn v k : Nat) :
    ∃ p, (s.raiseVector fn v).func k = { s.func k with pba := p } ∧ (k ≠ fn → p = (s.func k).pba) := by
  have still : ∃ p, s.func k = { s.func k with pba := p } ∧ (k ≠ fn → p = (s.func k).pba) := ⟨_, rfl, fun _ => rfl⟩
  have set : ∃ p, (s.updFunc fn (fun F => { F with pba := addNat F.pba v })).func k = { s.func k with pba := p }
      ∧ (k ≠ fn → p = (s.func k).pba) := by
    rw [State.func_updFunc]
    split
    · rename_i e
      subst e
      exact ⟨_, rfl, fun h => absurd rfl h⟩
    · exact still
  unfold State.raiseVector
  dsimp only
  split
  · split
    · exact set
    · exact still
  · exact set

/-- An event changes event and pending bits of its function alone. -/
theorem State.func_raiseEvent (s : State) (fn i k : Nat) :
    ∃ e p, (s.raiseEvent fn i).func k = { s.func k with event := e, pba := p } := by
  unfold State.raiseEvent
  dsimp only
  split
  · exact ⟨_, _, rfl⟩
  · generalize ht : s.updFunc fn (fun F => { F with event := F.event ||| BitVec.ofNat 9 (2 ^ i) }) = t
    have hk : ∃ e, t.func k = { s.func k with event := e } := by
      rw [← ht, State.func_updFunc]
      split
      · rename_i e
        subst e
        exact ⟨_, rfl⟩
      · exact ⟨_, rfl⟩
    obtain ⟨e, he⟩ := hk
    split
    · obtain ⟨p, hp, -⟩ := State.func_raiseVector t fn 0 k
      exact ⟨e, p, by rw [hp, he]⟩
    · exact ⟨e, _, he⟩

/-- An entry of the log changes event and pending bits alone. -/
theorem State.func_logErr (s : State) (n : LogNew) (k : Nat) : ∃ e p, (s.logErr n).func k = { s.func k with event := e, pba := p } := by
  unfold State.logErr
  dsimp only
  generalize hu : ({ s.readTimer.2 with log := s.readTimer.2.log.push { bytes := n.bytes s.readTimer.1, readBy := [] } n.cls } : State) = u
  have hk : u.func k = s.func k := by rw [← hu]; rfl
  obtain ⟨e, p, h⟩ := State.func_raiseEvent u 0 5 k
  rw [hk] at h
  split
  · obtain ⟨e', p', h'⟩ := State.func_raiseEvent (u.raiseEvent 0 5) (n.part + 1) 5 k
    exact ⟨e', p', by rw [h', h]⟩
  · exact ⟨e, p, h⟩

/-! ### Answers -/

/-- The mailbox that holds an answer of header h. -/
def Func.answered (F : Func) (h : Bytes) (a : Answer) (body : Bytes) : Func :=
  { F with resp := h ++ body, respSeq := F.reqSeq, lastStatus := BitVec.ofNat 16 a.code, respValid := true, busy := false, waitFor := none }

/-- An answer fills the mailbox of its function; beside it only pending bits of that function change. -/
theorem State.func_respond (s : State) (fn : Nat) (a : Answer) (body : Bytes) (k : Nat) :
    ∃ p, (s.respond fn a body).func k =
      (if k = fn then { (s.func fn).answered (responseHeader (s.reqHeader fn) a body.length) a body with pba := p } else s.func k) := by
  generalize hu : ({ s.updFunc fn (fun F => F.answered (responseHeader (s.reqHeader fn) a body.length) a body) with
    handed := s.handed.filter (fun i => decide (i ≠ fn)) } : State) = u
  have hr : s.respond fn a body = u.raiseVector fn 0 := by rw [← hu]; rfl
  have hk : u.func k = (s.updFunc fn (fun F => F.answered (responseHeader (s.reqHeader fn) a body.length) a body)).func k := by
    rw [← hu]; rfl
  obtain ⟨p, hp, hn⟩ := State.func_raiseVector u fn 0 k
  rw [State.func_updFunc] at hk
  refine ⟨p, ?_⟩
  rw [hr, hp]
  by_cases e : k = fn
  · rw [if_pos e] at hk ⊢
    rw [hk]
  · rw [if_neg e] at hk ⊢
    rw [hn e, hk]

theorem State.answered_respond (s : State) (fn : Nat) (a : Answer) (body : Bytes) : s.answered (s.respond fn a body) fn a body := by
  obtain ⟨p, h⟩ := s.func_respond fn a body fn
  rw [if_pos rfl] at h
  simp only [State.answered, h, Func.answered, and_self]

theorem State.onlyAnswer_respond (s : State) (fn : Nat) (a : Answer) (body : Bytes) : s.onlyAnswer (s.respond fn a body) fn := by
  refine ⟨State.eq_of_keeps (F := [.funcs, .handed, .out]) (s := s) (State.keeps_respond fn a body (by decide) (State.keeps_self _ _))
    (fun f k => by cases f <;> simp_all [State.same]), fun k hk => ?_⟩
  obtain ⟨p, h⟩ := s.func_respond fn a body k
  rw [h, if_neg hk]

theorem State.onlyMail_respond (s : State) (fn : Nat) (a : Answer) (body : Bytes) : s.onlyMail (s.respond fn a body) :=
  State.onlyMail_of_keeps (State.keeps_respond fn a body (by decide) (State.keeps_self _ _))

/-- A failed read of host memory is logged, then answered. -/
theorem State.answered_hostFails (s : State) (fn : Nat) : s.answered (s.hostFails fn) fn .hostAccess [] := by
  unfold State.hostFails
  generalize ({ cls := 3, islandA := islPcie, part := if fn = 0 then 0xFF else fn - 1 } : LogNew) = n
  obtain ⟨e, p, h⟩ := s.func_logErr n fn
  obtain ⟨h1, h2, h3, h4, h5⟩ := (s.logErr n).answered_respond fn .hostAccess []
  have hh : (s.logErr n).reqHeader fn = s.reqHeader fn := by simp only [State.reqHeader, h]
  exact ⟨by rw [h1, hh], h2, h3, h4, by rw [h5, h]⟩

theorem State.onlyMail_hostFails (s : State) (fn : Nat) : s.onlyMail (s.hostFails fn) :=
  State.onlyMail_of_keeps (State.keeps_hostFails fn (by decide) (State.keeps_self _ _))

/-! ### Serving a message -/

/-- The size of a layout does not decide whether a stray byte is found. -/
theorem strayByte_isSome (b : Bytes) (used : List (Nat × Nat)) (size : Nat) :
    (strayByte b used size).isSome = !unusedZero b used := by
  simp [unusedZero, strayByte]

theorem State.headerEnds_size (s : State) (fn : Nat) (row : MsgRow) (size : Bytes → Nat) :
    s.headerEnds fn { row with size := size } = s.headerEnds fn row := rfl

/-- The command serves the row, but for the size of the layout, which the command alone knows. -/
def servesRow (i : Instr) (fn : Nat) (row : MsgRow) : Prop :=
  ∃ served run, { served with size := row.size } = row ∧ ∀ s, exec i s = s.serve fn served run

theorem servesRow_of {i : Instr} {fn : Nat} {row served : MsgRow} {run : State → Msg → State}
    (he : ∀ s, exec i s = s.serve fn served run) (hr : { served with size := row.size } = row) : servesRow i fn row :=
  ⟨served, run, hr, he⟩

/-- Every message command serves its row. -/
theorem exec_serves {i : Instr} {fn : Nat} {row : MsgRow} (h : messageOf i = some (fn, row)) : servesRow i fn row := by
  cases i
  all_goals cases h
  all_goals
    apply servesRow_of
    case he =>
      intro s
      dsimp only [exec]
      exact rfl
    case hr => rfl

section
variable {s : State} {fn : Nat} {row : MsgRow} {run : State → Msg → State}

/-- No request of the row is in hand. -/
theorem State.serve_not_inHand (h : ¬s.inHand fn row) : s.serve fn row run = .next s := by
  unfold State.serve
  dsimp only
  split
  · rfl
  · rename_i hopen
    split
    · rfl
    · rename_i hmine
      simp only [Bool.or_eq_true, Bool.not_eq_true', decide_eq_true_eq, not_or, Bool.not_eq_false, Bool.not_eq_true,
        Option.isSome_eq_false_iff, Option.isNone_iff_eq_none, ne_eq, Decidable.not_not] at hopen hmine
      obtain ⟨⟨⟨⟨hbusy, hwait⟩, hwatch⟩, htrip⟩, hcode⟩ := hopen
      exact absurd ⟨hbusy, hwait, hwatch, htrip, hcode, hmine⟩ h

/-- With a request in hand the header is what decides first; then the waits, the partition, PERF_USER_EN and the bytes of no field. -/
theorem State.serve_inHand (h : s.inHand fn row) :
    s.serve fn row run = (match s.headerEnds fn row with
      | some e => .next (s.endAtHeader fn e)
      | none =>
        if (row.acts (s.msgBody fn) = true ∧ s.mustWait fn (s.msgPartition fn) = true)
          ∨ (row.inOrder = true ∧ s.behind fn row.code = true) then .next s
        else if row.exists? (s.msgBody fn) = true ∧ s.part? (s.msgPartition fn) = none then .next (s.respond fn .badPartition [])
        else if row.user = true ∧ s.perfUser fn (s.msgPartition fn) = false then .next (s.respond fn .refused (refusalBody none))
        else match strayByte (s.msgBody fn) (row.used (s.msgBody fn)) (row.size (s.msgBody fn)) with
          | some (o, beyond) =>
            if beyond = true ∧ 0 < reqMinor (s.reqHeader fn) then .next (s.respond fn .protoUnsupported [])
            else .next (s.respond fn .badField (refusalBody (some (16 + o))))
          | none => .next (run s { fn := fn, p := s.msgPartition fn, body := s.msgBody fn })) := by
  obtain ⟨hbusy, hwait, hwatch, htrip, hcode, hmine⟩ := h
  simp [State.serve, hbusy, hwait, hwatch, htrip, hcode, hmine] <;> rfl

/-- A request whose header does not stand is answered there. -/
theorem State.serve_endsAtHeader (h : s.inHand fn row) {e : Answer × Bytes} (he : s.headerEnds fn row = some e) :
    s.serve fn row run = .next (s.endAtHeader fn e) := by
  rw [State.serve_inHand h, he]

theorem State.serve_waits (h : s.inHand fn row) (hh : s.headerEnds fn row = none)
    (hw : (row.acts (s.msgBody fn) = true ∧ s.mustWait fn (s.msgPartition fn) = true)
      ∨ (row.inOrder = true ∧ s.behind fn row.code = true)) :
    s.serve fn row run = .next s := by
  rw [State.serve_inHand h, hh]
  exact if_pos hw

theorem State.serve_badPartition (h : s.inHand fn row) (hh : s.headerEnds fn row = none)
    (hw : ¬((row.acts (s.msgBody fn) = true ∧ s.mustWait fn (s.msgPartition fn) = true)
      ∨ (row.inOrder = true ∧ s.behind fn row.code = true)))
    (he : row.exists? (s.msgBody fn) = true) (hp : s.part? (s.msgPartition fn) = none) :
    s.serve fn row run = .next (s.respond fn .badPartition []) := by
  rw [State.serve_inHand h, hh]
  simp only [if_neg hw, he, hp, and_self, if_true]

theorem State.serve_userRefused (h : s.inHand fn row) (hh : s.headerEnds fn row = none)
    (hw : ¬((row.acts (s.msgBody fn) = true ∧ s.mustWait fn (s.msgPartition fn) = true)
      ∨ (row.inOrder = true ∧ s.behind fn row.code = true)))
    (hp : ¬(row.exists? (s.msgBody fn) = true ∧ s.part? (s.msgPartition fn) = none))
    (hu : row.user = true) (hf : s.perfUser fn (s.msgPartition fn) = false) :
    s.serve fn row run = .next (s.respond fn .refused (refusalBody none)) := by
  rw [State.serve_inHand h, hh]
  simp only [if_neg hw, if_neg hp, hu, hf, and_self, if_true]

theorem State.serve_stray (h : s.inHand fn row) (hh : s.headerEnds fn row = none)
    (hw : ¬((row.acts (s.msgBody fn) = true ∧ s.mustWait fn (s.msgPartition fn) = true)
      ∨ (row.inOrder = true ∧ s.behind fn row.code = true)))
    (hp : ¬(row.exists? (s.msgBody fn) = true ∧ s.part? (s.msgPartition fn) = none))
    (hu : ¬(row.user = true ∧ s.perfUser fn (s.msgPartition fn) = false))
    (hz : unusedZero (s.msgBody fn) (row.used (s.msgBody fn)) = false) :
    (∃ o, s.serve fn row run = .next (s.respond fn .badField (refusalBody (some (16 + o)))))
      ∨ (0 < reqMinor (s.reqHeader fn) ∧ s.serve fn row run = .next (s.respond fn .protoUnsupported [])) := by
  have hs : (strayByte (s.msgBody fn) (row.used (s.msgBody fn)) (row.size (s.msgBody fn))).isSome = true := by
    rw [strayByte_isSome, hz]
    rfl
  obtain ⟨⟨o, beyond⟩, ho⟩ := Option.isSome_iff_exists.1 hs
  rw [State.serve_inHand h, hh]
  simp only [if_neg hw, if_neg hp, if_neg hu, ho]
  split
  · next hb => exact .inr ⟨hb.2, rfl⟩
  · exact .inl ⟨o, rfl⟩

end

/-! ### The header (R303 to R307) -/

theorem State.headerEnds_sequence {s : State} {fn : Nat} (row : MsgRow) (h : u16 (s.reqHeader fn) 4 ≠ (s.func fn).reqSeq.toNat) :
    s.headerEnds fn row = some (.seqMismatch, []) := by
  unfold State.headerEnds
  exact if_pos h

theorem State.headerEnds_version {s : State} {fn : Nat} (row : MsgRow) (hq : u16 (s.reqHeader fn) 4 = (s.func fn).reqSeq.toNat)
    (h : reqMajor (s.reqHeader fn) ≠ 1) : s.headerEnds fn row = some (.protoUnsupported, []) := by
  unfold State.headerEnds
  exact (if_neg (not_not.2 hq)).trans (if_pos h)

theorem State.headerEnds_mailbox {s : State} {fn : Nat} {row : MsgRow} (hq : u16 (s.reqHeader fn) 4 = (s.func fn).reqSeq.toNat)
    (hv : reqMajor (s.reqHeader fn) = 1) (h : (row.box = .operator ∧ fn ≠ 0) ∨ (row.box = .partition ∧ fn = 0)) :
    s.headerEnds fn row = some (.wrongMailbox, []) := by
  unfold State.headerEnds
  refine (if_neg (not_not.2 hq)).trans ((if_neg (not_not.2 hv)).trans (if_pos ?_))
  simpa using h

/-- The header of a request that is taken stands in its own mailbox. -/
theorem State.headerEnds_taken {s : State} {fn : Nat} {row : MsgRow} (h : s.taken fn row.code = true)
    (ho : row.box = .operator → fn = 0) (hp : row.box = .partition → fn ≠ 0) : s.headerEnds fn row = none := by
  simp only [State.taken, headerFits, Bool.and_eq_true, Bool.or_eq_true, Bool.not_eq_true', decide_eq_true_eq] at h
  obtain ⟨⟨⟨⟨⟨⟨-, hrom⟩, hready⟩, -⟩, hfits⟩, hseq⟩, -⟩ := h
  obtain ⟨⟨⟨⟨⟨⟨hmajor, -⟩, hlen⟩, hflags⟩, h10⟩, h12⟩, hpart⟩ := hfits
  have hbox : ¬((decide (row.box = .operator) && decide (fn ≠ 0)) || (decide (row.box = .partition) && decide (fn = 0))) = true := by
    simpa using ⟨ho, hp⟩
  have hown : ¬(reqPartition (s.reqHeader fn) ≠ 0xFF
      ∧ (31 < reqPartition (s.reqHeader fn) ∨ (fn ≠ 0 ∧ reqPartition (s.reqHeader fn) ≠ fn - 1))) := by omega
  have hdirect : reqIndirect (s.reqHeader fn) = false := by simp [reqIndirect, hflags, bit]
  unfold State.headerEnds
  dsimp only
  rw [if_neg (not_not.2 hseq), if_neg (not_not.2 hmajor), if_neg hbox, if_neg (by omega), if_neg (by omega), if_neg (by omega),
    if_neg (by omega), if_neg hown, if_neg (by simp [hrom, hready]), hdirect]
  rfl

/-- HOST_ACCESS comes with no body. -/
def plainAccess (o : Option (Answer × Bytes)) : Prop := ∀ e, o = some e → e.1 = .hostAccess → e.2 = []

theorem plainAccess_none : plainAccess none := fun _ h => by cases h

theorem plainAccess_empty (a : Answer) : plainAccess (some (a, [])) := by
  intro e h _
  cases h
  rfl

theorem plainAccess_field (b : Bytes) : plainAccess (some (.badField, b)) := by
  intro e h he
  cases h
  cases he

theorem plainAccess_ite {c : Prop} [Decidable c] {x y : Option (Answer × Bytes)} (hx : plainAccess x) (hy : plainAccess y) :
    plainAccess (if c then x else y) := by
  split
  · exact hx
  · exact hy

theorem State.plainAccess_headerEnds (s : State) (fn : Nat) (row : MsgRow) : plainAccess (s.headerEnds fn row) := by
  unfold State.headerEnds
  simp (maxDischargeDepth := 40) only [plainAccess_ite, plainAccess_none, plainAccess_empty, plainAccess_field]

/-- The end of a message at its header is an answer and nothing else, but for the log entry of a failed read (R290, R296). -/
theorem State.answered_endAtHeader {s : State} {fn : Nat} {row : MsgRow} {e : Answer × Bytes} (h : s.headerEnds fn row = some e) :
    s.answered (s.endAtHeader fn e) fn e.1 e.2 ∧ s.onlyMail (s.endAtHeader fn e) := by
  unfold State.endAtHeader
  split
  · next he =>
    rw [he, s.plainAccess_headerEnds fn row e h he]
    exact ⟨s.answered_hostFails fn, s.onlyMail_hostFails fn⟩
  · exact ⟨s.answered_respond fn e.1 e.2, s.onlyMail_respond fn e.1 e.2⟩

/-- Settles O55: every message command serves its row, and `State.serve` makes the checks in the order of the statement. -/
theorem messagesAreTakenUp : Obligations.MessagesAreTakenUp := by
  unfold Obligations.MessagesAreTakenUp
  intro i s fn row hm
  obtain ⟨served, run, hrow, hexec⟩ := exec_serves hm
  generalize row.size = size at hrow
  subst hrow
  rw [hexec s]
  refine ⟨fun h => State.serve_not_inHand h, fun (h : s.inHand fn served) => ⟨fun e he => ?_,
    fun (hh : s.headerEnds fn served = none) => ?_, State.headerEnds_sequence _,
    fun hq => ⟨State.headerEnds_version _ hq, State.headerEnds_mailbox hq⟩, State.headerEnds_taken⟩⟩
  · exact ⟨_, State.serve_endsAtHeader h he, State.answered_endAtHeader he⟩
  · refine ⟨State.serve_waits h hh, fun ha hb => ?_⟩
    have hw := not_or.2 ⟨ha, hb⟩
    have hpart (he : served.exists? (s.msgBody fn) = true → (s.part? (s.msgPartition fn)).isSome = true) :
        ¬(served.exists? (s.msgBody fn) = true ∧ s.part? (s.msgPartition fn) = none) := by
      rintro ⟨h1, h2⟩
      simpa [h2] using he h1
    refine ⟨fun he hp => ⟨_, State.serve_badPartition h hh hw he hp, s.answered_respond .., s.onlyAnswer_respond ..⟩,
      fun he hu hf => ?_, fun he hu hz => ?_⟩
    · exact ⟨_, State.serve_userRefused h hh hw (hpart he) hu hf, s.answered_respond .., s.onlyAnswer_respond ..⟩
    · have hmay : ¬(served.user = true ∧ s.perfUser fn (s.msgPartition fn) = false) := by
        rintro ⟨h1, h2⟩
        simpa [h2] using hu h1
      obtain ⟨o, ho⟩ | ⟨hminor, ho⟩ := State.serve_stray (run := run) h hh hw (hpart he) hmay hz
      · exact ⟨_, o, ho, s.onlyAnswer_respond .., .inl (s.answered_respond ..)⟩
      · exact ⟨_, 0, ho, s.onlyAnswer_respond .., .inr ⟨hminor, s.answered_respond ..⟩⟩

end Sys2Proof.Machine
end

section
/-! SUPPORT. Registers.lean: writes of BAR0 by offset and of configuration space, the handover of a request (O50, O51). -/

namespace Sys2Proof.Machine

/-! ### Little-endian words -/

@[simp] theorem length_natLe (n v : Nat) : (natLe n v).length = n := by
  induction n generalizing v with
  | zero => rfl
  | succ n ih => simp [natLe, ih]

theorem leNat_natLe (n v : Nat) : leNat (natLe n v) = v % 256 ^ n := by
  induction n generalizing v with
  | zero => simp [natLe, leNat, Nat.mod_one]
  | succ n ih => rw [natLe, leNat, ih, BitVec.toNat_ofNat, pow_succ' 256 n, Nat.mod_mul]

theorem leNat_word (v : Nat) : leNat (natLe 8 v) = v % 2 ^ 64 := leNat_natLe 8 v

/-! ### What an access touches -/

theorem cutAccess_miss {off lo hi : Nat} {data : Bytes} (h : off + data.length ≤ lo ∨ hi ≤ off) :
    (cutAccess off data lo hi).2 = [] := by
  unfold cutAccess
  dsimp only
  rcases h with h | h
  · rw [List.drop_eq_nil_of_le (by omega), List.take_nil]
  · rw [show hi - max off lo = 0 by omega, List.take_zero]

theorem cutAccess_inside {off lo hi : Nat} {data : Bytes} (hlo : lo ≤ off) (hhi : off + data.length ≤ hi) :
    cutAccess off data lo hi = (off - lo, data) := by
  unfold cutAccess
  dsimp only
  rw [max_eq_left hlo, Nat.sub_self, List.drop_zero, List.take_of_length_le (by omega)]

section
variable (s : State) (v fn : Nat) {off reg cur : Nat} {f : State → Nat → State}

/-- Eight bytes at a register put their word into it. -/
theorem State.onReg_word : s.onReg reg (natLe 8 v) reg cur f = f s (v % 2 ^ 64) := by
  have hc : cutAccess reg (natLe 8 v) reg (reg + 8) = (0, natLe 8 v) := by
    rw [cutAccess_inside le_rfl (by simp), Nat.sub_self]
  have hw : regWritten reg (natLe 8 v) reg cur = some (v % 2 ^ 64) := by
    simp only [regWritten, hc, overlay, List.take_zero, List.nil_append, Nat.zero_add, length_natLe]
    rw [List.drop_eq_nil_of_le (by simp), List.append_nil, leNat_word]
    rfl
  rw [State.onReg, hw]

/-- Eight bytes beside a register leave it alone. -/
theorem State.onReg_beside (h : off + 8 ≤ reg ∨ reg + 8 ≤ off) : s.onReg off (natLe 8 v) reg cur f = s := by
  have hc : (cutAccess off (natLe 8 v) reg (reg + 8)).2 = [] := cutAccess_miss (by simpa using h)
  have hw : regWritten off (natLe 8 v) reg cur = none := by simp only [regWritten, hc, List.isEmpty_nil, if_true]
  rw [State.onReg, hw]

theorem State.writeRequest_beside (h : off + 8 ≤ 0x1100 ∨ 0x2100 ≤ off) (i : Nat) :
    s.writeRequest fn i (cutAccess off (natLe 8 v) 0x1100 0x2100).2 = s := by
  rw [cutAccess_miss (by simpa using h)]
  rfl

theorem State.each_still {α : Type} {s : State} {l : List α} {f : State → α → State} (h : ∀ x ∈ l, f s x = s) :
    s.each l f = s := by
  unfold State.each
  induction l with
  | nil => rfl
  | cons x l ih => rw [List.foldl_cons, h x (by simp), ih (fun y hy => h y (by simp [hy]))]

/-- No function has more than 128 vectors; their table ends at 0x10800. -/
theorem State.writeMsix_beside (h : off + 8 ≤ 0x10000 ∨ 0x10800 ≤ off) : s.writeMsix fn off (natLe 8 v) = s := by
  have hv : vectorsOf fn ≤ 128 := by
    unfold vectorsOf
    split <;> omega
  refine State.each_still (fun k hk => ?_)
  have hk' := List.mem_range.1 hk
  have hc : (cutAccess off (natLe 8 v) (0x10000 + 16 * k) (0x10000 + 16 * k + 16)).2 = [] :=
    cutAccess_miss (by simp only [length_natLe]; omega)
  simp only [hc, List.isEmpty_nil, if_true]

theorem State.writeWindow_beside (h : off + 8 ≤ 0x20000 ∨ 0x20010 ≤ off) : s.writeWindow fn off (natLe 8 v) = s := by
  unfold State.writeWindow
  simp only [State.onReg_beside s v (off := off) (reg := 0x20000) (by omega),
    State.onReg_beside s v (off := off) (reg := 0x20008) (by omega), ite_self]

theorem State.writeDecoder_beside {p at_ : Nat} (h : off + 8 ≤ at_ ∨ at_ + 24 ≤ off) : s.writeDecoder p at_ off (natLe 8 v) = s := by
  unfold State.writeDecoder
  simp only [State.onReg_beside s v (off := off) (reg := at_) (by omega), State.onReg_beside s v (off := off) (reg := at_ + 8) (by omega),
    State.onReg_beside s v (off := off) (reg := at_ + 16) (by omega)]

theorem State.writeCxl_beside (h : off + 8 ≤ 0x31080 ∨ 0x31490 ≤ off) : s.writeCxl off (natLe 8 v) = s := by
  unfold State.writeCxl
  split
  · rfl
  · rw [State.onReg_beside s v (by omega)]
    refine State.each_still (fun p hp => ?_)
    have hp' := List.mem_range.1 hp
    exact s.writeDecoder_beside v (by omega)

theorem State.writePf_beside (h : off + 8 ≤ 0x31080 ∨ (0x31490 ≤ off ∧ off + 8 ≤ 0x40000)) : s.writePf off (natLe 8 v) = s := by
  unfold State.writePf
  simp only [s.writeCxl_beside v (off := off) (by omega), State.onReg_beside s v (off := off) (reg := 0x40000) (by omega),
    State.onReg_beside s v (off := off) (reg := 0x50000) (by omega)]

end

/-! ### The rows that write a register -/

section
variable {s : State} {fn : Nat} {via : Via}

/-- A write of BAR0 that the function takes. -/
theorem exec_registerWrite_bar0 (hr : s.hostReaches = true) (hfn : fn ≤ 32) (hd : s.streamDrops via = false) (ho : s.fnOpen fn via = true)
    (he : s.fnExists fn = true) (off v : Nat) :
    exec (.registerWrite fn (.bar0 off) (natLe 8 v) via) s = .next (s.writeBar0 fn off (natLe 8 v)) := by
  have hi : (Instr.registerWrite fn (.bar0 off) (natLe 8 v) via).illFormed = none := by simp [Instr.illFormed, natLe]
  dsimp only [exec, execRegisterWrite]
  simp [hi, hr, hfn, hd, ho, he]

/-- A write of configuration space that reaches its function. -/
theorem exec_registerWrite_config (hr : s.hostReaches = true) (hfn : fn ≤ 32) (hd : s.streamDrops via = false)
    (he : fn = 0 ∨ (s.cfgSpace 0).vfEnable = true) (r : CfgReg) (v : Nat) :
    exec (.registerWrite fn (.config r) (natLe 8 v) via) s = .next (s.cfgWrite fn r (v % 2 ^ 64)) := by
  have hi : (Instr.registerWrite fn (.config r) (natLe 8 v) via).illFormed = none := by simp [Instr.illFormed, natLe]
  have hc : s.cfgReaches fn = true := by simp [State.cfgReaches, cfgFn, hr, hfn, he]
  dsimp only [exec, execRegisterWrite]
  rw [hi, leNat_word]
  simp [hd, State.hostCfgWrite, hc]

end

/-- Registers of up to 64 bits take the low bits of the word. -/
theorem ofNat_word {w : Nat} (h : w ≤ 64) (v : Nat) : BitVec.ofNat w (v % 2 ^ 64) = BitVec.ofNat w v := by
  apply BitVec.eq_of_toNat_eq
  rw [BitVec.toNat_ofNat, BitVec.toNat_ofNat]
  exact Nat.mod_mod_of_dvd _ (pow_dvd_pow 2 h)

/-! ### BAR0 by offset: every other register of the function is beside it -/

section
variable (s : State) (fn v : Nat)

theorem State.writeBar0_event :
    s.writeBar0 fn 0x1018 (natLe 8 v) = s.updFunc fn (fun F => { F with event := F.event &&& ~~~(BitVec.ofNat 9 v) }) := by
  unfold State.writeBar0
  simp only [State.onReg_word]
  simp (disch := omega) only [State.onReg_beside, State.writeRequest_beside, State.writeMsix_beside, State.writeWindow_beside,
    State.writePf_beside, ofNat_word, ite_self]

theorem State.writeBar0_eventEn :
    s.writeBar0 fn 0x1020 (natLe 8 v) = s.updFunc fn (fun F => { F with eventEn := BitVec.ofNat 64 v }) := by
  unfold State.writeBar0
  simp only [State.onReg_word]
  simp (disch := omega) only [State.onReg_beside, State.writeRequest_beside, State.writeMsix_beside, State.writeWindow_beside,
    State.writePf_beside, ofNat_word, ite_self]

/-- Read-only offsets take nothing. -/
theorem State.writeBar0_readOnly {off : Nat} (h : off ∈ [0, 0x1000, 0x1010, 0x3000, 0x18000, 0x30000]) :
    s.writeBar0 fn off (natLe 8 v) = s := by
  unfold State.writeBar0
  simp only [List.mem_cons, List.not_mem_nil, or_false] at h
  simp (disch := omega) only [State.onReg_beside, State.writeRequest_beside, State.writeMsix_beside, State.writeWindow_beside,
    State.writePf_beside, ite_self]

theorem State.writeBar0_ctrSelect (h : s.windowOpen fn = true) :
    s.writeBar0 fn 0x20000 (natLe 8 v) = s.updFunc fn (fun F => { F with ctrSelect := BitVec.ofNat 32 v }) := by
  unfold State.writeBar0
  simp (disch := omega) only [State.onReg_beside, State.writeRequest_beside, State.writeMsix_beside, State.writePf_beside, ite_self]
  unfold State.writeWindow
  rw [h, State.onReg_word, State.onReg_beside _ _ (by omega), ofNat_word (by omega)]
  rfl

theorem State.writeBar0_summary :
    s.writeBar0 0 0x40000 (natLe 8 v) = { s with log := { s.log with summary := s.log.summary &&& ~~~(BitVec.ofNat 12 v) } } := by
  unfold State.writeBar0 State.writePf
  simp only [State.onReg_word]
  simp (disch := omega) only [State.onReg_beside, State.writeRequest_beside, State.writeMsix_beside, State.writeWindow_beside,
    State.writeCxl_beside, ofNat_word, if_true]

theorem State.writeBar0_hold :
    s.writeBar0 0 0x50000 (natLe 8 v)
      = if v % 2 ^ 32 ≤ 600000 then { s with log := { s.log with holdMs := BitVec.ofNat 32 v } } else s := by
  have hv : v % 2 ^ 64 % 2 ^ 32 = v % 2 ^ 32 := Nat.mod_mod_of_dvd _ (pow_dvd_pow 2 (by omega))
  unfold State.writeBar0 State.writePf
  simp only [State.onReg_word]
  simp (disch := omega) only [State.onReg_beside, State.writeRequest_beside, State.writeMsix_beside, State.writeWindow_beside,
    State.writeCxl_beside, ofNat_word, if_true, hv]

theorem State.writeBar0_request {i : Nat} (h : i < 512) :
    s.writeBar0 fn (0x1100 + 8 * i) (natLe 8 v)
      = if (s.func fn).busy then s.mailIgnored fn else s.updFunc fn (fun F => { F with req := cwrite F.req (8 * i) (natLe 8 v) }) := by
  have hc : cutAccess (0x1100 + 8 * i) (natLe 8 v) 0x1100 0x2100 = (8 * i, natLe 8 v) := by
    rw [cutAccess_inside (by omega) (by rw [length_natLe]; omega), Nat.add_sub_cancel_left]
  unfold State.writeBar0
  simp (disch := omega) only [State.onReg_beside, State.writeMsix_beside, State.writeWindow_beside, State.writePf_beside, ite_self, hc]
  rfl

theorem State.writeBar0_reqSeq : s.writeBar0 fn 0x1008 (natLe 8 v) = s.writeReqSeq fn (v % 2 ^ 64) := by
  unfold State.writeBar0
  simp (disch := omega) only [State.onReg_beside, State.writeRequest_beside, State.writeMsix_beside, State.writeWindow_beside,
    State.writePf_beside, ite_self]
  rw [State.onReg_word]

end

/-! ### The mailbox (R302, R354, R424) -/

theorem ErrLog.getLast?_push (l : ErrLog) (e : LogEntry) (cls : Nat) : (l.push e cls).entries.getLast? = some e := by
  unfold ErrLog.push
  dsimp only
  split
  · rfl
  · split <;> exact List.getLast?_concat

theorem LogNew.class_bytes (n : LogNew) (time : Nat) : u16 (n.bytes time) 8 = n.cls % 2 ^ 16 := by
  obtain ⟨rest, hb⟩ : ∃ rest, n.bytes time = natLe 8 time ++ (natLe 2 n.cls ++ rest) := by
    simp only [LogNew.bytes, List.append_assoc]
    exact ⟨_, rfl⟩
  rw [hb, u16, fld, List.drop_left' (length_natLe 8 time), List.take_left' (length_natLe 2 n.cls), leNat_natLe]
  rfl

/-- An entry of the log is its last, with its class. -/
theorem State.logErr_entry (s : State) (n : LogNew) :
    ∃ e, (s.logErr n).log.entries.getLast? = some e ∧ u16 e.bytes 8 = n.cls % 2 ^ 16 := by
  have hl : (s.logErr n).log = s.log.push { bytes := n.bytes s.readTimer.1, readBy := [] } n.cls := by
    unfold State.logErr
    dsimp only
    split
    · exact (State.keeps_raiseEvent (F := [.funcs, .out]) _ _ (by decide) (State.keeps_raiseEvent (F := [.funcs, .out]) _ _ (by decide)
        (State.keeps_self _ _))).1 .log (by decide)
    · exact (State.keeps_raiseEvent (F := [.funcs, .out]) _ _ (by decide) (State.keeps_self _ _)).1 .log (by decide)
  rw [hl]
  exact ⟨_, ErrLog.getLast?_push _ _ _, n.class_bytes _⟩

/-- An ignored handover or write is logged as class 0x101, and the request and its state stay. -/
theorem State.mailIgnored_spec (s : State) (fn : Nat) :
    ∃ e, s.onlyMail (s.mailIgnored fn) ∧ (s.mailIgnored fn).log.entries.getLast? = some e ∧ u16 e.bytes 8 = 0x101
      ∧ ((s.mailIgnored fn).func fn).req = (s.func fn).req ∧ ((s.mailIgnored fn).func fn).reqSeq = (s.func fn).reqSeq
      ∧ ((s.mailIgnored fn).func fn).busy = (s.func fn).busy := by
  have hm : s.onlyMail (s.mailIgnored fn) := State.onlyMail_of_keeps (State.keeps_mailIgnored fn (by decide) (State.keeps_self _ _))
  unfold State.mailIgnored at hm ⊢
  generalize hn : ({ cls := 0x101, islandA := islPcie,
                      part := if decide (fn ≠ 0) && (s.part? (fn - 1)).isSome then fn - 1 else 0xFF } : LogNew) = n at hm ⊢
  obtain ⟨e, he, hc⟩ := s.logErr_entry n
  obtain ⟨ev, p, hf⟩ := s.func_logErr n fn
  have hcls : n.cls = 0x101 := by rw [← hn]
  exact ⟨e, hm, he, by simp [hc, hcls], by rw [hf], by rw [hf], by rw [hf]⟩

theorem State.writeReqSeq_ignored {s : State} {fn : Nat} (h : (s.func fn).busy = true ∨ s.mailReady fn = false) (v : Nat) :
    s.writeReqSeq fn v = s.mailIgnored fn := by
  unfold State.writeReqSeq
  exact if_pos (by simpa using h)

@[simp] theorem State.func_wake (s : State) (w : Wake) (fn : Nat) : (s.wake w).func fn = s.func fn := by
  unfold State.func
  rw [(State.keeps_wake (F := [.power]) w (by decide) (State.keeps_self _ _)).1 .funcs (by decide)]

/-- In WATCH a handover is held, and its arrival is one to wake for. -/
theorem State.writeReqSeq_held {s : State} {fn : Nat} (hb : (s.func fn).busy = false) (hr : s.mailReady fn = true)
    (hw : s.power.state = .watch) (v : Nat) :
    ((s.writeReqSeq fn v).func fn).held = true ∧ ((s.writeReqSeq fn v).func fn).busy = false
      ∧ ((s.writeReqSeq fn v).func fn).reqSeq = BitVec.ofNat 16 v ∧ (s.writeReqSeq fn v).power.wakeMail = true := by
  generalize hu : (s.updFunc fn (fun F => { F with reqSeq := BitVec.ofNat 16 v })).updFunc fn (fun F => { F with held := true }) = u
  generalize hq : ({ u with power := { s.power with mail := s.power.mail.filter (fun i => decide (i ≠ fn)) ++ [fn] } } : State) = q
  have ht : s.writeReqSeq fn v = q.wake .mail := by
    unfold State.writeReqSeq
    rw [if_neg (by simp [hb, hr])]
    exact (if_pos hw).trans (by rw [← hq, ← hu]; rfl)
  have hf : q.func fn = { s.func fn with reqSeq := BitVec.ofNat 16 v, held := true } := by
    have hqu : q.func fn = u.func fn := by rw [← hq]; rfl
    rw [hqu, ← hu, State.func_updFunc, if_pos rfl, State.func_updFunc, if_pos rfl]
  have hs : q.power.state = .watch := by rw [← hq]; exact hw
  rw [ht, State.func_wake, hf]
  refine ⟨rfl, hb, rfl, ?_⟩
  unfold State.wake
  rw [hs]

theorem State.state_wake {s : State} (h : s.power.state ≠ .watch) (w : Wake) : (s.wake w).power.state = .active := by
  unfold State.wake
  split
  · assumption
  · rfl
  · exact absurd ‹_› h

/-- Awake, a request of a known code is handed over. -/
theorem State.writeReqSeq_handedOver {s : State} {fn : Nat} (hb : (s.func fn).busy = false) (hr : s.mailReady fn = true)
    (hw : s.power.state ≠ .watch) (hk : knownCodes.contains (s.reqCode fn) = true) (v : Nat) :
    ∃ t, s.writeReqSeq fn v = t
      ∧ t.func fn = { s.func fn with reqSeq := BitVec.ofNat 16 v, busy := true, respValid := false, held := false }
      ∧ t.handed = s.handed ++ [fn] ∧ t.power.state = .active
      ∧ t = { s with power := t.power, funcs := t.funcs, handed := t.handed } := by
  generalize hu : s.updFunc fn (fun F => { F with reqSeq := BitVec.ofNat 16 v }) = u
  generalize hq : (u.wake .mail).updFunc fn (fun F => { F with busy := true, respValid := false, held := false }) = q
  have hf : q.func fn = { s.func fn with reqSeq := BitVec.ofNat 16 v, busy := true, respValid := false, held := false } := by
    rw [← hq, State.func_updFunc, if_pos rfl, State.func_wake, ← hu, State.func_updFunc, if_pos rfl]
  have hcode : ({ q with handed := q.handed ++ [fn] } : State).reqCode fn = s.reqCode fn := by
    have hq' : ({ q with handed := q.handed ++ [fn] } : State).func fn = q.func fn := rfl
    simp only [State.reqCode, State.reqHeader, hq', hf]
  have hh : (u.wake .mail).handOver fn = { q with handed := q.handed ++ [fn] } := by
    unfold State.handOver
    dsimp only
    rw [hq, hcode, if_pos hk]
  have ht : s.writeReqSeq fn v = { q with handed := q.handed ++ [fn] } := by
    unfold State.writeReqSeq
    rw [if_neg (by simp [hb, hr])]
    exact (if_neg hw).trans (by rw [← hh, ← hu])
  have hk' : u.keeps [.power] (u.wake .mail) := State.keeps_wake .mail (by decide) (State.keeps_self _ _)
  have hs : u.power.state ≠ .watch := by rw [← hu]; exact hw
  refine ⟨_, ht, hf, ?_, ?_, ?_⟩
  · rw [← hq]
    show (u.wake .mail).handed ++ [fn] = s.handed ++ [fn]
    rw [hk'.1 .handed (by decide), ← hu]
    rfl
  · rw [← hq]
    exact State.state_wake hs .mail
  · have hkq : s.keeps [.power, .funcs] q := by
      rw [← hq, ← hu]
      simp (maxDischargeDepth := 40)
    have he : q = { s with power := q.power, funcs := q.funcs } :=
      State.eq_of_keeps hkq (fun f k => by cases f <;> simp_all [State.same])
    exact congrArg (fun w : State => { w with handed := q.handed ++ [fn] }) he

end Sys2Proof.Machine
end

section
/-! SUPPORT. RegistersByCode.lean: reads of CTR_VALUE, samples that go out, and registers by access code (O50). -/

namespace Sys2Proof.Machine

/-! ### Counters and samples (R399, R402, R409) -/

/-- Sampling writes the counter back; only that of a timed event may have gone on. -/
theorem State.sampleCounter_spec (s : State) (sel : Nat) :
    tget (s.sampleCounter sel).2.perf.ctrs sel = some (s.sampleCounter sel).1
      ∧ (timedEvent (tgetD s.perf.ctrs sel Counter.none).event = false →
        (s.sampleCounter sel).1 = tgetD s.perf.ctrs sel Counter.none) := by
  refine ⟨(tget_tput _ _ _ _).trans (if_pos rfl), fun h => ?_⟩
  unfold State.sampleCounter timedAt
  simp [h]

section
variable {s : State} {fn : Nat} {via : Via}

/-- A read of CTR_VALUE where the window is closed. -/
theorem exec_ctrValueRead_closed (hr : s.hostReaches = true) (hfn : fn ≤ 32) (hd : s.streamDrops via = false)
    (ho : s.fnOpen fn via = true) (h : s.fnExists fn = false ∨ s.windowOpen fn = false) :
    exec (.ctrValueRead { fn := fn, via := via }) s = .next (s.emit (.regData fn (zeros 8))) := by
  dsimp only [exec, execCtrValueRead]
  rw [if_neg (by simp [hr, hfn, hd]), if_neg (by simp [ho]), if_pos (by simpa using h)]

/-- A read where the selector may not be read: bit 62. -/
theorem exec_ctrValueRead_none (hr : s.hostReaches = true) (hfn : fn ≤ 32) (hd : s.streamDrops via = false) (ho : s.fnOpen fn via = true)
    (he : s.fnExists fn = true) (hw : s.windowOpen fn = true) (h : s.selected fn = none) :
    exec (.ctrValueRead { fn := fn, via := via }) s = .next (s.emit (.regData fn (natLe 8 (2 ^ 62)))) := by
  dsimp only [exec, execCtrValueRead]
  rw [if_neg (by simp [hr, hfn, hd]), if_neg (by simp [ho]), if_neg (by simp [he, hw]), h]

/-- A read samples the selected counter and answers COUNT and OVF. -/
theorem exec_ctrValueRead_some {sel : Nat} (hr : s.hostReaches = true) (hfn : fn ≤ 32) (hd : s.streamDrops via = false)
    (ho : s.fnOpen fn via = true) (he : s.fnExists fn = true) (hw : s.windowOpen fn = true) (h : s.selected fn = some sel) :
    ∃ t c, exec (.ctrValueRead { fn := fn, via := via }) s = .next t ∧ tget t.perf.ctrs sel = some c
      ∧ t.out = s.out ++ [.regData fn (natLe 8 (c.count + b2n c.ovf * 2 ^ 63))]
      ∧ (timedEvent (tgetD s.perf.ctrs sel Counter.none).event = false → c = tgetD s.perf.ctrs sel Counter.none)
      ∧ t = { s with perf := t.perf, out := t.out, free := t.free } := by
  obtain ⟨hc, hplain⟩ := s.sampleCounter_spec sel
  refine ⟨(s.sampleCounter sel).2.emit (.regData fn (natLe 8 ((s.sampleCounter sel).1.count + b2n (s.sampleCounter sel).1.ovf * 2 ^ 63))),
    (s.sampleCounter sel).1, ?_, hc, rfl, hplain, rfl⟩
  dsimp only [exec, execCtrValueRead]
  rw [if_neg (by simp [hr, hfn, hd]), if_neg (by simp [ho]), if_neg (by simp [he, hw]), h]

end

@[simp] theorem State.perf_hostWriteFw (s : State) (fn addr : Nat) (b : Bytes) : (s.hostWriteFw fn addr b).perf = s.perf :=
  (State.keeps_hostWriteFw (F := [.hostMem]) fn addr b (by decide) (State.keeps_self _ _)).1 .perf (by decide)

@[simp] theorem State.perf_sampleProduce (s : State) (m : Sampler) : (s.sampleProduce m).perf = s.perf :=
  (State.keeps_sampleProduce (F := [.hostMem, .funcs, .out]) m (by decide) (State.keeps_self _ _)).1 .perf (by decide)

/-- A sample that goes out leaves the list; the enable that issued it counts it. -/
theorem State.perf_sampleOut {s : State} {x : Sample} {m : Sampler} (hm : tget s.perf.samplers x.scope = some m) :
    (s.sampleOut x).perf = { s.perf with
      samples := s.perf.samples.erase x
      samplers := if m.epoch = x.epoch then tput s.perf.samplers x.scope { m with written := m.written + 1 } else s.perf.samplers } := by
  unfold State.sampleOut
  simp only [State.perf_hostWriteFw, hm]
  split
  · simp
  · next h =>
    rw [if_pos (not_not.1 h)]
    split <;> simp

theorem State.sampler_sampleOut {s : State} {x : Sample} {m : Sampler} (hm : tget s.perf.samplers x.scope = some m) :
    tget (s.sampleOut x).perf.samplers x.scope = some { m with written := if m.epoch = x.epoch then m.written + 1 else m.written } := by
  rw [State.perf_sampleOut hm]
  split
  · exact (tget_tput _ _ _ _).trans (if_pos rfl)
  · exact hm

theorem exec_sampleWrite {s : State} {c : Nat} {x : Sample} (ht : s.thermal.tripped = false)
    (hx : s.perf.samples.find? (fun x => x.finished && decide (x.cluster = c)) = some x) :
    exec (.sampleWrite c) s = .next (s.sampleOut x) := by
  dsimp only [exec, execSampleWrite]
  rw [hx]
  exact if_neg (by simp [ht])

theorem State.sampleOut_only (s : State) (x : Sample) :
    s.sampleOut x = { s with perf := (s.sampleOut x).perf, hostMem := (s.sampleOut x).hostMem, funcs := (s.sampleOut x).funcs,
                             out := (s.sampleOut x).out } :=
  State.eq_of_keeps (F := [.hostMem, .funcs, .perf, .out]) (State.keeps_sampleOut x (by decide) (State.keeps_self _ _))
    (fun f k => by cases f <;> simp_all [State.same])

/-- Settles O50: the rows come down to `State.writeBar0`, `State.cfgWrite`, `State.sampleCounter` and `State.sampleOut`, whose rules stand
above. -/
theorem registersActByCode : Obligations.RegistersActByCode := by
  unfold Obligations.RegistersActByCode
  refine ⟨fun s fn v via hr hfn hd ho he => ?_, fun s fn via hr hfn hd ho => ⟨exec_ctrValueRead_closed hr hfn hd ho, fun he hw =>
    ⟨exec_ctrValueRead_none hr hfn hd ho he hw, fun sel hs => exec_ctrValueRead_some hr hfn hd ho he hw hs⟩⟩,
    fun s fn v via hr hfn hd he => ?_, fun s c x m ht hx hm => ?_⟩
  · simp only [exec_registerWrite_bar0 hr hfn hd ho he]
    refine ⟨by rw [s.writeBar0_event], by rw [s.writeBar0_eventEn], fun off h => by rw [s.writeBar0_readOnly fn v h],
      fun hw => by rw [s.writeBar0_ctrSelect fn v hw], ?_, ?_, fun i hi hb => ?_, fun i hi h off hoff => ?_,
      fun hb hm hw => ?_, fun hb hm hw hk => ?_⟩
    · rintro rfl
      rw [s.writeBar0_summary]
    · rintro rfl
      rw [s.writeBar0_hold]
    · rw [s.writeBar0_request fn v hi, hb]
      rfl
    · have hi : s.writeBar0 fn off (natLe 8 v) = s.mailIgnored fn := by
        rcases hoff with rfl | ⟨rfl, hb⟩
        · rw [s.writeBar0_reqSeq, State.writeReqSeq_ignored h]
        · rw [s.writeBar0_request fn v hi, if_pos hb]
      obtain ⟨e, hspec⟩ := s.mailIgnored_spec fn
      exact ⟨_, e, by rw [hi], hspec⟩
    · obtain ⟨hheld, hbusy, hseq, hwake⟩ := State.writeReqSeq_held hb hm hw (v % 2 ^ 64)
      exact ⟨_, by rw [s.writeBar0_reqSeq], hheld, hbusy, by rw [hseq, ofNat_word (by omega)], hwake⟩
    · obtain ⟨t, ht, hf, hhanded, hactive, hrest⟩ := State.writeReqSeq_handedOver hb hm hw hk (v % 2 ^ 64)
      have hseq : (t.func fn).reqSeq = BitVec.ofNat 16 v := by
        rw [hf]
        exact ofNat_word (by omega) v
      exact ⟨t, by rw [s.writeBar0_reqSeq, ht], by rw [hf], by rw [hf], hseq, hhanded, hactive, hrest⟩
  · simp only [exec_registerWrite_config hr hfn hd he]
    refine ⟨by simp [State.cfgWrite], fun r h => ?_, by simp [State.cfgWrite], ?_⟩
    · simp only [List.mem_cons, List.not_mem_nil, or_false] at h
      rcases h with rfl | rfl | rfl | rfl | rfl | rfl | rfl | rfl | rfl | rfl <;> rfl
    · obtain rfl | hne := eq_or_ne fn 0
      · simp [State.cfgWrite]
      · simp [State.cfgWrite, hne]
  · have honly := s.sampleOut_only x
    exact ⟨_, _, exec_sampleWrite ht hx, State.sampler_sampleOut hm, rfl, by rw [State.perf_sampleOut hm],
      by rw [honly], by rw [honly], honly⟩

end Sys2Proof.Machine
end

section
/-! SUPPORT. TimedCommands.lean: the sweep, the return of blocks, the governor; commands that complete (O51). -/

namespace Sys2Proof.Machine

/-! ### Tables (O51) -/

/-- A change of the entries that keeps their keys acts on each entry where it stands. -/
theorem tget_map {α : Type} (t : Tab α) (f : Nat × α → Nat × α) (hf : ∀ e, (f e).1 = e.1) (i : Nat) :
    tget (t.map f) i = (tget t i).map (fun v => (f (i, v)).2) := by
  induction t with
  | nil => rfl
  | cons e t ih =>
    obtain ⟨k, v⟩ := e
    have hk : f (k, v) = (k, (f (k, v)).2) := Prod.ext (hf _) rfl
    rw [List.map_cons, hk, tget, tget]
    split
    · next h => rw [h, Option.map_some]
    · exact ih

/-- A key of no entry. -/
theorem tget_eq_none {α : Type} {t : Tab α} {i : Nat} (h : ∀ e ∈ t, e.1 ≠ i) : tget t i = none := by
  induction t with
  | nil => rfl
  | cons e t ih =>
    obtain ⟨k, v⟩ := e
    rw [tget, if_neg (fun he => h (k, v) (by simp) he.symm), ih (fun e he => h e (by simp [he]))]

/-! ### The sweep and the return of blocks (R162, R228) -/

/-- What a sweep makes of an entry of the stream table. -/
def State.swept (s : State) (shard : Nat) (e : Nat × Stream) : Nat × Stream :=
  if e.1 % 4 = shard % 4 ∧ e.2.state = .active then
    match s.part? e.2.partition with
    | none => e
    | some P =>
      match P.pool with
      | none => e
      | some o =>
        if o.idleSteps ≠ 0 ∧ e.2.lastStep.toNat + o.idleSteps ≤ P.stepNo.toNat then (e.1, { e.2 with state := .idle }) else e
  else e

theorem exec_streamSweep (s : State) (shard : Nat) :
    exec (.streamSweep shard) s = .next { s with streams := s.streams.map (s.swept shard) } := rfl

theorem State.swept_fst (s : State) (shard : Nat) (e : Nat × Stream) : (s.swept shard e).1 = e.1 := by
  unfold State.swept
  (repeat' split) <;> rfl

/-- A stream idle for long enough becomes IDLE in the sweep of its shard. -/
theorem State.swept_idle {s : State} {st : Nat} {e : Stream} {P : Partition} {o : Pool} (hp : s.part? e.partition = some P)
    (ho : P.pool = some o) (ha : e.state = .active) (hi : o.idleSteps ≠ 0) (hl : e.lastStep.toNat + o.idleSteps ≤ P.stepNo.toNat) :
    s.swept (st % 4) (st, e) = (st, { e with state := .idle }) := by
  unfold State.swept
  rw [if_pos ⟨(Nat.mod_mod st 4).symm, ha⟩]
  simp only [hp, ho]
  rw [if_pos ⟨hi, hl⟩]

/-- The first batch returns to the pool once no command waits for it. -/
theorem State.returnBlocks_first {s : State} {p : Nat} {P : Partition} {o : Pool} {f : Freed} {rest : List Freed} (hp : s.part? p = some P)
    (ho : P.pool = some o) (hf : o.freed = f :: rest) (ha : ∀ id ∈ f.after, tget s.flight id = none) :
    s.returnBlocks p = { s.setPart p { P with pool := some { o with
        freed := rest, used := o.used.filter (fun u => !f.slots.contains u) } } with
      streams := s.streams.filter (fun e => !f.streams.contains e.1) } := by
  have hall : f.after.all (fun id => (tget s.flight id).isNone) = true := by simpa using ha
  unfold State.returnBlocks
  simp only [hp, ho, hf, List.find?_cons, hall, List.erase_cons_head]
  rfl

/-! ### The governor (R347 to R350) -/

/-- An island of a partition has no demand where it drew nothing. -/
theorem State.demand_of_islandsOf {s : State} {draws : List (Nat × Nat)} {P : Partition} {g : Governed} (h : g ∈ s.islandsOf draws P)
    (hd : tgetD draws g.isl 0 = 0) : g.demand = 0 := by
  simp only [State.islandsOf, List.mem_append, List.mem_map] at h
  obtain ⟨c, -, rfl⟩ | ⟨c, -, rfl⟩ := h <;>
  · simp only [State.governed] at hd ⊢
    simp [hd]

/-- Fractions are recorded of islands alone that drew something. -/
theorem State.grants_none {s : State} {budget : Nat} {draws : List (Nat × Nat)} {isl : Nat} (hd : tgetD draws isl 0 = 0) :
    tget (s.grants budget draws) isl = none := by
  unfold State.grants
  refine List.foldlRecOn (motive := fun t => tget t isl = none) _ _ rfl (fun t ht e he => ?_)
  refine List.foldlRecOn (motive := fun t => tget t isl = none) _ _ ht (fun t ht g hg => ?_)
  obtain ⟨x, -, rfl⟩ := List.mem_map.1 he
  dsimp only
  split
  · next hgrant =>
    have hne : isl ≠ g.isl := by
      rintro rfl
      have hzero : g.demand = 0 := State.demand_of_islandsOf hg hd
      rw [grant, if_pos hzero] at hgrant
      omega
    rw [tget_tput, if_neg hne, ht]
  · exact ht

/-- An epoch changes the fractions, and the counter of the governor's epochs. -/
theorem exec_governorEpoch {s : State} (ha : s.alive = true) (hw : s.power.state ≠ .watch) (io : Nat) (draws : List (Nat × Nat)) :
    ∃ t, exec (.governorEpoch io draws) s = .next t
      ∧ t.power = { s.power with fractions := s.grants (s.governedBudget io) draws } ∧ t.flight = s.flight := by
  dsimp only [exec, execGovernorEpoch]
  rw [if_pos (by simp [ha, hw])]
  split <;> exact ⟨_, rfl, rfl, rfl⟩

/-- Settles O51, row by row from the rules above and those of the registers. -/
theorem timedAndRegisterCommandsComplete : Obligations.TimedAndRegisterCommandsComplete := by
  unfold Obligations.TimedAndRegisterCommandsComplete
  refine ⟨fun s st e P o hst hp ho ha hi hl => ?_, fun s p P o f rest hp ho hf ha => ?_, fun s io draws ha hw => ?_, fun s mean ha => ?_,
    fun s => ⟨⟨_, rfl, rfl⟩, ⟨_, rfl, rfl⟩⟩, fun s fn sel via hr hfn hd ho he hw hs => ?_, fun s x l m ht hl hx hm => ?_,
    fun s fn v via hr hfn hd ho he => ?_⟩
  · refine ⟨_, exec_streamSweep s (st % 4), ?_, rfl⟩
    rw [tget_map _ _ (s.swept_fst _), hst, Option.map_some, State.swept_idle hp ho ha hi hl]
  · refine ⟨_, _, congrArg Host.Outcome.next (State.returnBlocks_first hp ho hf ha), (tget_tput _ _ _ _).trans (if_pos rfl), rfl,
      fun u => by simp, fun st hst => tget_eq_none (fun e he => ?_)⟩
    rintro rfl
    simp [hst] at he
  · obtain ⟨t, ht, hpow, hfl⟩ := exec_governorEpoch ha hw io draws
    refine ⟨t, ht, by rw [hpow], hfl, fun isl hd => ?_⟩
    rw [State.fraction, hpow, tgetD, State.grants_none hd]
    rfl
  · refine ⟨_, if_pos ha, rfl, fun h => if_pos h, fun h => ?_⟩
    have hn : ¬s.governedCap * watt < mean := by omega
    refine (if_neg hn).trans_le ?_
    split <;> omega
  · obtain ⟨t, c, ht, hc, hout, -, honly⟩ := exec_ctrValueRead_some hr hfn hd ho he hw hs
    exact ⟨t, c, ht, hc, hout, by rw [honly], by rw [honly]⟩
  · have hfind : s.perf.samples.find? (fun y => y.finished && decide (y.cluster = x.cluster)) = some x := by simp [hl, hx]
    exact ⟨_, exec_sampleWrite ht hfind, by rw [State.perf_sampleOut hm, hl]; simp, State.sampler_sampleOut hm⟩
  · simp only [exec_registerWrite_bar0 hr hfn hd ho he]
    refine ⟨⟨_, rfl, ?_⟩, ⟨_, rfl, ?_⟩, fun hw => ⟨_, rfl, ?_⟩⟩
    · rw [s.writeBar0_event, State.func_updFunc, if_pos rfl]
    · rw [s.writeBar0_eventEn, State.func_updFunc, if_pos rfl]
    · rw [s.writeBar0_ctrSelect fn v hw, State.func_updFunc, if_pos rfl]

end Sys2Proof.Machine
end

section
/-! SUPPORT. Canonical.lean: the arrays' canonical form, step by step (O4). -/

namespace Sys2Proof.Machine

/-- Settles O4: an idle step changes nothing, and every command keeps the arrays' form (`exec_mayChange_command`). -/
theorem stepKeepsArraysCanonical : Obligations.StepKeepsArraysCanonical := by
  unfold Obligations.StepKeepsArraysCanonical
  intro s t wf e
  unfold step at e
  split at e
  · cases e
    exact wf
  · next i rest hpending =>
    exact State.keeps_memoryWf (exec_mayChange_command i { s with pending := rest } t e) wf

end Sys2Proof.Machine
end

section
/-! SUPPORT. Scrubbing.lean: a run-ahead buffer that scrub finds broken, where a table of queues lists a number twice (O37). -/

namespace Sys2Proof.Machine

/-- A queue of context 0 that has fetched one record. -/
def twinQueue : Queue := { Queue.fresh (zeros 40) with ahead := [{ pos := 0, bytes := zeros 64 }] }

/-- A running module whose partition 0 lists queue 0 twice: `tget` finds the one of context 0, behind it stands one of context 1. -/
def twinState : State :=
  { State.reset with
    boot := { Boot.reset with perstLow := false },
    parts := [(0, { Partition.fresh { clusters := 1, streamBase := 0, streamCount := 1, prefixQuota := 0, policyPartition := false,
                                      perfUser := false } [] 0 with queues := [(0, twinQueue), (0, { twinQueue with ctx := 1 })] })] }

/-- The first queue 0 breaks, the teardown of its context deletes it, and the second one, which is not broken, is queue 0 then. -/
theorem twinState_scrubbed :
    ∃ t, exec (.patrolScrub (.front 0 0) 0 3) twinState = .next t ∧ t.queue? 0 0 = some { twinQueue with ctx := 1 } := by
  refine ⟨_, rfl, ?_⟩
  decide +kernel

/-- Refutes O37 by its clause about run-ahead buffers: in `twinState` the queue that broke is gone, and the number leads to its twin.
The statement speaks of every state, also of one whose table of queues lists a number twice. -/
theorem not_banksRefreshAndCorrect : ¬Obligations.BanksRefreshAndCorrect := by
  unfold Obligations.BanksRefreshAndCorrect
  rintro ⟨-, -, hscrub, -⟩
  obtain ⟨t, ht, -, hlost⟩ := hscrub twinState (.front 0 0) 0 3 rfl (by simp)
  obtain ⟨u, hu, hq⟩ := twinState_scrubbed
  cases ht.symm.trans hu
  have hbroken : ({ twinQueue with ctx := 1 } : Queue).broken = true :=
    hlost (le_refl 3) twinQueue _ rfl (by decide +kernel) hq
  cases hbroken

end Sys2Proof.Machine
end

section
/-! SUPPORT. Deciding.lean: a message that makes its own checks, and answers given after other work. -/

namespace Sys2Proof.Machine

/-! ### Messages that ask -/

/-- The request in a mailbox, as a message command takes it up. -/
abbrev State.asked (s : State) (fn : Nat) : Msg := { fn := fn, p := s.msgPartition fn, body := s.msgBody fn }

section
variable {s go : State} {i : Instr} {fn : Nat} {size : Bytes → Nat} {row : MsgRow} {run : State → Msg → State} {m : Msg} {fields : List (Nat × Bool)}
  {conds : List (Option Nat × Bool)} {legal cond : Prop} {effect : State → Prop}

/-- A request that nothing ends before its own checks is served by the run of its row. -/
theorem State.serve_runs (hand : s.inHand fn row) (hheader : s.headerEnds fn row = none)
    (hwait : row.acts (s.msgBody fn) = true → s.mustWait fn (s.msgPartition fn) = false)
    (horder : row.inOrder = true → s.behind fn row.code = false)
    (huser : row.user = true → s.perfUser fn (s.msgPartition fn) = true)
    (hexists : row.exists? (s.msgBody fn) = true → (s.part? (s.msgPartition fn)).isSome = true)
    (hzero : unusedZero (s.msgBody fn) (row.used (s.msgBody fn)) = true) :
    s.serve fn row run = .next (run s (s.asked fn)) := by
  have hstray : strayByte (s.msgBody fn) (row.used (s.msgBody fn)) (row.size (s.msgBody fn)) = none := by
    rw [← Option.isNone_iff_eq_none, ← Option.not_isSome, strayByte_isSome, hzero]
    rfl
  have hgo : ¬((row.acts (s.msgBody fn) = true ∧ s.mustWait fn (s.msgPartition fn) = true)
      ∨ (row.inOrder = true ∧ s.behind fn row.code = true)) := by
    rintro (⟨h, h'⟩ | ⟨h, h'⟩)
    · simp [hwait h] at h'
    · simp [horder h] at h'
  have hpart : ¬(row.exists? (s.msgBody fn) = true ∧ s.part? (s.msgPartition fn) = none) := by
    rintro ⟨h, h'⟩
    simpa [h'] using hexists h
  have hmay : ¬(row.user = true ∧ s.perfUser fn (s.msgPartition fn) = false) := by
    rintro ⟨h, h'⟩
    simp [huser h] at h'
  rw [State.serve_inHand hand, hheader]
  simp only [if_neg hgo, if_neg hpart, if_neg hmay, hstray]

/-- A request that asks reaches the run of its row. -/
theorem exec_of_asks (hexec : exec i s = s.serve fn row run) (hm : messageOf i = some (fn, { row with size := size })) (ha : s.asks i) :
    exec i s = .next (run s (s.asked fn)) ∧ row.mine (s.msgBody fn) = true := by
  obtain ⟨fn', row', hm', hand, hheader, hwait, horder, huser, hexists, hzero⟩ := ha
  cases hm.symm.trans hm'
  have ⟨_, _, _, _, _, hmine⟩ := hand
  exact ⟨hexec.trans (State.serve_runs hand hheader hwait horder huser hexists hzero), hmine⟩

theorem State.checked_illegal (h : ¬∀ f ∈ fields, f.2 = true) :
    ∃ o, s.checked m fields conds go = s.respond m.fn .badField (refusalBody (some o)) := by
  unfold State.checked
  split
  · exact ⟨_, rfl⟩
  · next hfind => exact absurd (by simpa using hfind) h

theorem State.checked_legal (h : ∀ f ∈ fields, f.2 = true) : s.checked m fields conds go = s.checked m [] conds go := by
  have hfind : fields.find? (fun f => !f.2) = none := by simpa using h
  unfold State.checked
  rw [hfind]
  rfl

theorem State.checked_refused (h : ¬∀ c ∈ conds, c.2 = true) :
    ∃ o, s.checked m [] conds go = s.respond m.fn .refused (refusalBody o) := by
  unfold State.checked
  dsimp only [List.find?_nil]
  split
  · exact ⟨_, rfl⟩
  · next hfind => exact absurd (by simpa using hfind) h

theorem State.checked_passed (h : ∀ c ∈ conds, c.2 = true) : s.checked m [] conds go = go := by
  have hfind : conds.find? (fun c => !c.2) = none := by simpa using h
  unfold State.checked
  dsimp only [List.find?_nil]
  rw [hfind]

/-- A message whose run is `State.checked` decides as R306 says, where its fields spell what is legal and its conditions what must hold. -/
theorem State.decides_checked (hexec : exec i s = s.serve fn row run) (hm : messageOf i = some (fn, { row with size := size }))
    (hrun : run s (s.asked fn) = s.checked (s.asked fn) fields conds go)
    (hlegal : row.mine (s.msgBody fn) = true → (legal ↔ ∀ f ∈ fields, f.2 = true))
    (hcond : cond ↔ ∀ c ∈ conds, c.2 = true) (heffect : legal → cond → effect go) : s.decides i fn legal cond effect := by
  intro ha
  obtain ⟨hnext, hmine⟩ := exec_of_asks hexec hm ha
  refine ⟨_, hnext, fun hl => ?_, fun hl hc => ?_, fun hl hc => ?_⟩
  · obtain ⟨o, ho⟩ := State.checked_illegal (s := s) (m := s.asked fn) (go := go) (conds := conds) (fun h => hl ((hlegal hmine).2 h))
    rw [hrun, ho]
    exact ⟨s.onlyAnswer_respond .., o, s.answered_respond ..⟩
  · obtain ⟨o, ho⟩ := State.checked_refused (s := s) (m := s.asked fn) (go := go) (fun h => hc (hcond.2 h))
    rw [hrun, State.checked_legal ((hlegal hmine).1 hl), ho]
    exact ⟨s.onlyAnswer_respond .., o, s.answered_respond ..⟩
  · rw [hrun, State.checked_legal ((hlegal hmine).1 hl), State.checked_passed (hcond.1 hc)]
    exact heffect hl hc

end

/-- Of a message with an OP field a row meets its own OP, and illegal ones. -/
theorem opIs_legal {k last : Nat} {b : Bytes} (hk : k ≤ last) (h : opIs k last b = true) : u8 b 0 ≤ last ↔ u8 b 0 = k := by
  simp only [opIs, Bool.or_eq_true, decide_eq_true_eq] at h
  omega

/-! ### Answers after other work -/

/-- Of the register files only event and pending bits may have changed. -/
def State.raisesOnly (s t : State) : Prop := ∀ k, ∃ e p, t.func k = { s.func k with event := e, pba := p }

theorem State.raisesOnly_of_funcs {s t : State} (h : t.funcs = s.funcs) : s.raisesOnly t := fun k =>
  ⟨(s.func k).event, (s.func k).pba, by rw [State.func, h]; rfl⟩

theorem State.raisesOnly_trans {s t u : State} (h : s.raisesOnly t) (k : t.raisesOnly u) : s.raisesOnly u := fun n => by
  obtain ⟨e, p, hn⟩ := h n
  obtain ⟨e', p', hn'⟩ := k n
  exact ⟨e', p', by rw [hn', hn]⟩

theorem State.raisesOnly_logErr (s : State) (n : LogNew) : s.raisesOnly (s.logErr n) := s.func_logErr n

theorem State.raisesOnly_raiseEvent (s : State) (fn i : Nat) : s.raisesOnly (s.raiseEvent fn i) := s.func_raiseEvent fn i

theorem State.raisesOnly_each {α : Type} {f : State → α → State} (hf : ∀ u x, State.raisesOnly u (f u x)) (s : State) (l : List α) :
    s.raisesOnly (s.each l f) := by
  induction l generalizing s with
  | nil => exact State.raisesOnly_of_funcs rfl
  | cons x l ih => exact State.raisesOnly_trans (hf s x) (ih (f s x))

/-- An answer given after such work answers the request that was there before. -/
theorem State.answered_after {s t : State} (h : s.raisesOnly t) (fn : Nat) (a : Answer) (body : Bytes) :
    s.answered (t.respond fn a body) fn a body := by
  obtain ⟨e, p, hfn⟩ := h fn
  obtain ⟨hresp, hvalid, hbusy, hstatus, hseq⟩ := t.answered_respond fn a body
  have hheader : t.reqHeader fn = s.reqHeader fn := by simp only [State.reqHeader, hfn]
  exact ⟨by rw [hresp, hheader], hvalid, hbusy, hstatus, by rw [hseq, hfn]⟩

end Sys2Proof.Machine
end

section
/-! SUPPORT. Maintenance.lean: tests, map-outs and repairs of pseudo-channels (O60). -/

namespace Sys2Proof.Machine

/-! ### Tables and lists of numbers -/

theorem tget_filter_keys {α : Type} (t : Tab α) (f : Nat → Bool) (i : Nat) :
    tget (t.filter (fun e => f e.1)) i = if f i then tget t i else none := by
  induction t with
  | nil => simp [tget]
  | cons e t ih =>
    obtain ⟨k, v⟩ := e
    by_cases hk : f k = true <;> by_cases hi : i = k <;> simp_all [tget]

theorem tget_tdel {α : Type} (t : Tab α) (i j : Nat) : tget (tdel t i) j = if j = i then none else tget t j := by
  rw [tdel, tget_filter_keys t (fun k => decide (k ≠ i))]
  by_cases h : j = i <;> simp [h]

theorem mem_addNat {l : List Nat} {a x : Nat} : x ∈ addNat l a ↔ x = a ∨ x ∈ l := by
  induction l with
  | nil => simp [addNat]
  | cons b l ih =>
    rw [addNat]
    split
    · simp
    · split
      · next h => simp [h]
      · rw [List.mem_cons, ih, List.mem_cons]
        exact or_left_comm

theorem tget_foldl_tput {α : Type} (l : List Nat) (t : Tab α) (x : α) (k : Nat) :
    tget (l.foldl (fun t i => tput t i x) t) k = if k ∈ l then some x else tget t k := by
  induction l generalizing t with
  | nil => simp
  | cons i l ih =>
    rw [List.foldl_cons, ih, tget_tput]
    by_cases hk : k = i <;> simp [hk]

theorem mem_foldl_addNat {l t : List Nat} {k : Nat} : k ∈ l.foldl addNat t ↔ k ∈ l ∨ k ∈ t := by
  induction l generalizing t with
  | nil => simp
  | cons i l ih => simp only [List.foldl_cons, ih, mem_addNat, List.mem_cons, or_assoc, or_left_comm]

/-! ### The array of one pseudo-channel -/

/-- A pseudo-channel's part of device memory is cleared. -/
def Mem.clearPc (m : Mem) (pc : Nat) : Mem := m.clear (pc * 16 * bankStride) (16 * bankStride)

theorem mem_pc_iff {a pc : Nat} :
    (pc * 16 * bankStride ≤ a ∧ a < pc * 16 * bankStride + 16 * bankStride) ↔ a / (16 * bankStride) = pc := by
  unfold bankStride
  omega

theorem Mem.get_clearPc (m : Mem) (pc a : Nat) : (m.clearPc pc).get a = if a / (16 * bankStride) = pc then 0 else m.get a := by
  simp only [Mem.clearPc, Mem.get_clear, mem_pc_iff]

/-- A word of an array without poison and without stored errors. -/
def Mem.sound (m : Mem) (w : Nat) : Prop := m.poison.contains w = false ∧ tget m.errs w = none

theorem Mem.sound_clearPc {m : Mem} {pc w : Nat} (h : 8 * w / (16 * bankStride) = pc ∨ m.sound w) : (m.clearPc pc).sound w := by
  have hw : ∀ x, (decide (pc * 16 * bankStride ≤ 8 * x) && decide (8 * x < pc * 16 * bankStride + 16 * bankStride))
      = decide (8 * x / (16 * bankStride) = pc) := fun x => by
    rw [← Bool.decide_and]
    exact decide_eq_decide.2 mem_pc_iff
  simp only [Mem.sound, Mem.clearPc, Mem.clear, hw, tget_filter_keys _ (fun k => !decide (8 * k / (16 * bankStride) = pc))] at h ⊢
  rcases h with h | ⟨hp, he⟩
  · simp [h]
  · simp_all

theorem Mem.get_clearPcs (l : List Nat) (m : Mem) (a : Nat) :
    (l.foldl Mem.clearPc m).get a = if a / (16 * bankStride) ∈ l then 0 else m.get a := by
  induction l generalizing m with
  | nil => simp
  | cons pc l ih =>
    rw [List.foldl_cons, ih, Mem.get_clearPc]
    by_cases hl : a / (16 * bankStride) ∈ l <;> simp [hl]

theorem Mem.sound_clearPcs {l : List Nat} {m : Mem} {w : Nat} (h : 8 * w / (16 * bankStride) ∈ l ∨ m.sound w) :
    (l.foldl Mem.clearPc m).sound w := by
  induction l generalizing m with
  | nil => simpa using h
  | cons pc l ih =>
    rw [List.mem_cons, or_assoc] at h
    refine ih ?_
    rcases h with h | h | h
    · exact .inr (Mem.sound_clearPc (.inl h))
    · exact .inl h
    · exact .inr (Mem.sound_clearPc (.inr h))

/-! ### Tests begin (R38, R72) -/

/-- A test begins on one pseudo-channel. -/
def State.beginTest (T : TestRun) (s : State) (pc : Nat) : State :=
  { s.emptyPc pc with tests := tput s.tests pc T, boot := { s.boot with tested := addNat s.boot.tested pc } }

section
variable (s : State) (T : TestRun) (l : List Nat)

theorem State.tests_beginTests : (s.each l (State.beginTest T)).tests = l.foldl (fun t k => tput t k T) s.tests :=
  (List.foldl_hom State.tests (fun _ _ => rfl)).symm

theorem State.tested_beginTests : (s.each l (State.beginTest T)).boot.tested = l.foldl addNat s.boot.tested :=
  (List.foldl_hom (fun u : State => u.boot.tested) (fun _ _ => rfl)).symm

theorem State.dram_beginTests : (s.each l (State.beginTest T)).dram = l.foldl Mem.clearPc s.dram :=
  (List.foldl_hom State.dram (fun _ _ => rfl)).symm

/-- What the tests' beginning changes. -/
theorem State.beginTests_only (t : State) (ht : s.each l (State.beginTest T) = t) :
    t = { s with tests := t.tests, boot := { s.boot with tested := t.boot.tested }, dram := t.dram, unsettled := t.unsettled,
                 near := t.near, trust := { s.trust with pokes := t.trust.pokes } } := by
  induction l generalizing s with
  | nil =>
    cases ht
    rfl
  | cons pc l ih => exact ih (s.beginTest T pc) ht

end

/-- An answer, as a change of the fields that it may touch. -/
theorem State.respond_eq (s : State) (fn : Nat) (a : Answer) (body : Bytes) :
    ∃ F H O, s.respond fn a body = { s with funcs := F, handed := H, out := O } :=
  ⟨_, _, _, (s.onlyAnswer_respond fn a body).1⟩

section
variable {s : State} {fn : Nat} {i : Instr} {self : Bool}

theorem exec_startTests (hi : (i = .memTestTraffic fn ∧ self = false) ∨ (i = .memTestSelfTest fn ∧ self = true)) :
    exec i s = s.serve fn (testRow (b2n self)) (fun s m => s.startTests m self)
      ∧ messageOf i = some (fn, { testRow (b2n self) with size := fun _ => 24 }) := by
  rcases hi with ⟨rfl, rfl⟩ | ⟨rfl, rfl⟩ <;> exact ⟨rfl, rfl⟩

end

/-- What the start of tests leaves (R38, R72). -/
theorem State.testsBegun {s t : State} {fn : Nat} {T : TestRun} {l : List Nat}
    (ht : t = (s.each l (State.beginTest T)).respond fn .ok []) :
    s.answered t fn .ok []
      ∧ (∀ k ∈ l, tget t.tests k = some T ∧ t.boot.tested.contains k = true)
      ∧ (∀ k, k ∉ l → tget t.tests k = tget s.tests k)
      ∧ (∀ a, a / (16 * bankStride) ∉ l → t.dram.get a = s.dram.get a)
      ∧ (∀ w, 8 * w / (16 * bankStride) ∈ l → t.dram.poison.contains w = false ∧ tgetD t.dram.errs w 0 = 0)
      ∧ t = { s with tests := t.tests, boot := { s.boot with tested := t.boot.tested }, dram := t.dram, unsettled := t.unsettled,
                     near := t.near, trust := { s.trust with pokes := t.trust.pokes }, funcs := t.funcs, handed := t.handed, out := t.out } := by
  have htests := s.tests_beginTests T l
  have htested := s.tested_beginTests T l
  have hdram := s.dram_beginTests T l
  generalize hu : s.each l (State.beginTest T) = u at *
  have honly := s.beginTests_only T l u hu
  have hfuncs : u.funcs = s.funcs := by rw [honly]
  obtain ⟨F, H, O, hr⟩ := u.respond_eq fn .ok []
  have hans := State.answered_after (State.raisesOnly_of_funcs hfuncs) fn .ok []
  rw [← ht] at hans
  rw [hr] at ht
  subst ht
  refine ⟨hans, fun k hk => ⟨?_, ?_⟩, fun k hk => ?_, fun a ha => ?_, fun w hw => ?_, ?_⟩
  · rw [htests, tget_foldl_tput, if_pos hk]
  · rw [htested, List.contains_iff_mem, mem_foldl_addNat]
    exact .inl hk
  · rw [htests, tget_foldl_tput, if_neg hk]
  · rw [hdram, Mem.get_clearPcs, if_neg ha]
  · obtain ⟨hp, he⟩ := Mem.sound_clearPcs (m := s.dram) (.inl hw)
    rw [hdram]
    exact ⟨hp, by rw [tgetD, he]; rfl⟩
  · exact congrArg (fun v : State => { v with funcs := F, handed := H, out := O }) honly

/-! ### Tests end (R39, R40, R72) -/

theorem State.cuffFenced_fenceCuff (s : State) (bank cause b : Nat) :
    (s.fenceCuff bank cause).cuffFenced b = (s.cuffFenced b || decide (b = bank)) := by
  unfold State.fenceCuff
  split
  · next h => by_cases hb : b = bank <;> simp [hb, h]
  · have hlog : ∀ (u : State) (n : LogNew), (u.logErr n).boot = u.boot := fun u n =>
      (State.keeps_logErr (F := [.timer, .funcs, .log, .out, .free]) n (by decide) (State.keeps_self _ u)).1 .boot (by decide)
    simp only [State.cuffFenced, hlog, tget_tput]
    by_cases hb : b = bank <;> simp [hb]

theorem State.raisesOnly_fenceCuff (s : State) (bank cause : Nat) : s.raisesOnly (s.fenceCuff bank cause) := by
  unfold State.fenceCuff
  split
  · exact State.raisesOnly_of_funcs rfl
  · exact State.raisesOnly_logErr { s with boot := { s.boot with fencedCuffs := tput s.boot.fencedCuffs bank cause } } _

/-- The fuse record after a self-test has failed: further fences alone, and none but the bank's. -/
theorem State.fuse_fenceTested (s : State) (bank : Nat) :
    ∃ l, (s.fenceTested bank).fuse = { s.fuse with cuffFences := l } ∧ ∀ b, b ≠ bank → (b ∈ l ↔ b ∈ s.fuse.cuffFences) := by
  have hfence : (s.fenceCuff bank 0).fuse = s.fuse :=
    (State.keeps_fenceCuff (F := [.boot, .timer, .funcs, .log, .out, .free]) bank 0 (by decide) (State.keeps_self _ s)).1 .fuse (by decide)
  unfold State.fenceTested
  split
  · exact ⟨_, rfl, fun _ _ => Iff.rfl⟩
  · dsimp only
    split
    · exact ⟨addNat s.fuse.cuffFences bank, by rw [hfence], fun b hb => by simp [mem_addNat, hb]⟩
    · refine ⟨s.fuse.cuffFences, ?_, fun _ _ => Iff.rfl⟩
      rw [← hfence]
      exact (State.keeps_logErr (F := [.timer, .funcs, .log, .out, .free]) _ (by decide) (State.keeps_self _ _)).1 .fuse (by decide)

/-- A Cuff that fails its self-test is fenced, but for one whose fence the fuse record holds already (R72, R73). -/
theorem State.cuffFenced_fenceTested (s : State) (bank b : Nat) :
    (s.fenceTested bank).cuffFenced b = (s.cuffFenced b || (decide (b = bank) && !s.fuse.cuffFences.contains bank)) := by
  unfold State.fenceTested
  split
  · next h => rw [h, Bool.not_true, Bool.and_false, Bool.or_false]
  · next h =>
    have hend : ∀ t : State, t.boot = (s.fenceCuff bank 0).boot → t.cuffFenced b = (s.fenceCuff bank 0).cuffFenced b := fun t ht => by
      rw [State.cuffFenced, ht, State.cuffFenced]
    have hb : (s.fenceCuff bank 0).cuffFenced b = (s.cuffFenced b || (decide (b = bank) && !s.fuse.cuffFences.contains bank)) := by
      rw [s.cuffFenced_fenceCuff, Bool.eq_false_iff.2 h, Bool.not_false, Bool.and_true]
    rw [← hb]
    dsimp only
    split
    · exact hend _ rfl
    · exact hend _ ((State.keeps_logErr (F := [.timer, .funcs, .log, .out, .free]) _ (by decide) (State.keeps_self _ _)).1 .boot (by decide))

theorem State.raisesOnly_fenceTested (s : State) (bank : Nat) : s.raisesOnly (s.fenceTested bank) := by
  unfold State.fenceTested
  split
  · exact State.raisesOnly_of_funcs rfl
  · dsimp only
    refine State.raisesOnly_trans (s.raisesOnly_fenceCuff bank 0) ?_
    split
    · exact State.raisesOnly_of_funcs rfl
    · exact State.raisesOnly_logErr _ _

/-- The Cuff of bank i of a pseudo-channel is fenced where its self-test has failed. -/
def State.fenceFailed (pc : Nat) (steps : List Nat) (s : State) (i : Nat) : State :=
  if (steps[i]?).getD 0 = 0 then s else s.fenceTested (pc * 16 + i)

section
variable (pc : Nat) (steps : List Nat)

theorem State.fenceFailed_cases (s : State) (i : Nat) :
    s.fenceFailed pc steps i = s ∨ s.fenceFailed pc steps i = s.fenceTested (pc * 16 + i) := by
  unfold State.fenceFailed
  split
  · exact .inl rfl
  · exact .inr rfl

theorem State.keeps_fenceFailed (s : State) (l : List Nat) :
    s.keeps [.fuse, .boot, .timer, .funcs, .log, .out, .free] (s.each l (State.fenceFailed pc steps)) := by
  refine State.keeps_each l (fun u i => ?_) (State.keeps_self _ s)
  rcases u.fenceFailed_cases pc steps i with h | h <;> simp [h]

theorem State.raisesOnly_fenceFailed (s : State) (l : List Nat) : s.raisesOnly (s.each l (State.fenceFailed pc steps)) := by
  refine State.raisesOnly_each (fun u i => ?_) s l
  rcases u.fenceFailed_cases pc steps i with h | h <;> rw [h]
  · exact State.raisesOnly_of_funcs rfl
  · exact u.raisesOnly_fenceTested _

theorem State.rowRepairs_fenceFailed (s : State) (l : List Nat) :
    (s.each l (State.fenceFailed pc steps)).fuse.rowRepairs = s.fuse.rowRepairs := by
  refine List.foldlRecOn (motive := fun u : State => u.fuse.rowRepairs = s.fuse.rowRepairs) _ _ rfl (fun u hu i _ => ?_)
  rcases u.fenceFailed_cases pc steps i with h | h <;> rw [h]
  · exact hu
  · obtain ⟨x, hx, -⟩ := u.fuse_fenceTested (pc * 16 + i)
    rw [hx, ← hu]

/-- No fence of the boot is taken back. -/
theorem State.cuffFenced_fenceFailed_of_fenced {s : State} {b : Nat} (h : s.cuffFenced b = true) (l : List Nat) :
    (s.each l (State.fenceFailed pc steps)).cuffFenced b = true := by
  refine List.foldlRecOn (motive := fun u : State => u.cuffFenced b = true) _ _ h (fun u hu i _ => ?_)
  rcases u.fenceFailed_cases pc steps i with h | h <;> rw [h]
  · exact hu
  · rw [u.cuffFenced_fenceTested, hu, Bool.true_or]

/-- Each Cuff that fails its self-test, and that the fuse record does not hold fenced, is fenced. -/
theorem State.cuffFenced_fenceFailed {s : State} {l : List Nat} {i : Nat} (hi : i ∈ l) (hbad : (steps[i]?).getD 0 ≠ 0)
    (hnew : s.fuse.cuffFences.contains (pc * 16 + i) = false) :
    (s.each l (State.fenceFailed pc steps)).cuffFenced (pc * 16 + i) = true := by
  induction l generalizing s with
  | nil => cases hi
  | cons j l ih =>
    change ((s.fenceFailed pc steps j).each l (State.fenceFailed pc steps)).cuffFenced (pc * 16 + i) = true
    by_cases hj : i = j
    · subst hj
      refine State.cuffFenced_fenceFailed_of_fenced pc steps ?_ l
      rw [State.fenceFailed, if_neg hbad, s.cuffFenced_fenceTested, hnew]
      simp
    · refine ih ((List.mem_cons.1 hi).resolve_left hj) ?_
      unfold State.fenceFailed
      split
      · exact hnew
      · obtain ⟨x, hx, hmem⟩ := s.fuse_fenceTested (pc * 16 + j)
        rw [hx]
        have : pc * 16 + i ≠ pc * 16 + j := by omega
        simpa [hmem _ this] using hnew

end

/-- A self-test that has ended with these steps. -/
def TestRun.selfTested (T : TestRun) (steps : List Nat) : TestRun :=
  { T with done := true, steps := (List.range 16).map (fun i => min ((steps[i]?).getD 0) 5) }

/-- The state after a self-test, before the fences. -/
def State.noteSelfTest (s : State) (pc : Nat) (T : TestRun) (steps : List Nat) : State :=
  { s with tests := tput s.tests pc (T.selfTested steps) }

theorem State.endTest_selfTest (s : State) (pc : Nat) (T : TestRun) (steps : List Nat) :
    s.endTest pc T (.selfTest steps)
      = (s.noteSelfTest pc T steps).each (List.range 16) (State.fenceFailed pc (T.selfTested steps).steps) := rfl

/-- A test that ends stands as done in the table of tests. -/
theorem State.tests_endTest (s : State) (pc : Nat) (T : TestRun) (found : TestFindings) :
    ∃ T', T'.done = true ∧ (s.endTest pc T found).tests = tput s.tests pc T' := by
  cases found with
  | traffic passes banks => exact ⟨_, rfl, rfl⟩
  | selfTest steps =>
    refine ⟨T.selfTested steps, rfl, ?_⟩
    rw [s.endTest_selfTest]
    exact (State.keeps_fenceFailed pc _ (s.noteSelfTest pc T steps) (List.range 16)).1 .tests (by decide)

theorem State.raisesOnly_endTest (s : State) (pc : Nat) (T : TestRun) (found : TestFindings) : s.raisesOnly (s.endTest pc T found) := by
  cases found with
  | traffic passes banks => exact State.raisesOnly_of_funcs rfl
  | selfTest steps =>
    rw [s.endTest_selfTest]
    have hnote : s.raisesOnly (s.noteSelfTest pc T steps) := State.raisesOnly_of_funcs rfl
    exact State.raisesOnly_trans hnote (State.raisesOnly_fenceFailed pc _ _ (List.range 16))

theorem exec_memTestEnd_stands {s : State} (h : s.stacksRun = false) (k : Nat) (found : TestFindings) :
    exec (.memTestEnd k found) s = .next s := by
  dsimp only [exec, execMemTestEnd]
  split
  · rfl
  · rw [h]
    rfl

section
variable {s : State} {k : Nat} {T : TestRun} (hrun : s.stacksRun = true) (ht : tget s.tests k = some T) (hd : T.done = false)
include hrun ht hd

theorem exec_memTestEnd_traffic (hs : T.selfTest = false) (passes : Nat) (banks : List BankCounts) :
    exec (.memTestEnd k (.traffic passes banks)) s = .next (s.endTest k T (.traffic passes banks)) := by
  simp only [exec, execMemTestEnd, ht, hrun, hd, hs, Bool.not_false, Bool.and_self, if_true]

theorem exec_memTestEnd_selfTest (hs : T.selfTest = true) (steps : List Nat) :
    exec (.memTestEnd k (.selfTest steps)) s = .next (s.endTest k T (.selfTest steps)) := by
  simp only [exec, execMemTestEnd, ht, hrun, hd, hs, Bool.not_false, Bool.and_self, if_true]

end

/-! ### Tests are stopped (R39, R40) -/

theorem State.keeps_stopTests (s : State) (l : List Nat) :
    s.keeps [.fuse, .boot, .timer, .funcs, .log, .tests, .out, .free] (s.each l State.stopTest) :=
  State.keeps_each l (fun u pc => State.keeps_stopTest pc (by decide) (State.keeps_self _ u)) (State.keeps_self _ s)

theorem State.raisesOnly_stopTest (s : State) (pc : Nat) : s.raisesOnly (s.stopTest pc) := by
  unfold State.stopTest
  split
  · split
    · exact State.raisesOnly_of_funcs rfl
    · exact State.raisesOnly_trans (s.raisesOnly_endTest pc _ _) (State.raisesOnly_of_funcs rfl)
  · exact State.raisesOnly_of_funcs rfl

/-- Stopping a test of one pseudo-channel leaves the others' alone. -/
theorem State.tget_stopTest_ne (s : State) {pc k : Nat} (h : k ≠ pc) : tget (s.stopTest pc).tests k = tget s.tests k := by
  unfold State.stopTest
  split
  · next T _ =>
    split
    · rfl
    · obtain ⟨T', -, htests⟩ := s.tests_endTest pc T (stoppedFindings s.free pc T)
      rw [State.tests_tick, htests, tget_tput, if_neg h]
  · rfl

theorem State.tget_stopTest_same {s : State} {pc : Nat} {T : TestRun} (h : tget s.tests pc = some T) :
    ∃ T', tget (s.stopTest pc).tests pc = some T' ∧ T'.done = true ∧ (T.done = true → T' = T) := by
  unfold State.stopTest
  rw [h]
  dsimp only
  split
  · next hd => exact ⟨T, h, hd, fun _ => rfl⟩
  · next hd =>
    obtain ⟨T', hdone, htests⟩ := s.tests_endTest pc T (stoppedFindings s.free pc T)
    exact ⟨T', by rw [State.tests_tick, htests, tget_tput, if_pos rfl], hdone, fun h => absurd h hd⟩

theorem State.tget_stopTests_ne (s : State) {l : List Nat} {k : Nat} (h : k ∉ l) : tget (s.each l State.stopTest).tests k = tget s.tests k := by
  refine List.foldlRecOn (motive := fun u : State => tget u.tests k = tget s.tests k) _ _ rfl (fun u hu pc hpc => ?_)
  have hk : k ≠ pc := by
    rintro rfl
    exact h hpc
  rw [u.tget_stopTest_ne hk, hu]

theorem State.tget_stopTests {s : State} {l : List Nat} {k : Nat} {T : TestRun} (hk : k ∈ l) (h : tget s.tests k = some T) :
    ∃ T', tget (s.each l State.stopTest).tests k = some T' ∧ T'.done = true ∧ (T.done = true → T' = T) := by
  induction l generalizing s T with
  | nil => cases hk
  | cons pc l ih =>
    change ∃ T', tget ((s.stopTest pc).each l State.stopTest).tests k = some T' ∧ _
    by_cases hpc : k = pc
    · subst hpc
      obtain ⟨T₁, h₁, hd₁, hs₁⟩ := State.tget_stopTest_same h
      by_cases hl : k ∈ l
      · obtain ⟨T', h', hd', hs'⟩ := ih hl h₁
        exact ⟨T', h', hd', fun hd => (hs' hd₁).trans (hs₁ hd)⟩
      · exact ⟨T₁, by rw [State.tget_stopTests_ne _ hl, h₁], hd₁, hs₁⟩
    · exact ih ((List.mem_cons.1 hk).resolve_left hpc) (by rw [s.tget_stopTest_ne hpc, h])

/-! ### A pseudo-channel is mapped out (R32, R33) -/

theorem State.raisesOnly_topologyCheck (s : State) (peers : Bool) : s.raisesOnly (s.topologyCheck peers) := by
  unfold State.topologyCheck State.setReadiness
  dsimp only
  split
  · exact State.raisesOnly_of_funcs rfl
  · exact State.raisesOnly_trans (State.raisesOnly_of_funcs rfl) (State.raisesOnly_raiseEvent _ 0 6)

/-- The check notes mismatches and readiness; what is held offline stays so. -/
theorem State.offline_topologyCheck (s : State) (peers : Bool) : (s.topologyCheck peers).boot.offline = s.boot.offline := by
  unfold State.topologyCheck State.setReadiness
  dsimp only
  split
  · rfl
  · rw [(State.keeps_raiseEvent (F := [.funcs, .out]) 0 6 (by decide) (State.keeps_self _ _)).1 .boot (by decide)]

theorem State.raisesOnly_mapOut (s : State) (pc : Nat) : s.raisesOnly (s.mapOut pc) :=
  State.raisesOnly_trans (State.raisesOnly_of_funcs rfl) (State.raisesOnly_topologyCheck _ false)

/-- What a map-out leaves. -/
theorem State.mapOut_spec (s : State) (pc : Nat) :
    (s.mapOut pc).fuse = { s.fuse with mapouts := addNat s.fuse.mapouts pc } ∧ (s.mapOut pc).boot.offline = tdel s.boot.offline pc
      ∧ (s.mapOut pc).tests = tdel s.tests pc ∧ (s.mapOut pc).dram = s.dram.clearPc pc ∧ (s.mapOut pc).spad = s.spad := by
  unfold State.mapOut
  dsimp only
  generalize hu : State.resetCounters _ (pcUnit pc) = u
  have hkeeps : u.keeps [.boot, .funcs, .out] (u.topologyCheck false) :=
    State.keeps_topologyCheck false (by decide) (State.keeps_self _ _)
  have h1 : (u.topologyCheck false).fuse = u.fuse := hkeeps.1 .fuse (by decide)
  have h2 : (u.topologyCheck false).tests = u.tests := hkeeps.1 .tests (by decide)
  have h3 : (u.topologyCheck false).dram = u.dram := hkeeps.1 .dram (by decide)
  have h4 : (u.topologyCheck false).spad = u.spad := hkeeps.1 .spad (by decide)
  rw [h1, h2, h3, h4, u.offline_topologyCheck, ← hu]
  exact ⟨rfl, rfl, rfl, rfl, rfl⟩

/-! ### Repairs (R36, R37, R377) -/

/-- A word goes through the code into a spare: correctable, it is clean there; else it is poisoned. -/
def Mem.repaired (m : Mem) (w : Nat) : Mem :=
  if tgetD m.errs w 0 ≤ 2 then m.setErrs w 0 else if m.poison.contains w then m else m.poisonWord w

theorem Mem.cells_repaired (m : Mem) (w : Nat) : (m.repaired w).cells = m.cells := by
  unfold Mem.repaired
  split
  · rfl
  · split <;> rfl

theorem Mem.errs_repaired_self {m : Mem} {w : Nat} (h : tget m.errs w = none ∨ m.poison.contains w = false) :
    tget (m.repaired w).errs w = none := by
  have hdel : tget (tdel m.errs w) w = none := by rw [tget_tdel, if_pos rfl]
  unfold Mem.repaired
  split
  · exact hdel
  · next hmany =>
    have hp : m.poison.contains w = false := h.resolve_left (fun hn => by simp [tgetD, hn] at hmany)
    rw [hp]
    exact hdel

theorem Mem.repaired_ne (m : Mem) {w x : Nat} (h : w ≠ x) :
    tget (m.repaired x).errs w = tget m.errs w ∧ (m.repaired x).poison.contains w = m.poison.contains w := by
  have hdel : tget (tdel m.errs x) w = tget m.errs w := by rw [tget_tdel, if_neg h]
  unfold Mem.repaired
  split
  · exact ⟨hdel, rfl⟩
  · split
    · exact ⟨rfl, rfl⟩
    · exact ⟨hdel, by simp [Mem.poisonWord, mem_addNat, h]⟩

theorem Mem.cells_repairedAll (m : Mem) (l : List Nat) : (l.foldl Mem.repaired m).cells = m.cells :=
  List.foldlRecOn (motive := fun n : Mem => n.cells = m.cells) _ _ rfl (fun n hn w _ => (n.cells_repaired w).trans hn)

theorem Mem.errs_repairedAll {l : List Nat} {m : Mem} {w : Nat} (h : tget m.errs w = none ∨ (w ∈ l ∧ m.poison.contains w = false)) :
    tget (l.foldl Mem.repaired m).errs w = none := by
  induction l generalizing m with
  | nil => simpa using h
  | cons x l ih =>
    refine ih ?_
    by_cases hx : w = x
    · subst hx
      exact .inl (Mem.errs_repaired_self (h.imp_right And.right))
    · obtain ⟨he, hp⟩ := m.repaired_ne hx
      rw [he, hp]
      exact h.imp_right (And.imp_left (fun hm => (List.mem_cons.1 hm).resolve_left hx))

/-- A word of the row or column group in repair. -/
def State.repairWord (s : State) (w : Nat) : State :=
  if tgetD s.dram.errs w 0 ≤ 2 then { s with dram := s.dram.setErrs w 0 } else s.meetWord .dram w true

/-- A word is repaired, and one that is poisoned then is logged. -/
theorem State.repairWord_cases (s : State) (w : Nat) :
    s.repairWord w = { s with dram := s.dram.repaired w } ∨ ∃ n, s.repairWord w = State.logErr { s with dram := s.dram.repaired w } n := by
  unfold State.repairWord Mem.repaired
  split
  · exact .inl rfl
  · next hmany =>
    have hzero : tgetD s.dram.errs w 0 ≠ 0 := by omega
    unfold State.meetWord
    by_cases hp : s.dram.poison.contains w = true
    · simp only [State.store, hp, Bool.true_or, if_true]
      exact .inl trivial
    · simp only [State.store, hp, hzero, decide_false, Bool.or_false, Bool.false_eq_true, if_false, hmany]
      exact .inr ⟨_, rfl⟩

theorem State.dram_repairWord (s : State) (w : Nat) : (s.repairWord w).dram = s.dram.repaired w := by
  rcases s.repairWord_cases w with h | ⟨n, h⟩
  · rw [h]
  · rw [h, (State.keeps_logErr (F := [.timer, .funcs, .log, .out, .free]) n (by decide) (State.keeps_self _ _)).1 .dram (by decide)]

theorem State.raisesOnly_repairWord (s : State) (w : Nat) : s.raisesOnly (s.repairWord w) := by
  rcases s.repairWord_cases w with h | ⟨n, h⟩
  · rw [h]
    exact State.raisesOnly_of_funcs rfl
  · rw [h]
    exact State.raisesOnly_logErr { s with dram := s.dram.repaired w } n

theorem State.repairWord_frame (s : State) (w : Nat) : (s.repairWord w).spad = s.spad ∧ (s.repairWord w).fuse = s.fuse := by
  rcases s.repairWord_cases w with h | ⟨n, h⟩
  · rw [h]
    exact ⟨rfl, rfl⟩
  · have hkeeps := State.keeps_logErr (F := [.timer, .funcs, .log, .out, .free]) n (by decide)
      (State.keeps_self _ { s with dram := s.dram.repaired w })
    rw [h]
    exact ⟨hkeeps.1 .spad (by decide), hkeeps.1 .fuse (by decide)⟩

/-- Words with stored errors of the row or column group of a candidate. -/
def State.repairWords (s : State) (c : Candidate) : List Nat := (s.dram.errs.map Prod.fst).filter c.holds

theorem State.raisesOnly_applyRepair (s : State) (c : Candidate) : s.raisesOnly (s.applyRepair c) :=
  State.raisesOnly_trans (State.raisesOnly_each State.raisesOnly_repairWord s (s.repairWords c)) (State.raisesOnly_of_funcs rfl)

theorem State.dram_applyRepair (s : State) (c : Candidate) : (s.applyRepair c).dram = (s.repairWords c).foldl Mem.repaired s.dram :=
  (List.foldl_hom State.dram (fun u w => (u.dram_repairWord w).symm)).symm

theorem State.repairWords_frame (s : State) (l : List Nat) :
    (s.each l State.repairWord).spad = s.spad ∧ (s.each l State.repairWord).fuse = s.fuse := by
  refine List.foldlRecOn (motive := fun u : State => u.spad = s.spad ∧ u.fuse = s.fuse) _ _ ⟨rfl, rfl⟩ (fun u hu w _ => ?_)
  obtain ⟨hspad, hfuse⟩ := u.repairWord_frame w
  exact ⟨hspad.trans hu.1, hfuse.trans hu.2⟩

/-- The repair that the fuse record takes up for a candidate. -/
def Fuse.repairOf (f : Fuse) (c : Candidate) : Repair := { bank := c.bank, unit := c.unit, spare := f.sparesUsed c }

/-- What a repair leaves (R377): its fuse entry, and the words of the array. -/
theorem State.applyRepair_spec (s : State) (c : Candidate) :
    (s.applyRepair c).fuse = (if c.column then { s.fuse with columnRepairs := s.fuse.columnRepairs ++ [s.fuse.repairOf c] }
        else { s.fuse with rowRepairs := s.fuse.rowRepairs ++ [s.fuse.repairOf c] })
      ∧ (s.applyRepair c).dram.cells = s.dram.cells ∧ (s.applyRepair c).spad = s.spad
      ∧ ∀ w, c.holds w = true → s.dram.poison.contains w = false → tget (s.applyRepair c).dram.errs w = none := by
  obtain ⟨hspad, hfuse⟩ := s.repairWords_frame (s.repairWords c)
  refine ⟨?_, ?_, hspad, fun w hw hp => ?_⟩
  · rw [Fuse.repairOf, ← hfuse]
    rfl
  · rw [s.dram_applyRepair, Mem.cells_repairedAll]
  · rw [s.dram_applyRepair]
    refine Mem.errs_repairedAll ?_
    by_cases he : ∃ e ∈ s.dram.errs, e.1 = w
    · obtain ⟨e, he, rfl⟩ := he
      exact .inr ⟨List.mem_filter.2 ⟨List.mem_map.2 ⟨e, he, rfl⟩, hw⟩, hp⟩
    · exact .inl (tget_eq_none (fun e hm h => he ⟨e, hm, h⟩))

/-! ### What the messages leave -/

section
variable {s t : State} {fn : Nat}

/-- What the stop of tests leaves (R39, R40). -/
theorem State.testsStopped {l : List Nat} (ht : t = (s.each l State.stopTest).respond fn .ok []) :
    s.answered t fn .ok []
      ∧ (∀ k ∈ l, ∀ T, tget s.tests k = some T → ∃ T', tget t.tests k = some T' ∧ T'.done = true ∧ (T.done = true → T' = T))
      ∧ (∀ k, k ∉ l → tget t.tests k = tget s.tests k) ∧ t.dram = s.dram ∧ t.parts = s.parts ∧ t.flight = s.flight := by
  have hkeeps := s.keeps_stopTests l
  have hans := State.answered_after (State.raisesOnly_each State.raisesOnly_stopTest s l) fn .ok []
  obtain ⟨F, H, O, hr⟩ := (s.each l State.stopTest).respond_eq fn .ok []
  rw [← ht] at hans
  rw [hr] at ht
  subst ht
  exact ⟨hans, fun k hk T hT => State.tget_stopTests hk hT, fun k hk => s.tget_stopTests_ne hk, hkeeps.1 .dram (by decide),
    hkeeps.1 .parts (by decide), hkeeps.1 .flight (by decide)⟩

/-- What the end of a self-test leaves (R72, R73). -/
theorem State.selfTestEnded (s : State) (k : Nat) (T : TestRun) (steps : List Nat) :
    let t := s.endTest k T (.selfTest steps)
    tget t.tests k = some (T.selfTested steps)
      ∧ (∀ i < 16, (steps[i]?).getD 0 ≠ 0 → s.fuse.cuffFences.contains (k * 16 + i) = false → t.cuffFenced (k * 16 + i) = true)
      ∧ t.fuse.rowRepairs = s.fuse.rowRepairs ∧ t.dram = s.dram ∧ t.flight = s.flight := by
  intro t
  have hkeeps := State.keeps_fenceFailed k (T.selfTested steps).steps (s.noteSelfTest k T steps) (List.range 16)
  have htests : t.tests = tput s.tests k (T.selfTested steps) := hkeeps.1 .tests (by decide)
  refine ⟨by rw [htests, tget_tput, if_pos rfl], fun i hi hbad hnew => ?_, State.rowRepairs_fenceFailed k _ _ _,
    hkeeps.1 .dram (by decide), hkeeps.1 .flight (by decide)⟩
  refine State.cuffFenced_fenceFailed k _ (s := s.noteSelfTest k T steps) (List.mem_range.2 hi) ?_ hnew
  simp only [List.getElem?_map, List.getElem?_range hi, Option.map_some, Option.getD_some]
  omega

/-- What a map-out leaves (R33). -/
theorem State.mappedOut_after {pc : Nat} (ht : t = (s.mapOut pc).respond fn .ok []) :
    s.answered t fn .ok [] ∧ t.mappedOut pc = true ∧ tget t.boot.offline pc = none ∧ tget t.tests pc = none
      ∧ (∀ a, a / (16 * bankStride) = pc → t.dram.get a = 0) ∧ (∀ a, a / (16 * bankStride) ≠ pc → t.dram.get a = s.dram.get a)
      ∧ t.fuse = { s.fuse with mapouts := t.fuse.mapouts } ∧ t.spad = s.spad := by
  obtain ⟨hfuse, hoffline, htests, hdram, hspad⟩ := s.mapOut_spec pc
  have hans := State.answered_after (s.raisesOnly_mapOut pc) fn .ok []
  obtain ⟨F, H, O, hr⟩ := (s.mapOut pc).respond_eq fn .ok []
  rw [← ht] at hans
  rw [hr] at ht
  subst ht
  refine ⟨hans, ?_, ?_, ?_, fun a ha => ?_, fun a ha => ?_, ?_, hspad⟩
  · simp [State.mappedOut, hfuse, mem_addNat]
  · rw [hoffline, tget_tdel, if_pos rfl]
  · rw [htests, tget_tdel, if_pos rfl]
  · rw [hdram, Mem.get_clearPc, if_pos ha]
  · rw [hdram, Mem.get_clearPc, if_neg ha]
  · rw [hfuse]

/-- What a repair and its answer leave (R37, R377). -/
theorem State.repaired_after {c : Candidate} {body : Bytes} (ht : t = (s.applyRepair c).respond fn .ok body) :
    s.answered t fn .ok body
      ∧ (c.column = true → t.fuse = { s.fuse with columnRepairs := s.fuse.columnRepairs ++ [s.fuse.repairOf c] })
      ∧ (c.column = false → t.fuse = { s.fuse with rowRepairs := s.fuse.rowRepairs ++ [s.fuse.repairOf c] })
      ∧ t.dram.cells = s.dram.cells ∧ t.spad = s.spad
      ∧ ∀ w, c.holds w = true → s.dram.poison.contains w = false → tget t.dram.errs w = none := by
  obtain ⟨hfuse, hcells, hspad, herrs⟩ := s.applyRepair_spec c
  have hans := State.answered_after (s.raisesOnly_applyRepair c) fn .ok body
  obtain ⟨F, H, O, hr⟩ := (s.applyRepair c).respond_eq fn .ok body
  rw [← ht] at hans
  rw [hr] at ht
  subst ht
  exact ⟨hans, fun h => hfuse.trans (if_pos h), fun h => hfuse.trans (if_neg (Bool.eq_false_iff.1 h)), hcells, hspad, herrs⟩

/-! ### The messages -/

theorem exec_memRepair {i : Instr} {col : Bool} (hi : (i = .memRepairRow fn ∧ col = false) ∨ (i = .memRepairColumn fn ∧ col = true)) :
    exec i s = s.serve fn (repairRow (b2n col)) State.memRepair
      ∧ messageOf i = some (fn, { repairRow (b2n col) with size := fun _ => 0 }) := by
  rcases hi with ⟨rfl, rfl⟩ | ⟨rfl, rfl⟩ <;> exact ⟨rfl, rfl⟩

end

theorem column_repairOf {b : Bytes} {col : Bool} (h : u8 b 0 = b2n col) : (repairOf b).column = col := by
  cases col <;> simp [repairOf, h, b2n]

theorem State.length_sparesBody (s : State) (c : Candidate) : (s.sparesBody c).length = 2 := by
  simp [State.sparesBody]

/-- Settles O60: each message's fields and conditions are those that `State.checked` looks at, and each effect is the message's own. -/
theorem maintenanceMessagesAct : Obligations.MaintenanceMessagesAct := by
  unfold Obligations.MaintenanceMessagesAct
  intro s fn b named pc
  refine ⟨fun i self hi => ?_, ?_, fun h k found => exec_memTestEnd_stands h k found,
    fun k T found hrun ht hd => ⟨?_, ?_⟩, ?_, fun i col hi => ?_⟩
  · obtain ⟨hexec, hm⟩ := exec_startTests (s := s) hi
    refine State.decides_checked hexec hm rfl (fun hmine => ?_) ?_ (fun _ _ => State.testsBegun rfl)
    · rw [← opIs_legal (last := 3) (by cases self <;> decide) hmine]
      cases self
      · simp only [Bool.false_eq_true, if_false, List.forall_mem_append, List.forall_mem_cons, decide_eq_true_eq]
        tauto
      · simp [named, b, and_comm]
    · simp [testPcs, b]
  · refine State.decides_checked (size := fun _ => 24) (by dsimp only [exec, execMemTestStop]) rfl rfl (fun hmine => ?_) ?_
      (fun _ _ => State.testsStopped rfl)
    · rw [← opIs_legal (last := 3) (by decide) hmine]
      simp [named, b]
    · simp [testPcs, State.unlockedPcs, b]
  · rintro passes banks rfl hs
    exact ⟨_, _, exec_memTestEnd_traffic hrun ht hd hs passes banks, (tget_tput _ _ _ _).trans (if_pos rfl), rfl, rfl, rfl⟩
  · rintro steps rfl hs
    obtain ⟨htests, hends⟩ := s.selfTestEnded k T steps
    exact ⟨_, _, exec_memTestEnd_selfTest hrun ht hd hs steps, htests, rfl, rfl, hends⟩
  · refine State.decides_checked (size := fun _ => 0) (by dsimp only [exec, execMemMapout]) rfl rfl (fun _ => by simp [pc, b]) ?_
      (fun _ _ => State.mappedOut_after rfl)
    simp only [List.forall_mem_cons, Bool.not_eq_true', decide_eq_true_eq, List.isEmpty_iff]
    tauto
  · obtain ⟨hexec, hm⟩ := exec_memRepair (s := s) hi
    refine State.decides_checked hexec hm rfl (fun hmine => ?_) (by simp [b]) (fun hl _ => ?_)
    · rw [← opIs_legal (last := 1) (by cases col <;> decide) hmine]
      by_cases hop : u8 b 0 = b2n col
      · cases col <;> simp [column_repairOf hop, b, and_assoc]
      · simp [opIs_legal (last := 1) (by cases col <;> decide) hmine, hop, b]
    · obtain ⟨hans, hfuse⟩ := State.repaired_after (s := s) (fn := fn) (c := repairOf b)
        (body := (s.applyRepair (repairOf b)).sparesBody (repairOf b)) rfl
      obtain ⟨hop, -⟩ := hl
      rw [column_repairOf hop] at hfuse
      exact ⟨⟨_, hans, State.length_sparesBody _ _⟩, hfuse⟩

end Sys2Proof.Machine
end

section
/-! SUPPORT. NearBytes.lean: which bytes of the arrays the readers of words and the Cuffs leave alone, and what an entry stores (O35). -/

namespace Sys2Proof.Machine

/-- A property that every step of a fold keeps holds at its end. -/
theorem State.each_induction {α : Type} {R : State → Prop} {f : State → α → State} {l : List α} {s : State} (h : R s)
    (step : ∀ u x, x ∈ l → R u → R (f u x)) : R (s.each l f) := by
  induction l generalizing s with
  | nil => exact h
  | cons x l ih => exact ih (step s x List.mem_cons_self h) (fun u y hy => step u y (List.mem_cons_of_mem x hy))

/-! ### Readers of words: poison, counts and write-backs, but no byte (R385, R386) -/

/-- Every byte, every entry of the dispatchers and every finished partial is as it was. -/
structure State.bytesStay (s t : State) : Prop where
  dram : t.dram.cells = s.dram.cells
  spad : t.spad.cells = s.spad.cells
  host : t.hostMem = s.hostMem
  entries : t.near.entries = s.near.entries
  finished : t.near.finished = s.near.finished

theorem State.bytesStay_self (s : State) : s.bytesStay s := ⟨rfl, rfl, rfl, rfl, rfl⟩

theorem State.bytesStay_trans {s t u : State} (h : s.bytesStay t) (k : t.bytesStay u) : s.bytesStay u :=
  ⟨k.dram.trans h.dram, k.spad.trans h.spad, k.host.trans h.host, k.entries.trans h.entries, k.finished.trans h.finished⟩

theorem State.bytesStay_of_keeps {s t : State} {F : List Field} (h : s.keeps F t)
    (hF : .dram ∉ F ∧ .spad ∉ F ∧ .hostMem ∉ F ∧ .near ∉ F) : s.bytesStay t := by
  obtain ⟨hd, hs, hh, hn⟩ := hF
  have near : t.near = s.near := h.1 .near hn
  exact ⟨congrArg Mem.cells (h.1 .dram hd), congrArg Mem.cells (h.1 .spad hs), h.1 .hostMem hh, by rw [near], by rw [near]⟩

theorem State.bytesStay_each {α : Type} {f : State → α → State} (hf : ∀ u x, State.bytesStay u (f u x)) (s : State) (l : List α) :
    s.bytesStay (s.each l f) :=
  State.each_induction s.bytesStay_self (fun u x _ h => State.bytesStay_trans h (hf u x))

theorem State.bytesStay_logErr (s : State) (n : LogNew) : s.bytesStay (s.logErr n) :=
  State.bytesStay_of_keeps (F := [.timer, .funcs, .log, .out, .free]) (by simp) (by decide)

theorem State.bytesStay_poisonWord (s : State) (st : Store) (w : Nat) : s.bytesStay (s.setStore st ((s.store st).poisonWord w)) := by
  cases st <;> exact ⟨rfl, rfl, rfl, rfl, rfl⟩

/-- Words are put on the lists of those to be written back. -/
theorem State.bytesStay_backs (s : State) (l : List (Store × Nat)) (k : List (Nat × Nat)) :
    s.bytesStay { s with near := { s.near with writeBacks := l, cuffBacks := k } } := ⟨rfl, rfl, rfl, rfl, rfl⟩

theorem State.bytesStay_meetWord (s : State) (st : Store) (w : Nat) (first : Bool) : s.bytesStay (s.meetWord st w first) := by
  unfold State.meetWord
  dsimp only
  split
  · exact s.bytesStay_self
  · split
    · cases st
      · exact State.bytesStay_trans (s.bytesStay_backs _ s.near.cuffBacks) (State.bytesStay_of_keeps
          (F := [.flash, .timer, .funcs, .log, .rowHits, .perf, .out, .free])
          (State.keeps_countCorrected _ _ _ (by decide) (State.keeps_self _ _)) (by decide))
      · exact s.bytesStay_backs _ s.near.cuffBacks
    · exact State.bytesStay_trans (s.bytesStay_poisonWord st w) (State.bytesStay_logErr _ _)

theorem State.bytesStay_meetWords (s : State) (st : Store) (l : List Nat) : s.bytesStay (s.meetWords st l) :=
  State.bytesStay_each (fun u w => u.bytesStay_meetWord st w _) s l

theorem State.bytesStay_meetSeg (s : State) (g : Seg) : s.bytesStay (s.meetSeg g) := by
  unfold State.meetSeg
  split
  · exact s.bytesStay_self
  · exact s.bytesStay_meetWords .dram _
  · exact s.bytesStay_meetWords .spad _

theorem State.bytesStay_meetAll (s : State) (l : List Seg) : s.bytesStay (s.meetAll l) :=
  State.bytesStay_each State.bytesStay_meetSeg s l

theorem State.bytesStay_condition (s : State) (id : Nat) (st : Status) : s.bytesStay (s.condition id st) :=
  State.bytesStay_of_keeps (F := [.flight]) (by simp) (by decide)

theorem State.bytesStay_readVa (s : State) (id p : Nat) (P : Partition) (r : VaRange) : s.bytesStay (s.readVa id p P r) := by
  unfold State.readVa
  split
  · exact s.bytesStay_self
  · split
    · exact s.bytesStay_condition id .bounds
    · exact State.bytesStay_trans (State.bytesStay_of_keeps (F := [.flight]) (State.keeps_crossReads _ _ (by decide) (State.keeps_self _ _))
        (by decide)) (State.bytesStay_meetAll _ _)

theorem State.bytesStay_cuffMeet (s : State) (cmd : Nat) (g : Seg) : s.bytesStay (s.cuffMeet cmd g) :=
  State.bytesStay_trans (s.bytesStay_backs s.near.writeBacks _) (State.bytesStay_meetSeg _ g)

/-- A write is noted by the commands that it meets, and what it replaces is remembered. -/
theorem State.bytesStay_noted (s : State) (w : Writer) (g : Seg) (b : Bytes) (bad : Nat → Bool) :
    s.bytesStay ((s.mixReaders w g b bad).unsettle w g) :=
  State.bytesStay_of_keeps (F := [.flight, .unsettled]) (by simp) (by decide)

theorem Mem.cells_poisonWords (m : Mem) (l : List Nat) : (l.foldl Mem.poisonWord m).cells = m.cells :=
  List.foldlRecOn (motive := fun n : Mem => n.cells = m.cells) l Mem.poisonWord rfl (fun _ h _ _ => h)

theorem Mem.get_poisonWords (m : Mem) (l : List Nat) (a : Nat) : (l.foldl Mem.poisonWord m).get a = m.get a :=
  congrArg (fun c => cget c a) (m.cells_poisonWords l)

/-! ### Work of a Cuff -/

/-- No byte of device memory outside D, none of the scratchpads and no entry of the dispatchers has changed. -/
structure State.cuffStores (D : Nat → Prop) (s t : State) : Prop where
  dram : ∀ a, ¬D a → t.dram.get a = s.dram.get a
  spad : ∀ a, t.spad.get a = s.spad.get a
  entries : t.near.entries = s.near.entries

/-! Bytes that an entry's arithmetic gives -/

theorem length_flatMap_le {α : Type} (l : List α) {f : α → Bytes} {k : Nat} (h : ∀ x, (f x).length ≤ k) : (l.flatMap f).length ≤ l.length * k := by
  induction l with
  | nil => simp
  | cons x l ih =>
    have := h x
    rw [List.flatMap_cons, List.length_append, List.length_cons, Nat.add_one_mul]
    omega

/-- A line of at most 32 bytes for each 32 bytes of a range fits into the range. -/
theorem length_fill_le (len : Nat) (line : Bytes) (h : line.length ≤ 32) : ((List.range (len / 32)).flatMap (fun _ => line)).length ≤ len := by
  have hl := length_flatMap_le (List.range (len / 32)) (f := fun _ => line) (fun _ => h)
  rw [List.length_range] at hl
  exact hl.trans (Nat.div_mul_le_self len 32)

theorem length_codesFrom (width n shift : Nat) (b : Bytes) : (codesFrom width n shift b).length = n := by
  induction n generalizing shift b with
  | zero => rfl
  | succ n ih => rw [codesFrom, List.length_cons, ih]

theorem length_codesOf (width n : Nat) (b : Bytes) : (codesOf width n b).length = n := length_codesFrom width n 0 b

theorem length_axpyBytes_le (bf : Bool) (a : Num) (x y rest : Bytes) : (axpyBytes bf a x y rest).length ≤ y.length := by
  unfold axpyBytes
  extract_lets w dec
  have hdec : ((dec x).zip (dec y)).length ≤ y.length / w := by
    rw [List.length_zip, List.length_map, List.length_map, length_codesOf, length_codesOf]
    exact Nat.min_le_left _ _
  have helems := (length_flatMap_le ((dec x).zip (dec y)) (f := fun e =>
    let sum := (e.2.add ((a.mul e.1).r32)).r32
    if bf then natLe 2 (bf16.encode .nearest false sum) else natLe 4 (fp32.encode .nearest false sum)) (k := w)
    (fun e => by cases bf <;> simp [w])).trans (Nat.mul_le_mul_right w hdec)
  rw [List.length_append]
  refine (Nat.add_le_add helems (List.length_take_le _ _)).trans ?_
  exact (Nat.div_add_mod' y.length w).le

theorem State.length_viewDram_le (s : State) (r : Reader) (a n : Nat) : (s.viewDram r a n).1.length ≤ n := by
  simp [State.viewDram, State.view, State.observeAll]

theorem length_padTo (n : Nat) (b : Bytes) : (padTo n b).length = n := by
  simp only [padTo, zeros, List.length_append, List.length_take, List.length_replicate]
  omega

/-- A pack is its scale bytes, padded to 32, and the codes of 1,024 elements (R192). -/
theorem length_packUnit (t : Dtype) (group : Nat) (e4 : Bool) (xs : List (Num × Bool)) : (packUnit t group e4 xs).1.length = t.packBytes := by
  simp only [packUnit, List.length_append, length_padTo, length_natLe, Dtype.packBytes]

/-- A destination of NB_QUANT is made of packs (R65). -/
theorem unitBytes_quantDst {c : Nat} (h : quantDst c = true) :
    unitBytes ((Dtype.ofCode c).getD .e4m3) = ((Dtype.ofCode c).getD .e4m3).packBytes := by
  refine if_neg (fun hbf => ?_)
  have hc : c = 2 := by
    unfold Dtype.ofCode at hbf
    split at hbf <;> simp_all
  simp [quantDst, hc] at h

section
variable {D : Nat → Prop} {s₀ s : State}

theorem State.cuffStores_self (D : Nat → Prop) (s : State) : s.cuffStores D s := ⟨fun _ _ => rfl, fun _ => rfl, rfl⟩

theorem State.cuffStores_trans {t : State} (h : s₀.cuffStores D s) (k : s.cuffStores D t) : s₀.cuffStores D t :=
  ⟨fun a ha => (k.dram a ha).trans (h.dram a ha), fun a => (k.spad a).trans (h.spad a), k.entries.trans h.entries⟩

theorem State.cuffStores_then {t : State} (k : s.bytesStay t) (h : s₀.cuffStores D s) : s₀.cuffStores D t :=
  State.cuffStores_trans h ⟨fun a _ => by rw [Mem.get, k.dram]; rfl, fun a => by rw [Mem.get, k.spad]; rfl, k.entries⟩

theorem State.cuffStores_condition (id : Nat) (st : Status) (h : s₀.cuffStores D s) : s₀.cuffStores D (s.condition id st) :=
  State.cuffStores_then (s.bytesStay_condition id st) h

theorem State.cuffStores_updNb (id : Nat) (g : Nb → Nb) (h : s₀.cuffStores D s) : s₀.cuffStores D (s.updNb id g) :=
  ⟨h.dram, h.spad, h.entries⟩

theorem State.cuffStores_tick (h : s₀.cuffStores D s) : s₀.cuffStores D s.tick := ⟨h.dram, h.spad, h.entries⟩

theorem State.cuffStores_setSram (bank : Nat) (m : Sram) (h : s₀.cuffStores D s) : s₀.cuffStores D (s.setSram bank m) :=
  ⟨h.dram, h.spad, h.entries⟩

theorem State.cuffStores_setCuff (bank : Nat) (c : Cuff) (h : s₀.cuffStores D s) : s₀.cuffStores D (s.setCuff bank c) :=
  ⟨h.dram, h.spad, h.entries⟩

theorem State.cuffStores_endLeases (h : s₀.cuffStores D s) : s₀.cuffStores D s.endLeases := ⟨h.dram, h.spad, h.entries⟩

theorem State.cuffStores_cuffMeet (cmd : Nat) (g : Seg) (h : s₀.cuffStores D s) : s₀.cuffStores D (s.cuffMeet cmd g) :=
  State.cuffStores_then (s.bytesStay_cuffMeet cmd g) h

theorem State.cuffStores_readVa (id p : Nat) (P : Partition) (r : VaRange) (h : s₀.cuffStores D s) :
    s₀.cuffStores D (s.readVa id p P r) :=
  State.cuffStores_then (s.bytesStay_readVa id p P r) h

theorem State.cuffStores_ite {c : Prop} {_ : Decidable c} {t : State} (hs : s₀.cuffStores D s) (ht : s₀.cuffStores D t) :
    s₀.cuffStores D (if c then s else t) := by
  split <;> assumption

/-! ### Partials (R56, R57) -/

theorem State.cuffStores_finishPartial (r : PartialRec) (h : s₀.cuffStores D s) : s₀.cuffStores D (s.finishPartial r) := by
  have hf : s₀.cuffStores D { s with near := { s.near with finished := s.near.finished ++ [r] } } := ⟨h.dram, h.spad, h.entries⟩
  unfold State.finishPartial
  exact State.cuffStores_ite (State.cuffStores_condition _ _ (State.cuffStores_updNb _ _ hf)) hf

theorem State.cuffStores_finishBags (cmd bank : Nat) (n : Nb) (h : s₀.cuffStores D s) :
    s₀.cuffStores D (s.finishBags cmd bank n) := by
  unfold State.finishBags
  exact State.each_induction (State.cuffStores_setCuff _ _ h) (fun u x _ hu => State.cuffStores_finishPartial _ hu)

theorem State.cuffStores_deliver (f : Flight) (n : Nb) (id : Nat) (pair : Pair) (pc : Nat) (h : s₀.cuffStores D s) :
    s₀.cuffStores D (s.deliver f n id pair pc).1 := by
  unfold State.deliver
  split
  · exact h
  · split
    · exact h
    · exact State.cuffStores_updNb _ _ (State.cuffStores_readVa _ _ _ _ h)

theorem State.cuffStores_passes (f : Flight) (t : NbAttend) (o : Pool) (bank cmd : Nat) (x : AttHold) (rows : Bytes) (k lo : Nat)
    (h : s₀.cuffStores D s) : s₀.cuffStores D (s.passes f t o bank cmd x rows k lo).1 := by
  induction k generalizing s lo with
  | zero => exact h
  | succ k ih =>
    unfold State.passes
    refine ih _ ?_
    exact List.foldlRecOn (motive := fun acc : State × List AttRow × Bool => s₀.cuffStores D acc.1) _ _
      (State.cuffStores_setSram _ _ h) (fun acc hacc e _ => State.cuffStores_tick (State.cuffStores_cuffMeet _ _ hacc))

theorem State.cuffStores_finishPair (f : Flight) (cmd bank : Nat) (n : Nb) (h : s₀.cuffStores D s) :
    s₀.cuffStores D (s.finishPair f cmd bank n) := by
  unfold State.finishPair
  dsimp only
  split
  · exact State.cuffStores_finishPartial _ (State.cuffStores_setCuff _ _
      (State.cuffStores_passes _ _ _ _ _ _ _ _ _ (State.cuffStores_deliver _ _ _ _ _ h)))
  · exact h

theorem State.cuffStores_closeBank (id bank : Nat) (f : Flight) (n : Nb) (h : s₀.cuffStores D s) :
    s₀.cuffStores D (s.closeBank id bank f n) := by
  have drop : ∀ u, s₀.cuffStores D u → s₀.cuffStores D { u with near := { u.near with cuffs := tdel u.near.cuffs (cuffKey id bank) } } :=
    fun u hu => ⟨hu.dram, hu.spad, hu.entries⟩
  unfold State.closeBank
  refine State.cuffStores_endLeases (drop _ (State.cuffStores_ite ?fenced ?runs))
  case fenced => exact State.cuffStores_ite (State.cuffStores_condition _ _ h) h
  case runs => exact State.cuffStores_finishBags _ _ _ (State.cuffStores_finishPair _ _ _ _ h)

theorem State.cuffStores_afterEntry (id bank : Nat) (h : s₀.cuffStores D s) : s₀.cuffStores D (s.afterEntry id bank) := by
  unfold State.afterEntry
  dsimp only
  split
  · exact State.cuffStores_updNb _ _ h
  · have hg := State.cuffStores_updNb id (fun n => { n with groups := bank / 16 :: n.groups.filter (fun g => decide (g ≠ bank / 16)) }) h
    exact State.cuffStores_ite (State.cuffStores_closeBank _ _ _ _ hg) (State.cuffStores_endLeases hg)

theorem State.cuffStores_startEntry (e : Entry) (fault : CuffFault) (h : s₀.cuffStores D s) :
    s₀.cuffStores D (s.startEntry e fault).1 := by
  unfold State.startEntry
  dsimp only
  exact State.cuffStores_ite h (State.cuffStores_setSram _ _ h)

/-! ### Entries that store partials alone (R53, R59 to R62) -/

theorem State.cuffStores_attendEntry (f : Flight) (n : Nb) (e : Entry) (pair : Pair) (j addr : Nat) (hurt : Bool)
    (h : s₀.cuffStores D s) : s₀.cuffStores D (s.attendEntry f n e pair j addr hurt) := by
  unfold State.attendEntry
  dsimp only
  split
  · exact h
  · refine State.cuffStores_tick (State.cuffStores_cuffMeet _ _ (State.cuffStores_setSram _ _ (State.cuffStores_setCuff _ _
      (State.cuffStores_deliver _ _ _ _ _ ?_))))
    split
    · exact State.cuffStores_ite h (State.cuffStores_finishPair _ _ _ _ h)
    · exact h

theorem State.cuffStores_poolEntry (f : Flight) (n : Nb) (e : Entry) (bag addr : Nat) (weight : W32) (hurt : Bool) (acc : List Nat)
    (h : s₀.cuffStores D s) : s₀.cuffStores D (s.poolEntry f n e bag addr weight hurt acc) := by
  unfold State.poolEntry
  exact State.cuffStores_cuffMeet _ _ (State.cuffStores_setSram _ _ (State.cuffStores_setCuff _ _
    (State.cuffStores_ite h (State.cuffStores_finishBags _ _ _ h))))

theorem State.cuffStores_scanEntry (f : Flight) (e : Entry) (ordinal addr : Nat) (hurt : Bool) (row : Option Nat)
    (h : s₀.cuffStores D s) : s₀.cuffStores D (s.scanEntry f e ordinal addr hurt row) := by
  unfold State.scanEntry
  split
  · exact h
  · refine State.each_induction (State.cuffStores_setSram _ _ ?_) (fun u x _ hu => State.cuffStores_finishPartial _ hu)
    exact State.each_induction (State.cuffStores_readVa _ _ _ _ h) (fun u x _ hu => State.cuffStores_cuffMeet _ _ hu)

theorem State.cuffStores_mixReaders (w : Writer) (g : Seg) (b : Bytes) (bad : Nat → Bool) (h : s₀.cuffStores D s) :
    s₀.cuffStores D (s.mixReaders w g b bad) := ⟨h.dram, h.spad, h.entries⟩

theorem State.cuffStores_unsettle (w : Writer) (g : Seg) (h : s₀.cuffStores D s) : s₀.cuffStores D (s.unsettle w g) :=
  State.cuffStores_then (State.bytesStay_of_keeps (F := [.unsettled]) (by simp) (by decide)) h

/-! ### Entries that write device memory (R63 to R65) -/

/-- Bytes written by a Cuff, all of them within D. -/
theorem State.cuffStores_cuffWrite (w : Writer) {addr : Nat} {b : Bytes} (bad : List Nat) (hD : ∀ a, addr ≤ a → a < addr + b.length → D a)
    (h : s₀.cuffStores D s) : s₀.cuffStores D (s.cuffWrite w addr b bad) := by
  unfold State.cuffWrite
  extract_lets words g u
  have hu : s₀.cuffStores D u := State.cuffStores_unsettle _ _ (State.cuffStores_mixReaders _ _ _ _ h)
  refine ⟨fun a ha => ?_, hu.spad, hu.entries⟩
  rw [Mem.get_poisonWords, Mem.get_write, if_neg (fun hin => ha (hD a hin.1 hin.2))]
  exact hu.dram a ha

/-- A range within D is cleared. -/
theorem State.cuffStores_clear {addr len : Nat} (gone : Store → Nat → Bool) (hD : ∀ a, addr ≤ a → a < addr + len → D a) (h : s₀.cuffStores D s) :
    s₀.cuffStores D { s with dram := s.dram.clear addr len, near := s.near.dropBacks gone } := by
  refine ⟨fun a ha => ?_, h.spad, h.entries⟩
  rw [Mem.get_clear, if_neg (fun hin => ha (hD a hin.1 hin.2))]
  exact h.dram a ha

/-- A fill stores to its range alone. -/
theorem State.cuffStores_fillEntry (f : Flight) (e : Entry) {addr len : Nat} (hD : ∀ a, addr ≤ a → a < addr + len → D a)
    (h : s₀.cuffStores D s) : s₀.cuffStores D (s.fillEntry f e addr len) := by
  unfold State.fillEntry
  dsimp only
  split
  · refine State.cuffStores_clear _ hD (State.cuffStores_unsettle _ _ (State.cuffStores_ite (State.cuffStores_mixReaders _ _ _ _ ?_) ?_))
      <;> exact State.cuffStores_setSram _ _ h
  · refine State.cuffStores_cuffWrite _ _ (fun a hlo hhi => hD a hlo (Nat.lt_of_lt_of_le hhi (Nat.add_le_add_left ?_ _)))
      (State.cuffStores_setSram _ _ h)
    exact length_fill_le len _ (by simp [nbFillOf])

/-- A ZERO fill leaves zeros in its range (R63). -/
theorem State.get_fillEntry_zero (s : State) {f : Flight} (e : Entry) {addr len a : Nat} (hz : (nbFillOf f.bytes).zero = true)
    (hlo : addr ≤ a) (hhi : a < addr + len) : (s.fillEntry f e addr len).dram.get a = 0 := by
  unfold State.fillEntry
  dsimp only
  rw [if_pos hz]
  exact (Mem.get_clear _ _ _ _).trans (if_pos ⟨hlo, hhi⟩)

theorem State.cuffStores_axpyEntry (f : Flight) (e : Entry) {x y len : Nat} (hurt : List Nat) (hD : ∀ a, y ≤ a → a < y + len → D a)
    (h : s₀.cuffStores D s) : s₀.cuffStores D (s.axpyEntry f e x y len hurt) := by
  unfold State.axpyEntry
  extract_lets vx vy bad out _ metBoth written chunk _ held
  have hout : out.length ≤ len := (length_axpyBytes_le _ _ _ _ _).trans (s.length_viewDram_le _ _ _)
  have hmet : s₀.cuffStores D metBoth := State.cuffStores_cuffMeet _ _ (State.cuffStores_cuffMeet _ _ h)
  have hwritten : s₀.cuffStores D written := State.cuffStores_cuffWrite _ _ (fun a hlo hhi => hD a hlo (by omega)) hmet
  have hheld : s₀.cuffStores D held := State.cuffStores_setSram _ _ hwritten
  exact State.cuffStores_ite hheld (State.cuffStores_condition _ _ hheld)

/-- The range to which an NB_QUANT entry stores: whole packs from its destination on, where the record names a type that is packed. -/
def quantTarget (f : Flight) (dst units a : Nat) : Prop :=
  quantDst (u8 f.bytes 9) = true → dst ≤ a ∧ a < dst + units * unitBytes ((Dtype.ofCode (u8 f.bytes 9)).getD .e4m3)

theorem State.cuffStores_quantEntry (f : Flight) (e : Entry) (src dst units : Nat) (hurt : List (Nat × Nat))
    (h : s₀.cuffStores (quantTarget f dst units) s) : s₀.cuffStores (quantTarget f dst units) (s.quantEntry f e src dst units hurt) := by
  unfold State.quantEntry
  extract_lets st dt group e4 outs
  have hw := State.each_induction (l := outs) (R := s₀.cuffStores (quantTarget f dst units))
    (f := fun s o => s.cuffWrite (f.nearWriter e.cmd) (dst + o.1 * unitBytes dt) o.2.1 (o.2.2.1.map (fun w => (dst + o.1 * unitBytes dt) / 8 + w)))
    (State.cuffStores_cuffMeet e.cmd { space := .dram, addr := src, len := units * unitBytes st } h)
    (fun u o ho hu => State.cuffStores_cuffWrite _ _ (fun a hlo hhi hq => ?_) hu)
  case _ =>
    refine State.cuffStores_ite (State.cuffStores_condition _ _ ?_) ?_ <;> exact State.cuffStores_updNb _ _ (State.cuffStores_setSram _ _ hw)
  case _ =>
    obtain ⟨k, hk, rfl⟩ := List.mem_map.1 ho
    have hlast : k * unitBytes dt + unitBytes dt ≤ units * unitBytes dt := by
      rw [← Nat.succ_mul]
      exact Nat.mul_le_mul_right _ (List.mem_range.1 hk)
    have hlen : a < dst + k * unitBytes dt + unitBytes dt := by
      rw [show unitBytes dt = dt.packBytes from unitBytes_quantDst hq] at hhi ⊢
      rwa [length_packUnit] at hhi
    exact ⟨(Nat.le_add_right _ _).trans hlo, show a < dst + units * unitBytes dt by omega⟩

end

/-! ### A Cuff runs an entry (R41, R53 to R65) -/

/-- The bytes of device memory that an entry of a command may change. -/
def Work.stores (f : Flight) : Work → Nat → Prop
  | .fill addr len, a => addr ≤ a ∧ a < addr + len
  | .axpy _ y len, a => y ≤ a ∧ a < y + len
  | .quant _ dst units, a => quantTarget f dst units a
  | _, _ => False

theorem State.cuffStores_runEntry {s₀ s : State} (f : Flight) (n : Nb) (e : Entry) (bad : CuffPart → List Nat) (piece : Nat)
    (h : s₀.cuffStores (e.work.stores f) s) : s₀.cuffStores (e.work.stores f) (s.runEntry f n e bad piece) := by
  unfold State.runEntry
  generalize e.work = w at h ⊢
  cases w with
  | attend pair j addr => exact State.cuffStores_attendEntry _ _ _ _ _ _ _ h
  | pool bag addr w => exact State.cuffStores_poolEntry _ _ _ _ _ _ _ _ h
  | scan i addr => exact State.cuffStores_scanEntry _ _ _ _ _ _ h
  | fill addr len => exact State.cuffStores_fillEntry _ _ (fun a hlo hhi => ⟨hlo, hhi⟩) h
  | axpy x y len => exact State.cuffStores_axpyEntry _ _ _ (fun a hlo hhi => ⟨hlo, hhi⟩) h
  | quant src dst units => exact State.cuffStores_quantEntry _ _ _ _ _ _ h

theorem State.runEntry_fill {s : State} {f : Flight} {n : Nb} {e : Entry} {bad : CuffPart → List Nat} {piece addr len : Nat}
    (hw : e.work = .fill addr len) : s.runEntry f n e bad piece = s.fillEntry f e addr len := by
  unfold State.runEntry
  rw [hw]

theorem State.nb?_eq_some {s : State} {id : Nat} {f : Flight} {n : Nb} (h : s.nb? id = some (f, n)) :
    tget s.flight id = some f ∧ f.nb = some n := by
  unfold State.nb? at h
  split at h
  · next g hg =>
    obtain ⟨m, hm, he⟩ := Option.map_eq_some_iff.1 h
    cases he
    exact ⟨hg, hm⟩
  · cases h

theorem pickEntry_mem {isOpen : Entry → Bool} {cluster : Entry → Nat} {l : List Entry} {seen : List Nat} {e : Entry}
    (h : pickEntry isOpen cluster l seen = some e) : e ∈ l := by
  induction l generalizing seen with
  | nil => cases h
  | cons x l ih =>
    unfold pickEntry at h
    split at h
    · cases h
      exact List.mem_cons_self
    · exact List.mem_cons_of_mem _ (ih h)

theorem State.nextEntry_bank {s : State} {bank : Nat} {e : Entry} (h : s.nextEntry bank = some e) : e.bank = bank := by
  unfold State.nextEntry at h
  split at h
  · exact of_decide_eq_true (List.mem_filter.1 (pickEntry_mem h)).2
  · cases h

theorem Sram.badWords_settle {m : Sram} {p : CuffPart} (h : m.badWords p = []) (l : List CuffPart) : (m.settle l).badWords p = [] := by
  simp only [Sram.badWords, Sram.settle, List.map_eq_nil_iff, List.filter_eq_nil_iff, List.mem_filter] at h ⊢
  exact fun x hx => h x hx.1

/-- The state once an entry has left its dispatcher. -/
def State.withoutEntry (s : State) (e : Entry) : State := { s with near := { s.near with entries := s.near.entries.erase e } }

/-- The state once a Cuff has run an entry whole, with no error in its SRAM. -/
def State.entryRan (s : State) (bank : Nat) (f : Flight) (n : Nb) (e : Entry) : State :=
  let r := (s.withoutEntry e).startEntry e .none
  (r.1.runEntry f n e r.2 0).afterEntry e.cmd bank

section
variable {s : State} {bank : Nat} {e : Entry} {f : Flight} {n : Nb}

/-- A Cuff that is not fenced, whose microcode holds no bad word, runs its entry whole. -/
theorem exec_cuffEntry_runs (he : s.nextEntry bank = some e) (hn : s.nb? e.cmd = some (f, n)) (hfence : s.cuffFenced bank = false)
    (hended : n.ended.contains bank = false) (hcode : (s.sram bank).badWords .microcode = []) :
    exec (.cuffEntry bank .none) s = .next (s.entryRan bank f n e) := by
  have hn' : (s.withoutEntry e).nb? e.cmd = some (f, n) := hn
  have hfence' : (s.withoutEntry e).cuffFenced bank = false := hfence
  have hbad : ((s.withoutEntry e).startEntry e .none).2 .microcode = [] := by
    have hcode' : ((s.withoutEntry e).sram e.bank).badWords .microcode = [] := by
      rw [State.nextEntry_bank he]
      exact hcode
    unfold State.startEntry
    dsimp only
    split
    · exact Sram.badWords_settle hcode' _
    · rfl
  dsimp only [exec, execCuffEntry]
  rw [he]
  dsimp only
  unfold State.entryRan
  unfold State.withoutEntry at *
  rw [hn']
  dsimp only
  rw [hfence', if_neg (by decide), if_neg (by rw [hended]; exact Bool.false_ne_true), hbad, if_pos (by rfl)]

theorem State.cuffStores_entryRan (s : State) (bank : Nat) (f : Flight) (n : Nb) (e : Entry) :
    (s.withoutEntry e).cuffStores (e.work.stores f) (s.entryRan bank f n e) :=
  State.cuffStores_afterEntry _ _ (State.cuffStores_runEntry _ _ _ _ _ (State.cuffStores_startEntry _ _ (State.cuffStores_self _ _)))

/-- What follows the run of a fill stores nothing over its zeros. -/
theorem State.get_entryRan_zero {addr len a : Nat} (hw : e.work = .fill addr len) (hz : (nbFillOf f.bytes).zero = true) (hlo : addr ≤ a)
    (hhi : a < addr + len) : (s.entryRan bank f n e).dram.get a = 0 := by
  unfold State.entryRan
  extract_lets r
  have hafter := State.cuffStores_afterEntry e.cmd bank (State.cuffStores_self (fun _ => False) (r.1.runEntry f n e r.2 0))
  rw [hafter.dram a not_false, State.runEntry_fill hw]
  exact r.1.get_fillEntry_zero e hz hlo hhi

theorem State.isSome_entryRan (hn : s.nb? e.cmd = some (f, n)) : (tget (s.entryRan bank f n e).flight e.cmd).isSome = true := by
  have hk : (s.withoutEntry e).keeps [.flash, .timer, .dram, .spad, .unsettled, .flight, .near, .funcs, .log, .rowHits, .perf, .out, .free]
      (s.entryRan bank f n e) :=
    State.keeps_afterEntry _ _ (by decide) (State.keeps_runEntry _ _ _ _ _ (by decide) (State.keeps_startEntry _ _ (by decide) (State.keeps_self _ _)))
  obtain ⟨g, hg, -⟩ := hk.1 .ends (by decide) e.cmd f (State.nb?_eq_some hn).1
  rw [hg]
  rfl

end

/-- Settles O35: an entry's run, and what follows it, store to the bytes of the entry's work alone, and a ZERO fill's range holds zeros. -/
theorem cuffEntriesRun : Obligations.CuffEntriesRun := by
  unfold Obligations.CuffEntriesRun
  intro s bank e f n he hn hfence hended hcode
  have hran := s.cuffStores_entryRan bank f n e
  refine ⟨_, exec_cuffEntry_runs he hn hfence hended hcode, hran.entries, State.isSome_entryRan hn, hran.spad, ?_⟩
  have hstay := hran.dram
  cases hw : e.work <;> rw [hw] at hstay
  case fill addr len =>
    exact ⟨hstay, fun hz a hlo hhi => State.get_entryRan_zero hw hz hlo hhi⟩
  case quant src dst units => exact fun hq a ha => hstay a (fun hin => ha (hin hq))
  case axpy x y len => exact hstay
  all_goals exact fun a => hstay a not_false

end Sys2Proof.Machine
end

section
/-! SUPPORT. PartialsAndExpansions.lean: where the bytes of a write go, and how expansions begin (O36). -/

namespace Sys2Proof.Machine

/-! ### Host memory -/

/-- Host memory is looked up as a table. -/
theorem hostFind_eq_tget (m : List Host.Cell) (k : Nat) : hostFind m k = tget m k := by
  induction m with
  | nil => rfl
  | cons e m ih => rw [hostFind, tget, ih]

theorem tget_append {α : Type} (t u : Tab α) (i : Nat) : tget (t ++ u) i = (tget t i).or (tget u i) := by
  induction t with
  | nil => rfl
  | cons e t ih =>
    rw [List.cons_append, tget, tget, ih]
    split <;> rfl

theorem tget_hostList_outside {key k : Nat} {b : Bytes} (h : ¬(key ≤ k ∧ k < key + b.length)) : tget (hostList key b) k = none := by
  induction b generalizing key with
  | nil => rfl
  | cons x b ih =>
    rw [List.length_cons] at h
    rw [hostList, tget, if_neg (by omega), ih (by omega)]

/-- A write of host memory leaves every byte outside its range. -/
theorem hostFind_hostWriteAll_outside (m : List Host.Cell) {key k : Nat} {b : Bytes} (h : ¬(key ≤ k ∧ k < key + b.length)) :
    hostFind (hostWriteAll m key b) k = hostFind m k := by
  rw [hostFind_eq_tget, hostFind_eq_tget, hostWriteAll, tget_append, tget_append, tget_hostList_outside h,
    tget_filter_keys m (fun i => decide (i < key)), tget_filter_keys m (fun i => decide (key + b.length ≤ i))]
  by_cases hlo : k < key
  · simp [hlo, show ¬key + b.length ≤ k by omega]
  · simp [hlo, show key + b.length ≤ k by omega]

/-! ### Writes -/

/-- Outside D no byte of the arrays or of host memory has changed, and every finished partial is where it was. -/
structure State.storesIn (D : Space → Nat → Prop) (s t : State) : Prop where
  dram : ∀ a, ¬D .dram a → t.dram.get a = s.dram.get a
  spad : ∀ a, ¬D .spad a → t.spad.get a = s.spad.get a
  host : ∀ k, ¬D .host k → t.hostByte k = s.hostByte k
  finished : t.near.finished = s.near.finished

theorem State.bytesStay_mergeWords (s : State) (st : Store) (a n : Nat) : s.bytesStay (s.mergeWords st a n) := by
  have hm := s.bytesStay_meetWords st (partWords a n)
  have count : ∀ (u : State) (kind inst ev k : Nat), u.bytesStay (u.count kind inst ev k) := fun u kind inst ev k =>
    State.bytesStay_of_keeps (F := [.perf]) (by simp) (by decide)
  unfold State.mergeWords
  dsimp only
  split
  · exact hm
  · cases st <;> exact State.bytesStay_trans hm (count _ _ _ _ _)

theorem State.bytesStay_leaseHit (s : State) (w : Writer) (a : Nat) (l : Lease) : s.bytesStay (s.leaseHit w a l) :=
  State.bytesStay_of_keeps (F := [.timer, .flight, .funcs, .log, .perf, .out, .free]) (by simp) (by decide)

theorem State.bytesStay_endLeases (s : State) : s.bytesStay s.endLeases := ⟨rfl, rfl, rfl, rfl, rfl⟩

/-- A write to an array, poisoned or not, leaves every byte outside its range. -/
theorem Mem.get_written_outside (m : Mem) {a x : Nat} {b : Bytes} (bad : Bool) (words : List Nat) (h : ¬(a ≤ x ∧ x < a + b.length)) :
    (if bad = true then words.foldl Mem.poisonWord (m.write a b) else m.write a b).get x = m.get x := by
  split
  · rw [Mem.get_poisonWords, Mem.get_write, if_neg h]
  · rw [Mem.get_write, if_neg h]

section
variable {D : Space → Nat → Prop} {s₀ s : State}

theorem State.storesIn_self (D : Space → Nat → Prop) (s : State) : s.storesIn D s :=
  ⟨fun _ _ => rfl, fun _ _ => rfl, fun _ _ => rfl, rfl⟩

theorem State.storesIn_trans {t : State} (h : s₀.storesIn D s) (k : s.storesIn D t) : s₀.storesIn D t :=
  ⟨fun a ha => (k.dram a ha).trans (h.dram a ha), fun a ha => (k.spad a ha).trans (h.spad a ha),
    fun a ha => (k.host a ha).trans (h.host a ha), k.finished.trans h.finished⟩

theorem State.storesIn_then {t : State} (k : s.bytesStay t) (h : s₀.storesIn D s) : s₀.storesIn D t :=
  State.storesIn_trans h ⟨fun a _ => by rw [Mem.get, k.dram]; rfl, fun a _ => by rw [Mem.get, k.spad]; rfl,
    fun a _ => by rw [State.hostByte, k.host]; rfl, k.finished⟩

theorem State.storesIn_hostWrite (p q : Nat) {key : Nat} {b : Bytes} (hD : ∀ k, key ≤ k → k < key + b.length → D .host k)
    (h : s₀.storesIn D s) : s₀.storesIn D (s.hostWrite p q key b) := by
  unfold State.hostWrite
  split
  · exact ⟨h.dram, h.spad, h.host, h.finished⟩
  · refine ⟨h.dram, h.spad, fun k hk => Eq.trans ?_ (h.host k hk), h.finished⟩
    exact congrArg (fun o : Option Byte => o.getD (Config.hostByte k))
      (hostFind_hostWriteAll_outside s.hostMem (fun hin => hk (hD k hin.1 hin.2)))

/-- A stretch is written within D. -/
theorem State.storesIn_writeSeg (w : Writer) {g : Seg} {b : Bytes} (bad : Bool) (hD : ∀ a, g.addr ≤ a → a < g.addr + b.length → D g.space a)
    (h : s₀.storesIn D s) : s₀.storesIn D (s.writeSeg w g b bad) := by
  unfold State.writeSeg
  split
  case h_1 hsp =>
    rw [hsp] at hD
    exact State.storesIn_hostWrite _ _ hD (State.storesIn_then (State.bytesStay_of_keeps (F := [.flight]) (by simp) (by decide)) h)
  case h_2 hsp =>
    rw [hsp] at hD
    extract_lets words merged merge m₀ m noted put
    have hm : s₀.storesIn D merged := State.storesIn_then (s.bytesStay_mergeWords _ _ _) h
    have hn : s₀.storesIn D noted := State.storesIn_then (merged.bytesStay_noted _ _ _ _) hm
    have hput : s₀.storesIn D put := ⟨hn.dram, fun a ha =>
      (merged.spad.get_written_outside bad words (fun hin => ha (hD a hin.1 hin.2))).trans (hm.spad a ha), hn.host, hn.finished⟩
    split
    · exact State.storesIn_then (State.bytesStay_condition _ _ _) hput
    · exact hput
  case h_3 hsp =>
    rw [hsp] at hD
    split
    · exact State.storesIn_then (State.bytesStay_condition _ _ _) h
    · extract_lets hit words merged merge m₀ m noted put ended
      have hm : s₀.storesIn D merged := State.storesIn_then (State.bytesStay_trans
        (State.bytesStay_each (fun u l => u.bytesStay_leaseHit w g.addr l) s _) (State.bytesStay_mergeWords _ _ _ _)) h
      have hn : s₀.storesIn D noted := State.storesIn_then (merged.bytesStay_noted _ _ _ _) hm
      have hput : s₀.storesIn D put := ⟨fun a ha =>
        (merged.dram.get_written_outside bad words (fun hin => ha (hD a hin.1 hin.2))).trans (hm.dram a ha), hn.spad, hn.host, hn.finished⟩
      have hended : s₀.storesIn D ended := State.storesIn_then put.bytesStay_endLeases hput
      split
      · exact State.storesIn_then (State.bytesStay_condition _ _ _) hended
      · exact hended

theorem State.storesIn_writeAll (w : Writer) {l : List Seg} (b : Bytes) (bad : Bool)
    (hD : ∀ g ∈ l, ∀ i, i < g.len → D g.space (g.addr + i)) (h : s₀.storesIn D s) : s₀.storesIn D (s.writeAll w l b bad) := by
  induction l generalizing s b with
  | nil => exact h
  | cons g l ih =>
    refine ih _ (fun g' hg' => hD g' (List.mem_cons_of_mem _ hg')) (State.storesIn_writeSeg _ _ (fun a hlo hhi => ?_) h)
    have hlen := List.length_take_le g.len b
    have hin := hD g List.mem_cons_self (a - g.addr) (by omega)
    rwa [Nat.add_sub_cancel' hlo] at hin

end

/-! ### Where bytes lie (R25, R26, R95) -/

section
variable {va i : Nat} (hi : va % 4096 + i < 4096)
include hi

theorem Partition.striped_add (P : Partition) : P.striped (va + i) = (P.striped va).map (· + i) := by
  unfold Partition.striped
  have hpage : (va + i) / 4096 = va / 4096 := by omega
  have hoff : (va + i) % 4096 = va % 4096 + i := by omega
  dsimp only
  rw [hpage, hoff]
  split
  · rfl
  · rw [Option.map_map]
    congr 1
    funext a
    exact (Nat.add_assoc a (va % 4096) i).symm

theorem State.localPlace_add (s : State) (P : Partition) : s.localPlace P (va + i) = (s.localPlace P va).map (· + i) := by
  unfold State.localPlace bits bankAddr bankStride bankBytes
  have hbits : (va + i) / 2 ^ 41 = va / 2 ^ 41 := by omega
  have hbank : (va + i) / 2 ^ 27 = va / 2 ^ 27 := by omega
  have hoff : (va + i) % 2 ^ 27 = va % 2 ^ 27 + i := by omega
  have hin : va % 2 ^ 27 + i < 0x5000000 ↔ va % 2 ^ 27 < 0x5000000 := by omega
  simp only [hbits, hbank, hoff, hin]
  split
  · exact congrArg some (Nat.add_assoc _ _ _).symm
  · rfl

theorem State.spaOk_add (s : State) (P : Partition) : s.spaOk P (va + i) = s.spaOk P va := by
  unfold State.spaOk
  have hcluster : (va + i) / 2 ^ 24 = va / 2 ^ 24 := by omega
  have hoff : (va + i) % 2 ^ 24 = va % 2 ^ 24 + i := by omega
  have hcore : (va % 2 ^ 24 + i - 0x800000) / 0x100000 = (va % 2 ^ 24 - 0x800000) / 0x100000 := by omega
  have hshared : va % 2 ^ 24 + i < 0x800000 ↔ va % 2 ^ 24 < 0x800000 := by omega
  have hin : va + i < 2 ^ 30 ↔ va < 2 ^ 30 := by omega
  simp only [hcluster, hoff, hcore, hshared, hin]

/-- The bytes of a page lie together. -/
theorem State.place_add {s : State} {p a : Nat} {P : Partition} {sp : Space} (h : s.place p P va = some (sp, a)) :
    s.place p P (va + i) = some (sp, a + i) := by
  have hregion : (va + i) / 2 ^ 44 = va / 2 ^ 44 := by omega
  have hlow : va + i < 2 ^ 40 ↔ va < 2 ^ 40 := by omega
  unfold State.place at h ⊢
  simp only [hregion, hlow]
  split at h
  · next hs =>
    obtain ⟨x, hx, he⟩ := Option.map_eq_some_iff.1 h
    cases he
    rw [if_pos hs, P.striped_add hi, hx]
    rfl
  · next hs =>
    rw [if_neg hs]
    split at h
    · next hl =>
      obtain ⟨x, hx, he⟩ := Option.map_eq_some_iff.1 h
      cases he
      rw [if_pos hl, s.localPlace_add hi, hx]
      rfl
    · next hl =>
      rw [if_neg hl]
      split at h
      · next hsp =>
        have hoff : va + i - spadBase = va - spadBase + i := by unfold spadBase; omega
        have hpage : (va - spadBase) % 4096 + i < 4096 := by unfold spadBase; omega
        have hin : va - spadBase + i < 2 ^ 30 ↔ va - spadBase < 2 ^ 30 := by omega
        rw [if_pos hsp]
        split at h
        · next hok =>
          cases h
          rw [hoff, if_pos ⟨hin.2 hok.1, (s.spaOk_add hpage P).trans hok.2⟩]
        · cases h
      · next hsp =>
        rw [if_neg hsp]
        split at h
        · next hhost =>
          cases h
          unfold hostBase hostKey at *
          rw [if_pos (by omega)]
          exact congrArg (fun k => some (Space.host, k)) (by omega)
        · cases h

end

theorem State.segsAux_place {s : State} {p : Nat} {P : Partition} {k va n : Nat} {l : List Seg} (h : s.segsAux p P k va n = some l) :
    ∀ g ∈ l, ∀ i, i < g.len → ∃ j, j < n ∧ s.place p P (va + j) = some (g.space, g.addr + i) := by
  induction k generalizing va n l with
  | zero =>
    unfold State.segsAux at h
    split at h
    · cases h
      simp
    · cases h
  | succ k ih =>
    unfold State.segsAux at h
    dsimp only at h
    split at h
    · cases h
      simp
    · split at h
      · cases h
      · next sp a hplace =>
        split at h
        · cases h
        · next rest hrest =>
          cases h
          intro g hg i hlt
          rcases List.mem_cons.1 hg with rfl | hg
          · have hk : i < min n (4096 - va % 4096) := hlt
            exact ⟨i, by omega, State.place_add (by omega) hplace⟩
          · obtain ⟨j, hj, hp⟩ := ih hrest g hg i hlt
            exact ⟨min n (4096 - va % 4096) + j, by omega, by rw [← Nat.add_assoc]; exact hp⟩

theorem State.segs_place {s : State} {p : Nat} {P : Partition} {va n : Nat} {l : List Seg} (h : s.segs p P va n = some l) :
    ∀ g ∈ l, ∀ i, i < g.len → ∃ j, j < n ∧ s.place p P (va + j) = some (g.space, g.addr + i) := State.segsAux_place h

/-- Bytes put at a virtual address of a partition go where its bytes lie, and nowhere else. -/
theorem State.storesIn_putVa {D : Space → Nat → Prop} {s₀ s : State} (w : Writer) (P : Partition) {va : Nat} {b : Bytes} (bad : Bool)
    (hD : ∀ j, j < b.length → ∀ sp a, s.place w.p P (va + j) = some (sp, a) → D sp a) (h : s₀.storesIn D s) :
    s₀.storesIn D (s.putVa w P va b bad) := by
  unfold State.putVa
  split
  · exact State.storesIn_then (State.bytesStay_condition _ _ _) h
  · next l hl =>
    refine State.storesIn_writeAll _ _ _ (fun g hg i hi => ?_) h
    obtain ⟨j, hj, hp⟩ := State.segs_place hl g hg i hi
    exact hD j hj _ _ hp

/-! ### Partials leave (R57) -/

/-- The state once a partial has left its dispatcher. -/
def State.withoutPartial (s : State) (r : PartialRec) : State := { s with near := { s.near with finished := s.near.finished.erase r } }

theorem exec_partialEgress {s : State} {pc : Nat} {r : PartialRec} {f : Flight} {P : Partition}
    (hr : s.near.finished.find? (fun r => decide (r.bank / 16 = pc)) = some r) (hf : tget s.flight r.cmd = some f) (hP : s.partOf f = some P)
    (hw : s.working = true) :
    exec (.partialEgress pc) s = .next ((s.withoutPartial r).putVa (f.nearWriter r.cmd) P
      (partialArea f.bytes + r.slot * partialBytes f.bytes (s.boot.licLive.getLsbD 4)) r.bytes false) := by
  have hf' : tget (s.withoutPartial r).flight r.cmd = some f := hf
  have hP' : (s.withoutPartial r).partOf f = some P := hP
  unfold State.withoutPartial at *
  dsimp only [exec, execPartialEgress]
  rw [hr]
  dsimp only
  rw [hw, if_neg (by decide), hf]
  dsimp only
  rw [hP']

/-! ### Expansions begin (R44, R45) -/

/-- The expansion of a command in flight does not wait. -/
def State.begun (s : State) (id : Nat) : Prop := ∃ f n, tget s.flight id = some f ∧ f.nb = some n ∧ n.waiting = false

theorem State.nb?_of_begun {s : State} {id : Nat} (h : s.begun id) : ∃ f n, s.nb? id = some (f, n) ∧ n.waiting = false := by
  obtain ⟨f, n, hf, hn, hw⟩ := h
  exact ⟨f, n, by rw [State.nb?, hf]; exact congrArg (Option.map fun n => (f, n)) hn, hw⟩

theorem State.begun_of_flight {s t : State} {id : Nat} (h : s.begun id) (hf : t.flight = s.flight) : t.begun id := by
  rw [State.begun, hf]
  exact h

section
variable {s : State} {id k : Nat}

/-- An update of a command in flight that does not make its expansion wait. -/
theorem State.begun_updFlight {g : Flight → Flight}
    (hg : ∀ f n, f.nb = some n → n.waiting = false → ∃ n', (g f).nb = some n' ∧ n'.waiting = false) (h : s.begun id) : (s.updFlight k g).begun id := by
  obtain ⟨f, n, hf, hn, hw⟩ := h
  unfold State.begun
  rw [State.flight_updFlight, tupd]
  split
  · next v hv =>
    rw [tget_tput]
    split
    · next he =>
      subst he
      cases hf.symm.trans hv
      obtain ⟨n', hn', hw'⟩ := hg f n hn hw
      exact ⟨_, n', rfl, hn', hw'⟩
    · exact ⟨f, n, hf, hn, hw⟩
  · exact ⟨f, n, hf, hn, hw⟩

theorem State.begun_condition (st : Status) (h : s.begun id) : (s.condition k st).begun id :=
  State.begun_updFlight (fun _ n hn hw => ⟨n, by split <;> exact hn, hw⟩) h

theorem State.begun_updNb {g : Nb → Nb} (hg : ∀ n, n.waiting = false → (g n).waiting = false) (h : s.begun id) : (s.updNb k g).begun id :=
  State.begun_updFlight (fun _ n hn hw => ⟨g n, congrArg (Option.map g) hn, hg n hw⟩) h

/-- An update of a near-bank command that begins its expansion. -/
theorem State.begun_updNb_self {f : Flight} {n : Nb} {g : Nb → Nb} (hf : tget s.flight id = some f) (hn : f.nb = some n)
    (hg : (g n).waiting = false) : (s.updNb id g).begun id := by
  refine ⟨{ f with nb := f.nb.map g }, g n, ?_, congrArg (Option.map g) hn, hg⟩
  rw [State.updNb, State.flight_updFlight, tupd, hf]
  exact (tget_tput _ _ _ _).trans (if_pos rfl)

/-- An expansion that begins leaves its command begun, and every other that was. -/
theorem State.begun_beginExpansion (f : Flight) (l : List Span) (h : ∀ g : Nb → Nb, (∀ n, (g n).waiting = false) → (s.updNb k g).begun id) :
    (s.beginExpansion k f l).begun id := by
  unfold State.beginExpansion
  split
  · exact h _ (fun _ => rfl)
  · unfold State.expanded
    extract_lets begun noted
    have hnoted : noted.begun id := State.begun_updFlight (fun _ n hn hw => ⟨n, hn, hw⟩) (h _ (fun _ => rfl))
    exact State.begun_of_flight hnoted rfl

theorem State.begun_sendEntries (m : Nat) (h : s.begun id) : (s.sendEntries k m).begun id := by
  induction m generalizing s with
  | zero => exact h
  | succ m ih =>
    unfold State.sendEntries
    split
    · exact h
    · split
      · exact h
      · split
        · exact ih (State.begun_updNb (fun _ hw => hw) (State.begun_condition _ h))
        · split
          · exact ih (State.begun_updNb (fun _ hw => hw) (State.begun_of_flight h rfl))
          · exact h

/-- One expansion of a cluster: where it leaves the command begun, so do those that follow. -/
theorem State.begun_runExpansions_succ {c m : Nat} {f : Flight} {n : Nb} (hx : s.expander c = some (k, f, n))
    (h : (if n.waiting then s.beginExpansion k f [] else s).begun id)
    (ih : ∀ u : State, u.begun id → (u.runExpansions c m).begun id) : (s.runExpansions c (m + 1)).begun id := by
  unfold State.runExpansions
  rw [hx]
  dsimp only
  have hsent := fun len => State.begun_sendEntries (k := k) len h
  split
  · split
    · exact ih _ (hsent _)
    · exact hsent _
  · exact hsent _

theorem State.begun_runExpansions (c m : Nat) (h : s.begun id) : (s.runExpansions c m).begun id := by
  induction m generalizing s with
  | zero => exact h
  | succ m ih =>
    cases hx : s.expander c with
    | none =>
      unfold State.runExpansions
      rw [hx]
      exact h
    | some x =>
      obtain ⟨k, f, n⟩ := x
      refine State.begun_runExpansions_succ hx ?_ (fun u hu => ih hu)
      split
      · exact State.begun_beginExpansion f [] (fun g hg => State.begun_updNb (fun n _ => hg n) h)
      · exact h

theorem State.expander_nb {c : Nat} {f : Flight} {n : Nb} (h : s.expander c = some (id, f, n)) : f.nb = some n := by
  obtain ⟨e, -, he⟩ := List.exists_of_findSome?_eq_some h
  split at he
  · split at he
    · next m hm =>
      split at he
      · cases he
        exact hm
      · cases he
    · cases he
  · cases he

end

/-- Settles O36: a partial's bytes go where its slot lies, and the expansion that is first is begun and stays so. -/
theorem partialsAndExpansionsMove : Obligations.PartialsAndExpansionsMove := by
  unfold Obligations.PartialsAndExpansionsMove
  refine ⟨fun s pc r f P hr hf hP hw _ => ?_, fun s c id f n hx hf hw => ?_⟩
  · generalize hl : (List.range r.bytes.length).map (fun i =>
      partialArea f.bytes + r.slot * partialBytes f.bytes (s.boot.licLive.getLsbD 4) + i) = l
    have hstores := State.storesIn_putVa (D := fun sp a => ∃ va ∈ l, s.place f.p P va = some (sp, a)) (s := s.withoutPartial r) (f.nearWriter r.cmd) P
      (va := partialArea f.bytes + r.slot * partialBytes f.bytes (s.boot.licLive.getLsbD 4)) (b := r.bytes) false
      (fun j hj sp a ha => ⟨_, by rw [← hl]; exact List.mem_map_of_mem (List.mem_range.2 hj), ha⟩) (State.storesIn_self _ (s.withoutPartial r))
    have outside : ∀ {sp : Space} {a : Nat}, (∀ va ∈ l, s.place f.p P va ≠ some (sp, a)) → ¬∃ va ∈ l, s.place f.p P va = some (sp, a) :=
      fun hno ⟨va, hva, hp⟩ => hno va hva hp
    exact ⟨_, exec_partialEgress hr hf hP hw, hstores.finished, fun a ha => hstores.dram a (outside ha), fun a ha => hstores.spad a (outside ha),
      fun k hk => hstores.host k (outside hk)⟩
  · have hbegun : (s.runExpansions c (s.flight.length + 1)).begun id := by
      refine State.begun_runExpansions_succ hx ?_ (fun u hu => State.begun_runExpansions c _ hu)
      split
      · exact State.begun_beginExpansion f [] (fun g hg => State.begun_updNb_self hf (State.expander_nb hx) (hg n))
      · next hn => exact ⟨f, n, hf, State.expander_nb hx, Bool.eq_false_iff.2 hn⟩
    obtain ⟨f', n', hnb, hn'⟩ := State.nb?_of_begun hbegun
    have hk : s.keeps [.flight, .near, .perf, .free] (s.runExpansions c (s.flight.length + 1)) :=
      State.keeps_runExpansions _ _ (by decide) (State.keeps_self _ _)
    refine ⟨_, f', n', ?_, hnb, hn', State.eq_of_keeps hk (fun f k => by cases f <;> simp_all [State.same, fliesIn_self])⟩
    dsimp only [exec, execExpansionResume]
    rw [hw, if_pos rfl]

end Sys2Proof.Machine
end

section
/-! SUPPORT. PowerStates.lean: what the readers of words leave in the mailboxes, and the end of WATCH (O43). -/

namespace Sys2Proof.Machine

/-! ### Readers of words raise events at most -/

theorem State.raisesOnly_addCandidate (s : State) (c : Candidate) (w place n nbits : Nat) : s.raisesOnly (s.addCandidate c w place n nbits) := by
  unfold State.addCandidate
  extract_lets isNew room flash listed loc logged
  have hlogged : s.raisesOnly logged := State.raisesOnly_trans (State.raisesOnly_of_funcs rfl) (listed.raisesOnly_logErr _)
  split
  · exact State.raisesOnly_trans hlogged (logged.raisesOnly_logErr _)
  · exact hlogged

theorem State.raisesOnly_countCorrected (s : State) (w nbits : Nat) (first : Bool) : s.raisesOnly (s.countCorrected w nbits first) := by
  unfold State.countCorrected
  extract_lets bank row key h n full cand h' ticked counted columns
  have hc : s.raisesOnly counted := State.raisesOnly_of_funcs rfl
  split
  · exact hc
  · split
    · split
      · exact hc
      · exact State.raisesOnly_trans hc (counted.raisesOnly_addCandidate _ _ _ _ _)
    · refine State.raisesOnly_trans hc (State.raisesOnly_each (fun u x => ?_) _ _)
      extract_lets c rows drop flash merged
      have hm : u.raisesOnly merged := State.raisesOnly_of_funcs rfl
      split
      · exact hm
      · exact State.raisesOnly_trans hm (merged.raisesOnly_addCandidate _ _ _ _ _)

theorem State.raisesOnly_meetWord (s : State) (st : Store) (w : Nat) (first : Bool) : s.raisesOnly (s.meetWord st w first) := by
  unfold State.meetWord
  dsimp only
  split
  · exact State.raisesOnly_of_funcs rfl
  · split
    · cases st
      · exact State.raisesOnly_trans (State.raisesOnly_of_funcs rfl) (State.raisesOnly_countCorrected _ _ _ _)
      · exact State.raisesOnly_of_funcs rfl
    · exact State.raisesOnly_trans (State.raisesOnly_of_funcs (State.funcs_setStore _ _ _)) (State.raisesOnly_logErr _ _)

theorem State.raisesOnly_meetAll (s : State) (l : List Seg) : s.raisesOnly (s.meetAll l) := by
  refine State.raisesOnly_each (fun u g => ?_) s l
  unfold State.meetSeg
  split
  · exact State.raisesOnly_of_funcs rfl
  · exact State.raisesOnly_each (fun v w => v.raisesOnly_meetWord _ _ _) u _
  · exact State.raisesOnly_each (fun v w => v.raisesOnly_meetWord _ _ _) u _

/-! ### Held reads are served (R354) -/

/-- What a served read may leave otherwise: events, and configuration space within the link. -/
structure State.readLeaves (s t : State) : Prop where
  raises : s.raisesOnly t
  link : ∃ c, t.link = { s.link with cfg := c }

theorem State.readLeaves_self (s : State) : s.readLeaves s := ⟨State.raisesOnly_of_funcs rfl, s.link.cfg, rfl⟩

theorem State.readLeaves_trans {s t u : State} (h : s.readLeaves t) (k : t.readLeaves u) : s.readLeaves u := by
  obtain ⟨c, hc⟩ := h.link
  obtain ⟨d, hd⟩ := k.link
  exact ⟨State.raisesOnly_trans h.raises k.raises, d, by rw [hd, hc]⟩

theorem State.readLeaves_of_raises {s t : State} (h : s.raisesOnly t) (hl : t.link = s.link) : s.readLeaves t := ⟨h, s.link.cfg, hl⟩

theorem State.readLeaves_logHost (s : State) (cls part addr : Nat) : s.readLeaves (s.logHost cls part addr) :=
  State.readLeaves_of_raises (s.raisesOnly_logErr _)
    ((State.keeps_logHost (F := [.timer, .funcs, .log, .out, .free]) cls part addr (by decide) (State.keeps_self _ s)).1 .link (by decide))

theorem State.readLeaves_logHeader (s : State) (fn b : Nat) : s.readLeaves (s.logHeader fn b) := by
  refine ⟨State.raisesOnly_of_funcs
    ((State.keeps_logHeader (F := [.link, .free]) fn b (by decide) (State.keeps_self _ s)).1 .funcs (by decide)), ?_⟩
  unfold State.logHeader
  dsimp only
  split <;> exact ⟨_, rfl⟩

theorem State.readLeaves_emit (s : State) (o : Out) : s.readLeaves (s.emit o) := State.readLeaves_of_raises (State.raisesOnly_of_funcs rfl) rfl

/-- The words of some stretches are met, a bad one is logged, and the data goes out. -/
theorem State.readLeaves_read (s : State) (l : List Seg) (bad : Bool) (cls part addr : Nat) (o : Out) :
    s.readLeaves (((if bad then (s.meetAll l).logHost cls part addr else s.meetAll l).emit o).tick) := by
  have hm : s.readLeaves (s.meetAll l) := State.readLeaves_of_raises (s.raisesOnly_meetAll l)
    ((State.keeps_meetAll (F := [.flash, .timer, .dram, .spad, .near, .funcs, .log, .rowHits, .perf, .out, .free]) l (by decide)
      (State.keeps_self _ s)).1 .link (by decide))
  have hbad : s.readLeaves (if bad then (s.meetAll l).logHost cls part addr else s.meetAll l) := by
    split
    · exact State.readLeaves_trans hm (State.readLeaves_logHost _ _ _ _)
    · exact hm
  exact State.readLeaves_trans hbad (State.readLeaves_of_raises (State.raisesOnly_of_funcs rfl) rfl)

theorem State.readLeaves_servedHeld (s : State) (r : HeldRead) : s.readLeaves (s.servedHeld r) := by
  cases r with
  | bar4 p off len =>
    unfold State.servedHeld State.bar4Read
    dsimp only
    split
    · exact s.readLeaves_emit _
    · split
      · exact State.readLeaves_trans (State.readLeaves_trans (s.readLeaves_logHost _ _ _) (State.readLeaves_logHeader _ _ _))
          (State.readLeaves_emit _ _)
      · exact s.readLeaves_read _ _ _ _ _ _
  | cxl hpa =>
    unfold State.servedHeld State.cxlRead
    dsimp only
    split
    · exact State.readLeaves_trans (s.readLeaves_logHost _ _ _) (State.readLeaves_emit _ _)
    · exact s.readLeaves_read _ _ _ _ _ _

/-! ### Waiting mailboxes are taken up (R302, R354) -/

/-- What a handover leaves of the requests and of who has handed one over. -/
structure State.handsOver (s t : State) (fn : Nat) : Prop where
  other : ∀ k, k ≠ fn → t.func k = s.func k
  held : (t.func fn).held = false
  request : (t.func fn).req = (s.func fn).req
  known : knownCodes.contains (s.reqCode fn) = true → (t.func fn).busy = true ∧ (t.func fn).respValid = false ∧ fn ∈ t.handed
  handed : ∀ k, k ≠ fn → k ∈ s.handed → k ∈ t.handed

theorem State.handed_respond (s : State) (fn : Nat) (a : Answer) (body : Bytes) :
    (s.respond fn a body).handed = s.handed.filter (fun i => decide (i ≠ fn)) :=
  (State.keeps_raiseVector (F := [.funcs, .out]) fn 0 (by decide) (State.keeps_self _ _)).1 .handed (by decide)

/-- BUSY sets, RESP_VALID clears, and the request is in hand (R302). -/
def State.takes (s : State) (fn : Nat) : State :=
  { s.updFunc fn (fun F => { F with busy := true, respValid := false, held := false }) with handed := s.handed ++ [fn] }

theorem State.func_takes (s : State) (fn k : Nat) :
    (s.takes fn).func k = if k = fn then { s.func fn with busy := true, respValid := false, held := false } else s.func k :=
  s.func_updFunc fn (fun F => { F with busy := true, respValid := false, held := false }) k

theorem State.reqCode_takes (s : State) (fn : Nat) : (s.takes fn).reqCode fn = s.reqCode fn := by
  unfold State.reqCode State.reqHeader
  rw [s.func_takes, if_pos rfl]

/-- A request of a known code stays in hand; any other is answered at once. -/
theorem State.handOver_cases (s : State) (fn : Nat) : (knownCodes.contains (s.reqCode fn) = true ∧ s.handOver fn = s.takes fn)
    ∨ (knownCodes.contains (s.reqCode fn) ≠ true ∧ ∃ a, s.handOver fn = (s.takes fn).respond fn a []) := by
  have he : s.handOver fn = if knownCodes.contains ((s.takes fn).reqCode fn) then s.takes fn
      else if u16 ((s.takes fn).reqHeader fn) 4 ≠ ((s.takes fn).func fn).reqSeq.toNat then (s.takes fn).respond fn .seqMismatch []
      else if reqMajor ((s.takes fn).reqHeader fn) ≠ 1 then (s.takes fn).respond fn .protoUnsupported []
      else (s.takes fn).respond fn .unknownMessage [] := rfl
  rw [s.reqCode_takes] at he
  rw [he]
  split
  · next hk => exact .inl ⟨hk, rfl⟩
  · next hk =>
    refine .inr ⟨hk, ?_⟩
    split
    · exact ⟨_, rfl⟩
    · split <;> exact ⟨_, rfl⟩

theorem State.handsOver_handOver (s : State) (fn : Nat) : s.handsOver (s.handOver fn) fn := by
  have hself := (s.func_takes fn fn).trans (if_pos rfl)
  have hother : ∀ k, k ≠ fn → (s.takes fn).func k = s.func k := fun k hk => (s.func_takes fn k).trans (if_neg hk)
  have hhanded : (s.takes fn).handed = s.handed ++ [fn] := rfl
  rcases s.handOver_cases fn with ⟨hk, he⟩ | ⟨hk, a, he⟩
  · rw [he]
    exact ⟨hother, by rw [hself], by rw [hself], fun _ => ⟨by rw [hself], by rw [hself], by simp [hhanded]⟩, fun k _ hin => by simp [hhanded, hin]⟩
  · rw [he]
    obtain ⟨p, hp⟩ := (s.takes fn).func_respond fn a [] fn
    rw [if_pos rfl, hself] at hp
    refine ⟨fun k hne => ?_, by rw [hp]; rfl, by rw [hp]; rfl, fun h => absurd h hk, fun k hne hin => ?_⟩
    · obtain ⟨q, hq⟩ := (s.takes fn).func_respond fn a [] k
      rw [hq, if_neg hne, hother k hne]
    · rw [State.handed_respond, hhanded]
      simp [hin, hne]

/-- The mailbox of a function has been taken up: its request, of that code, waits no more, and is in hand where the code is one. -/
structure State.tookUp (s : State) (code fn : Nat) : Prop where
  sameCode : s.reqCode fn = code
  held : (s.func fn).held = false
  known : knownCodes.contains code = true → (s.func fn).busy = true ∧ (s.func fn).respValid = false ∧ fn ∈ s.handed

theorem State.reqCode_handOver (s : State) (fn k : Nat) : (s.handOver fn).reqCode k = s.reqCode k := by
  have h := s.handsOver_handOver fn
  unfold State.reqCode State.reqHeader
  by_cases hk : k = fn
  · rw [hk, h.request]
  · rw [h.other k hk]

theorem State.tookUp_handOver_self (s : State) (fn : Nat) : (s.handOver fn).tookUp (s.reqCode fn) fn :=
  have h := s.handsOver_handOver fn
  ⟨s.reqCode_handOver fn fn, h.held, h.known⟩

theorem State.tookUp_handOver {s : State} {code k : Nat} (h : s.tookUp code k) (fn : Nat) : (s.handOver fn).tookUp code k := by
  by_cases hk : k = fn
  · subst hk
    have hself := s.tookUp_handOver_self k
    rwa [h.sameCode] at hself
  · have ho := s.handsOver_handOver fn
    refine ⟨(s.reqCode_handOver fn k).trans h.sameCode, by rw [ho.other k hk]; exact h.held, fun hc => ?_⟩
    obtain ⟨hb, hv, hin⟩ := h.known hc
    rw [ho.other k hk]
    exact ⟨hb, hv, ho.handed k hk hin⟩

theorem State.tookUp_handOvers {s : State} {l : List Nat} {fn : Nat} (h : fn ∈ l) : (s.each l State.handOver).tookUp (s.reqCode fn) fn := by
  induction l generalizing s with
  | nil => cases h
  | cons k l ih =>
    rcases List.mem_cons.1 h with rfl | hl
    · exact State.each_induction (R := fun u => u.tookUp (s.reqCode fn) fn) (l := l) (s.tookUp_handOver_self fn) (fun u x _ hu => State.tookUp_handOver hu x)
    · have htail := ih (s := s.handOver k) hl
      rwa [s.reqCode_handOver k fn] at htail

theorem State.reqCode_of_raises {s t : State} (h : s.raisesOnly t) (fn : Nat) : t.reqCode fn = s.reqCode fn := by
  obtain ⟨e, p, hf⟩ := h fn
  unfold State.reqCode State.reqHeader
  rw [hf]

theorem State.tookUp_of_raises {s t : State} {code fn : Nat} (h : s.raisesOnly t) (hh : t.handed = s.handed) (hs : s.tookUp code fn) :
    t.tookUp code fn := by
  obtain ⟨e, p, hf⟩ := h fn
  exact ⟨(State.reqCode_of_raises h fn).trans hs.sameCode, by rw [hf]; exact hs.held, by rw [hf, hh]; exact hs.known⟩

/-! ### Cuffs reload their microcode (R71) -/

theorem State.cuffFenced_reloadFails (s : State) (bank b : Nat) :
    (s.reloadFails bank).cuffFenced b = true ↔ s.cuffFenced b = true ∨ (b = bank ∧ s.pcPresent (b / 16) = true) := by
  unfold State.reloadFails
  split
  · next hp =>
    rw [State.cuffFenced_fenceCuff, Bool.or_eq_true, decide_eq_true_eq]
    exact or_congr Iff.rfl ⟨fun hb => ⟨hb, hb ▸ hp⟩, And.left⟩
  · next hp => exact ⟨Or.inl, fun h => h.elim id (fun hb => absurd (hb.1 ▸ hb.2) hp)⟩

theorem State.pcPresent_reloadFails (s : State) (bank pc : Nat) : (s.reloadFails bank).pcPresent pc = s.pcPresent pc := by
  have hk : s.keeps [.boot, .timer, .near, .funcs, .log, .out, .free] (s.reloadFails bank) :=
    State.keeps_reloadFails bank (by decide) (State.keeps_self _ s)
  unfold State.pcPresent State.stackFitted State.mappedOut
  rw [hk.1 .ident (by decide), hk.1 .fuse (by decide)]

theorem State.cuffFenced_reloadsFail (s : State) (l : List Nat) (b : Nat) :
    (s.each l State.reloadFails).cuffFenced b = true ↔ s.cuffFenced b = true ∨ (b ∈ l ∧ s.pcPresent (b / 16) = true) := by
  induction l generalizing s with
  | nil => simp [State.each]
  | cons bank l ih =>
    refine (ih (s.reloadFails bank)).trans ?_
    rw [s.cuffFenced_reloadFails, s.pcPresent_reloadFails, List.mem_cons]
    tauto

theorem State.cuffFenced_reloadCuffs (s : State) (pcs : List Nat) (b : Nat) : (s.reloadCuffs pcs).cuffFenced b = true
    ↔ s.cuffFenced b = true ∨ (b / 16 ∈ pcs ∧ s.pcPresent (b / 16) = true ∧ s.reloadBad b = true) := by
  refine (s.cuffFenced_reloadsFail _ b).trans (or_congr Iff.rfl ?_)
  have hall : b ∈ pcs.flatMap (fun pc => (List.range 16).map (fun i => pc * 16 + i)) ↔ b / 16 ∈ pcs := by
    simp only [List.mem_flatMap, List.mem_map, List.mem_range]
    refine ⟨fun ⟨pc, hpc, i, hi, he⟩ => ?_, fun h => ⟨b / 16, h, b % 16, by omega, by omega⟩⟩
    rwa [show b / 16 = pc by omega]
  rw [List.mem_filter, hall]
  tauto

theorem State.raisesOnly_reloadCuffs (s : State) (pcs : List Nat) : s.raisesOnly (s.reloadCuffs pcs) := by
  refine State.raisesOnly_trans (State.raisesOnly_each (fun u bank => ?_) s _) (State.raisesOnly_of_funcs rfl)
  unfold State.reloadFails
  split
  · exact State.raisesOnly_trans (State.raisesOnly_of_funcs rfl) (State.raisesOnly_fenceCuff _ _ _)
  · exact State.raisesOnly_of_funcs rfl

/-! ### The end of WATCH (R354, R355) -/

/-- The end of an exit: ACTIVE, every waiting mailbox taken up, no read waiting, Cuffs fenced whose microcode failed. -/
structure State.exited (s t : State) : Prop where
  state : t.power.state = .active
  rest : t.power.rest = s.power.rest
  held : t.power.held = []
  mail : t.power.mail = []
  link : ∃ c, t.link = { s.link with cfg := c }
  tookUp : ∀ fn ∈ s.power.mail, t.tookUp (s.reqCode fn) fn
  fenced : ∀ b, t.cuffFenced b = true ↔ s.cuffFenced b = true ∨ (b < 768 * 16 ∧ s.pcPresent (b / 16) = true ∧ s.reloadBad b = true)

theorem State.exited_leaveWatch (s : State) : s.exited s.leaveWatch := by
  generalize hr : ((s.setPower .active).reloadCuffs (List.range 768)) = r
  generalize he : ({ r with power := { r.power with held := [], mail := [] } } : State) = e
  generalize hm : e.each s.power.mail State.handOver = m
  have hl : s.leaveWatch = m.each s.power.held State.servedHeld := by rw [← hm, ← he, ← hr]; rfl
  have kr : (s.setPower .active).keeps [.boot, .timer, .near, .funcs, .log, .out, .free] r := by
    rw [← hr]
    exact State.keeps_reloadCuffs _ (by decide) (State.keeps_self _ _)
  have km : e.keeps [.funcs, .handed, .out] m := by
    rw [← hm]
    exact State.keeps_each _ (fun u fn => State.keeps_handOver fn (by decide) (State.keeps_self _ u)) (State.keeps_self _ e)
  have kl : m.keeps [.flash, .timer, .dram, .spad, .near, .funcs, .log, .link, .rowHits, .perf, .out, .free] s.leaveWatch := by
    rw [hl]
    exact State.keeps_each _ (fun u x => State.keeps_servedHeld x (by decide) (State.keeps_self _ u)) (State.keeps_self _ m)
  have hserved : m.readLeaves s.leaveWatch := by
    rw [hl]
    exact State.each_induction m.readLeaves_self (fun u x _ hu => State.readLeaves_trans hu (u.readLeaves_servedHeld x))
  have hpower : s.leaveWatch.power = { r.power with held := [], mail := [] } :=
    (kl.1 .power (by decide)).trans ((km.1 .power (by decide)).trans (by rw [← he]))
  have hrpower : r.power = (s.setPower .active).power := kr.1 .power (by decide)
  have hboot : s.leaveWatch.boot = r.boot := (kl.1 .boot (by decide)).trans ((km.1 .boot (by decide)).trans (by rw [← he]))
  have hlink : m.link = s.link := (km.1 .link (by decide)).trans (by rw [← he]; exact kr.1 .link (by decide))
  refine ⟨by rw [hpower, hrpower]; rfl, by rw [hpower, hrpower]; rfl, by rw [hpower], by rw [hpower], hlink ▸ hserved.link, fun fn hfn => ?_,
    fun b => ?_⟩
  · have hcode : e.reqCode fn = s.reqCode fn := by
      have hrc : e.reqCode fn = r.reqCode fn := by rw [← he]; rfl
      rw [hrc, ← hr]
      exact State.reqCode_of_raises (State.raisesOnly_reloadCuffs _ _) fn
    rw [← hcode]
    refine State.tookUp_of_raises hserved.raises (kl.1 .handed (by decide)) ?_
    rw [← hm]
    exact State.tookUp_handOvers hfn
  · have hfence : s.leaveWatch.cuffFenced b = r.cuffFenced b := by rw [State.cuffFenced, hboot]; rfl
    rw [hfence, ← hr, State.cuffFenced_reloadCuffs, List.mem_range, show b / 16 < 768 ↔ b < 768 * 16 by omega]
    exact Iff.rfl

/-- The exit and D0 end WATCH in one way, D0 once D3hot is over. -/
theorem exec_exits {s : State} {i : Instr} (hw : s.power.state = .watch) (ht : s.thermal.tripped = false)
    (hi : (i = .watchExitComplete ∧ s.alive = true ∧ s.power.exiting = true ∧ s.link.d3hot = false)
      ∨ (i = .pfD0 ∧ s.hostReaches = true ∧ s.link.d3hot = true)) :
    exec i s = .next (State.leaveWatch { s with link := { s.link with d3hot := false } }) := by
  rcases hi with ⟨rfl, ha, hx, hd⟩ | ⟨rfl, hr, hd⟩
  · have hs : ({ s with link := { s.link with d3hot := false } } : State) = s := by rw [← hd]
    rw [hs]
    dsimp only [exec, execWatchExitComplete]
    rw [if_pos (by simp [ha, hw, hx, hd, ht])]
  · dsimp only [exec, execPfD0]
    rw [if_pos (by simp [hr, hd, ht]), if_pos hw]

/-- A sample in WATCH starts the exit when a wake condition holds, and gives up none (R354). -/
theorem exec_watchWakeSample_watch {s : State} (ha : s.alive = true) (hs : s.power.state = .watch) (hd : s.link.d3hot = false) :
    exec .watchWakeSample s = .next { s with power := { s.power with
      exiting := s.power.exiting || s.power.wakeHost || s.power.wakeMail || s.power.wakePeer || s.warm } } := by
  dsimp only [exec, execWatchWakeSample]
  have hor : (s.power.exiting || s.power.wakeHost || s.power.wakeMail || s.power.wakePeer || s.warm)
      = (s.power.exiting || (s.power.wakeHost || s.power.wakeMail || s.power.wakePeer || s.warm)) := by simp only [Bool.or_assoc]
  rw [hor, ha, hd, decide_eq_true hs, Bool.not_false, Bool.true_and, Bool.true_and, Bool.true_and]
  split
  · next hw => rw [hw, Bool.or_true]
  · next hw => rw [Bool.eq_false_iff.2 hw, Bool.or_false]

/-- D3hot gives up an exit, enters WATCH where nothing is in flight, and leaves the power state alone where something is (R355). -/
theorem exec_pfD3hot_spec {s : State} (hr : s.hostReaches = true) : ∃ t, exec .pfD3hot s = .next t ∧ t.link = { s.link with d3hot := true }
    ∧ (s.power.state = .watch → t.power.exiting = false) ∧ (s.settled = true ∨ s.power.state = .watch → t.power.state = .watch)
    ∧ (s.settled = false → s.power.state ≠ .watch → t.power = s.power)
    ∧ t.power.held = s.power.held ∧ t.power.mail = s.power.mail
    ∧ t = { s with power := t.power, near := { s.near with sram := t.near.sram }, link := { s.link with d3hot := true } } := by
  dsimp only [exec, execPfD3hot]
  rw [if_pos hr]
  refine ⟨_, rfl, ?_⟩
  by_cases hs : s.power.state = .watch
  · rw [if_pos hs]
    exact ⟨rfl, fun _ => rfl, fun _ => hs, fun _ h => absurd hs h, rfl, rfl, rfl⟩
  · have hsettled : State.settled { s with link := { s.link with d3hot := true } } = s.settled := rfl
    rw [if_neg hs, hsettled]
    by_cases hq : s.settled = true
    · rw [if_pos hq]
      exact ⟨rfl, fun h => absurd h hs, fun _ => rfl, fun h => by simp [hq] at h, rfl, rfl, rfl⟩
    · rw [if_neg hq]
      exact ⟨rfl, fun h => absurd h hs, fun h => absurd (h.resolve_left hq) hs, fun _ _ => rfl, rfl, rfl, rfl⟩

/-- Settles O43: each state is entered and left under its own conditions, and the end of WATCH is `State.leaveWatch`. -/
theorem powerStatesMove : Obligations.PowerStatesMove := by
  unfold Obligations.PowerStatesMove
  intro s
  refine ⟨fun ha hq => ⟨fun hs hr => ?_, fun hs hr => ?_⟩, fun ha hd hs hq => ?_, fun ha hs hd => ?_, fun ha hs hd => ?_, fun hr => ?_,
    fun h => ?_, fun hr hd ht hs => ?_, fun i hs ht hi => ?_⟩
  · dsimp only [exec, execIdleEntry]
    rw [if_pos (by simp [ha, hs, hr, hq])]
  · dsimp only [exec, execWatchEntry]
    rw [if_pos (by simp [ha, hs, hr, hq])]
  · dsimp only [exec, execWatchEntry]
    rw [if_pos (by simp [ha, hd, hs, hq])]
  · exact exec_watchWakeSample_watch ha hs hd
  · dsimp only [exec, execWatchWakeSample]
    rw [if_neg (by simp [hd])]
  · exact exec_pfD3hot_spec hr
  · dsimp only [exec, execWatchExitComplete]
    rw [if_neg (by rcases h with h | h <;> simp [h])]
  · dsimp only [exec, execPfD0]
    rw [if_pos (by simp [hr, hd, ht]), if_neg hs]
  · generalize hu : ({ s with link := { s.link with d3hot := false } } : State) = u
    have hx := u.exited_leaveWatch
    have hk : u.keeps [.flash, .boot, .timer, .dram, .spad, .near, .funcs, .handed, .log, .link, .power, .rowHits, .perf, .out, .free] u.leaveWatch :=
      State.keeps_leaveWatch (by decide) (State.keeps_self _ u)
    refine ⟨_, hu ▸ exec_exits hs ht hi, hx.state, ?_⟩
    subst hu
    exact ⟨hx.rest, hx.held, hx.mail, by obtain ⟨c, hc⟩ := hx.link; rw [hc], fun fn hfn => (hx.tookUp fn hfn).held,
      fun fn hfn => (hx.tookUp fn hfn).known, hx.fenced, hk.1 .streams (by decide), hk.1 .parts (by decide), hk.1 .prefixes (by decide),
      hk.1 .caches (by decide), hk.1 .flight (by decide), hk.1 .sigs (by decide), hk.1 .hostMem (by decide), hk.1 .fuse (by decide),
      hk.1 .peers (by decide)⟩

end Sys2Proof.Machine
end

section
/-! SUPPORT. HostAccess.lean: reads and writes of device memory by the host through VF BAR4 and CXL.mem, and the commit of an HDM decoder
(O49). -/

namespace Sys2Proof.Machine

/-! ### The wake of an access changes nothing that the access meets (R353, R354) -/

theorem State.wake_only (s : State) (w : Wake) : s.wake w = { s with power := (s.wake w).power } := by
  unfold State.wake
  split
  · rfl
  · rfl
  · cases w <;> rfl

/-- In WATCH the wake is only held for the next sample. -/
theorem State.wake_watch {s : State} (h : s.power.state = .watch) :
    s.wake .host = { s with power := { s.power with wakeHost := true } } := by
  unfold State.wake
  rw [h]

theorem State.segsAux_power (s : State) (x : Power) (p : Nat) (P : Partition) (k va n : Nat) :
    State.segsAux { s with power := x } p P k va n = s.segsAux p P k va n := by
  induction k generalizing va n with
  | zero => rfl
  | succ k ih =>
    have hplace : State.place { s with power := x } p P va = s.place p P va := rfl
    simp only [State.segsAux, hplace, ih]

theorem State.segs_wake (s : State) (w : Wake) (p : Nat) (P : Partition) (va n : Nat) : (s.wake w).segs p P va n = s.segs p P va n := by
  rw [s.wake_only w]
  exact s.segsAux_power _ p P _ va n

@[simp] theorem State.part?_wake (s : State) (w : Wake) (p : Nat) : (s.wake w).part? p = s.part? p := by
  rw [s.wake_only w]
  rfl

@[simp] theorem State.bar4Segs_wake (s : State) (w : Wake) (p off len : Nat) : (s.wake w).bar4Segs p off len = s.bar4Segs p off len := by
  unfold State.bar4Segs
  simp only [State.part?_wake, State.segs_wake]

@[simp] theorem State.cxlPlace_wake (s : State) (w : Wake) (hpa : Nat) : (s.wake w).cxlPlace hpa = s.cxlPlace hpa := by
  have hdecode : (s.wake w).decode hpa = s.decode hpa := by
    rw [s.wake_only w]
    rfl
  unfold State.cxlPlace
  simp only [hdecode, State.part?_wake, State.segs_wake]

@[simp] theorem State.viewAll_wake (s : State) (w : Wake) (r : Reader) (l : List Seg) : (s.wake w).viewAll r l = s.viewAll r l := by
  rw [s.wake_only w]
  rfl

@[simp] theorem State.badAll_wake (s : State) (w : Wake) (l : List Seg) : (s.wake w).badAll l = s.badAll l := by
  rw [s.wake_only w]
  rfl

@[simp] theorem State.pcOffline_wake (s : State) (w : Wake) (pc : Nat) : (s.wake w).pcOffline pc = s.pcOffline pc := by
  rw [s.wake_only w]
  rfl

theorem State.keeps_wake_power (s : State) (w : Wake) : s.keeps [.power] (s.wake w) :=
  State.keeps_wake w (by decide) (State.keeps_self _ s)

/-! ### Memories that stay -/

theorem State.keeps_logHost_self (s : State) (cls part addr : Nat) : s.keeps [.timer, .funcs, .log, .out, .free] (s.logHost cls part addr) :=
  State.keeps_logHost cls part addr (by decide) (State.keeps_self _ s)

/-- An access that is logged and does nothing else. -/
theorem State.keeps_wake_logHost (s : State) (cls part addr : Nat) :
    s.keeps [.timer, .funcs, .log, .power, .out, .free] ((s.wake .host).logHost cls part addr) :=
  State.keeps_logHost cls part addr (by decide) (State.keeps_wake .host (by decide) (State.keeps_self _ s))

theorem State.sameMemory_of_keeps {s t : State} {F : List Field} (h : s.keeps F t) (hF : .dram ∉ F ∧ .spad ∉ F ∧ .hostMem ∉ F) :
    s.sameMemory t :=
  ⟨h.1 .dram hF.1, h.1 .spad hF.2.1, h.1 .hostMem hF.2.2⟩

theorem State.sameMemory_trans {s t u : State} (h : s.sameMemory t) (k : t.sameMemory u) : s.sameMemory u :=
  ⟨k.1.trans h.1, k.2.1.trans h.2.1, k.2.2.trans h.2.2⟩

/-- What some stretches hold. -/
def segBytes (l : List Seg) (sp : Space) (a : Nat) : Prop := ∃ g ∈ l, g.holds sp a

theorem not_segBytes {l : List Seg} {sp : Space} {a : Nat} (h : ∀ g ∈ l, ¬g.holds sp a) : ¬segBytes l sp a :=
  fun ⟨g, hg, ha⟩ => h g hg ha

/-! ### A read answers last of all -/

theorem State.getLast?_emit (s : State) (o : Out) : (s.emit o).out.getLast? = some o := List.getLast?_concat

section
variable {s : State} {p off len : Nat}

theorem State.bar4Read_unowned (h : s.part? p = none) : s.bar4Read p off len = s.emit (.readData (p + 1) (zeros len) false) := by
  unfold State.bar4Read
  rw [if_pos (by simp [h])]

theorem State.bar4Read_unmapped (hp : (s.part? p).isSome = true) (h : s.bar4Segs p off len = none) :
    (s.bar4Read p off len).out.getLast? = some (.readAbort (p + 1)) := by
  unfold State.bar4Read
  rw [if_neg (by simpa [Option.isSome_iff_ne_none] using hp), h]
  exact State.getLast?_emit _ _

theorem State.bar4Read_mapped {l : List Seg} (h : s.bar4Segs p off len = some l) :
    (s.bar4Read p off len).out.getLast? = some (.readData (p + 1) (s.viewAll .host l) (s.badAll l)) := by
  have hp : ¬(s.part? p).isNone = true := fun hn => by
    unfold State.bar4Segs at h
    rw [Option.isNone_iff_eq_none.1 hn] at h
    cases h
  unfold State.bar4Read
  rw [if_neg hp, h]
  exact State.getLast?_emit _ _

theorem State.cxlRead_unmapped {hpa : Nat} (h : s.cxlPlace hpa = none) : (s.cxlRead hpa).out.getLast? = some (.cxlData (zeros 64) true) := by
  unfold State.cxlRead
  rw [h]
  exact State.getLast?_emit _ _

theorem State.cxlRead_mapped {hpa va : Nat} {P : Partition} {l : List Seg} (h : s.cxlPlace hpa = some (p, P, va, l)) :
    (s.cxlRead hpa).out.getLast? = some (.cxlData (s.viewAll .host l) (s.badAll l)) := by
  unfold State.cxlRead
  rw [h]
  exact State.getLast?_emit _ _

end

/-! ### Requests turned away (R289, R341) -/

theorem State.cfgSpace_setCfg (s : State) (fn : Nat) (c : CfgSpace) : (s.setCfg fn c).cfgSpace fn = c := by
  unfold State.cfgSpace State.setCfg tgetD
  rw [tget_tput, if_pos rfl]
  rfl

theorem State.cfgSpace_tick (s : State) (fn : Nat) : s.tick.cfgSpace fn = s.cfgSpace fn := rfl

/-- The error that a header is logged for stands in AER. -/
theorem State.aer_logHeader (s : State) (fn : Nat) {b : Nat} (hb : b < 32) : ((s.logHeader fn b).cfgSpace fn).aer.getLsbD b = true := by
  have hset : ((s.cfgSpace fn).aer ||| BitVec.ofNat 32 (2 ^ b)).getLsbD b = true := by
    rw [BitVec.getLsbD_or, BitVec.getLsbD_ofNat, Nat.testBit_two_pow_self, decide_eq_true hb, Bool.and_true, Bool.or_true]
  unfold State.logHeader State.logAer
  dsimp only
  split
  · rw [State.cfgSpace_setCfg]
    exact hset
  · rw [State.cfgSpace_tick, State.cfgSpace_setCfg, State.cfgSpace_setCfg]
    exact hset

theorem State.logHeader_only (s : State) (fn b : Nat) :
    s.logHeader fn b = { s with link := (s.logHeader fn b).link, free := (s.logHeader fn b).free } := by
  unfold State.logHeader
  dsimp only
  split <;> rfl

/-! ### Writes of device memory -/

/-- Bytes written to a stretch of device memory that is not held offline read as written. -/
theorem State.get_writeSeg_dram {s : State} (w : Writer) {g : Seg} {b : Bytes} (bad : Bool) {a : Nat} (hg : g.space = .dram)
    (ho : s.pcOffline (addrBank g.addr / 16) = false) (hlo : g.addr ≤ a) (hhi : a < g.addr + b.length) :
    (s.writeSeg w g b bad).dram.get a = (b[a - g.addr]?).getD 0 := by
  have hput : ∀ (m : Mem) (words : List Nat),
      (if bad = true then words.foldl Mem.poisonWord (m.write g.addr b) else m.write g.addr b).get a = (b[a - g.addr]?).getD 0 := by
    intro m words
    split
    · rw [Mem.get_poisonWords, Mem.get_write, if_pos ⟨hlo, hhi⟩]
    · rw [Mem.get_write, if_pos ⟨hlo, hhi⟩]
  unfold State.writeSeg
  rw [hg]
  dsimp only
  rw [if_neg (by simp [ho])]
  split
  · exact hput _ _
  · exact hput _ _

theorem State.parts_noted (s : State) (w : Writer) (g : Seg) (b : Bytes) (bad : Nat → Bool) :
    ((s.mixReaders w g b bad).unsettle w g).parts = s.parts := by
  have h : s.keeps [.flight, .unsettled] ((s.mixReaders w g b bad).unsettle w g) := by simp
  exact h.1 .parts (by decide)

/-- Only a write of host memory touches a partition: its queue counts what is discarded (R311). -/
theorem State.parts_writeSeg (s : State) (w : Writer) {g : Seg} (b : Bytes) (bad : Bool) (hg : g.space = .dram) :
    (s.writeSeg w g b bad).parts = s.parts := by
  unfold State.writeSeg
  split
  case h_1 hsp => cases hg.symm.trans hsp
  case h_2 hsp => cases hg.symm.trans hsp
  case h_3 =>
    split
    · rfl
    · extract_lets hit words merged merge m₀ m noted put ended
      have hhit : s.keeps [.timer, .flight, .funcs, .log, .perf, .out, .free] hit :=
        State.keeps_each _ (fun u l => State.keeps_leaseHit w g.addr l (by decide) (State.keeps_self _ u)) (State.keeps_self _ s)
      have hmerged : hit.keeps [.flash, .timer, .dram, .spad, .near, .funcs, .log, .rowHits, .perf, .out, .free] merged :=
        State.keeps_mergeWords _ _ _ (by decide) (State.keeps_self _ hit)
      have hended : ended.parts = s.parts := Eq.trans (merged.parts_noted w g b m.badWord)
        (Eq.trans (hmerged.1 .parts (by decide)) (hhit.1 .parts (by decide)))
      split
      · exact hended
      · exact hended

theorem State.parts_writeAll {s : State} (w : Writer) {l : List Seg} (b : Bytes) (bad : Bool) (h : ∀ g ∈ l, g.space = .dram) :
    (s.writeAll w l b bad).parts = s.parts := by
  induction l generalizing s b with
  | nil => rfl
  | cons g l ih =>
    exact (ih _ (fun x hx => h x (List.mem_cons_of_mem _ hx))).trans (s.parts_writeSeg w _ bad (h g List.mem_cons_self))

/-- Striped addresses lie in device memory. -/
theorem State.segsAux_dram {s : State} {p : Nat} {P : Partition} {k va n : Nat} {l : List Seg} (hn : va + n ≤ 2 ^ 40)
    (h : s.segsAux p P k va n = some l) : ∀ g ∈ l, g.space = .dram := by
  induction k generalizing va n l with
  | zero =>
    unfold State.segsAux at h
    split at h
    · cases h
      simp
    · cases h
  | succ k ih =>
    unfold State.segsAux at h
    dsimp only at h
    split at h
    · cases h
      simp
    · split at h
      · cases h
      · next sp a hplace =>
        split at h
        · cases h
        · next rest hrest =>
          cases h
          have hsp : sp = .dram := by
            unfold State.place at hplace
            rw [if_pos (by omega)] at hplace
            obtain ⟨x, -, hx⟩ := Option.map_eq_some_iff.1 hplace
            cases hx
            rfl
          intro g hg
          rcases List.mem_cons.1 hg with rfl | hg
          · exact hsp
          · exact ih (by omega) hrest g hg

theorem State.bar4Segs_eq_some {s : State} {p off len : Nat} {P : Partition} {l : List Seg} (hp : s.part? p = some P)
    (h : s.bar4Segs p off len = some l) : off + len ≤ 2 ^ 40 ∧ s.segs p P off len = some l := by
  unfold State.bar4Segs at h
  rw [hp] at h
  dsimp only at h
  split at h
  · exact ⟨‹_›, h⟩
  · cases h

theorem State.bar4Segs_dram {s : State} {p off len : Nat} {l : List Seg} (h : s.bar4Segs p off len = some l) : ∀ g ∈ l, g.space = .dram := by
  cases hp : s.part? p with
  | none =>
    unfold State.bar4Segs at h
    rw [hp] at h
    cases h
  | some P =>
    obtain ⟨hn, hl⟩ := State.bar4Segs_eq_some hp h
    exact State.segsAux_dram hn hl

/-- One byte lies in one stretch. -/
theorem State.bar4Segs_byte {s : State} {p off a : Nat} {P : Partition} (hp : s.part? p = some P) (hn : off + 1 ≤ 2 ^ 40)
    (h : s.place p P off = some (.dram, a)) : s.bar4Segs p off 1 = some [{ space := .dram, addr := a, len := 1 }] := by
  have hk : min 1 (4096 - off % 4096) = 1 := by omega
  unfold State.bar4Segs
  rw [hp]
  dsimp only
  rw [if_pos hn]
  simp [State.segs, State.segsAux, h, hk]

section
variable {s : State} {p va at? : Nat} {P : Partition} {l : List Seg} {data : Bytes}

/-- A write that meets a protected range is logged and nothing else (R75, R231; log 39). -/
theorem State.hostStore_protected (h : P.protectedVa va data.length = true) : s.hostStore p P va at? l data = s.logHost 0x104 p at? := by
  unfold State.hostStore
  rw [if_pos h]

theorem State.hostStore_open (h : P.protectedVa va data.length = false) :
    s.hostStore p P va at? l data = (s.writeAll (hostWriter p s.free) l data false).tick := by
  unfold State.hostStore
  rw [if_neg (by simp [h])]

theorem State.sameMemory_hostStore (h : P.protectedVa va data.length = true) : s.sameMemory (s.hostStore p P va at? l data) := by
  rw [State.hostStore_protected h]
  exact State.sameMemory_of_keeps (s.keeps_logHost_self _ _ _) (by decide)

theorem State.parts_hostStore (hl : ∀ g ∈ l, g.space = .dram) : (s.hostStore p P va at? l data).parts = s.parts := by
  cases h : P.protectedVa va data.length with
  | true =>
    rw [State.hostStore_protected h]
    exact (s.keeps_logHost_self _ _ _).1 .parts (by decide)
  | false =>
    rw [State.hostStore_open h]
    exact State.parts_writeAll _ data false hl

/-- A host write stores within the stretches of its address. -/
theorem State.storesIn_hostStore : s.storesIn (segBytes l) (s.hostStore p P va at? l data) := by
  cases h : P.protectedVa va data.length with
  | true =>
    rw [State.hostStore_protected h]
    exact State.storesIn_then (State.bytesStay_of_keeps (s.keeps_logHost_self _ _ _) (by decide)) (State.storesIn_self _ s)
  | false =>
    rw [State.hostStore_open h]
    have hin : s.storesIn (segBytes l) (s.writeAll (hostWriter p s.free) l data false) :=
      State.storesIn_writeAll _ data false
        (fun g hg i hi => ⟨g, hg, rfl, Nat.le_add_right _ _, Nat.add_lt_add_left hi _⟩) (State.storesIn_self _ s)
    exact ⟨hin.dram, hin.spad, hin.host, hin.finished⟩

/-- A byte of device memory that is neither protected nor held offline takes the value written. -/
theorem State.get_hostStore_byte {x : Byte} {a : Nat} (h : P.protectedVa va 1 = false) (ho : s.pcOffline (addrBank a / 16) = false) :
    (s.hostStore p P va at? [{ space := .dram, addr := a, len := 1 }] [x]).dram.get a = x := by
  rw [State.hostStore_open h]
  exact (s.get_writeSeg_dram (g := { space := .dram, addr := a, len := 1 }) (b := [x]) _ false rfl ho (Nat.le_refl a) (Nat.lt_succ_self a)).trans
    (by simp)

end

/-! ### BAR4 (R296) -/

section
variable {s : State} {p off len : Nat} {data : Bytes} {via : Via}

/-- TLPs of a stream that does not stand are discarded (R339). -/
theorem exec_hostBar4_dropped (hlen : 0 < len) (hdata : data ≠ []) (hd : s.streamDrops via = true) :
    exec (.hostBar4Read p off len via) s = .next s ∧ exec (.hostBar4Write p off data via) s = .next s := by
  constructor
  · dsimp only [exec, execHostBar4Read, Instr.illFormed]
    rw [if_neg (by omega)]
    exact if_pos (by simp [hd])
  · dsimp only [exec, execHostBar4Write, Instr.illFormed]
    rw [if_neg (by simpa using hdata)]
    exact if_pos (by simp [hd])

theorem exec_hostBar4Write_closed (hdata : data ≠ []) (ho : s.barOpen p via = false) : exec (.hostBar4Write p off data via) s = .next s := by
  dsimp only [exec, execHostBar4Write, Instr.illFormed]
  rw [if_neg (by simpa using hdata)]
  exact if_pos (by simp [ho])

section
variable (hr : s.hostReaches = true) (hp : p < 32) (hlen : 0 < len) (hd : s.streamDrops via = false) (ht : s.thermal.tripped = false)
include hr hp hlen hd ht

theorem exec_hostBar4Read_closed (ho : s.barOpen p via = false) : exec (.hostBar4Read p off len via) s
    = .next ((s.logHeader (p + 1) aerUnsupported).emit (.unsupported (p + 1))) := by
  dsimp only [exec, execHostBar4Read, Instr.illFormed]
  rw [if_neg (by omega)]
  dsimp only
  rw [if_neg (by simp [hr, hp, ht, hd]), if_pos (by simp [ho])]

theorem exec_hostBar4Read_unsupported (ho : s.barOpen p via = false) :
    ∃ t, exec (.hostBar4Read p off len via) s = .next t ∧ t.out = s.out ++ [.unsupported (p + 1)]
      ∧ (t.cfgSpace (p + 1)).aer.getLsbD aerUnsupported = true ∧ t = { s with out := t.out, link := t.link, free := t.free } := by
  refine ⟨_, exec_hostBar4Read_closed hr hp hlen hd ht ho, ?_, s.aer_logHeader (p + 1) (by decide), ?_⟩
  · rw [State.out_emit, s.logHeader_only (p + 1) aerUnsupported]
  · rw [s.logHeader_only (p + 1) aerUnsupported]
    rfl

theorem exec_hostBar4Read_open (ho : s.barOpen p via = true) : exec (.hostBar4Read p off len via) s
    = if (s.wake .host).power.state = .watch
      then .next { s.wake .host with power := { (s.wake .host).power with held := (s.wake .host).power.held ++ [.bar4 p off len] } }
      else .next ((s.wake .host).bar4Read p off len) := by
  dsimp only [exec, execHostBar4Read, Instr.illFormed]
  rw [if_neg (by omega)]
  dsimp only
  rw [if_neg (by simp [hr, hp, ht, hd]), if_neg (by simp [ho])]

theorem exec_hostBar4Read_watch (ho : s.barOpen p via = true) (hw : s.power.state = .watch) :
    ∃ t, exec (.hostBar4Read p off len via) s = .next t ∧ t.power.held = s.power.held ++ [.bar4 p off len] ∧ t.out = s.out := by
  rw [exec_hostBar4Read_open hr hp hlen hd ht ho, State.wake_watch hw]
  exact ⟨_, if_pos hw, rfl, rfl⟩

theorem exec_hostBar4Read_awake (ho : s.barOpen p via = true) (hw : s.power.state ≠ .watch) :
    ∃ t, exec (.hostBar4Read p off len via) s = .next t ∧ t.power.state = .active
      ∧ t.parts = s.parts ∧ t.flight = s.flight ∧ t.streams = s.streams
      ∧ (s.part? p = none → t.out = s.out ++ [.readData (p + 1) (zeros len) false])
      ∧ ((s.part? p).isSome = true → s.bar4Segs p off len = none → t.out.getLast? = some (.readAbort (p + 1)))
      ∧ (∀ l, s.bar4Segs p off len = some l → t.out.getLast? = some (.readData (p + 1) (s.viewAll .host l) (s.badAll l))) := by
  have hactive : (s.wake .host).power.state = .active := State.state_wake hw .host
  have hwake := s.keeps_wake_power .host
  generalize hu : s.wake .host = u at hactive hwake
  have hread : u.keeps [.flash, .timer, .dram, .spad, .near, .funcs, .log, .link, .rowHits, .perf, .out, .free] (u.bar4Read p off len) :=
    State.keeps_bar4Read p off len (by decide) (State.keeps_self _ u)
  have hpower : (u.bar4Read p off len).power = u.power := hread.1 .power (by decide)
  refine ⟨u.bar4Read p off len, ?_, by rw [hpower, hactive], Eq.trans (hread.1 .parts (by decide)) (hwake.1 .parts (by decide)),
    Eq.trans (hread.1 .flight (by decide)) (hwake.1 .flight (by decide)),
    Eq.trans (hread.1 .streams (by decide)) (hwake.1 .streams (by decide)), fun hp => ?_, fun hp hl => ?_, fun l hl => ?_⟩
  · rw [exec_hostBar4Read_open hr hp hlen hd ht ho, hu, if_neg (by simp [hactive])]
  · have hout : u.out = s.out := hwake.1 .out (by decide)
    rw [State.bar4Read_unowned (by rw [← hu, State.part?_wake, hp]), State.out_emit, hout]
  · exact State.bar4Read_unmapped (by rw [← hu, State.part?_wake, hp]) (by rw [← hu, State.bar4Segs_wake, hl])
  · rw [State.bar4Read_mapped (l := l) (by rw [← hu, State.bar4Segs_wake, hl]), ← hu, State.viewAll_wake, State.badAll_wake]

end

section
variable {P : Partition} (hr : s.hostReaches = true) (hp : p < 32) (hdata : data ≠ []) (hd : s.streamDrops via = false)
  (ho : s.barOpen p via = true) (hpart : s.part? p = some P)
include hr hp hdata hd ho hpart

theorem exec_hostBar4Write_unmapped (hl : s.bar4Segs p off data.length = none) :
    exec (.hostBar4Write p off data via) s = .next ((s.wake .host).logHost 0x102 p off) := by
  dsimp only [exec, execHostBar4Write, Instr.illFormed]
  rw [if_neg (by simpa using hdata)]
  dsimp only
  rw [if_neg (by simp [hr, hp, hd, ho]), State.part?_wake, hpart]
  dsimp only
  rw [State.bar4Segs_wake, hl]

theorem exec_hostBar4Write_mapped {l : List Seg} (hl : s.bar4Segs p off data.length = some l) :
    exec (.hostBar4Write p off data via) s = .next ((s.wake .host).hostStore p P off off l data) := by
  dsimp only [exec, execHostBar4Write, Instr.illFormed]
  rw [if_neg (by simpa using hdata)]
  dsimp only
  rw [if_neg (by simp [hr, hp, hd, ho]), State.part?_wake, hpart]
  dsimp only
  rw [State.bar4Segs_wake, hl]

theorem exec_hostBar4Write_spec :
    ∃ t, exec (.hostBar4Write p off data via) s = .next t ∧ t.parts = s.parts ∧ t.streams = s.streams
      ∧ (s.bar4Segs p off data.length = none ∨ P.protectedVa off data.length = true → s.sameMemory t)
      ∧ (∀ l, s.bar4Segs p off data.length = some l →
          ∀ a, (∀ g ∈ l, ¬ g.holds .dram a) → t.dram.get a = s.dram.get a)
      ∧ (∀ x a, data = [x] → off + 1 ≤ 2 ^ 40 → s.place p P off = some (.dram, a) → P.protectedVa off 1 = false →
          s.pcOffline (addrBank a / 16) = false → t.dram.get a = x) := by
  have hwake := s.keeps_wake_power .host
  have hmem : s.sameMemory (s.wake .host) := State.sameMemory_of_keeps hwake (by decide)
  cases hl : s.bar4Segs p off data.length with
  | none =>
    have hlog := s.keeps_wake_logHost 0x102 p off
    refine ⟨_, exec_hostBar4Write_unmapped hr hp hdata hd ho hpart hl, hlog.1 .parts (by decide), hlog.1 .streams (by decide),
      fun _ => State.sameMemory_of_keeps hlog (by decide), fun l h => ?_, fun x a hx hn hplace _ _ => ?_⟩
    · cases h
    · subst hx
      cases hl.symm.trans (State.bar4Segs_byte hpart hn hplace)
  | some l =>
    have hstore : (s.wake .host).keeps _ ((s.wake .host).hostStore p P off off l data) :=
      State.keeps_hostStore p P off off l data (List.Subset.refl _) (State.keeps_self _ _)
    refine ⟨_, exec_hostBar4Write_mapped hr hp hdata hd ho hpart hl,
      (State.parts_hostStore (State.bar4Segs_dram hl)).trans (hwake.1 .parts (by decide)),
      Eq.trans (hstore.1 .streams (by decide)) (hwake.1 .streams (by decide)), fun h => ?_, fun k hk a ha => ?_,
      fun x a hx hn hplace hprot hoffline => ?_⟩
    · exact State.sameMemory_trans hmem (State.sameMemory_hostStore (h.resolve_left (by simp)))
    · cases hk
      rw [State.storesIn_hostStore.dram a (not_segBytes ha), hmem.1]
    · subst hx
      cases hl.symm.trans (State.bar4Segs_byte hpart hn hplace)
      exact State.get_hostStore_byte hprot (by rw [State.pcOffline_wake, hoffline])

end

end

/-! ### CXL.mem (R85, R297 to R300) -/

section
variable {s : State} {hpa : Nat} (hr : s.hostReaches = true) (hc : s.link.cxl = true) (ht : s.thermal.tripped = false) (ha : hpa % 64 = 0)
include hr hc ht ha

theorem exec_cxlMemRead_open : exec (.cxlMemRead hpa) s
    = if (s.wake .host).power.state = .watch
      then .next { s.wake .host with power := { (s.wake .host).power with held := (s.wake .host).power.held ++ [.cxl hpa] } }
      else .next ((s.wake .host).cxlRead hpa) := by
  dsimp only [exec, execCxlMemRead, Instr.illFormed]
  rw [if_neg (by simp [ha])]
  dsimp only
  rw [if_neg (by simp [hr, hc, ht])]

theorem exec_cxlMemRead_watch (hw : s.power.state = .watch) :
    ∃ t, exec (.cxlMemRead hpa) s = .next t ∧ t.power.held = s.power.held ++ [.cxl hpa] ∧ t.out = s.out := by
  rw [exec_cxlMemRead_open hr hc ht ha, State.wake_watch hw]
  exact ⟨_, if_pos hw, rfl, rfl⟩

theorem exec_cxlMemRead_awake (hw : s.power.state ≠ .watch) :
    ∃ t, exec (.cxlMemRead hpa) s = .next t ∧ t.parts = s.parts
      ∧ (s.cxlPlace hpa = none → t.out.getLast? = some (.cxlData (zeros 64) true))
      ∧ (∀ p P va l, s.cxlPlace hpa = some (p, P, va, l) → t.out.getLast? = some (.cxlData (s.viewAll .host l) (s.badAll l))) := by
  have hactive : (s.wake .host).power.state = .active := State.state_wake hw .host
  have hwake := s.keeps_wake_power .host
  generalize hu : s.wake .host = u at hactive hwake
  have hread : u.keeps [.flash, .timer, .dram, .spad, .near, .funcs, .log, .rowHits, .perf, .out, .free] (u.cxlRead hpa) :=
    State.keeps_cxlRead hpa (by decide) (State.keeps_self _ u)
  refine ⟨u.cxlRead hpa, ?_, Eq.trans (hread.1 .parts (by decide)) (hwake.1 .parts (by decide)), fun h => ?_, fun p P va l h => ?_⟩
  · rw [exec_cxlMemRead_open hr hc ht ha, hu, if_neg (by simp [hactive])]
  · exact State.cxlRead_unmapped (by rw [← hu, State.cxlPlace_wake, h])
  · rw [State.cxlRead_mapped (p := p) (P := P) (va := va) (l := l) (by rw [← hu, State.cxlPlace_wake, h]), ← hu, State.viewAll_wake,
      State.badAll_wake]

section
variable {data : Bytes} (hdata : data.length = 64)
include hdata

theorem exec_cxlMemWrite_unmapped (hl : s.cxlPlace hpa = none) :
    exec (.cxlMemWrite hpa data) s = .next (((s.wake .host).logHost 0x102 ((s.wake .host).cxlPart hpa) hpa).emit .cxlDone) := by
  dsimp only [exec, execCxlMemWrite, Instr.illFormed]
  rw [if_neg (by simp [hdata]), if_neg (by simp [ha])]
  dsimp only
  rw [if_neg (by simp [hr, hc, ht]), State.cxlPlace_wake, hl]

theorem exec_cxlMemWrite_mapped {p va : Nat} {P : Partition} {l : List Seg} (hl : s.cxlPlace hpa = some (p, P, va, l)) :
    exec (.cxlMemWrite hpa data) s
      = .next ((((s.wake .host).hostStore p P va hpa l data).settleCxl (s.wake .host).free).emit .cxlDone) := by
  dsimp only [exec, execCxlMemWrite, Instr.illFormed]
  rw [if_neg (by simp [hdata]), if_neg (by simp [ha])]
  dsimp only
  rw [if_neg (by simp [hr, hc, ht]), State.cxlPlace_wake, hl]

theorem exec_cxlMemWrite_spec : ∃ t, exec (.cxlMemWrite hpa data) s = .next t ∧ t.out.getLast? = some .cxlDone
    ∧ (s.cxlPlace hpa = none → s.sameMemory t)
    ∧ (∀ p P va l, s.cxlPlace hpa = some (p, P, va, l) →
        (P.protectedVa va 64 = true → s.sameMemory t)
        ∧ ∀ a, (∀ g ∈ l, ¬ g.holds .dram a) → t.dram.get a = s.dram.get a) := by
  have hmem : s.sameMemory (s.wake .host) := State.sameMemory_of_keeps (s.keeps_wake_power .host) (by decide)
  cases hl : s.cxlPlace hpa with
  | none =>
    refine ⟨_, exec_cxlMemWrite_unmapped hr hc ht ha hdata hl, State.getLast?_emit _ _, fun _ =>
      State.sameMemory_of_keeps (State.keeps_emit _ (by decide) (s.keeps_wake_logHost _ _ _)) (by decide), fun p P va l h => ?_⟩
    cases h
  | some place =>
    obtain ⟨p, P, va, l⟩ := place
    have hsettle : ∀ (u : State) (seed : Nat), u.keeps [.unsettled, .out] ((u.settleCxl seed).emit .cxlDone) := fun u seed =>
      State.keeps_emit _ (by decide) (State.keeps_settleCxl seed (by decide) (State.keeps_self _ u))
    have hstays : ∀ (u : State) (seed : Nat), u.sameMemory ((u.settleCxl seed).emit .cxlDone) := fun u seed =>
      State.sameMemory_of_keeps (hsettle u seed) (by decide)
    refine ⟨_, exec_cxlMemWrite_mapped hr hc ht ha hdata hl, State.getLast?_emit _ _, fun h => ?_, fun p' P' va' l' h => ?_⟩
    · cases h
    · cases h
      refine ⟨fun hprot => ?_, fun a hout => ?_⟩
      · exact State.sameMemory_trans hmem (State.sameMemory_trans (State.sameMemory_hostStore (by rw [hdata, hprot])) (hstays _ _))
      · rw [(hstays _ _).1, State.storesIn_hostStore.dram a (not_segBytes hout), hmem.1]

end

end

/-! ### HDM decoders (R297, R299) -/

theorem State.hdm_setHdm (s : State) (p : Nat) (h : Hdm) : (s.setHdm p h).hdm p = h := by
  unfold State.hdm State.setHdm tgetD
  rw [tget_tput, if_pos rfl]
  rfl

section
variable {s : State} {p base size : Nat}

/-- A decoder that is not committed takes base and size, and commits where it may. -/
theorem State.hdmCommit_free (h : Hdm) (hfree : tget s.link.decoders p = none) :
    (s.setHdm p h).hdmCommit p = { s with link := { s.link with
      hdm := tput (tput s.link.hdm p h) p { h with ctrl := 0x200, error := !s.hdmAllowed p h.base.toNat h.size.toNat }
      decoders := if s.hdmAllowed p h.base.toNat h.size.toNat then tput s.link.decoders p { base := h.base.toNat, size := h.size.toNat }
        else s.link.decoders } } := by
  have hcommitted : (s.setHdm p h).hdmCommitted p = false := by
    show (tget s.link.decoders p).isSome = false
    rw [hfree]
    rfl
  have hallowed : ∀ b n, (s.setHdm p h).hdmAllowed p b n = s.hdmAllowed p b n := fun _ _ => rfl
  unfold State.hdmCommit
  rw [State.hdm_setHdm, hcommitted]
  dsimp only
  rw [if_neg (by decide), hallowed]
  cases s.hdmAllowed p h.base.toNat h.size.toNat <;> rfl

theorem exec_hdmDecoderCommit_spec (hr : s.hostReaches = true) (hc : s.link.cxl = true) (hp : p < 32) (hfree : tget s.link.decoders p = none)
    (hbase : base < 2 ^ 64) (hsize : size < 2 ^ 64) :
    ∃ t, exec (.hdmDecoderCommit p base size) s = .next t
      ∧ t = { s with link := { s.link with decoders := t.link.decoders, hdm := t.link.hdm } }
      ∧ (t.hdm p).base.toNat = base ∧ (t.hdm p).size.toNat = size ∧ (t.hdm p).error = !s.hdmAllowed p base size
      ∧ ∀ k, tget t.link.decoders k
        = if k = p ∧ s.hdmAllowed p base size = true then some { base := base, size := size } else tget s.link.decoders k := by
  have hb : (BitVec.ofNat 64 base).toNat = base := Nat.mod_eq_of_lt hbase
  have hn : (BitVec.ofNat 64 size).toNat = size := Nat.mod_eq_of_lt hsize
  generalize hh : ({ s.hdm p with base := BitVec.ofNat 64 base, size := BitVec.ofNat 64 size } : Hdm) = h
  have hhb : h.base.toNat = base := by rw [← hh, hb]
  have hhn : h.size.toNat = size := by rw [← hh, hn]
  have hcommit := State.hdmCommit_free h hfree
  rw [hhb, hhn] at hcommit
  generalize ht : (s.setHdm p h).hdmCommit p = t at hcommit
  have hexec : exec (.hdmDecoderCommit p base size) s = .next t := by
    dsimp only [exec, execHdmDecoderCommit]
    rw [if_pos (by simp [hr, hc, hp, State.hdmCommitted, hfree]), hh, ht]
  have hhdm : t.hdm p = { h with ctrl := 0x200, error := !s.hdmAllowed p base size } := by
    rw [hcommit]
    exact State.hdm_setHdm (s.setHdm p h) p _
  refine ⟨t, hexec, by rw [hcommit], by rw [hhdm]; exact hhb, by rw [hhdm]; exact hhn, by rw [hhdm], fun k => ?_⟩
  rw [hcommit]
  dsimp only
  cases s.hdmAllowed p base size with
  | false => rw [if_neg (by decide), if_neg (by simp)]
  | true => simp [tget_tput]

end

/-- Settles O49: every access is the model's read or store of its segments on the state that the arrival has woken, which maps the same bytes. -/
theorem hostReachesMappedMemory : Obligations.HostReachesMappedMemory := by
  unfold Obligations.HostReachesMappedMemory
  intro s hr
  refine ⟨fun p off len via hp hlen hd ho ht => ⟨exec_hostBar4Read_watch hr hp hlen hd ht ho, exec_hostBar4Read_awake hr hp hlen hd ht ho⟩,
    fun p off len data via hp hlen hdata hd ho => ⟨fun ht => exec_hostBar4Read_unsupported hr hp hlen hd ht ho, exec_hostBar4Write_closed hdata ho⟩,
    fun p off len data via hlen hdata hd => exec_hostBar4_dropped hlen hdata hd,
    fun p off data via P hp hdata hd ho hpart => exec_hostBar4Write_spec hr hp hdata hd ho hpart,
    fun hc ht hpa ha => ⟨exec_cxlMemRead_awake hr hc ht ha, exec_cxlMemRead_watch hr hc ht ha, fun data hdata =>
      exec_cxlMemWrite_spec hr hc ht ha hdata⟩,
    fun p base size hc hp hfree hbase hsize => exec_hdmDecoderCommit_spec hr hc hp hfree hbase hsize⟩

end Sys2Proof.Machine
end

section
/-! SUPPORT. CacheLines.lean: an entry of a table that is changed; what a write of device memory does to the read caches (O26). -/

namespace Sys2Proof.Machine

theorem tget_tupd {α : Type} (t : Tab α) (i j : Nat) (f : α → α) :
    tget (tupd t i f) j = if j = i then (tget t i).map f else tget t j := by
  unfold tupd
  split
  case h_1 v hv => rw [tget_tput, hv, Option.map_some]
  case h_2 hn =>
    split
    · rename_i h
      rw [h, hn, Option.map_none]
    · rfl

/-- The caches after a write of n bytes of device memory at an address (R98). -/
def State.cachesWritten (s : State) (w : Writer) (a n : Nat) : Tab (List CacheLine) :=
  if w.kind = 1 ∧ w.engine < 32 then tupd s.caches w.cluster (fun l => dropLines l a n) else s.caches

theorem State.caches_writeSeg (s : State) (w : Writer) {g : Seg} (b : Bytes) (bad : Bool) (hg : g.space = .dram)
    (ho : s.pcOffline (addrBank g.addr / 16) = false) : (s.writeSeg w g b bad).caches = s.cachesWritten w g.addr b.length := by
  unfold State.writeSeg
  split
  case h_1 hsp => cases hg.symm.trans hsp
  case h_2 hsp => cases hg.symm.trans hsp
  case h_3 =>
    split
    case isTrue h => simp [ho] at h
    case isFalse =>
      extract_lets hit words merged merge m₀ m noted put ended
      have hhit : s.keeps [.timer, .flight, .funcs, .log, .perf, .out, .free] hit :=
        State.keeps_each _ (fun u l => State.keeps_leaseHit w g.addr l (by decide) (State.keeps_self _ u)) (State.keeps_self _ s)
      have hmerged : hit.keeps [.flash, .timer, .dram, .spad, .near, .funcs, .log, .rowHits, .perf, .out, .free] merged :=
        State.keeps_mergeWords _ _ _ (by decide) (State.keeps_self _ hit)
      have hnoted : merged.keeps [.flight, .unsettled] noted := by simp [noted]
      have hcaches : noted.caches = s.caches :=
        calc noted.caches = merged.caches := hnoted.1 .caches (by decide)
          _ = hit.caches := hmerged.1 .caches (by decide)
          _ = s.caches := hhit.1 .caches (by decide)
      have hput : put.caches = s.cachesWritten w g.addr b.length := by simp only [put, State.cachesWritten, hcaches]
      split
      · exact hput
      · exact hput

theorem mem_dropLines {l : List CacheLine} {a n : Nat} {x : CacheLine} :
    x ∈ dropLines l a n ↔ x ∈ l ∧ overlaps x.addr 128 a n = false := by
  simp [dropLines]

theorem State.cachesWritten_foreign {s : State} {w : Writer} (h : ¬(w.kind = 1 ∧ w.engine < 32)) (a n : Nat) :
    s.cachesWritten w a n = s.caches := if_neg h

theorem State.tget_cachesWritten_other (s : State) {w : Writer} {c : Nat} (h : c ≠ w.cluster) (a n : Nat) :
    tget (s.cachesWritten w a n) c = tget s.caches c := by
  unfold State.cachesWritten
  split
  · rw [tget_tupd, if_neg h]
  · rfl

theorem State.tget_cachesWritten_own (s : State) {w : Writer} (hk : w.kind = 1) (he : w.engine < 32) (a n : Nat) :
    tget (s.cachesWritten w a n) w.cluster = (tget s.caches w.cluster).map (fun l => dropLines l a n) := by
  rw [State.cachesWritten, if_pos ⟨hk, he⟩, tget_tupd, if_pos rfl]

/-- Settles O26: a write of device memory leaves the caches as `cachesWritten` says, which drops lines of the writer's own
cluster alone, and those that the write overlaps. -/
theorem cacheLinesAndWrites : Obligations.CacheLinesAndWrites := by
  intro s w g b bad hg ho t
  have ht : t.caches = s.cachesWritten w g.addr b.length := s.caches_writeSeg w b bad hg ho
  refine ⟨fun h => ht.trans (State.cachesWritten_foreign h _ _), fun c hc => ?_, fun hk he l hl x hx => ?_, fun hk he l hl => ?_⟩
  · rw [ht, s.tget_cachesWritten_other hc]
  · rw [ht, s.tget_cachesWritten_own hk he, Option.map_eq_some_iff] at hl
    obtain ⟨l₀, _, rfl⟩ := hl
    exact (mem_dropLines.mp hx).2
  · refine ⟨dropLines l g.addr b.length, ?_, fun x hx hn => mem_dropLines.mpr ⟨hx, hn⟩⟩
    rw [ht, s.tget_cachesWritten_own hk he, hl, Option.map_some]

end Sys2Proof.Machine
end

section
/-! SUPPORT. Ending.lean: how a command in flight ends, in parts: the step boundary, the report, a waiting queue.destroy; what each part
does to the command's queue (R101, R123, R129, R133 to R137). -/

namespace Sys2Proof.Machine

/-! ### Partitions and queues by number -/

theorem State.part?_updPart (s : State) (p j : Nat) (g : Partition → Partition) :
    (s.updPart p g).part? j = if j = p then (s.part? p).map g else s.part? j := tget_tupd _ _ _ _

theorem State.part?_congr {s t : State} (h : t.parts = s.parts) (p : Nat) : t.part? p = s.part? p := by
  unfold State.part?
  rw [h]

theorem State.queue?_of_part {s : State} {p : Nat} {P : Partition} (h : s.part? p = some P) (q : Nat) :
    s.queue? p q = tget P.queues q := by
  unfold State.queue?
  rw [h]

theorem State.part_of_queue? {s : State} {p q : Nat} {Q : Queue} (h : s.queue? p q = some Q) :
    ∃ P, s.part? p = some P ∧ tget P.queues q = some Q := by
  unfold State.queue? at h
  split at h
  · cases h
  · rename_i P hP
    exact ⟨P, hP, h⟩

/-- Queue q of partition p, which was Q, has become Q'; its other queues and its step number stand. -/
def State.movesQueue (s t : State) (p q : Nat) (Q Q' : Queue) : Prop :=
  ∀ P, s.part? p = some P → tget P.queues q = some Q → ∃ P', t.part? p = some P' ∧ P'.stepNo = P.stepNo
    ∧ tget P'.queues q = some Q' ∧ ∀ k, k ≠ q → tget P'.queues k = tget P.queues k

section
variable {s t u : State} {p q : Nat} {Q Q' Q'' : Queue}

theorem State.movesQueue_of_parts (h : t.parts = s.parts) : s.movesQueue t p q Q Q :=
  fun P hP hQ => ⟨P, (State.part?_congr h p).trans hP, rfl, hQ, fun _ _ => rfl⟩

theorem State.movesQueue_trans (h : s.movesQueue t p q Q Q') (k : t.movesQueue u p q Q' Q'') : s.movesQueue u p q Q Q'' := by
  intro P hP hQ
  obtain ⟨P', hP', hn, hQ', ho⟩ := h P hP hQ
  obtain ⟨P'', hP'', hn', hQ'', ho'⟩ := k P' hP' hQ'
  exact ⟨P'', hP'', hn'.trans hn, hQ'', fun i hi => (ho' i hi).trans (ho i hi)⟩

/-- An operation that keeps the partitions, after others. -/
theorem State.movesQueue_then (h : s.movesQueue t p q Q Q') (k : u.parts = t.parts) : s.movesQueue u p q Q Q' :=
  State.movesQueue_trans h (State.movesQueue_of_parts k)

theorem State.movesQueue_updQueue (s : State) (p q : Nat) (Q : Queue) (g : Queue → Queue) :
    s.movesQueue (s.updQueue p q g) p q Q (g Q) := by
  intro P hP hQ
  refine ⟨{ P with queues := tupd P.queues q g }, ?_, rfl, ?_, fun k hk => ?_⟩
  · rw [State.updQueue, State.part?_updPart, if_pos rfl, hP, Option.map_some]
  · rw [tget_tupd, if_pos rfl, hQ, Option.map_some]
  · rw [tget_tupd, if_neg hk]

theorem State.queue?_of_moves (h : s.movesQueue t p q Q Q') (hQ : s.queue? p q = some Q) : t.queue? p q = some Q' := by
  obtain ⟨P, hP, hPQ⟩ := State.part_of_queue? hQ
  obtain ⟨P', hP', _, hQ', _⟩ := h P hP hPQ
  rw [State.queue?_of_part hP', hQ']

theorem State.queue?_of_moves_other (h : s.movesQueue t p q Q Q') (hQ : s.queue? p q = some Q) {k : Nat} (hk : k ≠ q) :
    t.queue? p k = s.queue? p k := by
  obtain ⟨P, hP, hPQ⟩ := State.part_of_queue? hQ
  obtain ⟨P', hP', _, _, ho⟩ := h P hP hPQ
  rw [State.queue?_of_part hP', State.queue?_of_part hP, ho k hk]

end

/-! ### The completion ring -/

/-- n entries have been written to the queue's ring or wait for it; nothing but the ring's state has changed. -/
structure Queue.ringed (n : Nat) (Q Q' : Queue) : Prop where
  rest : Q' = { Q with written := Q'.written, unsignalled := Q'.unsignalled, held := Q'.held, discarded := Q'.discarded }
  entries : Q'.written + Q'.held.length = Q.written + Q.held.length + n
  written : Q.full = false → Q.held = [] → Q'.written = Q.written + n

theorem Queue.ringed_zero (Q : Queue) : Queue.ringed 0 Q Q := ⟨rfl, rfl, fun _ _ => rfl⟩

section
variable {s : State} {p q : Nat} {Q : Queue}

theorem State.moves_hostWrite (s : State) (p q : Nat) (Q : Queue) (key : Nat) (b : Bytes) :
    ∃ n, s.movesQueue (s.hostWrite p q key b) p q Q { Q with discarded := n } := by
  unfold State.hostWrite
  split
  · exact ⟨_, s.movesQueue_updQueue p q Q _⟩
  · exact ⟨Q.discarded, State.movesQueue_of_parts rfl⟩

theorem State.parts_raiseVector (s : State) (fn v : Nat) : (s.raiseVector fn v).parts = s.parts :=
  (State.keeps_raiseVector fn v (by decide) (State.keeps_self [.funcs, .out] s)).1 .parts (by decide)

theorem State.moves_ringWrite (s : State) (p q : Nat) (Q : Queue) (e : Bytes) :
    ∃ n m, s.movesQueue (s.ringWrite p q Q e) p q Q { Q with written := Q.written + 1, unsignalled := m, discarded := n } := by
  unfold State.ringWrite
  extract_lets i phase e' hosted counted n fire put
  obtain ⟨k, hk⟩ := s.moves_hostWrite p q Q (hostKey (p + 1) (Q.cqBase + 16 * i)) e'
  have hput : s.movesQueue put p q Q { Q with written := Q.written + 1, unsignalled := if fire then 0 else n, discarded := k } :=
    State.movesQueue_trans (State.movesQueue_then (u := counted) hk rfl) (counted.movesQueue_updQueue p q _ _)
  have hraised : (if fire then put.raiseVector (p + 1) Q.vector else put).parts = put.parts := by
    split
    · exact State.parts_raiseVector _ _ _
    · rfl
  exact ⟨k, if fire then 0 else n, State.movesQueue_then hput hraised⟩

/-- A completion record enters the ring, or waits while the ring is full (R135). -/
theorem State.moves_ringPut (h : s.queue? p q = some Q) (e : Bytes) :
    ∃ Q', s.movesQueue (s.ringPut p q e) p q Q Q' ∧ Queue.ringed 1 Q Q' := by
  unfold State.ringPut
  rw [h]
  dsimp only
  split
  case isTrue hw =>
    refine ⟨_, s.movesQueue_updQueue p q Q _, rfl, by simp [Nat.add_assoc], fun hf hh => ?_⟩
    simp [hf, hh] at hw
  case isFalse hw =>
    obtain ⟨n, m, hm⟩ := s.moves_ringWrite p q Q e
    exact ⟨_, hm, rfl, by simp; omega, fun _ _ => rfl⟩

end

/-! ### The parts of an ending -/

/-- The step boundary that the end of a command makes, with STEP_END or as a STEP (R129, R147); whether it rejects a group. -/
def State.atBoundary (s : State) (f : Flight) : State × Bool :=
  if recStepEnd f.bytes || decide (recOp f.bytes = 0x0007) then s.stepBoundary f.p else (s, false)

/-- The status a command ends with, a rejected group known (R286). -/
def Flight.statusAfter (f : Flight) (rejected : Bool) : Status :=
  if rejected && decide (f.final = .ok) then .configRejected else f.final

/-- The command is out of flight, its further conditions logged, its writes readable as R249 says. -/
def State.withdrawn (s : State) (id : Nat) (f : Flight) (st : Status) : State :=
  ({ s.logSecondary f st with flight := tdel (s.logSecondary f st).flight id } : State).raiseScope (fun u => u.completedBy id f.engine)

/-- The counter that SIGNAL names has risen (R123). -/
def State.signalled (s : State) (f : Flight) : State :=
  if recSignal f.bytes < 15 then s.updQueue f.p f.q (fun Q => Q.bump (recSignal f.bytes) 1) else s

/-- The skip log has its entry (R137). -/
def State.skipNoted (s : State) (f : Flight) (st : Status) : State :=
  if st.skips then s.updQueue f.p f.q (fun Q => Q.addSkip (f.skipEntry st)) else s

/-- The events of an end are counted (R405). -/
def State.endCounted (s : State) (f : Flight) (st : Status) : State :=
  let s := if st.skips then s.countFor f 1 f.cluster 0x45 1 else s
  let s := if st = .skippedPred then s.countFor f 1 f.cluster 0x44 1 else s
  if f.engine < 32 then s.countFor f 0 (f.cluster * 8 + f.engine / 4) 0x0B 1 else s

/-- The completion record is written (R133). -/
def State.recorded (s : State) (f : Flight) (st : Status) : State :=
  if recComplete f.bytes then (s.stamp f.island).2.ringPut f.p f.q (f.record st (s.stamp f.island).1) else s

/-- All that the end of a command reports. -/
def State.reportEnd (s : State) (id : Nat) (f : Flight) (st : Status) : State :=
  (((((s.withdrawn id f st).signalled f).skipNoted f st).endCounted f st).recorded f st).finishSample id f st

theorem State.retire_eq {s : State} {id : Nat} {f : Flight} (h : tget s.flight id = some f) :
    s.retire id = ((s.atBoundary f).1.reportEnd id f (f.statusAfter (s.atBoundary f).2)).settleDestroy f.p f.q := by
  unfold State.retire
  rw [h]
  rfl

theorem State.retire_absent {s : State} {id : Nat} (h : tget s.flight id = none) : s.retire id = s := by
  unfold State.retire
  rw [h]

/-- A skip log with one more entry: at most 64 stay, the youngest (R137). -/
def skipAdded (l : List Bytes) (e : Bytes) : List Bytes := (if 64 ≤ l.length then l.tail else l) ++ [e]

/-- What a report does to its command's queue. -/
structure Queue.reported (f : Flight) (st : Status) (Q Q' : Queue) : Prop where
  ahead : Q'.ahead = Q.ahead
  loops : Q'.loops = Q.loops
  cmps : Q'.cmps = Q.cmps
  waiting : Q'.waiting = Q.waiting
  destroying : Q'.destroying = Q.destroying
  ctrs : Q'.ctrs = if recSignal f.bytes < 15 then (Q.bump (recSignal f.bytes) 1).ctrs else Q.ctrs
  skipLog : Q'.skipLog = if st.skips then skipAdded Q.skipLog (f.skipEntry st) else Q.skipLog
  entries : Q'.written + Q'.held.length = Q.written + Q.held.length + b2n (recComplete f.bytes)
  written : Q.full = false → Q.held = [] → Q'.written = Q.written + b2n (recComplete f.bytes)

/-- What the SIGNAL field does to a queue (R123). -/
def Queue.signalledBy (Q : Queue) (f : Flight) : Queue := if recSignal f.bytes < 15 then Q.bump (recSignal f.bytes) 1 else Q

/-- What an end with a status does to the skip log of a queue (R137). -/
def Queue.skipNotedBy (Q : Queue) (f : Flight) (st : Status) : Queue := if st.skips then Q.addSkip (f.skipEntry st) else Q

theorem Queue.addSkip_eq (Q : Queue) (e : Bytes) : ∃ n, Q.addSkip e = { Q with skipLog := skipAdded Q.skipLog e, lost := n } := by
  unfold Queue.addSkip skipAdded
  split
  · rename_i o rest h
    rw [h]
    split
    · exact ⟨Q.lost + 1, rfl⟩
    · exact ⟨Q.lost, rfl⟩
  · rename_i h
    rw [h]
    exact ⟨Q.lost, rfl⟩

/-- SIGNAL and skip log touch their own fields alone. -/
theorem Queue.skipNotedBy_signalledBy (f : Flight) (st : Status) (Q : Queue) : ∃ n, (Q.signalledBy f).skipNotedBy f st
    = { Q with ctrs := if recSignal f.bytes < 15 then (Q.bump (recSignal f.bytes) 1).ctrs else Q.ctrs,
               skipLog := if st.skips then skipAdded Q.skipLog (f.skipEntry st) else Q.skipLog, lost := n } := by
  unfold Queue.skipNotedBy Queue.signalledBy
  cases st.skips
  case true =>
    obtain ⟨n, hn⟩ := Queue.addSkip_eq (if recSignal f.bytes < 15 then Q.bump (recSignal f.bytes) 1 else Q) (f.skipEntry st)
    exact ⟨n, hn.trans (by split <;> rfl)⟩
  case false =>
    refine ⟨Q.lost, ?_⟩
    rw [if_neg Bool.false_ne_true, if_neg Bool.false_ne_true]
    split <;> rfl

/-- The three things that a report does to a queue, in their order. -/
theorem Queue.reported_of_ringed {f : Flight} {st : Status} {Q Q' : Queue}
    (h : Queue.ringed (b2n (recComplete f.bytes)) ((Q.signalledBy f).skipNotedBy f st) Q') : Queue.reported f st Q Q' := by
  obtain ⟨n, hn⟩ := Queue.skipNotedBy_signalledBy f st Q
  rw [hn] at h
  obtain ⟨hrest, hentries, hwritten⟩ := h
  exact ⟨by rw [hrest], by rw [hrest], by rw [hrest], by rw [hrest], by rw [hrest], by rw [hrest], by rw [hrest], hentries, hwritten⟩

section
variable {s : State} {id : Nat} {f : Flight} {st : Status}

theorem State.keeps_withdrawn (s : State) (id : Nat) (f : Flight) (st : Status) :
    s.keeps [.timer, .funcs, .log, .out, .free, .flight, .unsettled, .ends] (s.withdrawn id f st) := by
  unfold State.withdrawn
  simp (maxDischargeDepth := 40)

theorem State.flight_withdrawn (s : State) (id : Nat) (f : Flight) (st : Status) : (s.withdrawn id f st).flight = tdel s.flight id := by
  have h : (s.logSecondary f st).flight = s.flight :=
    (State.keeps_logSecondary f st (by decide) (State.keeps_self [.timer, .funcs, .log, .out, .free] s)).1 .flight (by decide)
  exact congrArg (fun t => tdel t id) h

theorem Unsettled.foldl_beneath (gone : List Unsettled) (u : Unsettled) :
    gone.foldl Unsettled.beneath u = { u with old := (gone.foldl Unsettled.beneath u).old } := by
  induction gone generalizing u with
  | nil => rfl
  | cons g gone ih =>
    have hone : u.beneath g = { u with old := (u.beneath g).old } := by
      unfold Unsettled.beneath
      split <;> rfl
    rw [List.foldl_cons, ih (u.beneath g), hone]

/-- Writes that stay on the list keep all but the bytes that they would hide. -/
theorem mem_settleList {cur : Space → Nat → Bytes} {newer gone l : List Unsettled} {v : Unsettled} (h : v ∈ settleList cur newer gone l) :
    ∃ u ∈ l, v = { u with old := v.old } := by
  induction l generalizing newer gone with
  | nil => cases h
  | cons u l ih =>
    have hrest : ∀ {newer gone}, v ∈ settleList cur newer gone l → ∃ u' ∈ u :: l, v = { u' with old := v.old } := fun hv =>
      (ih hv).imp fun _ ⟨hm, he⟩ => ⟨List.mem_cons_of_mem _ hm, he⟩
    unfold settleList at h
    dsimp only at h
    split at h
    · exact hrest h
    · rcases List.mem_cons.mp h with rfl | hv
      · exact ⟨u, List.mem_cons_self, Unsettled.foldl_beneath gone u⟩
      · exact hrest hv

theorem State.mem_raiseScope {s : State} {g : Unsettled → Unsettled} {v : Unsettled} (h : v ∈ (s.raiseScope g).unsettled) :
    ∃ u ∈ s.unsettled, v = { g u with old := v.old } := by
  obtain ⟨u', hu', hv⟩ := mem_settleList h
  obtain ⟨u, hu, rfl⟩ := List.mem_map.mp hu'
  exact ⟨u, hu, hv⟩

theorem State.mem_withdrawn {v : Unsettled} (h : v ∈ (s.withdrawn id f st).unsettled) :
    ∃ u ∈ s.unsettled, v = { u.completedBy id f.engine with old := v.old } := by
  have hlog : (s.logSecondary f st).unsettled = s.unsettled :=
    (State.keeps_logSecondary f st (by decide) (State.keeps_self [.timer, .funcs, .log, .out, .free] s)).1 .unsettled (by decide)
  obtain ⟨u, hu, hv⟩ := State.mem_raiseScope h
  exact ⟨u, hlog ▸ hu, hv⟩

theorem State.keeps_endCounted (s : State) (f : Flight) (st : Status) : s.keeps [.perf] (s.endCounted f st) := by
  unfold State.endCounted
  simp (maxDischargeDepth := 40)

theorem State.moves_signalled (s : State) (f : Flight) (Q : Queue) : s.movesQueue (s.signalled f) f.p f.q Q (Q.signalledBy f) := by
  unfold State.signalled Queue.signalledBy
  split
  · exact s.movesQueue_updQueue f.p f.q Q _
  · exact State.movesQueue_of_parts rfl

theorem State.moves_skipNoted (s : State) (f : Flight) (st : Status) (Q : Queue) :
    s.movesQueue (s.skipNoted f st) f.p f.q Q (Q.skipNotedBy f st) := by
  unfold State.skipNoted Queue.skipNotedBy
  split
  · exact s.movesQueue_updQueue f.p f.q Q _
  · exact State.movesQueue_of_parts rfl

theorem State.moves_recorded {Q : Queue} (h : s.queue? f.p f.q = some Q) (st : Status) :
    ∃ Q', s.movesQueue (s.recorded f st) f.p f.q Q Q' ∧ Queue.ringed (b2n (recComplete f.bytes)) Q Q' := by
  unfold State.recorded
  split
  case isTrue hc =>
    have hstamp : (s.stamp f.island).2.parts = s.parts :=
      (State.keeps_stamp f.island (by decide) (State.keeps_self [.cycles, .free] s)).1 .parts (by decide)
    have hm : s.movesQueue (s.stamp f.island).2 f.p f.q Q Q := State.movesQueue_of_parts hstamp
    obtain ⟨Q', hput, hr⟩ := State.moves_ringPut (State.queue?_of_moves hm h) (f.record st (s.stamp f.island).1)
    rw [hc]
    exact ⟨Q', State.movesQueue_trans hm hput, hr⟩
  case isFalse hc =>
    rw [Bool.not_eq_true] at hc
    rw [hc]
    exact ⟨Q, State.movesQueue_of_parts rfl, Queue.ringed_zero Q⟩

/-- A report moves its queue as R101, R123 and R137 say, and no other queue of the partition. -/
theorem State.moves_reportEnd {Q : Queue} (h : s.queue? f.p f.q = some Q) (id : Nat) (st : Status) :
    ∃ Q', s.movesQueue (s.reportEnd id f st) f.p f.q Q Q' ∧ Queue.reported f st Q Q' := by
  have h1 : s.movesQueue (s.withdrawn id f st) f.p f.q Q Q :=
    State.movesQueue_of_parts ((s.keeps_withdrawn id f st).1 .parts (by decide))
  have h2 := State.movesQueue_trans h1 (State.moves_signalled (s.withdrawn id f st) f Q)
  have h3 := State.movesQueue_trans h2 (State.moves_skipNoted _ f st _)
  have h4 := State.movesQueue_then h3 ((State.keeps_endCounted _ f st).1 .parts (by decide))
  obtain ⟨Q', h5, hr⟩ := State.moves_recorded (State.queue?_of_moves h4 h) st
  have h6 := State.movesQueue_trans h4 h5
  refine ⟨Q', State.movesQueue_then h6 ?_, Queue.reported_of_ringed hr⟩
  exact (State.keeps_finishSample id f st (by decide) (State.keeps_self [.perf, .free] _)).1 .parts (by decide)

/-- What a report may change beside the table of commands in flight. -/
theorem State.keeps_reported (s : State) (id : Nat) (f : Flight) (st : Status) : (s.withdrawn id f st).keeps
    [.timer, .cycles, .hostMem, .parts, .funcs, .perf, .out, .free] (s.reportEnd id f st) := by
  unfold State.reportEnd State.recorded State.endCounted State.skipNoted State.signalled
  simp (maxDischargeDepth := 40)

theorem State.keeps_reportEnd (s : State) (id : Nat) (f : Flight) (st : Status) : s.keeps [.timer, .cycles, .hostMem, .parts, .funcs, .perf, .out,
    .free, .log, .flight, .unsettled, .ends] (s.reportEnd id f st) :=
  State.keeps_then (s.keeps_reported id f st) (by decide) (State.keeps_mono (s.keeps_withdrawn id f st) (by decide))

theorem State.mem_reportEnd {v : Unsettled} (h : v ∈ (s.reportEnd id f st).unsettled) :
    ∃ u ∈ s.unsettled, v = { u.completedBy id f.engine with old := v.old } :=
  State.mem_withdrawn ((s.keeps_reported id f st).1 .unsettled (by decide) ▸ h)

theorem State.flight_reportEnd (s : State) (id : Nat) (f : Flight) (st : Status) : (s.reportEnd id f st).flight = tdel s.flight id :=
  ((s.keeps_reported id f st).1 .flight (by decide)).trans (s.flight_withdrawn id f st)

theorem State.settleDestroy_stays {p q : Nat} {Q : Queue} (h : s.queue? p q = some Q) (hd : Q.destroying = false) :
    s.settleDestroy p q = s := by
  unfold State.settleDestroy
  rw [h]
  dsimp only
  rw [hd]
  rfl

end

end Sys2Proof.Machine
end

section
/-! SUPPORT. EndingAtDispatch.lean: step boundaries, and records that end at their dispatch (O9, O11). -/

namespace Sys2Proof.Machine

/-! ### Step boundaries -/

/-- Settings of a partition that a boundary takes over leave this cluster where it is. -/
def State.clusterStays (s : State) (p c : Nat) : Prop :=
  ∀ P, s.part? p = some P → P.staged.clusters.getLsbD c = P.live.clusters.getLsbD c

/-- What a step boundary of a partition leaves: device memory, the scratchpads of clusters that stay, queues and step number; writes that are
not certain yet may be forgotten with a cluster's scratchpads (R96, R286). -/
structure State.crossesBoundary (s t : State) (p : Nat) : Prop where
  dram : t.dram = s.dram
  spad : ∀ a, s.clusterStays p (a / 2 ^ 24) → t.spad.get a = s.spad.get a
  queues : ∀ q Q, s.movesQueue t p q Q Q
  unsettled : ∀ u ∈ t.unsettled, u ∈ s.unsettled

theorem State.crossesBoundary_self (s : State) (p : Nat) : s.crossesBoundary s p :=
  ⟨rfl, fun _ _ => rfl, fun _ _ => State.movesQueue_of_parts rfl, fun _ h => h⟩

section
variable {s t u : State} {p : Nat}

/-- A rejected group is counted and logged. -/
theorem State.crossesBoundary_rejectGroup (h : s.crossesBoundary t p) (g : Nat) : s.crossesBoundary (t.rejectGroup p g) p := by
  have k : t.keeps [.timer, .parts, .funcs, .log, .out, .free] (t.rejectGroup p g) :=
    State.keeps_rejectGroup p g (by decide) (State.keeps_self _ t)
  have hparts : (t.rejectGroup p g).parts = (t.updPart p (fun P => { P with rejectCount := P.rejectCount + 1 })).parts := by
    unfold State.rejectGroup
    extract_lets counted raised
    have hraised : counted.keeps [.timer, .funcs, .log, .out, .free] raised :=
      State.keeps_raiseEvent (p + 1) 0 (by decide) (State.keeps_raiseEvent 0 0 (by decide) (State.keeps_self _ counted))
    exact (State.keeps_logErr _ (by decide) hraised).1 .parts (by decide)
  have hmoves : ∀ q Q, t.movesQueue (t.rejectGroup p g) p q Q Q := by
    intro q Q P hP hQ
    refine ⟨{ P with rejectCount := P.rejectCount + 1 }, ?_, rfl, hQ, fun _ _ => rfl⟩
    rw [State.part?_congr hparts, State.part?_updPart, if_pos rfl, hP, Option.map_some]
  refine ⟨(k.1 .dram (by decide)).trans h.dram, fun a ha => ?_, fun q Q => State.movesQueue_trans (h.queues q Q) (hmoves q Q), fun u hu => ?_⟩
  · exact (congrArg (fun m => Mem.get m a) (k.1 .spad (by decide))).trans (h.spad a ha)
  · exact h.unsettled u ((k.1 .unsettled (by decide)) ▸ hu)

/-- Clusters handed over lose their scratchpads, and nothing else of the memories. -/
theorem State.handedOver_spec (s : State) (moved : List Nat) :
    let t := s.each moved (fun s i => (s.handCluster i).resetCounters (clusterUnit i))
    t.dram = s.dram ∧ t.parts = s.parts ∧ (∀ a, a / 2 ^ 24 ∉ moved → t.spad.get a = s.spad.get a)
      ∧ ∀ u ∈ t.unsettled, u ∈ s.unsettled := by
  refine State.each_induction (R := fun t => t.dram = s.dram ∧ t.parts = s.parts
    ∧ (∀ a, a / 2 ^ 24 ∉ moved → t.spad.get a = s.spad.get a) ∧ ∀ u ∈ t.unsettled, u ∈ s.unsettled)
    ⟨rfl, rfl, fun _ _ => rfl, fun _ h => h⟩ ?_
  intro t i hi ⟨hdram, hparts, hspad, hunsettled⟩
  refine ⟨hdram, hparts, fun a ha => ?_, fun u hu => hunsettled u (List.mem_of_mem_filter hu)⟩
  refine Eq.trans ?_ (hspad a ha)
  show (t.spad.clear (i * 2 ^ 24) (2 ^ 24)).get a = t.spad.get a
  rw [Mem.get_clear, if_neg]
  intro hin
  have hai : a / 2 ^ 24 = i := by omega
  exact ha (hai ▸ hi)

theorem State.crossesBoundary_stepBoundary (s : State) (p : Nat) : s.crossesBoundary (s.stepBoundary p).1 p := by
  unfold State.stepBoundary
  split
  · exact s.crossesBoundary_self p
  · rename_i P hP
    split
    · exact s.crossesBoundary_self p
    · extract_lets a b c live moved settled handed ra rb rc
      obtain ⟨hdram, hparts, hspad, hunsettled⟩ := settled.handedOver_spec moved
      have hhanded : s.crossesBoundary handed p := by
        refine ⟨hdram, fun x hx => hspad x (fun hm => ?_), fun q Q P' hP' hQ => ?_, hunsettled⟩
        · have hbit := hx P hP
          simp only [moved, live, List.mem_filter, bne_iff_ne, ne_eq] at hm
          apply hm.2
          split
          · exact hbit.symm
          · rfl
        · cases hP.symm.trans hP'
          refine ⟨{ P with live := live, staged := live, applyCount := if live = P.live then P.applyCount else P.applyCount + 1 },
            (State.part?_congr hparts p).trans ?_, rfl, hQ, fun _ _ => rfl⟩
          rw [State.part?_updPart, if_pos rfl, hP, Option.map_some]
      have hreject : ∀ (t : State) (ok : Bool) (g : Nat), s.crossesBoundary t p →
          s.crossesBoundary (if ok then t else t.rejectGroup p g) p := by
        intro t ok g h
        split
        · exact h
        · exact State.crossesBoundary_rejectGroup h g
      exact hreject _ c 2 (hreject _ b 1 (hreject _ a 0 hhanded))

theorem State.crossesBoundary_atBoundary (s : State) (f : Flight) : s.crossesBoundary (s.atBoundary f).1 f.p := by
  unfold State.atBoundary
  split
  · exact s.crossesBoundary_stepBoundary f.p
  · exact s.crossesBoundary_self f.p

theorem State.keeps_atBoundary (s : State) (f : Flight) :
    s.keeps [.timer, .dram, .spad, .caches, .unsettled, .parts, .funcs, .log, .perf, .out, .free] (s.atBoundary f).1 := by
  unfold State.atBoundary
  split
  · exact State.keeps_stepBoundary f.p (by decide) (State.keeps_self _ s)
  · exact State.keeps_self _ s

theorem State.atBoundary_none {f : Flight} (hend : recStepEnd f.bytes = false) (hop : recOp f.bytes ≠ 0x0007) : s.atBoundary f = (s, false) := by
  unfold State.atBoundary
  rw [hend]
  simp [hop]

/-! ### An end without a fault -/

/-- What the end of a command of queue Q does, where it causes no fault. -/
structure State.endsCommand (s t : State) (id : Nat) (f : Flight) (Q : Queue) (st : Status) : Prop where
  flight : t.flight = tdel s.flight id
  nextId : t.nextId = s.nextId
  sigs : t.sigs = s.sigs
  dram : t.dram = s.dram
  spad : ∀ a, (recStepEnd f.bytes = false ∧ recOp f.bytes ≠ 0x0007) ∨ s.clusterStays f.p (a / 2 ^ 24) → t.spad.get a = s.spad.get a
  queue : ∃ Q', s.movesQueue t f.p f.q Q Q' ∧ Queue.reported f st Q Q'
  unsettled : ∀ v ∈ t.unsettled, ∃ u ∈ s.unsettled, v = { u.completedBy id f.engine with old := v.old }

/-- The end of a command whose queue is not being destroyed. -/
theorem State.endsCommand_retire {id : Nat} {f : Flight} {Q : Queue} (hf : tget s.flight id = some f) (hQ : s.queue? f.p f.q = some Q)
    (hd : Q.destroying = false) : s.endsCommand (s.retire id) id f Q (f.statusAfter (s.atBoundary f).2) := by
  have hb := s.crossesBoundary_atBoundary f
  have hkb := s.keeps_atBoundary f
  have hkr := (s.atBoundary f).1.keeps_reportEnd id f (f.statusAfter (s.atBoundary f).2)
  obtain ⟨Q', hmr, hrep⟩ := State.moves_reportEnd (State.queue?_of_moves (hb.queues f.q Q) hQ) id (f.statusAfter (s.atBoundary f).2)
  have hmoves := State.movesQueue_trans (hb.queues f.q Q) hmr
  have hretire := (State.retire_eq hf).trans (State.settleDestroy_stays (State.queue?_of_moves hmoves hQ) (hrep.destroying.trans hd))
  rw [hretire]
  refine ⟨?_, (hkr.1 .nextId (by decide)).trans (hkb.1 .nextId (by decide)), (hkr.1 .sigs (by decide)).trans (hkb.1 .sigs (by decide)),
    (hkr.1 .dram (by decide)).trans hb.dram, fun a ha => ?_, ⟨Q', hmoves, hrep⟩, fun v hv => ?_⟩
  · rw [State.flight_reportEnd]
    exact congrArg (fun t => tdel t id) (hkb.1 .flight (by decide))
  · refine (congrArg (fun m => Mem.get m a) (hkr.1 .spad (by decide))).trans ?_
    rcases ha with ⟨hend, hop⟩ | hstays
    · rw [State.atBoundary_none hend hop]
    · exact hb.spad a hstays
  · obtain ⟨u, hu, he⟩ := State.mem_reportEnd hv
    exact ⟨u, hb.unsettled u hu, he⟩

theorem State.complete_faultless {id : Nat} {f : Flight} (hf : tget s.flight id = some f) (h : f.final.faultClass = none) :
    s.complete id = (s.landWrites f).retire id := by
  have hhost : f.final ≠ .hostTimeout := by rintro e; rw [e] at h; cases h
  have hcdc : f.final ≠ .timeoutCdc := by rintro e; rw [e] at h; cases h
  unfold State.complete
  rw [hf]
  dsimp only
  rw [if_neg hhost, if_neg hcdc, h]

theorem State.landWrites_control (s : State) {f : Flight} (h : ¬(f.engine < 32 ∧ f.engine % 4 = 3)) : s.landWrites f = s := if_neg h

end

end Sys2Proof.Machine
end

section
/-! SUPPORT. Dispatch.lean: the place of a record that may dispatch, its launch, and its end at dispatch (O9). -/

namespace Sys2Proof.Machine

/-! ### The site of a dispatch -/

/-- What the head of a queue that may dispatch meets. -/
structure State.meetsSite (s : State) (d : Site) : Prop where
  part : s.part? d.p = some d.P
  queue : tget d.P.queues d.q = some d.Q
  standing : d.Q.destroying = false
  room : d.Q.full = false
  held : d.Q.held = []
  waiting : d.Q.waiting = none

section
variable {s : State} {p q : Nat} {d : Site}

theorem State.site?_place (h : s.site? p q = some d) : d.p = p ∧ d.q = q := by
  unfold State.site? at h
  split at h
  · cases h
  split at h
  · cases h
  split at h
  · cases h
  split at h
  · cases h; exact ⟨rfl, rfl⟩
  · cases h

theorem State.meetsSite_of_site? (h : s.site? p q = some d) : s.meetsSite d := by
  unfold State.site? at h
  split at h
  · cases h
  rename_i P hP
  split at h
  · cases h
  rename_i Q hQ
  split at h
  · cases h
  split at h
  case isFalse => cases h
  case isTrue hm =>
    cases h
    simp only [State.mayDispatch, Bool.and_eq_true, Bool.not_eq_true', Option.isNone_iff_eq_none, List.isEmpty_iff] at hm
    obtain ⟨⟨⟨⟨⟨⟨⟨⟨⟨⟨⟨⟨⟨_, _⟩, hd⟩, hw⟩, hf⟩, hh⟩, _⟩, _⟩, _⟩, _⟩, _⟩, _⟩, _⟩, _⟩ := hm
    exact ⟨hP, hQ, hd, hf, hh, hw⟩

theorem State.meetsSite.queue? (h : s.meetsSite d) : s.queue? d.p d.q = some d.Q := by
  rw [State.queue?_of_part h.part, h.queue]

end

/-! ### Launching -/

theorem Queue.advance_only (Q : Queue) (k : Nat) : Q.advance k = { Q with ahead := (Q.advance k).ahead, loops := (Q.advance k).loops } := by
  unfold Queue.advance
  split
  · rfl
  · rfl

section
variable (s : State) (d : Site) (f : Flight) (k : Nat)

theorem State.parts_launch : (s.launch d f k).1.parts = ((s.updQueue d.p d.q (fun Q => Q.advance k)).updPart d.p
    (fun P => { P with turns := tput P.turns d.Q.cluster d.q })).parts := by
  unfold State.launch
  extract_lets id flown moved turned counted
  exact (State.keeps_sampleDispatch d.Q.cluster id (by decide) (State.keeps_self [.timer, .cycles, .perf, .free] counted)).1 .parts (by decide)

theorem State.flight_launch : (s.launch d f k).1.flight = tput s.flight s.nextId (s.issue d.p f) := by
  unfold State.launch
  extract_lets id flown moved turned counted
  exact (State.keeps_sampleDispatch d.Q.cluster id (by decide) (State.keeps_self [.timer, .cycles, .perf, .free] counted)).1 .flight (by decide)

theorem State.keeps_launched :
    s.keeps [.timer, .cycles, .parts, .flight, .nextId, .perf, .free, .ends] (s.launch d f k).1 :=
  State.keeps_launch d f k (by decide) (State.keeps_self _ s)

theorem State.part?_launch {P : Partition} (hP : s.part? d.p = some P) : (s.launch d f k).1.part? d.p
    = some { P with queues := tupd P.queues d.q (fun Q => Q.advance k), turns := tput P.turns d.Q.cluster d.q } := by
  rw [State.part?_congr (s.parts_launch d f k), State.part?_updPart, if_pos rfl, State.updQueue, State.part?_updPart, if_pos rfl, hP]
  rfl

theorem State.moves_launch (Q : Queue) : s.movesQueue (s.launch d f k).1 d.p d.q Q (Q.advance k) := by
  intro P hP hQ
  refine ⟨_, s.part?_launch d f k hP, rfl, ?_, fun j hj => ?_⟩
  · rw [tget_tupd, if_pos rfl, hQ, Option.map_some]
  · rw [tget_tupd, if_neg hj]

theorem State.clusterStays_launch {c : Nat} (h : s.clusterStays d.p c) : (s.launch d f k).1.clusterStays d.p c := by
  intro P' hP'
  cases hP : s.part? d.p with
  | none =>
    rw [State.part?_congr (s.parts_launch d f k), State.part?_updPart, if_pos rfl, State.updQueue, State.part?_updPart, if_pos rfl, hP] at hP'
    cases hP'
  | some P =>
    rw [s.part?_launch d f k hP] at hP'
    cases hP'
    exact h P hP

end

/-! ### Ending at dispatch -/

theorem Flight.final_of_conds {f : Flight} {st : Status} (h : f.conds = if st = .ok then [] else [st]) : f.final = st := by
  unfold Flight.final
  rw [h]
  cases st <;> rfl

theorem Flight.skips_statusAfter (f : Flight) (rejected : Bool) : (f.statusAfter rejected).skips = f.final.skips := by
  unfold Flight.statusAfter
  split
  case isTrue h =>
    rw [Bool.and_eq_true, decide_eq_true_eq] at h
    rw [h.2]
    rfl
  case isFalse => rfl

theorem Flight.statusAfter_of_ne_ok {f : Flight} (h : f.final ≠ .ok) (rejected : Bool) : f.statusAfter rejected = f.final := by
  unfold Flight.statusAfter
  simp [h]

/-- The command of a record that ends at its dispatch. -/
def Site.ended (d : Site) (st : Status) (off : Nat) : Flight :=
  { d.flight 34 (islControl d.Q.cluster) with offset := off, conds := if st = .ok then [] else [st] }

/-- A control record makes no transactions that a broken crossing could stop. -/
theorem State.meetsBroken_ended (s : State) (d : Site) (st : Status) (off : Nat) : s.meetsBroken (d.ended st off) = false := by
  unfold State.meetsBroken
  rw [List.any_eq_false]
  intro e _
  split <;> simp [Site.ended, Site.flight, Flight.reaches]

theorem State.final_issue_ended (s : State) (p : Nat) (d : Site) (st : Status) (off : Nat) : (s.issue p (d.ended st off)).final = st := by
  refine Flight.final_of_conds ?_
  unfold State.issue
  rw [s.meetsBroken_ended]
  rfl

theorem State.endAtDispatch_eq (s : State) (d : Site) (st : Status) (off k : Nat) :
    s.endAtDispatch d st off k = (s.launch d (d.ended st off) k).1.complete s.nextId := rfl

/-- What ending at dispatch does to a state whose queue at the site is Q. -/
structure State.endsRecord (s t : State) (d : Site) (st : Status) (off k : Nat) (Q : Queue) : Prop where
  nextId : t.nextId = s.nextId + 1
  flight : tget t.flight s.nextId = none
  sigs : t.sigs = s.sigs
  dram : t.dram = s.dram
  spad : ∀ a, (recStepEnd d.b = false ∧ recOp d.b ≠ 0x0007) ∨ s.clusterStays d.p (a / 2 ^ 24) → t.spad.get a = s.spad.get a
  queue : ∃ f st' Q', f.bytes = d.b ∧ f.offset = off ∧ st'.skips = st.skips ∧ (st.skips = true → st' = st)
    ∧ s.movesQueue t d.p d.q Q Q' ∧ Queue.reported f st' (Q.advance k) Q'

theorem State.endsRecord_endAtDispatch {s : State} {d : Site} {st : Status} {Q : Queue} (hQ : s.queue? d.p d.q = some Q)
    (hd : Q.destroying = false) (hst : st.faultClass = none) (off k : Nat) :
    s.endsRecord (s.endAtDispatch d st off k) d st off k Q := by
  rw [s.endAtDispatch_eq]
  generalize hf : s.issue d.p (d.ended st off) = f
  have hfinal : f.final = st := hf ▸ s.final_issue_ended d.p d st off
  have hbytes : f.bytes = d.b := by rw [← hf]; rfl
  have hoff : f.offset = off := by rw [← hf]; rfl
  have hengine : ¬(f.engine < 32 ∧ f.engine % 4 = 3) := by rw [← hf]; simp [State.issue, Site.ended, Site.flight]
  have hp : f.p = d.p := by rw [← hf]; rfl
  have hq : f.q = d.q := by rw [← hf]; rfl
  generalize hu : (s.launch d (d.ended st off) k).1 = u
  have hkeeps : s.keeps [.timer, .cycles, .parts, .flight, .nextId, .perf, .free, .ends] u := hu ▸ s.keeps_launched d _ k
  have hflight : u.flight = tput s.flight s.nextId f := by rw [← hu, s.flight_launch, hf]
  have hmoves : s.movesQueue u d.p d.q Q (Q.advance k) := hu ▸ s.moves_launch d _ k Q
  have hnext : u.nextId = s.nextId + 1 := hu ▸ (s.launch_spec d _ k).2.1
  have hget : tget u.flight s.nextId = some f := by rw [hflight, tget_tput, if_pos rfl]
  have hadv : (Q.advance k).destroying = false := by rw [Q.advance_only k]; exact hd
  have hends := State.endsCommand_retire hget (hp ▸ hq ▸ State.queue?_of_moves hmoves hQ) hadv
  rw [State.complete_faultless hget (hfinal ▸ hst), State.landWrites_control u hengine]
  obtain ⟨Q', hm, hr⟩ := hends.queue
  refine ⟨hends.nextId.trans hnext, ?_, hends.sigs.trans (hkeeps.1 .sigs (by decide)), hends.dram.trans (hkeeps.1 .dram (by decide)),
    fun a ha => ?_, f, _, Q', hbytes, hoff, (Flight.skips_statusAfter f _).trans (congrArg Status.skips hfinal), fun hsk => ?_,
    State.movesQueue_trans hmoves (hp ▸ hq ▸ hm), hr⟩
  · rw [hends.flight, tget_tdel, if_pos rfl]
  · refine (hends.spad a ?_).trans (congrArg (fun m => Mem.get m a) (hkeeps.1 .spad (by decide)))
    rw [hbytes, hp]
    exact ha.imp id (fun h => hu ▸ s.clusterStays_launch d _ k h)
  · rw [Flight.statusAfter_of_ne_ok _ _, hfinal]
    rw [hfinal]
    rintro rfl
    cases hsk

/-! ### What a record that ends leaves -/

section
variable {s t u : State} {d : Site} {st : Status} {off k : Nat} {Q : Queue}

/-- The record has been consumed where its queue stood as it was met. -/
theorem State.consumed_of_endsRecord (h : s.endsRecord t d st off k Q) (hQ : s.queue? d.p d.q = some Q) (hn : s.nextId = u.nextId)
    (hahead : (Q.advance k).ahead = (d.Q.advance k).ahead) (hloops : (Q.advance k).loops = (d.Q.advance k).loops) :
    u.consumed t d k := by
  obtain ⟨f, st', Q', _, _, _, _, hm, hr⟩ := h.queue
  exact ⟨hn ▸ h.nextId, hn ▸ h.flight, Q', State.queue?_of_moves hm hQ, hr.ahead.trans hahead, hr.loops.trans hloops⟩

end

/-! ### Fields of a skip-log entry (R137) -/

theorem fld_append_right {a b : Bytes} {n k : Nat} (h : a.length = n) (len : Nat) : fld (a ++ b) (n + k) len = fld b k len := by
  unfold fld
  rw [← h, List.drop_append, List.drop_eq_nil_of_le (Nat.le_add_right _ _), List.nil_append, Nat.add_sub_cancel_left]

theorem u8_natLe_append (v : Nat) (b : Bytes) : u8 (natLe 1 v ++ b) 0 = v % 256 := by
  simp [u8, fld, natLe, leNat]

/-- Status and offset stand at bytes 10 and 12 of a skip-log entry. -/
theorem Flight.skipEntry_fields {f : Flight} (hlen : 6 ≤ f.bytes.length) (st : Status) :
    u8 (f.skipEntry st) 10 = st.code ∧ u8 (f.skipEntry st) 12 = f.offset % 256 := by
  have hhead : (natLe 6 f.pos ++ f.bytes.take 2 ++ (f.bytes.drop 4).take 2).length = 10 := by
    simp [length_natLe]
    omega
  have hnext : (natLe 6 f.pos ++ f.bytes.take 2 ++ (f.bytes.drop 4).take 2 ++ natLe 1 st.code
      ++ natLe 1 (b2n f.partialDone + 2 * b2n f.looped)).length = 12 := by
    simp [length_natLe]
    omega
  have hcode : st.code % 256 = st.code := by cases st <;> rfl
  unfold Flight.skipEntry
  constructor
  · rw [List.append_assoc, List.append_assoc, List.append_assoc, u8, fld_append_right (k := 0) hhead, ← u8, u8_natLe_append, hcode]
  · rw [List.append_assoc, u8, fld_append_right (k := 0) hnext, ← u8, u8_natLe_append]

/-- Settles O9: the record goes into flight and ends there, so that its queue is the one met, moved on and reported to. -/
theorem endingAtDispatch : Obligations.EndingAtDispatch := by
  intro s p q off k d st hs hst _ _ t
  obtain ⟨rfl, rfl⟩ := State.site?_place hs
  have hd := State.meetsSite_of_site? hs
  have h : s.endsRecord t d st off k d.Q := State.endsRecord_endAtDispatch hd.queue? hd.standing hst off k
  obtain ⟨f, st', Q, hbytes, hoff, hskips, hsame, hm, hr⟩ := h.queue
  have hadv := d.Q.advance_only k
  refine ⟨State.consumed_of_endsRecord h hd.queue? rfl rfl rfl, Q, State.queue?_of_moves hm hd.queue?, ?_, ?_, ?_, ?_, fun hsk => ?_,
    fun hsk hlen => ?_⟩
  · rw [hr.ctrs, hbytes, hadv]
    rfl
  · rw [hr.cmps, hadv]
  · rw [hr.written (hadv ▸ hd.room) (hadv ▸ hd.held), hbytes, hadv]
  · rw [hr.waiting, hadv, hd.waiting]
  · rw [hr.skipLog, hskips, hsk, hadv]
    rfl
  · refine ⟨f.skipEntry st', ?_, ?_⟩
    · rw [hr.skipLog, hskips, hsk, if_pos rfl, skipAdded, List.getLast?_concat]
    · rw [hsame hsk, ← hoff]
      exact Flight.skipEntry_fields (hbytes ▸ hlen) st

end Sys2Proof.Machine
end

section
/-! SUPPORT. ControlRecords.lean: records that run, and NOP, SIGNAL and STEP at their dispatch (O11). -/

namespace Sys2Proof.Machine

/-! ### Records that run -/

theorem opRow?_of_headerBad {b : Bytes} (h : headerBad b = none) : opRow? (recOp b) ≠ none := by
  intro hn
  unfold headerBad at h
  rw [hn] at h
  cases h

theorem State.site?_of_runs {s : State} {i : Instr} {d : Site} {p q op : Nat} (h : s.runs i d) (hi : i.record? = some (p, q, op)) :
    s.site? p q = some d := by
  obtain ⟨p', q', op', hi', hs, _⟩ := h
  cases hi.symm.trans hi'
  exact hs

/-- The dispatch of a record that runs does its row's work. -/
theorem State.dispatch_of_runs {s : State} {i : Instr} {d : Site} {p q op : Nat} {mine : Bytes → Bool} {skip : Site → Nat}
    {check : Site → Verdict} {run : State → Site → State} (h : s.runs i d) (hi : i.record? = some (p, q, op))
    (hm : i.takes d.b = true → mine d.b = true) (hc : (recordBegun i s).checks d i = check d) :
    s.dispatch p q mine skip check run = .next (run s d) := by
  have hs := State.site?_of_runs h hi
  obtain ⟨_, _, _, _, _, ht, _, hh, hp, hg, hx, hb⟩ := h
  exact State.dispatch_go hs (opRow?_of_headerBad hh) (hm ht) hh hp (hc ▸ hg) hx hb

theorem Instr.recOp_of_takes {i : Instr} {p q op : Nat} {b : Bytes} (hi : i.record? = some (p, q, op)) (h : i.takes b = true) : recOp b = op := by
  unfold Instr.takes at h
  rw [hi, Bool.and_eq_true] at h
  exact of_decide_eq_true h.1

theorem State.recOp_of_runs {s : State} {i : Instr} {d : Site} {p q op : Nat} (h : s.runs i d) (hi : i.record? = some (p, q, op)) :
    recOp d.b = op := by
  obtain ⟨p', q', op', hi', _, ht, _⟩ := h
  cases hi.symm.trans hi'
  exact Instr.recOp_of_takes hi ht

theorem Instr.isOp_of_takes {i : Instr} {p q op : Nat} {b : Bytes} (hi : i.record? = some (p, q, op)) (h : i.takes b = true) :
    isOp op b = true := decide_eq_true (Instr.recOp_of_takes hi h)

section
variable {s : State} {p q : Nat} {d : Site}

theorem exec_nop_runs (h : s.runs (.nop p q) d) : exec (.nop p q) s = .next (s.endAtDispatch d .ok 0xFF 0) := by
  dsimp only [exec, execNop]
  exact State.dispatch_of_runs h rfl (Instr.isOp_of_takes rfl) rfl

/-- A SIGNAL to a queue T of the partition has set or raised its counter, or is on its way to it (R124). -/
def State.signalSent (s : State) (d : Site) (T : Queue) : State :=
  if T.cluster = d.Q.cluster then
    (s.updQueue d.p (u8 d.b 8) (fun T => T.applySignal (u8 d.b 9) (decide (u8 d.b 10 = 1)) (BitVec.ofNat 32 (u32 d.b 12)))).tell
      (s.announced d.p d.q) d.p (u8 d.b 8) (u8 d.b 9)
  else { s with sigs := s.sigs ++ [{ tells := s.announced d.p d.q, p := d.p, fromQ := d.q, toQ := u8 d.b 8, ctr := u8 d.b 9,
                                     add := decide (u8 d.b 10 = 1), value := BitVec.ofNat 32 (u32 d.b 12) }] }

theorem exec_signal_runs {T : Queue} (h : s.runs (.signal p q) d) (hT : tget d.P.queues (u8 d.b 8) = some T) :
    exec (.signal p q) s = .next ((s.signalSent d T).endAtDispatch d .ok 0xFF 0) := by
  obtain ⟨rfl, rfl⟩ := State.site?_place (State.site?_of_runs h rfl)
  dsimp only [exec, execSignal]
  rw [State.dispatch_of_runs h rfl (Instr.isOp_of_takes rfl) rfl, hT]
  rfl

/-- The step number of the site's partition, counted up or set (R147). -/
def State.stepped (s : State) (d : Site) : State :=
  s.updPart d.p (fun P => { P with stepNo := if u8 d.b 8 = 0 then P.stepNo + 1 else BitVec.ofNat 64 (u64 d.b 16) })

theorem exec_step_runs (h : s.runs (.step p q) d) :
    exec (.step p q) s = .next ((s.stepped d).endAtDispatch d .ok 0xFF 0) := by
  obtain ⟨rfl, rfl⟩ := State.site?_place (State.site?_of_runs h rfl)
  dsimp only [exec, execStep]
  exact State.dispatch_of_runs h rfl (Instr.isOp_of_takes rfl) rfl

end

/-! ### What stays where it is -/

/-- Device memory keeps its bytes, and the scratchpads those of clusters that no boundary moves (R96). -/
def State.memoryStands (s t : State) (d : Site) (boundary : Bool) : Prop :=
  (∀ a, t.dram.get a = s.dram.get a)
    ∧ ∀ a, boundary = false ∨ d.P.staged.clusters.getLsbD (a / 2 ^ 24) = d.P.live.clusters.getLsbD (a / 2 ^ 24) →
        t.spad.get a = s.spad.get a

/-- A record that ends on a state u, made of s with both memories as they were and the settings met at the site. -/
theorem State.memoryStands_of_endsRecord {s u t : State} {d : Site} {st : Status} {off k : Nat} {Q : Queue} {boundary : Bool}
    (h : u.endsRecord t d st off k Q) (hdram : u.dram = s.dram) (hspad : u.spad = s.spad)
    (hparts : ∃ P, u.part? d.p = some P ∧ P.staged = d.P.staged ∧ P.live = d.P.live)
    (hb : boundary = false → recStepEnd d.b = false ∧ recOp d.b ≠ 0x0007) : s.memoryStands t d boundary := by
  refine ⟨fun a => by rw [h.dram, hdram], fun a ha => ?_⟩
  rw [h.spad a, hspad]
  refine ha.imp hb (fun hstays => ?_)
  intro P' hP'
  obtain ⟨P, hP, hst, hlv⟩ := hparts
  cases hP.symm.trans hP'
  rw [hst, hlv, hstays]

theorem Queue.advance_ctrs (Q : Queue) (c : List W32) (k : Nat) : ({ Q with ctrs := c } : Queue).advance k = { Q.advance k with ctrs := c } := by
  unfold Queue.advance
  dsimp only
  cases Q.loops <;> rfl

theorem Queue.applySignal_eq (Q : Queue) (c : Nat) (n : Nat) (v : W32) : Q.applySignal c (decide (n = 1)) v
    = { Q with ctrs := if n = 1 then (Q.bump c v).ctrs else Q.ctrs.set c v } := by
  unfold Queue.applySignal
  simp only [decide_eq_true_eq]
  split
  · rfl
  · rfl

/-! ### SIGNAL -/

theorem State.part?_updQueue (s : State) (p q : Nat) (g : Queue → Queue) :
    (s.updQueue p q g).part? p = (s.part? p).map (fun P => { P with queues := tupd P.queues q g }) := by
  rw [State.updQueue, State.part?_updPart, if_pos rfl]

section
variable {s : State} {d : Site} {T : Queue}

/-- The counters of a queue that a SIGNAL to it leaves (R124). -/
def Site.signalledCtrs (d : Site) (T : Queue) : List W32 :=
  if u8 d.b 10 = 1 then (T.bump (u8 d.b 9) (BitVec.ofNat 32 (u32 d.b 12))).ctrs else T.ctrs.set (u8 d.b 9) (BitVec.ofNat 32 (u32 d.b 12))

theorem State.keeps_signalSent (s : State) (d : Site) (T : Queue) : s.keeps [.parts, .unsettled, .sigs] (s.signalSent d T) := by
  unfold State.signalSent
  simp (maxDischargeDepth := 40)

theorem State.moves_signalSent (hc : T.cluster = d.Q.cluster) :
    s.movesQueue (s.signalSent d T) d.p (u8 d.b 8) T { T with ctrs := d.signalledCtrs T } := by
  unfold State.signalSent
  rw [if_pos hc]
  have h := s.movesQueue_updQueue d.p (u8 d.b 8) T (fun T => T.applySignal (u8 d.b 9) (decide (u8 d.b 10 = 1)) (BitVec.ofNat 32 (u32 d.b 12)))
  rw [Queue.applySignal_eq] at h
  exact State.movesQueue_then h rfl

theorem State.sigs_signalSent (hc : T.cluster = d.Q.cluster) : (s.signalSent d T).sigs = s.sigs := by
  unfold State.signalSent
  rw [if_pos hc]
  rfl

theorem State.part?_signalSent {P : Partition} (hP : s.part? d.p = some P) :
    ∃ P', (s.signalSent d T).part? d.p = some P' ∧ P'.staged = P.staged ∧ P'.live = P.live := by
  unfold State.signalSent
  split
  · exact ⟨_, (s.part?_updQueue d.p (u8 d.b 8) _).trans (congrArg (Option.map _) hP), rfl, rfl⟩
  · exact ⟨P, hP, rfl, rfl⟩

/-- The queue of a SIGNAL before it ends: itself the one signalled, or as it was met. -/
theorem State.queue?_signalSent (hd : s.meetsSite d) (hT : tget d.P.queues (u8 d.b 8) = some T) :
    (s.signalSent d T).queue? d.p d.q
      = some (if T.cluster = d.Q.cluster ∧ u8 d.b 8 = d.q then { d.Q with ctrs := d.signalledCtrs d.Q } else d.Q) := by
  have hTq : s.queue? d.p (u8 d.b 8) = some T := (State.queue?_of_part hd.part _).trans hT
  by_cases hc : T.cluster = d.Q.cluster
  case pos =>
    have hm := State.moves_signalSent (s := s) hc
    by_cases hq : u8 d.b 8 = d.q
    case pos =>
      have hTQ : T = d.Q := by
        have := hd.queue?
        rw [← hq, hTq, Option.some.injEq] at this
        exact this
      rw [if_pos ⟨hc, hq⟩, ← hTQ, ← hq]
      exact State.queue?_of_moves hm hTq
    case neg =>
      rw [if_neg (fun h => hq h.2), State.queue?_of_moves_other hm hTq (Ne.symm hq), hd.queue?]
  case neg =>
    rw [if_neg (fun h => hc h.1), ← hd.queue?]
    unfold State.signalSent
    rw [if_neg hc]
    rfl

end

/-! ### The three rows -/

theorem nop_spec {s : State} {p q : Nat} {d : Site} (h : s.runs (.nop p q) d) :
    ∃ t, exec (.nop p q) s = .next t ∧ s.consumed t d 0 ∧ t.sigs = s.sigs ∧ s.memoryStands t d (recStepEnd d.b) := by
  have hs := State.site?_of_runs h rfl
  have hexec := exec_nop_runs h
  have hd := State.meetsSite_of_site? hs
  have hend := State.endsRecord_endAtDispatch (st := .ok) hd.queue? hd.standing rfl 0xFF 0
  have hop : recOp d.b ≠ 0x0007 := by rw [State.recOp_of_runs h rfl]; decide
  exact ⟨_, hexec, State.consumed_of_endsRecord hend hd.queue? rfl rfl rfl, hend.sigs,
    State.memoryStands_of_endsRecord hend rfl rfl ⟨d.P, hd.part, rfl, rfl⟩ (fun hb => ⟨hb, hop⟩)⟩

theorem step_spec {s : State} {p q : Nat} {d : Site} (h : s.runs (.step p q) d) :
    ∃ t P, exec (.step p q) s = .next t ∧ s.consumed t d 0 ∧ t.part? p = some P
      ∧ P.stepNo = (if u8 d.b 8 = 0 then d.P.stepNo + 1 else BitVec.ofNat 64 (u64 d.b 16)) ∧ t.sigs = s.sigs ∧ s.memoryStands t d true := by
  have hs := State.site?_of_runs h rfl
  have hexec := exec_step_runs h
  have hd := State.meetsSite_of_site? hs
  obtain ⟨rfl, rfl⟩ := State.site?_place hs
  have hpart : (s.stepped d).part? d.p
      = some { d.P with stepNo := if u8 d.b 8 = 0 then d.P.stepNo + 1 else BitVec.ofNat 64 (u64 d.b 16) } := by
    unfold State.stepped
    rw [State.part?_updPart, if_pos rfl, hd.part, Option.map_some]
  have hQ : (s.stepped d).queue? d.p d.q = some d.Q := (State.queue?_of_part hpart d.q).trans hd.queue
  have hend := State.endsRecord_endAtDispatch (st := .ok) hQ hd.standing rfl 0xFF 0
  obtain ⟨f, st', Q', _, _, _, _, hm, _⟩ := hend.queue
  obtain ⟨P', hP', hstep, _, _⟩ := hm _ hpart hd.queue
  exact ⟨_, P', hexec, State.consumed_of_endsRecord hend hQ rfl rfl rfl, hP', hstep, hend.sigs,
    State.memoryStands_of_endsRecord hend rfl rfl ⟨_, hpart, rfl, rfl⟩ (fun hb => Bool.noConfusion hb)⟩

/-- Settles O11: each of the three ends at its dispatch, on the state its own effect makes. -/
theorem controlRecordsComplete : Obligations.ControlRecordsComplete := by
  refine ⟨fun s p q d h => nop_spec h, fun s p q d T h hT => ?_, fun s p q d h => step_spec h⟩
  have hs := State.site?_of_runs h rfl
  have hexec := exec_signal_runs h hT
  have hd := State.meetsSite_of_site? hs
  have hop : recOp d.b ≠ 0x0007 := by rw [State.recOp_of_runs h rfl]; decide
  obtain ⟨rfl, rfl⟩ := State.site?_place hs
  have hk := s.keeps_signalSent d T
  have hQ := State.queue?_signalSent hd hT
  have hTq : s.queue? d.p (u8 d.b 8) = some T := (State.queue?_of_part hd.part _).trans hT
  generalize hu : s.signalSent d T = u at hexec hk hQ
  generalize hQ0 : (if T.cluster = d.Q.cluster ∧ u8 d.b 8 = d.q then { d.Q with ctrs := d.signalledCtrs d.Q } else d.Q) = Q0 at hQ
  have hQ0' : Q0 = { d.Q with ctrs := Q0.ctrs } := by
    rw [← hQ0]
    split <;> rfl
  have hend := State.endsRecord_endAtDispatch (st := .ok) hQ (by rw [hQ0']; exact hd.standing) rfl 0xFF 0
  obtain ⟨f, st', Q', hbytes, _, _, _, hm, hr⟩ := hend.queue
  refine ⟨_, hexec, ?_, ?_, fun hc hne => ⟨?_, ?_⟩, fun hc heq h15 => ?_, fun hc => ?_⟩
  · refine State.consumed_of_endsRecord hend hQ (hk.1 .nextId (by decide)) ?_ ?_
    · rw [hQ0', Queue.advance_ctrs]
    · rw [hQ0', Queue.advance_ctrs]
  · exact State.memoryStands_of_endsRecord hend (hk.1 .dram (by decide)) (hk.1 .spad (by decide))
      (hu ▸ State.part?_signalSent hd.part) (fun hb => ⟨hb, hop⟩)
  · exact hend.sigs.trans (hu ▸ State.sigs_signalSent hc)
  · refine ⟨{ T with ctrs := d.signalledCtrs T }, ?_, rfl⟩
    rw [State.queue?_of_moves_other hm hQ hne, ← hu]
    exact State.queue?_of_moves (State.moves_signalSent hc) hTq
  · refine ⟨Q', State.queue?_of_moves hm hQ, ?_⟩
    rw [hr.ctrs, hbytes, h15, if_neg (by decide), ← hQ0, if_pos ⟨hc, heq⟩, Queue.advance_ctrs]
    rfl
  · rw [hend.sigs, ← hu]
    unfold State.signalSent
    rw [if_neg hc]

end Sys2Proof.Machine
end

section
/-! SUPPORT. HeldSteps.lean: a STEP that stands where the WAIT stands that holds a queue (O13). -/

namespace Sys2Proof.Machine

/-- A queue held by a record that is a STEP, without STEP_END, and a relation that holds. -/
def steppingQueue : Queue :=
  { Queue.fresh (zeros 40) with
    waiting := some { cond := Comparator.reset, rcd := { pos := 0, bytes := natLe 2 0x0007 ++ zeros 62 }, looped := false } }

/-- A running module whose partition 0 owns cluster 0 and has cluster 1 staged beside it; the read cache of cluster 1 exists. -/
def steppingState : State :=
  { State.reset with
    boot := { Boot.reset with perstLow := false },
    caches := [(1, [])],
    parts := [(0, { Partition.fresh { clusters := 1, streamBase := 0, streamCount := 1, prefixQuota := 0, policyPartition := false,
                                      perfUser := false } [] 0 with
                    staged := { clusters := 3, streamBase := 0, streamCount := 1, prefixQuota := 0, policyPartition := false, perfUser := false },
                    queues := [(0, steppingQueue)] })] }

/-- The end of the held record is a step boundary, as that of a STEP is: cluster 1 changes owner, and its cache is gone. -/
theorem steppingState_satisfied : ∃ t, exec (.waitSatisfied 0 0) steppingState = .next t ∧ t.caches = [] := by
  refine ⟨_, rfl, ?_⟩
  decide +kernel

/-- Refutes O13 by its last clause: in `steppingState` the record that holds the queue asks neither for ACQUIRE nor for STEP_END, and the caches
change all the same. The statement speaks of every state, also of one where a STEP stands as the WAIT that holds a queue. -/
theorem not_waitsHoldAndEnd : ¬Obligations.WaitsHoldAndEnd := by
  unfold Obligations.WaitsHoldAndEnd
  rintro ⟨-, hheld⟩
  obtain ⟨-, hends⟩ := hheld steppingState 0 0 steppingQueue _ (by decide +kernel) rfl
  obtain ⟨t, -, ht, -, -, -, -, -, -, -, -, hcaches, -⟩ := hends (by decide +kernel) rfl rfl
  obtain ⟨u, hu, hgone⟩ := steppingState_satisfied
  cases ht.symm.trans hu
  have hkept : t.caches = [(1, [])] := hcaches (by decide +kernel)
  cases hgone.symm.trans hkept

end Sys2Proof.Machine
end

section
/-! SUPPORT. CommandEnds.lean: commands that have ended do not come back with the fault they cause; the end of a command whose work is
done (O33). -/

namespace Sys2Proof.Machine

/-! ### Nothing that has ended flies again -/

section
variable {s t : State} {id : Nat}

/-- What keeps the table of commands in flight brings none back. -/
theorem State.absent_of_keeps {F : List Field} (h : tget s.flight id = none) (k : s.keeps F t) (hF : Field.flight ∉ F) :
    tget t.flight id = none := by
  rw [show t.flight = s.flight from k.1 .flight hF]
  exact h

theorem State.absent_each {α : Type} {l : List α} {g : State → α → State} (h : tget s.flight id = none)
    (hg : ∀ (u : State) (x : α), tget u.flight id = none → tget (g u x).flight id = none) : tget (s.each l g).flight id = none :=
  State.each_induction (R := fun u => tget u.flight id = none) h (fun u x _ hu => hg u x hu)

theorem State.absent_condition (h : tget s.flight id = none) (k : Nat) (st : Status) : tget (s.condition k st).flight id = none := by
  unfold State.condition State.updFlight
  dsimp only
  rw [tget_tupd, h]
  split
  · rename_i e
    rw [← e, h]
    rfl
  · rfl

theorem State.absent_leaseHit (h : tget s.flight id = none) (w : Writer) (a : Nat) (l : Lease) : tget (s.leaseHit w a l).flight id = none := by
  unfold State.leaseHit
  split
  · exact h
  · extract_lets who met counted
    have hmet : tget met.flight id = none := State.absent_condition h _ _
    have hk : met.keeps [.timer, .funcs, .log, .perf, .out, .free] counted :=
      State.keeps_count _ _ _ _ (by decide) (State.keeps_self _ met)
    exact State.absent_of_keeps hmet (State.keeps_logErr _ (by decide) hk) (by decide)

theorem State.absent_mixReaders (h : tget s.flight id = none) (w : Writer) (g : Seg) (b : Bytes) (bad : Nat → Bool) :
    tget (s.mixReaders w g b bad).flight id = none := by
  unfold State.mixReaders
  dsimp only
  rw [tget_map _ _ (fun e => by split <;> rfl), h]
  rfl

theorem State.absent_noted (h : tget s.flight id = none) (w : Writer) (g : Seg) (b : Bytes) (bad : Nat → Bool) :
    tget ((s.mixReaders w g b bad).unsettle w g).flight id = none :=
  State.absent_of_keeps (State.absent_mixReaders h w g b bad) (State.keeps_unsettle w g (by decide) (State.keeps_self [.unsettled] _)) (by decide)

theorem State.absent_mergeWords (h : tget s.flight id = none) (st : Store) (a n : Nat) : tget (s.mergeWords st a n).flight id = none :=
  State.absent_of_keeps h (State.keeps_mergeWords st a n (by decide)
    (State.keeps_self [.flash, .timer, .dram, .spad, .near, .funcs, .log, .rowHits, .perf, .out, .free] s)) (by decide)

theorem State.absent_writeSeg (h : tget s.flight id = none) (w : Writer) (g : Seg) (b : Bytes) (bad : Bool) :
    tget (s.writeSeg w g b bad).flight id = none := by
  unfold State.writeSeg
  split
  case h_1 =>
    exact State.absent_of_keeps (State.absent_mixReaders h w g b _)
      (State.keeps_hostWrite w.p w.q g.addr b (by decide) (State.keeps_self [.hostMem, .parts, .perf] _)) (by decide)
  case h_2 =>
    extract_lets words merged merge m₀ m noted put
    have hput : tget put.flight id = none := State.absent_noted (State.absent_mergeWords h _ _ _) w g b m.badWord
    split
    · exact State.absent_condition hput _ _
    · exact hput
  case h_3 =>
    split
    · exact State.absent_condition h _ _
    · extract_lets hit words merged merge m₀ m noted put ended
      have hhit : tget hit.flight id = none := State.absent_each h (fun u l hu => State.absent_leaseHit hu w g.addr l)
      have hended : tget ended.flight id = none := State.absent_noted (State.absent_mergeWords hhit _ _ _) w g b m.badWord
      split
      · exact State.absent_condition hended _ _
      · exact hended

theorem State.absent_writeAll (h : tget s.flight id = none) (w : Writer) (l : List Seg) (b : Bytes) (bad : Bool) :
    tget (s.writeAll w l b bad).flight id = none := by
  induction l generalizing s b with
  | nil => exact h
  | cons g l ih => exact ih (State.absent_writeSeg h w g _ bad) _

theorem State.absent_smWrite (h : tget s.flight id = none) (w : Writer) (va : Nat) (b : Bytes) : tget (s.smWrite w va b).flight id = none := by
  unfold State.smWrite
  split
  · exact h
  · split
    · exact State.absent_writeAll h w _ b false
    · exact State.absent_condition h _ _

theorem State.absent_bumpRefs (h : tget s.flight id = none) (w : Writer) (o : Pool) (r : Nat) (up : Bool) :
    tget (s.bumpRefs w o r up).flight id = none := by
  unfold State.bumpRefs
  split
  · exact h
  · exact State.absent_smWrite h w _ _

theorem State.absent_releaseStream (h : tget s.flight id = none) (w : Writer) (st : Nat) (after : List Nat) :
    tget (s.releaseStream w st after).1.flight id = none := by
  unfold State.releaseStream
  extract_lets wr
  split
  case h_2 => exact h
  case h_1 P e _ _ =>
    split
    · exact h
    · rename_i o _
      split
      rename_i own recs n _
      extract_lets bumped cleared later
      have hbumped : tget bumped.flight id = none := State.absent_each h (fun u r hu => State.absent_bumpRefs hu wr o r false)
      have hcleared : tget cleared.flight id = none := State.absent_smWrite hbumped wr _ _
      exact State.absent_of_keeps (t := later) hcleared
        (State.keeps_freeLater wr.p after own [st] (by decide) (State.keeps_self [.parts] cleared)) (by decide)

theorem State.absent_settleDestroy (h : tget s.flight id = none) (p q : Nat) : tget (s.settleDestroy p q).flight id = none :=
  State.absent_of_keeps h (State.keeps_settleDestroy p q (by decide) (State.keeps_self [.parts, .sigs, .funcs, .handed, .out] s)) (by decide)

theorem State.absent_retire (h : tget s.flight id = none) (k : Nat) : tget (s.retire k).flight id = none := by
  cases hk : tget s.flight k with
  | none =>
    rw [State.retire_absent hk]
    exact h
  | some f =>
    rw [State.retire_eq hk]
    refine State.absent_settleDestroy ?_ f.p f.q
    rw [State.flight_reportEnd, tget_tdel]
    split
    · rfl
    · exact State.absent_of_keeps h (s.keeps_atBoundary f) (by decide)

/-- A command that retires is out of flight. -/
theorem State.absent_retire_self (s : State) (id : Nat) : tget (s.retire id).flight id = none := by
  cases hk : tget s.flight id with
  | none => exact State.absent_retire hk id
  | some f =>
    rw [State.retire_eq hk]
    refine State.absent_settleDestroy ?_ f.p f.q
    rw [State.flight_reportEnd, tget_tdel, if_pos rfl]

theorem State.absent_abandon (h : tget s.flight id = none) (k : Nat) (st : Status) : tget (s.abandon k st).flight id = none := by
  unfold State.abandon
  split
  · exact h
  · rename_i f _
    have hdropped : tget (s.dropWork k).flight id = none := h
    have hscrambled := State.absent_of_keeps hdropped (State.keeps_scramble f.writes (by decide)
      (State.keeps_self [.dram, .spad, .hostMem, .free] _)) (by decide)
    exact State.absent_retire (State.absent_condition hscrambled k st) k

theorem State.absent_deleteQueues (h : tget s.flight id = none) (p : Nat) (g : Queue → Bool) : tget (s.deleteQueues p g).flight id = none :=
  State.absent_of_keeps h (State.keeps_deleteQueues p g (by decide)
    (State.keeps_self [.hostMem, .parts, .sigs, .funcs, .handed, .perf, .out] s)) (by decide)

theorem State.absent_teardown (h : tget s.flight id = none) (p ctx cause : Nat) : tget (s.teardown p ctx cause).flight id = none := by
  unfold State.teardown
  split
  · exact h
  split
  · exact h
  · extract_lets before mine abandoned noticed emptied w streams released cleared dropped raised
    have habandoned : tget abandoned.flight id = none := State.absent_each h (fun u k hu => State.absent_abandon hu k .contextTorn)
    have hnoticed := State.absent_of_keeps (t := noticed) habandoned
      (State.keeps_abortNotices p _ (by decide) (State.keeps_self [.out] abandoned)) (by decide)
    have hemptied : tget emptied.flight id = none := State.absent_deleteQueues hnoticed p _
    have hreleased := State.absent_of_keeps (t := released) (State.absent_each hemptied (fun u st hu => State.absent_releaseStream hu w st before))
      (State.keeps_firmwareDone w (by decide) (State.keeps_self [.unsettled, .free] _)) (by decide)
    have hcleared : tget cleared.flight id = none := State.absent_each hreleased (fun u r hu => hu)
    have hk : dropped.keeps [.timer, .funcs, .log, .out, .free] raised :=
      State.keeps_raiseEvent _ _ (by decide) (State.keeps_self _ dropped)
    exact State.absent_of_keeps (s := dropped) hcleared (State.keeps_logErr _ (by decide) hk) (by decide)

theorem State.absent_beginZeroing (h : tget s.flight id = none) (p : Nat) (destroy : Bool) (mailbox : Option Nat) :
    tget (s.beginZeroing p destroy mailbox).flight id = none := by
  unfold State.beginZeroing
  split
  · exact h
  split
  case h_1 =>
    split
    · split
      · exact State.absent_of_keeps (F := [.parts, .link, .funcs, .handed, .out]) h (by simp) (by decide)
      · exact h
    · exact h
  case h_2 P _ _ =>
    extract_lets erred answered abandoned noticed emptied dropped stopped stopped' forgotten
    have herred := State.absent_of_keeps (t := erred) h (State.keeps_tdiError p (by decide) (State.keeps_self [.trust] s)) (by decide)
    have hanswered : tget answered.flight id = none := by
      refine State.absent_of_keeps herred (State.keeps_ite (State.keeps_self [.funcs, .handed, .out] erred) ?_) (by decide)
      exact State.keeps_mailGone p (by decide) (State.keeps_self _ erred)
    have habandoned : tget abandoned.flight id = none := State.absent_each hanswered (fun u k hu => State.absent_abandon hu k .partitionReset)
    have hnoticed := State.absent_of_keeps (t := noticed) habandoned
      (State.keeps_resetNotices p (by decide) (State.keeps_self [.parts, .peers, .out] abandoned)) (by decide)
    have hemptied : tget emptied.flight id = none := State.absent_deleteQueues hnoticed p _
    have hdropped := State.absent_of_keeps (t := dropped) hemptied
      (State.keeps_dropStreams p (by decide) (State.keeps_self [.parts, .streams, .prefixes] emptied)) (by decide)
    exact State.absent_each (s := stopped) hdropped (fun u c hu => hu)

theorem State.absent_fault (h : tget s.flight id = none) (p ctx cause : Nat) : tget (s.fault p ctx cause).flight id = none := by
  unfold State.fault
  split
  · exact h
  split
  · exact h
  split
  · exact State.absent_beginZeroing h p false none
  · exact State.absent_teardown h p ctx cause

/-- A command that completes is out of flight, whatever fault it causes. -/
theorem State.absent_complete (s : State) (id : Nat) : tget (s.complete id).flight id = none := by
  unfold State.complete
  split
  · assumption
  · extract_lets st logged scrambled retired
    split
    · exact State.absent_fault (State.absent_retire_self _ id) _ _ _
    · exact State.absent_retire_self _ id

end

/-! ### The end of a command whose work is done -/

section
variable {s : State} {id : Nat} {f : Flight}

theorem exec_commandComplete_goesOn (hf : tget s.flight id = some f) (h : s.working = false ∨ s.atWork id f = true) :
    exec (.commandComplete id) s = .next s := by
  dsimp only [exec, execCommandComplete]
  rw [hf]
  dsimp only
  rw [if_pos]
  rcases h with h | h
  · rw [h]; rfl
  · rw [h, Bool.or_true]

theorem exec_commandComplete_ends (hf : tget s.flight id = some f) (hw : s.working = true) (ha : s.atWork id f = false) :
    ∃ u, exec (.commandComplete id) s = .next (State.complete u id) := by
  dsimp only [exec, execCommandComplete]
  rw [hf]
  dsimp only
  rw [hw, ha]
  exact ⟨_, rfl⟩

theorem exec_commandComplete_plain (hf : tget s.flight id = some f) (hw : s.working = true) (hn : f.nb = none) (hp : f.peer = none) :
    exec (.commandComplete id) s = .next ((((s.settleEngine id f).fenceDone id f).holdTranslations f).complete id) := by
  have ha : s.atWork id f = false := by
    unfold State.atWork
    rw [hn, hp]
  dsimp only [exec, execCommandComplete]
  rw [hf]
  dsimp only
  rw [hw, ha, hn, hp]
  rfl

theorem State.settleMix_unmixed (h : ∀ g, tget s.flight id = some g → g.mixed = []) : s.settleMix id = s := by
  unfold State.settleMix
  split
  · rfl
  · rename_i g hg
    rw [h g hg]
    rfl

/-- An engine whose commands no write has met has nothing to settle (R88, R262). -/
theorem State.settleEngine_unmixed (h : f.engine < 33 → ∀ e ∈ s.flight, e.1 ≤ id → e.2.cluster = f.cluster → e.2.engine = f.engine →
    ∀ g, tget s.flight e.1 = some g → g.mixed = []) : s.settleEngine id f = s := by
  unfold State.settleEngine
  split
  case isFalse => rfl
  case isTrue he =>
    extract_lets mine
    refine State.each_induction (R := fun u => u = s) rfl (fun u k hk hu => ?_)
    subst hu
    obtain ⟨e, hm, rfl⟩ := List.mem_map.mp hk
    simp only [List.mem_filter, Bool.and_eq_true, decide_eq_true_eq] at hm
    obtain ⟨hmem, ⟨hle, hc⟩, hen⟩ := hm
    exact State.settleMix_unmixed (h he e hmem hle hc hen)

theorem State.keeps_holdTranslations_self (s : State) (f : Flight) : s.keeps [.link] (s.holdTranslations f) := by
  unfold State.holdTranslations
  simp

/-- A write that is earlier than a command of its queue is readable as far as that FENCE says (R146, R259). -/
def Unsettled.fencedAt (u : Unsettled) (id : Nat) (f : Flight) : Prop :=
  u.cmd < id → u.p = f.p → u.q = f.q → u.kind ≠ 0 → u.scope = .device ∧ (u8 f.bytes 8 = 2 → u.host = true)

theorem Unsettled.fencedAt_fenced (u : Unsettled) (id : Nat) (f : Flight) :
    (u.fenced f.p f.q id (decide (u8 f.bytes 8 = 2))).fencedAt id f := by
  unfold Unsettled.fenced
  split
  case isTrue => exact fun _ _ _ _ => ⟨rfl, fun h => by simp [h]⟩
  case isFalse hn =>
    have hother : u.fencedAt id f := fun hcmd hp hq hk => absurd ⟨hp, hq, hcmd, hk⟩ hn
    split
    · exact fun hcmd hp hq hk => absurd ⟨hp, hq, hcmd, hk⟩ hn
    · exact hother

theorem Unsettled.fencedAt_completedBy {u : Unsettled} (h : u.fencedAt id f) : (u.completedBy id f.engine).fencedAt id f := by
  by_cases hcmd : u.cmd = id
  case neg =>
    unfold Unsettled.completedBy
    rw [if_pos hcmd]
    exact h
  case pos =>
    have hsame : (u.completedBy id f.engine).cmd = u.cmd := by
      unfold Unsettled.completedBy
      split
      · rfl
      split
      · rfl
      split <;> rfl
    intro hlt
    rw [hsame, hcmd] at hlt
    exact absurd hlt (lt_irrefl id)

/-- A FENCE that is done has its queue's earlier writes readable. -/
theorem State.fencedAt_fenceDone (hop : recOp f.bytes = 0x0006) (hscope : 1 ≤ u8 f.bytes 8) {v : Unsettled}
    (hv : v ∈ (s.fenceDone id f).unsettled) : v.fencedAt id f := by
  unfold State.fenceDone at hv
  rw [if_pos ⟨hop, hscope⟩] at hv
  obtain ⟨u, _, he⟩ := State.mem_raiseScope hv
  rw [he]
  exact u.fencedAt_fenced id f

end

/-- Settles O33: a completion is a retirement with a fault behind it, which brings nothing back; without a fault it is what
`State.endsCommand` says. -/
theorem commandsEndWhenDone : Obligations.CommandsEndWhenDone := by
  intro s id f hf
  refine ⟨exec_commandComplete_goesOn hf, fun hw ha => ?_, fun hw hnb hpeer hfault hmixed Q hQ hd => ?_⟩
  · obtain ⟨u, hu⟩ := exec_commandComplete_ends hf hw ha
    exact ⟨_, hu, State.absent_complete u id⟩
  · have hexec := exec_commandComplete_plain hf hw hnb hpeer
    rw [State.settleEngine_unmixed hmixed] at hexec
    generalize hu : ((s.fenceDone id f).holdTranslations f) = u at hexec
    have hfence : s.keeps [.unsettled] (s.fenceDone id f) := State.keeps_fenceDone id f (by decide) (State.keeps_self _ s)
    have hheld := (s.fenceDone id f).keeps_holdTranslations_self f
    have hk : s.keeps [.unsettled, .link] u :=
      hu ▸ State.keeps_then hheld (by decide) (State.keeps_mono hfence (by decide))
    have hflight : tget u.flight id = some f := (congrArg (fun l => tget l id) (hk.1 .flight (by decide))).trans hf
    have hland : u.keeps [.caches] (u.landWrites f) := State.keeps_landWrites f (by decide) (State.keeps_self _ u)
    have hmoves : s.movesQueue (u.landWrites f) f.p f.q Q Q :=
      State.movesQueue_of_parts ((hland.1 .parts (by decide)).trans (hk.1 .parts (by decide)))
    have hends := State.endsCommand_retire (s := u.landWrites f)
      ((congrArg (fun l => tget l id) (hland.1 .flight (by decide))).trans hflight) (State.queue?_of_moves hmoves hQ) hd
    rw [State.complete_faultless hflight hfault] at hexec
    obtain ⟨Q', hm, hr⟩ := hends.queue
    refine ⟨_, Q', hexec, State.queue?_of_moves (State.movesQueue_trans hmoves hm) hQ, hr.ctrs, hr.entries, hr.ahead, hr.loops, fun a => ?_,
      fun hop hscope v hv => ?_⟩
    · rw [hends.dram, show (u.landWrites f).dram = u.dram from hland.1 .dram (by decide), show u.dram = s.dram from hk.1 .dram (by decide)]
    · obtain ⟨w, hmem, he⟩ := hends.unsettled v hv
      have hstay : (u.landWrites f).unsettled = (s.fenceDone id f).unsettled :=
        (hland.1 .unsettled (by decide)).trans (hu ▸ hheld.1 .unsettled (by decide))
      have hfenced := Unsettled.fencedAt_completedBy (State.fencedAt_fenceDone hop hscope (hstay ▸ hmem))
      rw [he]
      exact hfenced

end Sys2Proof.Machine
end

section
/-! SUPPORT. FlightWork.lean: what the work of a command changes once it is in flight, engine by engine (O17). -/

namespace Sys2Proof.Machine

/-- Fields that a command in flight may change by its work: it takes no number and ends no command. -/
def workFields : List Field :=
  [.ident, .fuse, .flash, .boot, .cross, .timer, .cycles, .dram, .spad, .hostMem, .caches, .unsettled, .parts, .streams, .prefixes, .flight,
   .sigs, .near, .keyDraws, .funcs, .handed, .log, .link, .trust, .peers, .power, .thermal, .tests, .rowHits, .sched, .perf, .out, .free,
   .pending]

@[simp] theorem mem_workFields {f : Field} : f ∈ workFields ↔ f ≠ .nextId ∧ f ≠ .ends := by
  cases f <;> decide

/-- From s a command of the site's record went into flight on an engine, and only its work has been done since. -/
def State.worksFrom (s t : State) (d : Site) (e : Nat) : Prop :=
  ∃ (u : State) (f : Flight), u.nextId = s.nextId ∧ f.p = d.p ∧ f.q = d.q ∧ f.bytes = d.b ∧ f.pos = d.rcd.pos ∧ f.engine = e
    ∧ (u.launch d f 0).1.keeps workFields t

section
variable {s t : State} {d : Site} {e : Nat}

theorem State.launched_of_worksFrom (h : s.worksFrom t d e) : s.launched t d e := by
  obtain ⟨u, f, hn, hp, hq, hb, hpos, he, hk⟩ := h
  obtain ⟨hnext, hflight⟩ := State.launched_of_keeps hp hq hb hpos he (by simp) (by simp) hk
  rw [hn] at hnext hflight
  exact ⟨hnext, hflight⟩

theorem State.worksFrom_launch (f : Flight) (hp : f.p = d.p) (hq : f.q = d.q) (hb : f.bytes = d.b) (hpos : f.pos = d.rcd.pos) (he : f.engine = e)
    (h : (s.launch d f 0).1.keeps workFields t) : s.worksFrom t d e := ⟨s, f, rfl, hp, hq, hb, hpos, he, h⟩

theorem State.worksFrom_then {u : State} (h : s.worksFrom t d e) (k : t.keeps workFields u) : s.worksFrom u d e := by
  obtain ⟨v, f, hn, hp, hq, hb, hpos, he, hk⟩ := h
  exact ⟨v, f, hn, hp, hq, hb, hpos, he, State.keeps_trans hk k⟩

end

section
variable (s : State) (d : Site)

/-! ### Transfers -/

theorem State.worksFrom_transferRun {m : Moved} {cached : Bool} {work : State → Access → Writer → State × Bool}
    (hw : ∀ (u : State) (a : Access) (w : Writer), u.keeps workFields (work u a w).1) :
    s.worksFrom (s.transferRun d m cached work) d (teEngine d.b) := by
  unfold State.transferRun
  split
  rename_i s1 id heq
  have h1 : s.worksFrom s1 d (teEngine d.b) := by
    rw [show s1 = (s.launchTransfer d m).1 by rw [heq]]
    exact State.worksFrom_launch _ rfl rfl rfl rfl rfl (State.keeps_self _ _)
  clear heq
  refine State.worksFrom_then h1 ?_
  split
  · exact State.keeps_self _ s1
  split
  · simp (maxDischargeDepth := 40)
  · extract_lets a wr s2
    have h2 : s1.keeps workFields s2 := State.keeps_begins _ _ _ _ (by simp) (State.keeps_installLines _ _ (by simp) (State.keeps_self _ s1))
    have h3 : s1.keeps workFields (work s2 a wr).1 := State.keeps_trans h2 (hw s2 a wr)
    simp (maxDischargeDepth := 40) [h3]

theorem State.worksFrom_loadRun : s.worksFrom (s.loadRun d) d (teEngine d.b) := by
  unfold State.loadRun
  exact s.worksFrom_transferRun d (fun u a w => State.keeps_moveBox a w _ _ _ _ _ (by simp) (State.keeps_self _ u))

theorem State.worksFrom_storeRun : s.worksFrom (s.storeRun d) d (teEngine d.b) := by
  unfold State.storeRun
  exact s.worksFrom_transferRun d (fun u a w => State.keeps_moveBox a w _ _ _ _ _ (by simp) (State.keeps_self _ u))

theorem State.worksFrom_copyRun : s.worksFrom (s.copyRun d) d (teEngine d.b) := by
  unfold State.copyRun
  exact s.worksFrom_transferRun d (fun u a w => State.keeps_moveBox a w _ _ _ _ _ (by simp) (State.keeps_self _ u))

theorem State.worksFrom_gatherRun : s.worksFrom (s.gatherRun d) d (teEngine d.b) := by
  unfold State.gatherRun
  refine s.worksFrom_transferRun d (fun u a w => ?_)
  dsimp only
  split <;> simp (maxDischargeDepth := 40)

theorem State.worksFrom_scatterRun : s.worksFrom (s.scatterRun d) d (teEngine d.b) := by
  unfold State.scatterRun
  refine s.worksFrom_transferRun d (fun u a w => ?_)
  dsimp only
  split
  · simp (maxDischargeDepth := 40)
  split
  · simp (maxDischargeDepth := 40)
  split <;> simp (maxDischargeDepth := 40)

theorem State.worksFrom_hostoutRun : s.worksFrom (s.hostoutRun d) d (teEngine d.b) := by
  unfold State.hostoutRun
  extract_lets _ _ _ _ _ _ _ _ _ _ _ _ f step
  split
  rename_i s1 id heq
  have h1 : s.worksFrom s1 d (teEngine d.b) := by
    rw [← show _ = s1 from congrArg Prod.fst heq]
    exact State.worksFrom_launch f rfl rfl rfl rfl rfl (State.keeps_self _ _)
  clear heq
  refine State.worksFrom_then h1 ?_
  extract_lets s2 wr bounded recs put poisoned
  have h2 : s1.keeps workFields s2 := State.keeps_begins _ _ _ _ (by simp) (State.keeps_self _ s1)
  have hbounded : s1.keeps workFields bounded := State.keeps_ite h2 (State.keeps_condition _ _ (by simp) h2)
  have hput : s1.keeps workFields put := State.keeps_putVa _ _ _ _ _ (by simp) h2
  have hpoisoned : s1.keeps workFields poisoned := State.keeps_ite (State.keeps_condition _ _ (by simp) hput) hput
  clear_value s2 bounded poisoned
  split
  · exact h2
  split
  · exact State.keeps_condition _ _ (by simp) h2
  split
  · simp (maxDischargeDepth := 40) [h2]
  split
  · exact State.keeps_readRanges _ _ _ _ (by simp) (State.keeps_ite (State.keeps_condition _ _ (by simp) hbounded) hbounded)
  split
  · exact State.keeps_condition _ _ (by simp) h2
  · exact State.keeps_tick (by simp) (State.keeps_readRanges _ _ _ _ (by simp) hpoisoned)

/-! ### Matrix, vector and Mantle -/

theorem State.worksFrom_matrixRun (quant : Bool) : s.worksFrom (s.matrixRun d quant) d (s.mmEngine d) := by
  unfold State.matrixRun
  extract_lets e A B C idle acc reads _ f
  split
  rename_i s1 id heq
  have h1 : s.worksFrom s1 d e := by
    rw [← show _ = s1 from congrArg Prod.fst heq]
    exact State.worksFrom_launch f rfl rfl rfl rfl rfl (State.keeps_self _ _)
  clear heq
  refine State.worksFrom_then h1 ?_
  simp (maxDischargeDepth := 40)

theorem State.worksFrom_vectorRun {idle : Bool} {reads writes : List VaRange} {work : State → Access → Writer → State × Bool}
    (hw : ∀ (u : State) (a : Access) (w : Writer), u.keeps workFields (work u a w).1) :
    s.worksFrom (s.vectorRun d idle reads writes work) d (veEngine d.b) := by
  unfold State.vectorRun
  extract_lets e _ f a
  split
  rename_i s1 id heq
  have h1 : s.worksFrom s1 d e := by
    rw [show s1 = (s.launch d f 0).1 by rw [heq]]
    exact State.worksFrom_launch f rfl rfl rfl rfl rfl (State.keeps_self _ _)
  clear heq
  refine State.worksFrom_then h1 ?_
  extract_lets s2
  have h2 : s1.keeps workFields s2 := State.keeps_ite (State.keeps_self _ s1) (by simp)
  clear_value s2
  have h3 : s1.keeps workFields (if idle = true then (s2, false) else work s2 a (d.writer id e 1)).1 :=
    State.keeps_ite_fst h2 (State.keeps_trans h2 (hw s2 a _))
  simp (maxDischargeDepth := 40) [h3]

theorem State.worksFrom_vopRun : s.worksFrom (s.vopRun d) d (veEngine d.b) :=
  s.worksFrom_vectorRun d (fun u a w => by simp)

theorem State.worksFrom_readCtrRun : s.worksFrom (s.readCtrRun d) d (veEngine d.b) :=
  s.worksFrom_vectorRun d (fun u a w => by simp (maxDischargeDepth := 40))

theorem State.worksFrom_vredRun : s.worksFrom (s.vredRun d) d (veEngine d.b) := by
  unfold State.vredRun
  dsimp only
  split
  · exact s.worksFrom_vectorRun d (fun u a w => by split <;> simp)
  · refine s.worksFrom_vectorRun d (fun u a w => ?_)
    split
    · simp (maxDischargeDepth := 40)
    · refine State.keeps_foldl Prod.fst _ _ (fun b x => ?_) (State.keeps_self _ u)
      split <;> simp (maxDischargeDepth := 40)

theorem State.worksFrom_vquantRun : s.worksFrom (s.vquantRun d) d (veEngine d.b) := by
  refine s.worksFrom_vectorRun d (fun u a w => ?_)
  split
  · simp
  · simp (maxDischargeDepth := 40)

theorem State.worksFrom_vdeqRun : s.worksFrom (s.vdeqRun d) d (veEngine d.b) := by
  refine s.worksFrom_vectorRun d (fun u a w => ?_)
  split
  · simp
  · simp

theorem State.worksFrom_vtopkRun : s.worksFrom (s.vtopkRun d) d (veEngine d.b) :=
  s.worksFrom_vectorRun d (fun u a w => State.keeps_foldl Prod.fst _ _ (fun b x => by simp) (State.keeps_self _ u))

theorem State.worksFrom_attnRun {o : Pool} (ho : d.P.pool = some o) : s.worksFrom (s.attnRun d) d 32 := by
  unfold State.attnRun
  extract_lets t
  split
  case h_1 hn => cases ho.symm.trans hn
  extract_lets dones ecc rows f
  split
  rename_i s1 id heq
  have h1 : s.worksFrom s1 d 32 := by
    rw [← show _ = s1 from congrArg Prod.fst heq]
    exact State.worksFrom_launch f rfl rfl rfl rfl rfl (State.keeps_self _ _)
  clear heq
  refine State.worksFrom_then h1 ?_
  extract_lets s2 wr t2
  have h2 : s1.keeps workFields s2 := State.keeps_begins _ _ _ _ (by simp) (State.keeps_self _ s1)
  have ht : s1.keeps workFields t2 := by
    refine State.keeps_foldl (fun x => x) _ _ (fun u e => ?_) h2
    dsimp only
    split
    · simp
    · exact State.keeps_foldl (fun x => x) _ _ (fun v st => by simp) (by simp)
    · exact State.keeps_foldl (fun x => x) _ _ (fun v r => by simp) (by simp (maxDischargeDepth := 40))
  clear_value t2
  simp (maxDischargeDepth := 40) [ht]

theorem State.worksFrom_attnMergeRun : s.worksFrom (s.attnMergeRun d) d 32 := by
  unfold State.attnMergeRun
  extract_lets m a dones ecc rows _ f seed
  split
  rename_i s1 id heq
  have h1 : s.worksFrom s1 d 32 := by
    rw [← show _ = s1 from congrArg Prod.fst heq]
    exact State.worksFrom_launch f rfl rfl rfl rfl rfl (State.keeps_self _ _)
  clear heq
  refine State.worksFrom_then h1 ?_
  extract_lets s2 wr t2
  have h2 : s1.keeps workFields s2 := State.keeps_begins _ _ _ _ (by simp) (State.keeps_self _ s1)
  have ht : s1.keeps workFields t2 := by
    refine State.keeps_foldl (fun x => x) _ _ (fun u e => ?_) h2
    dsimp only
    split
    · simp (maxDischargeDepth := 40)
    · simp
    · exact State.keeps_foldl (fun x => x) _ _ (fun v r => by simp) (by simp (maxDischargeDepth := 40))
  clear_value t2
  simp (maxDischargeDepth := 40) [ht]

end

end Sys2Proof.Machine
end

section
/-! SUPPORT. FlightWorkBeyond.lean: the work of near-bank, peer and stream records once they are in flight (O17). -/

namespace Sys2Proof.Machine

/-! ### Stream commands -/

section
variable (s : State) (d : Site) (w : Writer) (t : StreamCmd) (x : StreamItem)

theorem State.works_onLive {st : Nat} {f : Partition → Pool → Stream → Worked} (hf : ∀ P o e, s.keeps workFields (f P o e).1) :
    s.keeps workFields (s.onLive d st f).1 := by
  unfold State.onLive
  (repeat' split) <;> simp [hf]

theorem State.works_stOpen : s.keeps workFields (s.stOpen d w t x).1 := by
  unfold State.stOpen
  (repeat' split) <;> simp (maxDischargeDepth := 40)

theorem State.works_stCommit : s.keeps workFields (s.stCommit d w t x).1 := by
  refine s.works_onLive d (fun P o e => ?_)
  dsimp only
  (repeat' split) <;> simp (maxDischargeDepth := 40)

theorem State.works_stRollback : s.keeps workFields (s.stRollback d w t x).1 := by
  refine s.works_onLive d (fun P o e => ?_)
  dsimp only
  (repeat' split) <;> simp (maxDischargeDepth := 40)

theorem State.works_stRelease : s.keeps workFields (s.stRelease d w t x).1 := by
  refine s.works_onLive d (fun P o e => ?_)
  (repeat' split) <;> simp (maxDischargeDepth := 40)

theorem State.works_stAppend : s.keeps workFields (s.stAppend d w t x).1 := by
  refine s.works_onLive d (fun P o e => ?_)
  dsimp only
  (repeat' split) <;> simp (maxDischargeDepth := 40)

theorem State.works_prefixPublish : s.keeps workFields (s.prefixPublish d w t x).1 := by
  refine s.works_onLive d (fun P o e => ?_)
  refine State.keeps_ite_fst (by simp) (State.keeps_ite_fst (by simp) (State.keeps_ite_fst (by simp) (State.keeps_ite_fst (by simp) ?_)))
  refine State.keeps_foldl Prod.fst _ _ (fun r i => ?_) (by simp)
  split <;> simp

theorem State.works_prefixLookup : s.keeps workFields (s.prefixLookup d w t x).1 := by
  refine s.works_onLive d (fun P o e => ?_)
  refine State.keeps_ite_fst (by simp) (State.keeps_ite_fst (by simp) (State.keeps_ite_fst (by simp) ?_))
  refine State.keeps_setStream _ _ (by simp) (State.keeps_foldl Prod.fst _ _ (fun r j => ?_) (by simp))
  split
  · simp
  · have step := State.keeps_lookupRange (F := workFields) w x.st j t.data r.2.1 (by simp) (State.keeps_self _ r.1)
    split <;> simp_all

end

/-- One stream of a record: whatever becomes of it, the command stays in flight. -/
theorem State.works_streamStep {work : State → Site → Writer → StreamCmd → StreamItem → Worked}
    (hw : ∀ (u : State) (d : Site) (w : Writer) (t : StreamCmd) (x : StreamItem), u.keeps workFields (work u d w t x).1)
    (u : State) (d : Site) (w : Writer) (t : StreamCmd) (x : StreamItem) (id : Nat) (n : Nat × Nat) :
    u.keeps workFields (match work u d w t x with
      | (s, .ok (a, b)) => (s, n.1 + a, n.2 + b)
      | (s, .error st) => ((if t.table = 0 then s.touched d x.st else s).condition id st, n)).1 := by
  have h := hw u d w t x
  generalize work u d w t x = r at h
  obtain ⟨v, _ | _⟩ := r
  · exact State.keeps_condition _ _ (by simp) (State.keeps_ite (State.keeps_touched _ _ (by simp) h) h)
  · exact h

theorem State.streamRun_idle {s : State} {d : Site} {work : State → Site → Writer → StreamCmd → StreamItem → Worked}
    (h : u64 d.b 16 ≠ 0 ∧ u32 d.b 24 = 0) : State.streamRun work s d = s.endAtDispatch d .ok 0xFF 0 := by
  unfold State.streamRun
  exact if_pos h

theorem State.worksFrom_streamRun (s : State) (d : Site) {work : State → Site → Writer → StreamCmd → StreamItem → Worked}
    (hw : ∀ (u : State) (d : Site) (w : Writer) (t : StreamCmd) (x : StreamItem), u.keeps workFields (work u d w t x).1)
    (hbusy : ¬(u64 d.b 16 ≠ 0 ∧ u32 d.b 24 = 0)) : s.worksFrom (State.streamRun work s d) d 36 := by
  unfold State.streamRun
  extract_lets t lost
  split
  case isTrue h => exact absurd h hbusy
  split
  rename_i items bad hitems
  clear hitems
  extract_lets shards shard _ f
  split
  rename_i s1 id heq
  have h1 : s.worksFrom s1 d 36 := by
    rw [← show _ = s1 from congrArg Prod.fst heq]
    exact State.worksFrom_launch f rfl rfl rfl rfl rfl (State.keeps_self _ _)
  clear heq
  refine State.worksFrom_then h1 ?_
  extract_lets s2 r s3 s4 w s5 s6
  have h2 : s1.keeps workFields s2 := State.keeps_readVa _ _ _ _ (by simp) (State.keeps_self _ s1)
  clear_value s2
  have hr : s1.keeps workFields r.1 := by
    refine State.keeps_foldl Prod.fst _ _ (fun b x => ?_) h2
    dsimp only
    split
    · simp
    split
    · split <;> simp
    · exact State.works_streamStep hw b.1 d _ t x id b.2
  clear_value r
  have h4 : s1.keeps workFields s4 := by simp [s4, s3, hr]
  clear_value s4
  have h5 : s1.keeps workFields s5 := by simp (maxDischargeDepth := 40) [s5, h4]
  clear_value s5
  have h6 : s1.keeps workFields s6 := by simp (maxDischargeDepth := 40) [s6, h5]
  clear_value s6
  split
  · exact State.keeps_condition _ _ (by simp) h2
  split
  · simp [h2]
  · simp [h6]

/-! ### Near-bank records -/

theorem State.worksFrom_nearRun (s : State) (d : Site) (h : nearEmpty d.b = false) : s.worksFrom (s.nearRun d) d 33 := by
  unfold State.nearRun
  split
  case isTrue he => rw [h] at he; cases he
  extract_lets n _ f free l
  split
  rename_i s1 id heq
  have h1 : s.worksFrom s1 d 33 := by
    rw [← show _ = s1 from congrArg Prod.fst heq]
    exact State.worksFrom_launch f rfl rfl rfl rfl rfl (State.keeps_self _ _)
  refine State.worksFrom_then h1 ?_
  simp (maxDischargeDepth := 40)

/-! ### Peer records -/

/-- The early stretches stay those that came. -/
theorem State.early_pump (s : State) (port k : Nat) : (s.pump port k).peers.early = s.peers.early := by
  induction k generalizing s with
  | zero => rfl
  | succ k ih =>
    unfold State.pump
    dsimp only
    split
    · rfl
    split
    · rfl
    · exact (ih _).trans rfl

theorem State.early_enqueue (s : State) (port : Nat) (f : OutFrame) : (s.enqueue port f).peers.early = s.peers.early :=
  State.early_pump _ port _

theorem State.early_each {α : Type} (s : State) (l : List α) {f : State → α → State} (hf : ∀ u x, (f u x).peers.early = u.peers.early) :
    (s.each l f).peers.early = s.peers.early := by
  induction l generalizing s with
  | nil => rfl
  | cons x xs ih => exact (ih (f s x)).trans (hf s x)

theorem State.early_sendTo (s : State) (g : GroupEntry) (rank : Nat) (inner : Carries) (base : Nat) (data : Bytes) (bad : List Nat)
    (job : Option Nat) (ends : Bool) : (s.sendTo g rank inner base data bad job ends).peers.early = s.peers.early := by
  unfold State.sendTo
  dsimp only
  split
  · rfl
  · refine s.early_each _ (fun u i => ?_)
    split
    · rfl
    · exact u.early_enqueue _ _

theorem State.early_sendStretch (s : State) (id : Nat) (f : Flight) (j : PeerJob) (rank off len : Nat) (ends : Bool) :
    (s.sendStretch id f j rank off len ends).peers.early = s.peers.early := by
  unfold State.sendStretch
  split
  · split
    · rfl
    · exact s.early_sendTo _ _ _ _ _ _ _ _
  · rfl

/-- Where no stretch came early, a collective takes none. -/
theorem State.takeEarly_none {s : State} (h : s.peers.early = []) (id p g op : Nat) (shape : Shape) :
    s.takeEarly id p g op shape = s.dropEarly p g op := by
  unfold State.takeEarly
  rw [h]
  rfl

theorem Partition.takeAbort_none {P : Partition} (h : P.aborts = []) (a : Nat × Nat × Nat × Nat) : P.takeAbort a = none := by
  unfold Partition.takeAbort
  rw [h]
  rfl

theorem Partition.takeEmpty_none {P : Partition} (h : P.aborts = []) (g op : Nat) : P.takeEmpty g op = (P, false) := by
  unfold Partition.takeEmpty
  rw [Partition.takeAbort_none h]

section
variable (s : State) (d : Site) {G : GroupEntry}

/-- A collective whose group this is has taken its number. -/
def State.numbered (s : State) (d : Site) : State :=
  s.setGroup d.p (u8 d.b 8) { s.group d.p (u8 d.b 8) with opSeq := (s.group d.p (u8 d.b 8)).opSeq + 1 }

theorem State.keeps_numbered : s.keeps [.peers] (s.numbered d) := State.keeps_setGroup _ _ _ (by decide) (State.keeps_self _ s)

theorem State.collectiveRun_empty (hG : s.groupEntry? d.p (u8 d.b 8) = some G) (ha : d.P.aborts = []) (hn : u64 d.b 32 = 0) :
    s.collectiveRun d = (s.numbered d).emptyCollective d G (u8 d.b 8) (s.group d.p (u8 d.b 8)).opSeq.toNat := by
  unfold State.collectiveRun
  simp only [hG, Partition.takeAbort_none ha, Partition.takeEmpty_none ha, hn]
  rfl

theorem State.worksFrom_collectiveRun (hG : s.groupEntry? d.p (u8 d.b 8) = some G) (ha : d.P.aborts = []) (he : s.peers.early = [])
    (hn : u64 d.b 32 ≠ 0) : s.worksFrom (s.collectiveRun d) d 35 := by
  unfold State.collectiveRun
  extract_lets b g gr op s1 n told s2 d2 code
  split
  case h_1 hnone => cases hG.symm.trans hnone
  rename_i G' hG'
  obtain rfl : G = G' := Option.some.inj (hG.symm.trans hG')
  extract_lets members tree r src own plan j f
  have htold : told = (d.P, false) := Partition.takeEmpty_none ha _ _
  have hs2 : s2 = s.numbered d := by
    rw [show s2 = if told.2 = true then s1.setPart d.p told.1 else s1 from rfl, htold]
    rfl
  have hd2 : d2 = d := by
    rw [show d2 = { d with P := told.1 } from rfl, htold]
  clear_value s2 d2 told
  subst hs2 hd2 htold
  split
  case h_1 h => cases (Partition.takeAbort_none ha _).symm.trans h
  case h_2 h => cases (Partition.takeAbort_none ha _).symm.trans h
  rw [if_neg hn, if_neg Bool.false_ne_true]
  split
  rename_i s3 id heq
  have hk := s.keeps_numbered d2
  have h3 : s.worksFrom s3 d2 35 := by
    rw [← show _ = s3 from congrArg Prod.fst heq]
    exact ⟨_, f, hk.1 .nextId (by decide), rfl, rfl, rfl, rfl, rfl, State.keeps_self _ _⟩
  have he3 : s3.peers.early = [] := by
    rw [← show _ = s3 from congrArg Prod.fst heq, ← he]
    exact congrArg (·.early) (((s.numbered d2).keeps_launched d2 f 0).1 .peers (by decide))
  clear heq
  refine State.worksFrom_then h3 ?_
  extract_lets s4 s5 s6
  have h5 : s3.keeps [.flash, .timer, .dram, .spad, .flight, .near, .funcs, .log, .rowHits, .perf, .out, .free] s5 :=
    State.keeps_ite (by simp [s4]) (by simp [s4])
  have he6 : s6.peers.early = [] := by
    refine (s5.early_each _ (fun u x => u.early_sendStretch _ _ _ _ _ _ _)).trans ?_
    rw [show s5.peers = s3.peers from h5.1 .peers (by decide), he3]
  have h6 : s3.keeps workFields s6 := State.keeps_each _ (fun u x => by simp) (State.keeps_ite (by simp [s4]) (by simp [s4]))
  clear_value s6
  rw [State.takeEarly_none he6]
  simp [h6]

/-- A record of no work, on a state whose queue is as it was met, is consumed at its dispatch. -/
theorem State.consumed_idle {s u : State} {d : Site} (hd : s.meetsSite d) (hp : u.parts = s.parts) (hn : u.nextId = s.nextId) (off : Nat) :
    s.consumed (u.endAtDispatch d .ok off 0) d 0 := by
  have hQ : u.queue? d.p d.q = some d.Q := (State.queue?_of_part ((State.part?_congr hp d.p).trans hd.part) d.q).trans hd.queue
  exact State.consumed_of_endsRecord (State.endsRecord_endAtDispatch hQ hd.standing rfl off 0) hQ hn rfl rfl

theorem State.consumed_collectiveRun (hd : s.meetsSite d) (hG : s.groupEntry? d.p (u8 d.b 8) = some G) (ha : d.P.aborts = [])
    (he : s.peers.early = []) (hn : u64 d.b 32 = 0) : s.consumed (s.collectiveRun d) d 0 := by
  rw [s.collectiveRun_empty d hG ha hn]
  have he' : (s.numbered d).peers.early = [] := he
  unfold State.emptyCollective
  rw [he', if_neg (by simp)]
  extract_lets gr
  have hk : s.keeps [.peers, .out] (((s.numbered d).setGroup d.p (u8 d.b 8)
      { gr with empties := gr.empties ++ [(s.group d.p (u8 d.b 8)).opSeq.toNat] }).abortAll G
        [.empty (u8 d.b 8) (s.group d.p (u8 d.b 8)).opSeq.toNat]) := by
    exact State.keeps_abortAll _ _ (by decide)
      (State.keeps_setGroup _ _ _ (by decide) (State.keeps_setGroup _ _ _ (by decide) (State.keeps_self _ s)))
  exact State.consumed_idle hd (hk.1 .parts (by decide)) (hk.1 .nextId (by decide)) 0xFF

end

/-! ### Records whose check reads a span list -/

section
variable {s u : State}

theorem State.mayDispatch_congr (hf : u.flight = s.flight) (hp : u.power = s.power) (hl : u.link = s.link) (ht : u.thermal = s.thermal) :
    u.mayDispatch = s.mayDispatch := by
  funext p q P Q b
  unfold State.mayDispatch State.clusterLoad State.queueBusy
  rw [hf, hp, hl, ht]

theorem State.headHeld_congr (hf : u.flight = s.flight) : u.headHeld = s.headHeld := by
  funext Q b
  unfold State.headHeld State.engineLoad
  rw [hf]

/-- Where a record may dispatch rests on the queues, the commands in flight, power, link and temperature alone. -/
theorem State.site?_congr (hparts : u.parts = s.parts) (hf : u.flight = s.flight) (hp : u.power = s.power) (hl : u.link = s.link)
    (ht : u.thermal = s.thermal) (p q : Nat) : u.site? p q = s.site? p q := by
  unfold State.site? State.inTurn State.ready
  rw [State.part?_congr hparts, State.mayDispatch_congr hf hp hl ht, State.headHeld_congr hf]

theorem State.site?_meetSpans (s : State) (p q op p' q' : Nat) : (s.meetSpans p q op).site? p' q' = s.site? p' q' := by
  have hk : s.keeps [.flash, .timer, .dram, .spad, .near, .funcs, .log, .rowHits, .perf, .out, .free] (s.meetSpans p q op) :=
    State.keeps_meetSpans p q op (by decide) (State.keeps_self _ s)
  exact State.site?_congr (hk.1 .parts (by decide)) (hk.1 .flight (by decide)) (hk.1 .power (by decide)) (hk.1 .link (by decide))
    (hk.1 .thermal (by decide)) p' q'

theorem State.crossBroken_meetSpans (s : State) (p q op : Nat) (d : Site) : (s.meetSpans p q op).crossBroken d = s.crossBroken d := by
  have hk : s.keeps [.flash, .timer, .dram, .spad, .near, .funcs, .log, .rowHits, .perf, .out, .free] (s.meetSpans p q op) :=
    State.keeps_meetSpans p q op (by decide) (State.keeps_self _ s)
  unfold State.crossBroken
  rw [show (s.meetSpans p q op).cross = s.cross from hk.1 .cross (by decide)]

end

end Sys2Proof.Machine
end

section
/-! SUPPORT. EngineRecords.lean: every record of an engine goes into flight on it, or completes where it has no work to do (O17). -/

namespace Sys2Proof.Machine

/-! ### What a check that lets a record go says -/

theorem firstBad_concat (l : List (Nat × Bool)) (e : Nat × Bool) :
    firstBad (l ++ [e]) = if e.2 then firstBad l else some ((firstBad l).elim e.1 (fun o => min o e.1)) := by
  unfold firstBad
  rw [List.foldl_concat]
  generalize List.foldl _ none l = acc
  cases acc <;> rfl

theorem firstBad_eq_none {l : List (Nat × Bool)} (h : firstBad l = none) : ∀ e ∈ l, e.2 = true := by
  induction l using List.reverseRecOn with
  | nil => simp
  | append_singleton l x ih =>
    rw [firstBad_concat] at h
    split at h
    case isTrue hx =>
      intro e he
      rcases List.mem_append.mp he with hl | hr
      · exact ih h e hl
      · rw [List.mem_singleton.mp hr]
        exact hx
    case isFalse => cases h

theorem verdictOf_eq_go {fields cons al bo : Option Nat} {hold : Bool} (h : verdictOf fields cons al bo hold = .go) :
    fields = none ∧ cons = none ∧ al = none ∧ bo = none ∧ hold = false := by
  unfold verdictOf at h
  split at h
  · cases h
  split at h
  · cases h
  split at h
  · cases h
  split at h
  · cases h
  split at h
  · cases h
  · simp_all

theorem peerVerdict_eq_go {fields : Option Nat} {who : Option Status} {cons al bo : Option Nat} (h : peerVerdict fields who cons al bo = .go) :
    who = none := by
  unfold peerVerdict at h
  split at h
  · cases h
  split at h
  · cases h
  · rfl

section
variable {s : State} {d : Site}

theorem State.pool_of_attnVerdict (h : s.attnVerdict d = .go) : ∃ o, d.P.pool = some o := by
  unfold State.attnVerdict at h
  obtain ⟨_, hcons, _⟩ := verdictOf_eq_go h
  have h11 := firstBad_eq_none hcons _ (.tail _ (.head _))
  cases hp : d.P.pool with
  | none => rw [hp] at h11; cases h11
  | some o => exact ⟨o, rfl⟩

theorem State.groupEntry_of_verdict (h : s.collectiveVerdict d = .go) : ∃ G, s.groupEntry? d.p (u8 d.b 8) = some G := by
  have hw : s.groupStatus d.p (u8 d.b 8) = none := peerVerdict_eq_go h
  unfold State.groupStatus at hw
  split at hw
  · cases hw
  · rename_i hn
    exact Option.ne_none_iff_exists'.mp (fun h0 => hn (Option.isNone_iff_eq_none.mpr h0))

theorem indexWhere_isSome {α : Type} {f : α → Bool} {l : List α} {x : α} (hx : x ∈ l) (hf : f x = true) (i : Nat) :
    ∃ r, indexWhere f l i = some r := by
  induction l generalizing i with
  | nil => cases hx
  | cons y l ih =>
    unfold indexWhere
    split
    · exact ⟨i, rfl⟩
    · rcases List.mem_cons.mp hx with rfl | hl
      · simp_all
      · exact ih hl (i + 1)

theorem GroupEntry.rankOf_of_mem {G : GroupEntry} {k : Nat} (h : G.peers.contains k = true) : ∃ r, G.rankOf k = some r := by
  unfold GroupEntry.peers at h
  obtain ⟨hk, -⟩ := List.mem_filter.mp (List.contains_iff_mem.mp h)
  obtain ⟨m, hm, rfl⟩ := List.mem_map.mp hk
  exact indexWhere_isSome hm (decide_eq_true rfl) 0

theorem State.peerGroup_of_status {p k : Nat} (h : s.peerStatus p k = none) : ∃ G r, s.peerGroup p k = some G ∧ G.rankOf k = some r := by
  unfold State.peerStatus at h
  split at h
  · cases h
  split at h
  · cases h
  rename_i hG
  obtain ⟨G, hG⟩ := Option.ne_none_iff_exists'.mp (fun h0 => hG (Option.isNone_iff_eq_none.mpr h0))
  have hf := List.find?_some hG
  obtain ⟨r, hr⟩ := GroupEntry.rankOf_of_mem (Bool.and_eq_true _ _ ▸ hf).1
  exact ⟨G, r, hG, hr⟩

end

/-! ### Rows that go into flight -/

/-- A record of no work, of those that then complete at their dispatch (R142). -/
def Site.idle (d : Site) : Prop :=
  (recOp d.b / 2 ^ 12 = 5 ∧ nearEmpty d.b = true) ∨ (recOp d.b / 2 ^ 12 = 7 ∧ u64 d.b 16 ≠ 0 ∧ u32 d.b 24 = 0)
    ∨ (recOp d.b / 2 ^ 12 = 6 ∧ recOp d.b ≠ 0x6004 ∧ recOp d.b ≠ 0x6005 ∧ u64 d.b 32 = 0)

/-- The record completes at its dispatch where it is idle, and else goes into flight on its engine. -/
def State.engages (s : State) (i : Instr) (d : Site) : Prop :=
  (d.idle → ∃ t, exec i s = .next t ∧ (recordBegun i s).consumed t d 0)
    ∧ (¬d.idle → ∃ t, exec i s = .next t ∧ (recordBegun i s).launched t d (s.engineFor d i))

section
variable {s : State} {i : Instr} {d : Site} {t : State}

theorem State.engages_of_cases (hexec : exec i s = .next t) (hc : d.idle → (recordBegun i s).consumed t d 0)
    (hw : ¬d.idle → (recordBegun i s).worksFrom t d (s.engineFor d i)) : s.engages i d :=
  ⟨fun h => ⟨t, hexec, hc h⟩, fun h => ⟨t, hexec, State.launched_of_worksFrom (hw h)⟩⟩

/-- The rows of the control records, the transfers, and the matrix, vector and Mantle engines have no idle record. -/
theorem State.engages_always {p q op : Nat} (h : s.runs i d) (hi : i.record? = some (p, q, op)) (hop : op / 2 ^ 12 < 5)
    (hexec : exec i s = .next t) (hw : (recordBegun i s).worksFrom t d (s.engineFor d i)) : s.engages i d := by
  have hk : recOp d.b / 2 ^ 12 < 5 := by rw [State.recOp_of_runs h hi]; exact hop
  refine State.engages_of_cases hexec (fun hidle => ?_) (fun _ => hw)
  unfold Site.idle at hidle
  omega

end

section
variable {s : State} {p q : Nat} {d : Site}

/-! ### FENCE, transfers, matrix, vector and Mantle -/

theorem exec_fence_runs (h : s.runs (.fence p q) d) :
    exec (.fence p q) s = .next (s.launch d (d.flight 34 (islControl d.Q.cluster)) 0).1 := by
  dsimp only [exec, execFence]
  exact State.dispatch_of_runs h rfl (Instr.isOp_of_takes rfl) rfl

theorem engages_fence (h : s.runs (.fence p q) d) : s.engages (.fence p q) d :=
  State.engages_always h rfl (by decide) (exec_fence_runs h)
    (State.worksFrom_launch (d.flight 34 (islControl d.Q.cluster)) rfl rfl rfl rfl rfl (State.keeps_self _ _))

theorem engages_load (h : s.runs (.load p q) d) : s.engages (.load p q) d :=
  State.engages_always h rfl (by decide) (State.dispatch_of_runs h rfl (Instr.isOp_of_takes rfl) rfl) (s.worksFrom_loadRun d)

theorem engages_store (h : s.runs (.store p q) d) : s.engages (.store p q) d :=
  State.engages_always h rfl (by decide) (State.dispatch_of_runs h rfl (Instr.isOp_of_takes rfl) rfl) (s.worksFrom_storeRun d)

theorem engages_copy (h : s.runs (.copy p q) d) : s.engages (.copy p q) d :=
  State.engages_always h rfl (by decide) (State.dispatch_of_runs h rfl (Instr.isOp_of_takes rfl) rfl) (s.worksFrom_copyRun d)

theorem engages_gather (h : s.runs (.gather p q) d) : s.engages (.gather p q) d :=
  State.engages_always h rfl (by decide) (State.dispatch_of_runs h rfl (Instr.isOp_of_takes rfl) rfl) (s.worksFrom_gatherRun d)

theorem engages_scatter (h : s.runs (.scatter p q) d) : s.engages (.scatter p q) d :=
  State.engages_always h rfl (by decide) (State.dispatch_of_runs h rfl (Instr.isOp_of_takes rfl) rfl) (s.worksFrom_scatterRun d)

theorem engages_hostout (h : s.runs (.hostout p q) d) : s.engages (.hostout p q) d :=
  State.engages_always h rfl (by decide) (State.dispatch_of_runs h rfl (Instr.isOp_of_takes rfl) rfl) (s.worksFrom_hostoutRun d)

theorem exec_mma_runs (h : s.runs (.mma p q) d) : exec (.mma p q) s = .next (s.matrixRun d false) := by
  dsimp only [exec, execMma]
  exact State.dispatch_of_runs h rfl (Instr.isOp_of_takes rfl) rfl

theorem engages_mma (h : s.runs (.mma p q) d) : s.engages (.mma p q) d :=
  State.engages_always h rfl (by decide) (exec_mma_runs h) (s.worksFrom_matrixRun d false)

theorem exec_mmaq_runs (h : s.runs (.mmaq p q) d) : exec (.mmaq p q) s = .next (s.matrixRun d true) := by
  dsimp only [exec, execMmaq]
  exact State.dispatch_of_runs h rfl (Instr.isOp_of_takes rfl) rfl

theorem engages_mmaq (h : s.runs (.mmaq p q) d) : s.engages (.mmaq p q) d :=
  State.engages_always h rfl (by decide) (exec_mmaq_runs h) (s.worksFrom_matrixRun d true)

theorem exec_vop_runs (h : s.runs (.vop p q) d) : exec (.vop p q) s = .next (s.vopRun d) := by
  dsimp only [exec, execVop]
  exact State.dispatch_of_runs h rfl (fun ht => ht) rfl

theorem engages_vop (h : s.runs (.vop p q) d) : s.engages (.vop p q) d :=
  State.engages_always h rfl (by decide) (exec_vop_runs h) (s.worksFrom_vopRun d)

theorem exec_readCtr_runs (h : s.runs (.readCtr p q) d) : exec (.readCtr p q) s = .next (s.readCtrRun d) := by
  dsimp only [exec, execReadCtr]
  exact State.dispatch_of_runs h rfl (fun ht => ht) rfl

theorem engages_readCtr (h : s.runs (.readCtr p q) d) : s.engages (.readCtr p q) d :=
  State.engages_always h rfl (by decide) (exec_readCtr_runs h) (s.worksFrom_readCtrRun d)

theorem engages_vred (h : s.runs (.vred p q) d) : s.engages (.vred p q) d :=
  State.engages_always h rfl (by decide) (State.dispatch_of_runs h rfl (Instr.isOp_of_takes rfl) rfl) (s.worksFrom_vredRun d)

theorem engages_vquant (h : s.runs (.vquant p q) d) : s.engages (.vquant p q) d :=
  State.engages_always h rfl (by decide) (State.dispatch_of_runs h rfl (Instr.isOp_of_takes rfl) rfl) (s.worksFrom_vquantRun d)

theorem engages_vdeq (h : s.runs (.vdeq p q) d) : s.engages (.vdeq p q) d :=
  State.engages_always h rfl (by decide) (State.dispatch_of_runs h rfl (Instr.isOp_of_takes rfl) rfl) (s.worksFrom_vdeqRun d)

theorem engages_vtopk (h : s.runs (.vtopk p q) d) : s.engages (.vtopk p q) d :=
  State.engages_always h rfl (by decide) (State.dispatch_of_runs h rfl (Instr.isOp_of_takes rfl) rfl) (s.worksFrom_vtopkRun d)

theorem engages_attnMerge (h : s.runs (.attnMerge p q) d) : s.engages (.attnMerge p q) d :=
  State.engages_always h rfl (by decide) (State.dispatch_of_runs h rfl (Instr.isOp_of_takes rfl) rfl) (s.worksFrom_attnMergeRun d)

theorem engages_attn (h : s.runs (.attn p q) d) : s.engages (.attn p q) d := by
  obtain ⟨_, _, _, _, _, _, _, _, _, hgo, _⟩ := id h
  obtain ⟨o, ho⟩ := State.pool_of_attnVerdict hgo
  exact State.engages_always h rfl (by decide) (State.dispatch_of_runs h rfl (Instr.isOp_of_takes rfl) rfl) (s.worksFrom_attnRun d ho)

/-! ### Streams -/

/-- A stream record whatever its work does. -/
theorem State.engages_stream {i : Instr} {op : Nat} {work : State → Site → Writer → StreamCmd → StreamItem → Worked} (h : s.runs i d)
    (hi : i.record? = some (p, q, op)) (hop : op / 2 ^ 12 = 7) (hexec : exec i s = .next (State.streamRun work s d)) (hb : recordBegun i s = s)
    (he : s.engineFor d i = 36)
    (hw : ∀ (u : State) (d : Site) (w : Writer) (t : StreamCmd) (x : StreamItem), u.keeps workFields (work u d w t x).1) :
    s.engages i d := by
  have hk : recOp d.b / 2 ^ 12 = 7 := by rw [State.recOp_of_runs h hi]; exact hop
  have hidle : d.idle ↔ (u64 d.b 16 ≠ 0 ∧ u32 d.b 24 = 0) := by
    unfold Site.idle
    omega
  refine State.engages_of_cases hexec (fun hno => ?_) (fun hbusy => ?_)
  · rw [hb, State.streamRun_idle (hidle.mp hno)]
    exact State.consumed_idle (State.meetsSite_of_site? (State.site?_of_runs h hi)) rfl rfl 0xFF
  · rw [hb, he]
    exact s.worksFrom_streamRun d hw (fun hno => hbusy (hidle.mpr hno))

theorem engages_stOpen (h : s.runs (.stOpen p q) d) : s.engages (.stOpen p q) d :=
  State.engages_stream h rfl (by decide) (State.dispatch_of_runs h rfl (Instr.isOp_of_takes rfl) rfl) rfl rfl State.works_stOpen

theorem engages_stAppend (h : s.runs (.stAppend p q) d) : s.engages (.stAppend p q) d :=
  State.engages_stream h rfl (by decide) (State.dispatch_of_runs h rfl (Instr.isOp_of_takes rfl) rfl) rfl rfl State.works_stAppend

theorem engages_stCommit (h : s.runs (.stCommit p q) d) : s.engages (.stCommit p q) d :=
  State.engages_stream h rfl (by decide) (State.dispatch_of_runs h rfl (Instr.isOp_of_takes rfl) rfl) rfl rfl State.works_stCommit

theorem engages_stRollback (h : s.runs (.stRollback p q) d) : s.engages (.stRollback p q) d :=
  State.engages_stream h rfl (by decide) (State.dispatch_of_runs h rfl (Instr.isOp_of_takes rfl) rfl) rfl rfl State.works_stRollback

theorem engages_stRelease (h : s.runs (.stRelease p q) d) : s.engages (.stRelease p q) d :=
  State.engages_stream h rfl (by decide) (State.dispatch_of_runs h rfl (Instr.isOp_of_takes rfl) rfl) rfl rfl State.works_stRelease

theorem engages_prefixLookup (h : s.runs (.prefixLookup p q) d) : s.engages (.prefixLookup p q) d :=
  State.engages_stream h rfl (by decide) (State.dispatch_of_runs h rfl (Instr.isOp_of_takes rfl) rfl) rfl rfl State.works_prefixLookup

theorem engages_prefixPublish (h : s.runs (.prefixPublish p q) d) : s.engages (.prefixPublish p q) d :=
  State.engages_stream h rfl (by decide) (State.dispatch_of_runs h rfl (Instr.isOp_of_takes rfl) rfl) rfl rfl State.works_prefixPublish

/-! ### Near-bank records -/

theorem State.nearRun_cases {u : State} (hd : u.meetsSite d) :
    (nearEmpty d.b = true → u.consumed (u.nearRun d) d 0) ∧ (nearEmpty d.b = false → u.worksFrom (u.nearRun d) d 33) := by
  refine ⟨fun h => ?_, u.worksFrom_nearRun d⟩
  unfold State.nearRun
  rw [if_pos h]
  exact State.consumed_idle hd rfl rfl 0xFF

theorem Site.idle_of_near (hk : recOp d.b / 2 ^ 12 = 5) : d.idle ↔ nearEmpty d.b = true := by
  unfold Site.idle
  rw [hk]
  simp

theorem Site.nearEmpty_of_busy (hk : recOp d.b / 2 ^ 12 = 5) (h : ¬d.idle) : nearEmpty d.b = false := by
  rw [Site.idle_of_near hk, Bool.not_eq_true] at h
  exact h

theorem State.engages_near {i : Instr} {op : Nat} (h : s.runs i d) (hi : i.record? = some (p, q, op)) (hop : op / 2 ^ 12 = 5)
    (hexec : exec i s = .next (s.nearRun d)) (hb : recordBegun i s = s) (he : s.engineFor d i = 33) : s.engages i d := by
  have hk : recOp d.b / 2 ^ 12 = 5 := by rw [State.recOp_of_runs h hi]; exact hop
  obtain ⟨hno, hbusy⟩ := State.nearRun_cases (State.meetsSite_of_site? (State.site?_of_runs h hi))
  refine State.engages_of_cases hexec (fun hidle => ?_) (fun hidle => ?_)
  · rw [hb]
    exact hno ((Site.idle_of_near hk).mp hidle)
  · rw [hb, he]
    exact hbusy (Site.nearEmpty_of_busy hk hidle)

theorem engages_nbAttend (h : s.runs (.nbAttend p q) d) : s.engages (.nbAttend p q) d :=
  State.engages_near h rfl (by decide) (State.dispatch_of_runs h rfl (Instr.isOp_of_takes rfl) rfl) rfl rfl

theorem engages_nbPool (h : s.runs (.nbPool p q) d) : s.engages (.nbPool p q) d :=
  State.engages_near h rfl (by decide) (State.dispatch_of_runs h rfl (Instr.isOp_of_takes rfl) rfl) rfl rfl

theorem engages_nbScan (h : s.runs (.nbScan p q) d) : s.engages (.nbScan p q) d :=
  State.engages_near h rfl (by decide) (State.dispatch_of_runs h rfl (Instr.isOp_of_takes rfl) rfl) rfl rfl

theorem engages_nbFill (h : s.runs (.nbFill p q) d) : s.engages (.nbFill p q) d :=
  State.engages_near h rfl (by decide) (State.dispatch_of_runs h rfl (Instr.isOp_of_takes rfl) rfl) rfl rfl

/-- What a near-bank record does where its check has met a list of spans: a bad word of the page tables, met then, makes the command fail. -/
def State.spansRun (u : State) (d : Site) : State :=
  if u.tableBad d then ((u.nearRun d).controlFails u.nextId).tick else u.nearRun d

theorem State.dispatch_spans {i : Instr} {op : Nat} {check : Site → Verdict} (h : s.runs i d) (hi : i.record? = some (p, q, op))
    (hb : recordBegun i s = s.meetSpans p q op) (hc : (s.meetSpans p q op).checks d i = check d) :
    (s.meetSpans p q op).dispatch p q (isOp op) noSkip check State.nearRun = .next ((s.meetSpans p q op).spansRun d) := by
  have hs := State.site?_of_runs h hi
  obtain ⟨_, _, _, _, _, ht, _, hh, hp, hg, hx, _⟩ := h
  rw [← s.site?_meetSpans p q op] at hs
  rw [← s.crossBroken_meetSpans p q op] at hx
  rw [hb, hc] at hg
  generalize s.meetSpans p q op = u at *
  have hop := opRow?_of_headerBad hh
  have hm := Instr.isOp_of_takes hi ht
  unfold State.spansRun
  cases hT : u.tableBad d <;> simp [State.dispatch, hs, hm, hh, hp, hg, hx, hT, Option.isNone_iff_eq_none, hop]

theorem State.consumed_controlFails {u t : State} (h : u.consumed t d 0) : u.consumed (t.controlFails u.nextId).tick d 0 := by
  have hc : t.controlFails u.nextId = t := by
    unfold State.controlFails
    rw [h.2.1]
  rw [hc]
  exact h

theorem State.engages_spans {i : Instr} {op : Nat} (h : s.runs i d) (hi : i.record? = some (p, q, op)) (hop : op / 2 ^ 12 = 5)
    (hexec : exec i s = .next ((s.meetSpans p q op).spansRun d)) (hb : recordBegun i s = s.meetSpans p q op) (he : s.engineFor d i = 33) :
    s.engages i d := by
  have hk : recOp d.b / 2 ^ 12 = 5 := by rw [State.recOp_of_runs h hi]; exact hop
  have hs := State.site?_of_runs h hi
  rw [← s.site?_meetSpans p q op] at hs
  generalize s.meetSpans p q op = u at *
  obtain ⟨hno, hbusy⟩ := State.nearRun_cases (State.meetsSite_of_site? hs)
  refine State.engages_of_cases hexec (fun hidle => ?_) (fun hidle => ?_)
  · have hc := hno ((Site.idle_of_near hk).mp hidle)
    rw [hb]
    unfold State.spansRun
    split
    · exact State.consumed_controlFails hc
    · exact hc
  · have hw := hbusy (Site.nearEmpty_of_busy hk hidle)
    rw [hb, he]
    unfold State.spansRun
    split
    · exact State.worksFrom_then hw (by simp)
    · exact hw

theorem engages_nbAxpy (h : s.runs (.nbAxpy p q) d) : s.engages (.nbAxpy p q) d :=
  State.engages_spans h rfl (by decide) (State.dispatch_spans h rfl rfl rfl) rfl rfl

theorem engages_nbQuant (h : s.runs (.nbQuant p q) d) : s.engages (.nbQuant p q) d :=
  State.engages_spans h rfl (by decide) (State.dispatch_spans h rfl rfl rfl) rfl rfl

/-! ### Peer records -/

theorem State.engages_collective {i : Instr} {op : Nat} (h : s.runs i d) (hi : i.record? = some (p, q, op))
    (hop : op / 2 ^ 12 = 6 ∧ op ≠ 0x6004 ∧ op ≠ 0x6005) (hexec : exec i s = .next (s.collectiveRun d)) (hb : recordBegun i s = s)
    (hc : s.checks d i = s.collectiveVerdict d) (he : s.engineFor d i = 35) (ha : d.P.aborts = []) (hearly : s.peers.early = []) :
    s.engages i d := by
  have hop' := State.recOp_of_runs h hi
  have hidle : d.idle ↔ u64 d.b 32 = 0 := by
    unfold Site.idle
    rw [hop']
    omega
  have hs := State.site?_of_runs h hi
  obtain ⟨_, _, _, _, _, _, _, _, _, hgo, _⟩ := h
  rw [hb, hc] at hgo
  obtain ⟨G, hG⟩ := State.groupEntry_of_verdict hgo
  refine State.engages_of_cases hexec (fun hno => ?_) (fun hbusy => ?_)
  · rw [hb]
    exact State.consumed_collectiveRun s d (State.meetsSite_of_site? hs) hG ha hearly (hidle.mp hno)
  · rw [hb, he]
    exact State.worksFrom_collectiveRun s d hG ha hearly (fun hn => hbusy (hidle.mpr hn))

theorem engages_cag (h : s.runs (.cag p q) d) (ha : d.P.aborts = []) (he : s.peers.early = []) : s.engages (.cag p q) d :=
  State.engages_collective h rfl (by decide) (State.dispatch_of_runs h rfl (Instr.isOp_of_takes rfl) rfl) rfl rfl rfl ha he

theorem engages_crs (h : s.runs (.crs p q) d) (ha : d.P.aborts = []) (he : s.peers.early = []) : s.engages (.crs p q) d :=
  State.engages_collective h rfl (by decide) (State.dispatch_of_runs h rfl (Instr.isOp_of_takes rfl) rfl) rfl rfl rfl ha he

theorem engages_car (h : s.runs (.car p q) d) (ha : d.P.aborts = []) (he : s.peers.early = []) : s.engages (.car p q) d :=
  State.engages_collective h rfl (by decide) (State.dispatch_of_runs h rfl (Instr.isOp_of_takes rfl) rfl) rfl rfl rfl ha he

/-- A CSEND that no notice has ended is launched, and opens at once where the receiver's notice has come (R326). -/
theorem csend_launches (h : s.runs (.csend p q) d) (ha : d.P.aborts = []) : ∃ t, exec (.csend p q) s = .next t ∧ s.worksFrom t d 35 := by
  dsimp only [exec, execCsend]
  rw [State.dispatch_of_runs h rfl (Instr.isOp_of_takes rfl) rfl]
  refine ⟨_, rfl, ?_⟩
  split
  case h_1 habort =>
    rw [Partition.takeAbort_none (by exact ha)] at habort
    cases habort
  generalize hu : s.setPart p _ = u
  have hn : u.nextId = s.nextId := by rw [← hu]; rfl
  split
  · exact ⟨u, d.peerFlight _ _ _, hn, rfl, rfl, rfl, rfl, rfl, State.keeps_openSend _ _ (by simp) (State.keeps_self _ _)⟩
  · exact ⟨u, d.peerFlight _ _ _, hn, rfl, rfl, rfl, rfl, rfl, State.keeps_self _ _⟩

/-- A CRECV that no notice has ended is launched, and the sender is told of it (R326). -/
theorem crecv_launches (h : s.runs (.crecv p q) d) (ha : d.P.aborts = []) : ∃ t, exec (.crecv p q) s = .next t ∧ s.worksFrom t d 35 := by
  dsimp only [exec, execCrecv]
  rw [State.dispatch_of_runs h rfl (Instr.isOp_of_takes rfl) rfl]
  refine ⟨_, rfl, ?_⟩
  split
  case h_1 habort =>
    rw [Partition.takeAbort_none (by exact ha)] at habort
    cases habort
  generalize hu : s.setPart p _ = u
  have hn : u.nextId = s.nextId := by rw [← hu]; rfl
  split
  · exact ⟨u, d.peerFlight _ _ _, hn, rfl, rfl, rfl, rfl, rfl, State.keeps_self _ _⟩
  split
  · exact ⟨u, d.peerFlight _ _ _, hn, rfl, rfl, rfl, rfl, rfl, State.keeps_self _ _⟩
  · exact ⟨u, d.peerFlight _ _ _, hn, rfl, rfl, rfl, rfl, rfl, State.keeps_sendReady _ _ _ _ _ (by simp) (State.keeps_self _ _)⟩

theorem State.engages_message {i : Instr} {op : Nat} (h : s.runs i d) (hi : i.record? = some (p, q, op)) (hop : op = 0x6004 ∨ op = 0x6005)
    (hl : ∃ t, exec i s = .next t ∧ s.worksFrom t d 35) (hb : recordBegun i s = s) (he : s.engineFor d i = 35) : s.engages i d := by
  obtain ⟨t, hexec, hw⟩ := hl
  have hop' := State.recOp_of_runs h hi
  refine State.engages_of_cases hexec (fun hidle => ?_) (fun _ => ?_)
  · unfold Site.idle at hidle
    omega
  · rw [hb, he]
    exact hw

theorem engages_csend (h : s.runs (.csend p q) d) (ha : d.P.aborts = []) : s.engages (.csend p q) d :=
  State.engages_message h rfl (.inl rfl) (csend_launches h ha) rfl rfl

theorem engages_crecv (h : s.runs (.crecv p q) d) (ha : d.P.aborts = []) : s.engages (.crecv p q) d :=
  State.engages_message h rfl (.inr rfl) (crecv_launches h ha) rfl rfl

theorem engages_peercopy (h : s.runs (.peercopy p q) d) : s.engages (.peercopy p q) d := by
  have hop := State.recOp_of_runs h rfl
  have hs := State.site?_of_runs h rfl
  obtain ⟨_, _, _, _, _, _, _, _, _, hgo, _⟩ := id h
  obtain ⟨G, r, hG, hr⟩ := State.peerGroup_of_status (peerVerdict_eq_go hgo)
  obtain ⟨rfl, rfl⟩ := State.site?_place hs
  have hidle : d.idle ↔ u64 d.b 32 = 0 := by
    unfold Site.idle
    omega
  change s.peerGroup d.p (u8 d.b 8) = some G at hG
  refine State.engages_of_cases
    (by dsimp only [exec, execPeercopy]; exact State.dispatch_of_runs h rfl (Instr.isOp_of_takes rfl) rfl) (fun hno => ?_) (fun hbusy => ?_)
  · rw [if_pos (hidle.mp hno)]
    exact State.consumed_idle (State.meetsSite_of_site? hs) rfl rfl 0xFF
  · rw [if_neg (fun hn => hbusy (hidle.mpr hn))]
    simp only [hG, hr]
    have hw : ∀ j l w, s.worksFrom (s.launch d (d.peerFlight j l w) 0).1 d 35 := fun j l w =>
      State.worksFrom_launch _ rfl rfl rfl rfl rfl (State.keeps_self _ _)
    have hsent : ∀ (u : State) (id : Nat) (c : Carries) (data : Bytes) (bad : List Nat) (v : VaRange),
        u.keeps workFields ((u.readVa id d.p d.P v).sendTo G r c 0 data bad (some id)) := fun u id c data bad v => by simp
    split
    · exact State.worksFrom_then (hw _ _ _) (State.keeps_ite (hsent _ _ _ _ _ _) (State.keeps_condition _ _ (by simp) (hsent _ _ _ _ _ _)))
    · exact State.worksFrom_then (hw _ _ _) (State.keeps_sendTo _ _ _ _ _ _ _ _ (by simp) (State.keeps_self _ _))

end

/-- Settles O17, row by row: what follows the launch of a record is the command's own work, which neither takes a number nor ends it. -/
theorem engineRecordsGoIntoFlight : Obligations.EngineRecordsGoIntoFlight := by
  intro i s d h hrow _ hpeer
  obtain ⟨p, q, op, hi, _⟩ := id h
  change s.engages i d
  cases i with
  | fence p q => exact engages_fence h
  | load p q => exact engages_load h
  | store p q => exact engages_store h
  | copy p q => exact engages_copy h
  | gather p q => exact engages_gather h
  | scatter p q => exact engages_scatter h
  | hostout p q => exact engages_hostout h
  | mma p q => exact engages_mma h
  | mmaq p q => exact engages_mmaq h
  | vop p q => exact engages_vop h
  | readCtr p q => exact engages_readCtr h
  | vred p q => exact engages_vred h
  | vquant p q => exact engages_vquant h
  | vdeq p q => exact engages_vdeq h
  | vtopk p q => exact engages_vtopk h
  | attn p q => exact engages_attn h
  | attnMerge p q => exact engages_attnMerge h
  | nbAttend p q => exact engages_nbAttend h
  | nbPool p q => exact engages_nbPool h
  | nbScan p q => exact engages_nbScan h
  | nbFill p q => exact engages_nbFill h
  | nbAxpy p q => exact engages_nbAxpy h
  | nbQuant p q => exact engages_nbQuant h
  | stOpen p q => exact engages_stOpen h
  | stAppend p q => exact engages_stAppend h
  | stCommit p q => exact engages_stCommit h
  | stRollback p q => exact engages_stRollback h
  | stRelease p q => exact engages_stRelease h
  | prefixLookup p q => exact engages_prefixLookup h
  | prefixPublish p q => exact engages_prefixPublish h
  | peercopy p q => exact engages_peercopy h
  | cag p q =>
    obtain ⟨ha, he⟩ := hpeer (by rw [State.recOp_of_runs h rfl]; decide)
    exact engages_cag h ha he
  | crs p q =>
    obtain ⟨ha, he⟩ := hpeer (by rw [State.recOp_of_runs h rfl]; decide)
    exact engages_crs h ha he
  | car p q =>
    obtain ⟨ha, he⟩ := hpeer (by rw [State.recOp_of_runs h rfl]; decide)
    exact engages_car h ha he
  | csend p q => exact engages_csend h (hpeer (by rw [State.recOp_of_runs h rfl]; decide)).1
  | crecv p q => exact engages_crecv h (hpeer (by rw [State.recOp_of_runs h rfl]; decide)).1
  | nop | wait | signal | cmp | loop | step =>
    rw [State.recOp_of_runs h rfl] at hrow
    omega
  | _ => cases hi

end Sys2Proof.Machine
end

section
/-! SUPPORT. WholeFields.lean: fields of whole bytes, as an engine reads them and as it writes them (O24, O25). -/

namespace Sys2Proof.Machine

/-! ### Ordered lists stay as they are -/

section
variable {α : Type} {le : α → α → Bool}

theorem mergeTwo_of_le {a b : List α} (h : ∀ x ∈ a, ∀ y ∈ b, le x y = true) : mergeTwo le a b = a ++ b := by
  induction a with
  | nil => rfl
  | cons x a ih =>
    have htail := ih (fun z hz => h z (List.mem_cons_of_mem x hz))
    cases b with
    | nil => exact congrArg (x :: ·) htail
    | cons y b =>
      have hxy : le x y = true := h x List.mem_cons_self y List.mem_cons_self
      simp only [mergeTwo, mergeInto, hxy, if_true, htail, List.cons_append]

theorem flatten_mergePairs {l : List (List α)} (h : l.flatten.Pairwise (fun x y => le x y = true)) : (mergePairs le l).flatten = l.flatten := by
  fun_induction mergePairs le l with
  | case1 a b t ih =>
    rw [List.flatten_cons, List.flatten_cons, ← List.append_assoc, List.pairwise_append, List.pairwise_append] at h
    obtain ⟨⟨_, _, hab⟩, ht, _⟩ := h
    rw [List.flatten_cons, ih ht, mergeTwo_of_le hab, List.flatten_cons, List.flatten_cons, List.append_assoc]
  | case2 l _ => rfl

theorem mergeRounds_of_ordered {l : List (List α)} (h : l.flatten.Pairwise (fun x y => le x y = true)) (k : Nat) :
    mergeRounds le k l = l.flatten := by
  induction k generalizing l with
  | zero => rfl
  | succ k ih =>
    have hp := flatten_mergePairs h
    exact (ih (hp ▸ h)).trans hp

theorem mergeSort_of_ordered {l : List α} (h : l.Pairwise (fun x y => le x y = true)) : mergeSort le l = l := by
  have hflat : (l.map (fun x => [x])).flatten = l := by
    rw [← List.flatMap_def]
    exact List.flatMap_singleton' l
  exact (mergeRounds_of_ordered (hflat.symm ▸ h) _).trans hflat

end

theorem mem_nubRising {l : List Nat} {x : Nat} : x ∈ nubRising l ↔ x ∈ l := by
  fun_induction nubRising l with
  | case1 b t ih => simp [ih]
  | case2 a b t hne ih => simp [ih]
  | case3 l _ => rfl

/-! ### The bytes that a field of whole bytes writes -/

/-- n bytes from va on, all written whole, the lowest of v first. -/
def wholePuts : Nat → Nat → Nat → Bool → List BytePut
  | _, 0, _, _ => []
  | va, n + 1, v, bad => { va := va, mask := 255, val := v % 256, bad := bad } :: wholePuts (va + 1) n (v / 256) bad

theorem wholePuts_eq_map (va n v : Nat) (bad : Bool) :
    wholePuts va n v bad = (List.range n).map (fun i => { va := va + i, mask := 255, val := v / 256 ^ i % 256, bad := bad }) := by
  induction n generalizing va v with
  | zero => rfl
  | succ n ih =>
    rw [wholePuts, ih, List.range_succ_eq_map, List.map_cons, List.map_map]
    simp [Function.comp_def, Nat.div_div_eq_div_mul, pow_succ', Nat.add_assoc, Nat.add_comm 1]

theorem mem_wholePuts {va n v : Nat} {bad : Bool} {w : BytePut} (h : w ∈ wholePuts va n v bad) : va ≤ w.va ∧ w.mask = 255 ∧ w.bad = bad := by
  rw [wholePuts_eq_map] at h
  obtain ⟨i, _, rfl⟩ := List.mem_map.mp h
  exact ⟨Nat.le_add_right va i, rfl, rfl⟩

theorem length_wholePuts (va n v : Nat) (bad : Bool) : (wholePuts va n v bad).length = n := by
  rw [wholePuts_eq_map, List.length_map, List.length_range]

theorem vals_wholePuts (va n v : Nat) (bad : Bool) : (wholePuts va n v bad).map (fun w => BitVec.ofNat 8 w.val) = natLe n v := by
  induction n generalizing va v with
  | zero => rfl
  | succ n ih =>
    rw [wholePuts, List.map_cons, ih, natLe]
    congr 1
    exact BitVec.eq_of_toNat_eq (by simp)

theorem pairwise_wholePuts (va n v : Nat) (bad : Bool) : (wholePuts va n v bad).Pairwise (fun x y => x.va < y.va) := by
  induction n generalizing va v with
  | zero => exact .nil
  | succ n ih => exact .cons (fun w hw => Nat.lt_of_succ_le (mem_wholePuts hw).1) (ih _ _)

/-- The mask of byte i of a field of n bytes. -/
theorem mask_of_lt {i n : Nat} (h : i < n) : (2 ^ (8 * n) - 1) / 256 ^ i % 256 = 255 := by
  obtain ⟨k, rfl⟩ : ∃ k, n = i + (k + 1) := ⟨n - i - 1, by omega⟩
  have hpow : 2 ^ (8 * (i + (k + 1))) = 256 ^ i * 256 ^ (k + 1) := by
    rw [pow_mul, pow_add]
    norm_num
  have hpos : 0 < 256 ^ k := Nat.pow_pos (by decide)
  have hdiv := Nat.mul_sub_div 0 (256 ^ i) (256 ^ (k + 1)) (by positivity)
  rw [Nat.zero_add, Nat.zero_div, Nat.zero_add] at hdiv
  rw [hpow, hdiv, pow_succ]
  omega

/-- Byte i of a value that is cut to n bytes. -/
theorem byte_of_lt {i n : Nat} (v : Nat) (h : i < n) : v % 2 ^ (8 * n) / 256 ^ i % 256 = v / 256 ^ i % 256 := by
  obtain ⟨k, rfl⟩ : ∃ k, n = i + (k + 1) := ⟨n - i - 1, by omega⟩
  have hpow : 2 ^ (8 * (i + (k + 1))) = 256 ^ i * 256 ^ (k + 1) := by
    rw [pow_mul, pow_add]
    norm_num
  rw [hpow, Nat.mod_mul_right_div_self, pow_succ, Nat.mod_mul_left_mod]

theorem BitPut.bytes_whole (va n v : Nat) (bad : Bool) :
    BitPut.bytes { at? := 8 * va, width := 8 * n, val := v, bad := bad } = wholePuts va n v bad := by
  rw [wholePuts_eq_map]
  unfold BitPut.bytes
  have hoff : 8 * va % 8 = 0 := by omega
  have hva : 8 * va / 8 = va := by omega
  have hn : (0 + 8 * n + 7) / 8 = n := by omega
  simp only [hoff, hva, hn, pow_zero, mul_one]
  refine List.map_congr_left (fun i hi => ?_)
  have hi' := List.mem_range.mp hi
  rw [mask_of_lt hi', byte_of_lt v hi']

theorem joinPuts_of_rising {l : List BytePut} (h : l.Pairwise (fun x y => x.va < y.va)) : joinPuts l = l := by
  induction l with
  | nil => rfl
  | cons w l ih =>
    obtain ⟨hw, hl⟩ := List.pairwise_cons.mp h
    rw [joinPuts, ih hl]
    cases l with
    | nil => rfl
    | cons x r => exact if_neg (Nat.ne_of_gt (hw x List.mem_cons_self))

theorem runsOf_wholePuts (va n v : Nat) (bad : Bool) : runsOf (wholePuts va (n + 1) v bad) = [wholePuts va (n + 1) v bad] := by
  induction n generalizing va v with
  | zero => rfl
  | succ n ih =>
    rw [wholePuts, runsOf, ih]
    exact if_pos ⟨rfl, rfl, rfl, rfl⟩

/-- A word that one bad byte feeds is fed by them all. -/
theorem fed_wholePuts (va n v : Nat) (bad : Bool) :
    (wholePuts va n v bad).map (fun w =>
      { w with bad := (nubRising (((wholePuts va n v bad).filter BytePut.bad).map (fun w => w.va / 8))).contains (w.va / 8) })
      = wholePuts va n v bad := by
  refine (List.map_congr_left (fun w hw => ?_)).trans (List.map_id _)
  have hbad := (mem_wholePuts hw).2.2
  have hcontains : (nubRising (((wholePuts va n v bad).filter BytePut.bad).map (fun w => w.va / 8))).contains (w.va / 8) = w.bad := by
    cases hb : w.bad with
    | true => exact List.contains_iff_mem.mpr (mem_nubRising.mpr (List.mem_map_of_mem (List.mem_filter.mpr ⟨hw, hb⟩)))
    | false =>
      have hnone : (wholePuts va n v bad).filter BytePut.bad = [] :=
        List.filter_eq_nil_iff.mpr (fun x hx => by rw [(mem_wholePuts hx).2.2, ← hbad, hb]; decide)
      rw [hnone]
      rfl
  rw [hcontains]
  rfl

/-! ### Stretches of one page -/

theorem State.segs_page {s : State} {p va n x : Nat} {P : Partition} {sp : Space} (h : s.place p P va = some (sp, x)) (hn : 0 < n)
    (hpage : va % 4096 + n ≤ 4096) : s.segs p P va n = some [{ space := sp, addr := x, len := n }] := by
  have hmin : min n (4096 - va % 4096) = n := by omega
  have hrest : s.segsAux p P (n / 4096 + 1) (va + n) 0 = some [] := by rw [State.segsAux, if_pos rfl]
  unfold State.segs
  rw [State.segsAux, if_neg (by omega)]
  simp only [hmin, h, Nat.sub_self, hrest]

/-! ### Writing -/

/-- What a write of whole bytes at c in the scratchpads leaves: those bytes there, and every other of the arrays as it was. -/
structure State.spadPut (s t : State) (c : Nat) (b : Bytes) : Prop where
  dram : ∀ x, t.dram.get x = s.dram.get x
  spad : ∀ x, t.spad.get x = if c ≤ x ∧ x < c + b.length then (b[x - c]?).getD 0 else s.spad.get x

theorem State.spadPut_then {s t u : State} {c : Nat} {b : Bytes} (h : s.spadPut t c b) (k : t.bytesStay u) : s.spadPut u c b :=
  ⟨fun x => (congrArg (fun m => cget m x) k.dram).trans (h.dram x), fun x => (congrArg (fun m => cget m x) k.spad).trans (h.spad x)⟩

theorem State.get_writeSeg_spad (s : State) (w : Writer) (c len : Nat) (b : Bytes) (bad : Bool) (x : Nat) :
    (s.writeSeg w { space := .spad, addr := c, len := len } b bad).spad.get x
      = if c ≤ x ∧ x < c + b.length then (b[x - c]?).getD 0 else s.spad.get x := by
  unfold State.writeSeg
  dsimp only
  generalize hm : s.mergeWords .spad c b.length = merged
  have hs : s.bytesStay merged := hm ▸ s.bytesStay_mergeWords .spad c b.length
  have hx : merged.spad.get x = s.spad.get x := congrArg (fun m => cget m x) hs.spad
  have hput : ∀ words : List Nat, (if bad = true then words.foldl Mem.poisonWord (merged.spad.write c b) else merged.spad.write c b).get x
      = if c ≤ x ∧ x < c + b.length then (b[x - c]?).getD 0 else s.spad.get x := by
    intro words
    split
    · rw [Mem.get_poisonWords, Mem.get_write, hx]
    · rw [Mem.get_write, hx]
  split
  · exact hput _
  · exact hput _

theorem State.spadPut_writeSeg (s : State) (w : Writer) (c len : Nat) (b : Bytes) (bad : Bool) :
    s.spadPut (s.writeSeg w { space := .spad, addr := c, len := len } b bad) c b :=
  ⟨fun x => (State.storesIn_writeSeg (D := fun sp _ => sp = .spad) w bad (fun _ _ _ => rfl) (State.storesIn_self _ s)).dram x (by decide),
    s.get_writeSeg_spad w c len b bad⟩

theorem State.putRun_whole {s : State} {wr : Writer} {P : Partition} {w : BytePut} {r : List BytePut} {g : Seg} (hmask : w.mask = 255)
    (hseg : s.segs wr.p P w.va (w :: r).length = some [g]) :
    s.putRun wr P (w :: r) = s.writeSeg { wr with bits := 255 } g (((w :: r).map (fun x => BitVec.ofNat 8 x.val)).take g.len) w.bad := by
  unfold State.putRun
  simp only [hseg, hmask, if_true]
  rfl

/-- A field of whole bytes, written within a page of the scratchpads. -/
theorem State.spadPut_putFields {s : State} {wr : Writer} {P : Partition} {va n c : Nat} (v : Nat) (bad : Bool)
    (h : s.place wr.p P va = some (.spad, c)) (hn : 0 < n) (hpage : va % 4096 + n ≤ 4096) :
    s.spadPut (s.putFields wr P [{ at? := 8 * va, width := 8 * n, val := v, bad := bad }]) c (natLe n v) := by
  obtain ⟨k, rfl⟩ : ∃ k, n = k + 1 := ⟨n - 1, by omega⟩
  have hord := pairwise_wholePuts va (k + 1) v bad
  have hsort : joinPuts (mergeSort (fun a b => decide (a.va ≤ b.va)) (wholePuts va (k + 1) v bad)) = wholePuts va (k + 1) v bad := by
    rw [mergeSort_of_ordered (hord.imp (fun hlt => decide_eq_true hlt.le)), joinPuts_of_rising hord]
  have hvals : (wholePuts va (k + 1) v bad).map (fun w => BitVec.ofNat 8 w.val) = natLe (k + 1) v := vals_wholePuts _ _ _ _
  have hlen := length_wholePuts va (k + 1) v bad
  unfold State.putFields
  rw [List.flatMap_singleton, BitPut.bytes_whole, hsort]
  dsimp only
  rw [fed_wholePuts, runsOf_wholePuts]
  change s.spadPut (s.putRun wr P (wholePuts va (k + 1) v bad)) c (natLe (k + 1) v)
  have hseg := State.segs_page h hn hpage
  rw [← hlen] at hseg
  refine (congrArg (fun t => s.spadPut t c (natLe (k + 1) v)) (State.putRun_whole rfl hseg)).mpr ?_
  change s.spadPut (s.writeSeg _ _ (((wholePuts va (k + 1) v bad).map (fun w => BitVec.ofNat 8 w.val)).take _) bad) c _
  rw [hvals, hlen, List.take_of_length_le (length_natLe _ _).le]
  exact s.spadPut_writeSeg _ c (k + 1) _ bad

/-! ### Reading -/

theorem Mem.bytes_eq (m : Mem) (a n : Nat) : m.bytes a n = (List.range n).map (fun i => m.get (a + i)) := by
  refine List.map_congr_left (fun i hi => ?_)
  have hi' := List.mem_range.mp hi
  exact cget_filter _ (fun e _ he => by simp [he, hi'])

theorem leNat_lt (b : Bytes) : leNat b < 256 ^ b.length := by
  induction b with
  | nil => decide
  | cons x b ih =>
    have hx := x.isLt
    rw [leNat, List.length_cons, pow_succ]
    omega

theorem Mem.length_bytes (m : Mem) (a n : Nat) : (m.bytes a n).length = n := by
  rw [m.bytes_eq, List.length_map, List.length_range]

/-- Where no write is under way, every reader gets what the array holds. -/
theorem State.observeAll_settled {s : State} (h : s.unsettled = []) (r : Reader) (g : Seg) {cur : Bytes} (hlen : cur.length = g.len) :
    s.observeAll r g cur = cur := by
  unfold State.observeAll
  rw [h]
  change ((List.range g.len).zip cur).map Prod.snd = cur
  exact List.map_snd_zip (by simp [hlen])

section
variable {s : State} {a : Access} {va n x : Nat} (h : s.unsettled = []) (hn : 0 < n) (hpage : va % 4096 + n ≤ 4096)
include h hn hpage

theorem State.fetch_spad (hp : s.place a.p a.P va = some (.spad, x)) : (s.fetch a va n).1 = s.spad.bytes x n := by
  unfold State.fetch
  rw [State.segs_page hp hn hpage]
  have hview : s.view a.rdr { space := .spad, addr := x, len := n } = s.spad.bytes x n :=
    State.observeAll_settled h _ _ (s.spad.length_bytes x n)
  simp only [List.flatMap_singleton, State.fetchSeg, hview, List.map_map]
  exact List.map_snd_zip (by simp [Mem.length_bytes])

theorem State.fetch_dram (hc : a.cache = none) (hp : s.place a.p a.P va = some (.dram, x)) : (s.fetch a va n).1 = s.dram.bytes x n := by
  unfold State.fetch
  rw [State.segs_page hp hn hpage]
  have hview : s.view a.rdr { space := .dram, addr := x, len := n } = s.dram.bytes x n :=
    State.observeAll_settled h _ _ (s.dram.length_bytes x n)
  simp only [List.flatMap_singleton, State.fetchSeg, hview, hc, List.map_map]
  exact List.map_snd_zip (by simp [Mem.length_bytes])

end

/-- A field of whole bytes reads as the number that its bytes make. -/
theorem State.fetchBits_whole (s : State) (a : Access) {bits : Int} {va n : Nat} (hb : bits = (8 * va : Nat)) (hlen : (s.fetch a va n).1.length = n) :
    (s.fetchBits a bits (8 * n)).1 = leNat (s.fetch a va n).1 := by
  subst hb
  have hlt := leNat_lt (s.fetch a va n).1
  rw [hlen] at hlt
  unfold State.fetchBits
  have hoff : 8 * va % 8 = 0 := by omega
  have hva : 8 * va / 8 = va := by omega
  have hn : (0 + 8 * n + 7) / 8 = n := by omega
  simp only [Int.toNat_natCast, hoff, hva, hn, bitsAt, pow_zero, Nat.div_one]
  rw [pow_mul]
  exact Nat.mod_eq_of_lt hlt

end Sys2Proof.Machine
end

section
/-! SUPPORT. SingleElements.lean: a transfer of one byte, and a product of one element (O24, O25). -/

namespace Sys2Proof.Machine

/-! ### Descriptors of one element -/

def Ix.origin : Ix := { i0 := 0, i1 := 0, i2 := 0, i3 := 0 }

theorem length_box (e0 e1 e2 e3 : Nat) : (box e0 e1 e2 e3).length = e3 * (e2 * (e1 * e0)) := by
  simp [box, List.length_flatMap]

section
variable {D : Desc}

theorem Desc.extents_of_one (h : D.all.length = 1) : D.e0 = 1 ∧ D.e1 = 1 ∧ D.e2 = 1 ∧ D.e3 = 1 := by
  rw [Desc.all, length_box, mul_eq_one, mul_eq_one, mul_eq_one] at h
  exact ⟨h.2.2.2, h.2.2.1, h.2.1, h.1⟩

theorem Desc.all_of_one (h : D.all.length = 1) : D.all = [Ix.origin] := by
  obtain ⟨h0, h1, h2, h3⟩ := Desc.extents_of_one h
  rw [Desc.all, h0, h1, h2, h3]
  rfl

theorem Desc.not_empty_of_one (h : D.all.length = 1) : D.empty = false := by
  obtain ⟨h0, h1, h2, h3⟩ := Desc.extents_of_one h
  rw [Desc.empty, h0, h1, h2, h3]
  rfl

theorem Desc.bitAddr_origin (h : D.layout = 0) : D.bitAddr Ix.origin = (8 * D.base : Nat) := by
  simp [Desc.bitAddr, h, Ix.origin, mul_comm]

theorem Desc.put_origin (h : D.layout = 0) {n : Nat} (hw : D.width = 8 * n) (v : Nat) (bad : Bool) :
    D.put Ix.origin v bad = { at? := 8 * D.base, width := 8 * n, val := v, bad := bad } := by
  rw [Desc.put, Desc.bitAddr_origin h, hw]
  rfl

theorem Desc.width_of_plain (h : D.layout = 0) : D.width = D.type.width := by
  rw [Desc.width, h]
  rfl

end

/-! ### Places -/

/-- Where bytes lie rests on what is fitted and what is fenced alone. -/
theorem State.place_congr {s u : State} (hi : u.ident = s.ident) (hb : u.boot = s.boot) (p : Nat) (P : Partition) (va : Nat) :
    u.place p P va = s.place p P va := by
  unfold State.place State.localPlace State.spaOk State.stackFitted State.clusterFenced State.coreFenced
  rw [hi, hb]

/-- The fields that a launch and the first look at the operands change. -/
def launchFields : List Field := [.timer, .cycles, .parts, .flight, .nextId, .perf, .free, .ends]

/-- What a launched command works on has the memories, and the places, that its dispatch met. -/
structure State.sameOperands (s u : State) : Prop where
  place : ∀ p P va, u.place p P va = s.place p P va
  dram : u.dram = s.dram
  spad : u.spad = s.spad
  unsettled : u.unsettled = s.unsettled

theorem State.sameOperands_of_keeps {s u : State} (h : s.keeps launchFields u) : s.sameOperands u :=
  ⟨State.place_congr (h.1 .ident (by decide)) (h.1 .boot (by decide)), h.1 .dram (by decide), h.1 .spad (by decide), h.1 .unsettled (by decide)⟩

theorem State.bytesStay_readRanges (s : State) (id p : Nat) (P : Partition) (l : List VaRange) : s.bytesStay (s.readRanges id p P l) :=
  State.bytesStay_each (fun u r => u.bytesStay_readVa id p P r) s l

theorem State.bytesStay_ite {s t u : State} {c : Prop} {_ : Decidable c} (ht : s.bytesStay t) (hu : s.bytesStay u) :
    s.bytesStay (if c then t else u) := by
  split
  · exact ht
  · exact hu

/-! ### LOAD of one byte -/

/-- A transfer that has work, and no lost host, does it on what its dispatch met; what follows leaves every byte alone. -/
theorem State.transferRun_works {s : State} {d : Site} {m : Moved} {work : State → Access → Writer → State × Bool} (hidle : m.idle = false)
    (hlink : s.linkGone = false) :
    ∃ u id, s.sameOperands u
      ∧ State.bytesStay (work u (d.access (teEngine d.b) false) (d.writer id (teEngine d.b) 1)).1 (s.transferRun d m false work) := by
  unfold State.transferRun
  split
  rename_i s1 id heq
  have h1 : s.keeps launchFields s1 := by
    rw [← show _ = s1 from congrArg Prod.fst heq]
    exact s.keeps_launched d _ 0
  have hl : s1.linkGone = false := by
    unfold State.linkGone at hlink ⊢
    rw [show s1.link = s.link from h1.1 .link (by decide)]
    exact hlink
  rw [hidle, hl, if_neg (by decide), Bool.and_false, if_neg (by decide)]
  extract_lets a wr u
  have hu : s.keeps launchFields u := State.keeps_begins _ _ _ _ (by decide) h1
  refine ⟨u, id, State.sameOperands_of_keeps hu, ?_⟩
  have count : ∀ (v : State) (k : Nat), v.bytesStay (v.count 0 (d.Q.cluster * 8 + selCore d.b) 0x07 k) := fun v k =>
    State.bytesStay_of_keeps (F := [.perf]) (by simp) (by decide)
  generalize hw : work u a wr = r
  obtain ⟨t, bad⟩ := r
  split
  rename_i t' bad' hr
  cases hr
  extract_lets t1 ended t2
  have ht1 : t.bytesStay t1 := State.bytesStay_ite (t.bytesStay_condition id .poison) t.bytesStay_self
  have ht2 : t.bytesStay t2 := State.bytesStay_ite ht1 (State.bytesStay_trans ht1 (count t1 _))
  refine State.bytesStay_trans ht2 (State.bytesStay_trans (t2.bytesStay_readRanges id d.p d.P m.units) ?_)
  exact ⟨rfl, rfl, rfl, rfl, rfl⟩

/-- A box of one byte, moved as it is. -/
theorem State.moveBox_byte {s : State} {a : Access} {wr : Writer} {src dst : Desc} {x c : Nat} (padVal : Nat) (hsrc : src.all.length = 1)
    (htype : src.dtype = dst.dtype) (hw : src.type.width = 8) (hls : src.layout = 0) (hld : dst.layout = 0)
    (hset : s.unsettled = []) (hcache : a.cache = none) (hx : s.place a.p a.P src.base = some (.dram, x))
    (hc : s.place wr.p a.P dst.base = some (.spad, c)) :
    s.spadPut (s.moveBox a wr src dst false padVal false).1 c [s.dram.get x] := by
  have htypes : src.type = dst.type := by rw [Desc.type, htype, Desc.type]
  have hws : src.width = 8 := (Desc.width_of_plain hls).trans hw
  have hwd : dst.width = 8 := (Desc.width_of_plain hld).trans (htypes ▸ hw)
  have hin : Ix.origin.inside src = true := by
    obtain ⟨h0, h1, h2, h3⟩ := Desc.extents_of_one hsrc
    rw [Ix.inside, h0, h1, h2, h3]
    rfl
  have hraw : rawMove src dst = true := by simp [rawMove, htypes, hls]
  have hfetch : (s.fetch a src.base 1).1 = [s.dram.get x] := by
    rw [State.fetch_dram hset (by decide) (by omega) hcache hx, Mem.bytes_eq]
    rfl
  have helem : (s.converted a src dst Ix.origin).1 = (s.dram.get x).toNat := by
    have hbits := State.fetchBits_whole s a (n := 1) (Desc.bitAddr_origin hls) (by rw [hfetch]; rfl)
    simp only [State.converted, State.moved, hraw, hws, hwd, decide_true, Bool.and_self, if_true, State.elem]
    refine hbits.trans ?_
    rw [hfetch]
    simp [leNat]
  have hscales : s.scalePuts a src dst false = [] := by
    rw [State.scalePuts, hld]
    rfl
  unfold State.moveBox
  rw [if_neg Bool.false_ne_true]
  simp only [hscales, Bool.false_eq_true, if_false, Desc.all_of_one hsrc, List.map_singleton, hin, if_true, List.map_nil, List.append_nil,
    Desc.put_origin (n := 1) hld hwd, helem]
  have hput := State.spadPut_putFields (s := s) (wr := wr) (P := a.P) (n := 1) (s.dram.get x).toNat (s.converted a src dst Ix.origin).2 hc
    (by decide) (by omega)
  rw [show natLe 1 (s.dram.get x).toNat = [s.dram.get x] from by simp [natLe]] at hput
  exact hput

/-- Settles O24: the byte is read from the array, for no write is under way and the cache is passed by, and put where the destination lies. -/
theorem loadMovesAByte : Obligations.LoadMovesAByte := by
  intro s p q a c d h hlink src dst htype hw hls hld hsrc hdst hpad hpast hset hx hc
  have hexec : exec (.load p q) s = .next (s.loadRun d) := State.dispatch_of_runs h rfl (Instr.isOp_of_takes rfl) rfl
  obtain ⟨rfl, rfl⟩ := State.site?_place (State.site?_of_runs h rfl)
  have hidle : (boxMove src dst false).idle = false := by
    rw [Moved.idle, boxMove, Desc.not_empty_of_one hsrc, Desc.not_empty_of_one hdst]
    rfl
  obtain ⟨u, id, hu, hstay⟩ := State.transferRun_works (work := fun s a wr => s.moveBox a wr src dst false (u32 d.b 12) false) hidle hlink
  have hbox := State.moveBox_byte (s := u) (a := d.access (teEngine d.b) false) (wr := d.writer id (teEngine d.b) 1) (u32 d.b 12) hsrc htype
    hw hls hld (hu.unsettled.trans hset) rfl ((hu.place _ _ _).trans hx) ((hu.place _ _ _).trans hc)
  have ht := State.spadPut_then hbox hstay
  have hrun : s.loadRun d = s.transferRun d (boxMove src dst false) false (fun s a wr => s.moveBox a wr src dst false (u32 d.b 12) false) := by
    unfold State.loadRun
    rw [hpad, hpast]
    rfl
  refine ⟨_, hexec, ?_, fun x hne => ?_, fun x => ?_⟩
  · rw [hrun, ht.spad, if_pos (by simp), hu.dram]
    simp
  · rw [hrun, ht.spad, if_neg (by simp; omega), hu.spad]
  · rw [hrun, ht.dram, hu.dram]

/-! ### MMA of one element -/

theorem Desc.aligned_of_consistent {D : Desc} (h : ∀ e ∈ D.consistent, e.2 = true) (hl : D.layout = 0) :
    divides (max 1 (D.type.width / 8)) D.base = true := by
  have hal := h _ (List.mem_append_left _ (.tail _ (.head _)))
  rw [hl] at hal
  exact hal

/-- The operands of an INT8 product are INT8, its result INT32 and aligned. -/
theorem State.matrixVerdict_int8 {s : State} {d : Site} (h : s.matrixVerdict d false = .go) (hA : (sdAt d.b 16).type = .int8)
    (hl : (sdAt d.b 64).layout = 0) :
    (sdAt d.b 40).type = .int8 ∧ (sdAt d.b 64).type = .int32 ∧ (sdAt d.b 64).base % 4 = 0 := by
  unfold State.matrixVerdict at h
  obtain ⟨_, hcons, _⟩ := verdictOf_eq_go h
  have hall := firstBad_eq_none hcons
  have hpair := hall (20, pairOk (sdAt d.b 16).type (sdAt d.b 40).type) (by simp)
  have hresult := hall (68, resultOk false (sdAt d.b 16).type (sdAt d.b 64).type) (by simp)
  have halign := Desc.aligned_of_consistent (fun e he => hall e (by simp [he])) hl
  simp only [hA, pairOk, resultOk, smallFloat, Bool.false_and, Bool.false_or, Bool.and_eq_true, decide_eq_true_eq] at hpair hresult
  have hC : (sdAt d.b 64).type = .int32 := by simpa using hresult
  rw [hC] at halign
  refine ⟨hpair.1.symm, hC, ?_⟩
  have : ((sdAt d.b 64).base : Int) % 4 = 0 := of_decide_eq_true halign
  omega

section
variable {s : State} {a : Access} {A B C : Desc}

theorem State.rowsOf_one (hA : A.all.length = 1) (hl : A.layout = 0) : s.rowsOf a A = [{ codes := [s.elem a A Ix.origin], scales := [] }] := by
  obtain ⟨h0, h1, _, _⟩ := Desc.extents_of_one hA
  simp [State.rowsOf, State.lane, h0, h1, hl, Ix.origin]

theorem State.colsOf_one (hB : B.all.length = 1) (hl : B.layout = 0) :
    s.colsOf a B false = [{ codes := [s.elem a B Ix.origin], scales := [] }] := by
  obtain ⟨h0, h1, _, _⟩ := Desc.extents_of_one hB
  simp [State.colsOf, State.lane, h0, h1, hl, Ix.origin]

/-- A product of INT8 codes on an initial code, modulo 2^32 (R90). -/
def intSum (i x y : Nat) : Nat := ((signed 32 i + signed 8 x * signed 8 y) % 2 ^ 32).toNat

theorem State.product_one (hA : A.all.length = 1) (hB : B.all.length = 1) (hC : C.all.length = 1) (hlA : A.layout = 0) (hlB : B.layout = 0)
    (hty : C.type = .int32) (acc : Bool) :
    ∃ bad, s.product a A B C false acc
      = [Put.mk Ix.origin (intSum (if acc then (s.elem a C Ix.origin).1 else 0) (s.elem a A Ix.origin).1 (s.elem a B Ix.origin).1) bad] := by
  obtain ⟨h0, h1, _, _⟩ := Desc.extents_of_one hC
  unfold State.product
  rw [Desc.not_empty_of_one hA, Desc.not_empty_of_one hB, Desc.not_empty_of_one hC, State.rowsOf_one hA hlA, State.colsOf_one hB hlB, h0, h1, hty]
  cases acc <;> exact ⟨_, rfl⟩

end

theorem signed_eq_toInt {n : Nat} (hn : 0 < n) (x : BitVec n) : signed n x.toNat = x.toInt := by
  have hpow : 2 ^ n = 2 * 2 ^ (n - 1) := by rw [← pow_succ', Nat.sub_add_cancel hn]
  unfold signed
  rw [BitVec.toInt_eq_toNat_cond, hpow]
  split <;> split <;> omega

/-- The wrapped sum, as a word of 32 bits. -/
theorem intSum_eq (i : W32) (x y : Byte) : intSum i.toNat x.toNat y.toNat = (i + x.signExtend 32 * y.signExtend 32 : BitVec 32).toNat := by
  have hofInt : i + x.signExtend 32 * y.signExtend 32 = BitVec.ofInt 32 (i.toInt + x.toInt * y.toInt) := by
    rw [BitVec.ofInt_add, BitVec.ofInt_mul, BitVec.ofInt_toInt]
    rfl
  rw [hofInt, BitVec.toNat_ofInt, intSum, signed_eq_toInt (by decide), signed_eq_toInt (by decide), signed_eq_toInt (by decide)]
  rfl

/-- The work of an MMA that has some is on what its dispatch met; what follows its writes leaves every byte alone. -/
theorem State.matrixRun_works {s : State} {d : Site} (hA : (sdAt d.b 16).empty = false) (hB : (sdAt d.b 40).empty = false)
    (hC : (sdAt d.b 64).empty = false) :
    ∃ u id, s.sameOperands u ∧ State.bytesStay (u.putAll (d.writer id (s.mmEngine d) 1) d.P (sdAt d.b 64)
      (u.product (d.access (s.mmEngine d) false) (sdAt d.b 16) (sdAt d.b 40) (sdAt d.b 64) false (u8 d.b 9 = 1))) (s.matrixRun d false) := by
  unfold State.matrixRun
  extract_lets e A B C idle acc reads _ f
  have hidle : idle = false := by simp [idle, A, B, C, hA, hB, hC]
  split
  rename_i s1 id heq
  have h1 : s.keeps launchFields s1 := by
    rw [← show _ = s1 from congrArg Prod.fst heq]
    exact s.keeps_launched d f 0
  extract_lets u puts t t2
  have hu : s.keeps launchFields u := State.keeps_ite h1 (State.keeps_begins _ _ _ _ (by decide) h1)
  refine ⟨u, id, State.sameOperands_of_keeps hu, ?_⟩
  have ht2 : t.bytesStay t2 := State.bytesStay_ite (t.bytesStay_condition id .poison) t.bytesStay_self
  refine State.bytesStay_trans ht2 (State.bytesStay_trans (t2.bytesStay_readRanges id d.p d.P reads) ?_)
  exact ⟨rfl, rfl, rfl, rfl, rfl⟩

theorem State.elem_spad {s : State} {a : Access} {D : Desc} {n x : Nat} (hset : s.unsettled = []) (hl : D.layout = 0)
    (hw : D.type.width = 8 * n) (hn : 0 < n) (hpage : D.base % 4096 + n ≤ 4096) (hp : s.place a.p a.P D.base = some (.spad, x)) :
    (s.elem a D Ix.origin).1 = leNat (s.spad.bytes x n) := by
  have hf := State.fetch_spad hset hn hpage hp
  unfold State.elem
  rw [(Desc.width_of_plain hl).trans hw,
    State.fetchBits_whole s a (Desc.bitAddr_origin hl) (by rw [hf, Mem.length_bytes]), hf]

theorem leNat_bytes_one (m : Mem) (x : Nat) : leNat (m.bytes x 1) = (m.get x).toNat := by
  rw [m.bytes_eq]
  simp [leNat]

/-- The bytes that a write leaves are those written. -/
theorem State.spadPut.bytes {s t : State} {c : Nat} {b : Bytes} (h : s.spadPut t c b) : t.spad.bytes c b.length = b := by
  rw [Mem.bytes_eq]
  refine List.ext_getElem (by simp) (fun i hi hb => ?_)
  rw [List.getElem_map, List.getElem_range, h.spad, if_pos (by omega), Nat.add_sub_cancel_left, List.getElem?_eq_getElem hb]
  rfl

/-- Settles O25: the operands are read as the arrays hold them, and the one product is put where the result lies. -/
theorem mmaMultipliesOneElement : Obligations.MmaMultipliesOneElement := by
  intro s p q a b c d h A B C hA hB hC htype hlA hlB hlC hset ha hb hc
  obtain ⟨_, _, _, _, _, _, _, _, _, hgo, _⟩ := id h
  obtain ⟨htB, htC, halign⟩ := State.matrixVerdict_int8 hgo htype hlC
  obtain ⟨rfl, rfl⟩ := State.site?_place (State.site?_of_runs h rfl)
  obtain ⟨u, id, hu, hstay⟩ := State.matrixRun_works (s := s) (d := d) (Desc.not_empty_of_one hA) (Desc.not_empty_of_one hB)
    (Desc.not_empty_of_one hC)
  have huset := hu.unsettled.trans hset
  have hpage : C.base % 4096 + 4 ≤ 4096 := by
    change C.base % 4 = 0 at halign
    omega
  have hplace : ∀ {D : Desc} {x : Nat}, s.place d.p d.P D.base = some (.spad, x) → u.place d.p d.P D.base = some (.spad, x) :=
    fun hp => (hu.place _ _ _).trans hp
  have heA := State.elem_spad (a := d.access (s.mmEngine d) false) (n := 1) huset hlA (by rw [htype]; rfl) (by decide) (by omega) (hplace ha)
  have heB := State.elem_spad (a := d.access (s.mmEngine d) false) (n := 1) huset hlB (by rw [htB]; rfl) (by decide) (by omega) (hplace hb)
  have heC := State.elem_spad (a := d.access (s.mmEngine d) false) (n := 4) huset hlC (by rw [htC]; rfl) (by decide) hpage (hplace hc)
  obtain ⟨bad, hprod⟩ := State.product_one (s := u) (a := d.access (s.mmEngine d) false) hA hB hC hlA hlB htC (decide (u8 d.b 9 = 1))
  have hwidth : C.width = 8 * 4 := by rw [Desc.width_of_plain hlC, htC]; rfl
  rw [hprod, State.putAll, List.map_singleton, Desc.put_origin hlC hwidth, heA, heB, heC, leNat_bytes_one, leNat_bytes_one, hu.spad] at hstay
  generalize hi : (if u8 d.b 9 = 1 then BitVec.ofNat 32 (leNat (s.spad.bytes c 4)) else 0) = i
  have hinit : (if decide (u8 d.b 9 = 1) = true then leNat (s.spad.bytes c 4) else 0) = i.toNat := by
    have hlt := leNat_lt (s.spad.bytes c 4)
    rw [Mem.length_bytes] at hlt
    rw [← hi]
    by_cases hacc : u8 d.b 9 = 1
    · rw [if_pos hacc, if_pos (decide_eq_true hacc), BitVec.toNat_ofNat]
      exact (Nat.mod_eq_of_lt hlt).symm
    · rw [if_neg hacc, if_neg (by simp [hacc])]
      rfl
  rw [hinit, intSum_eq] at hstay
  have hput := State.spadPut_then (State.spadPut_putFields (wr := d.writer id (s.mmEngine d) 1) _ bad (hplace hc) (by decide) hpage) hstay
  have hbytes := hput.bytes
  rw [length_natLe] at hbytes
  exact ⟨_, exec_mma_runs h, hbytes⟩

end Sys2Proof.Machine
end

section
/-! SUPPORT. RecordRows.lean: every record row is a dispatch; how a dispatch goes on, case by case (O7); what no record changes (O18, O19). -/

namespace Sys2Proof.Machine

/-- Settles O1, by the definition of a step. -/
theorem stepTakesFront : Obligations.StepTakesFront := by
  refine ⟨fun c rest s h => ?_, fun s h => ?_⟩ <;> simp only [step, h]

/-! ### A dispatch, case by case (R118) -/

section
variable {s : State} {p q : Nat} {d : Site} {mine : Bytes → Bool} {skip : Site → Nat} {check : Site → Verdict}
  {run : State → Site → State}

theorem State.dispatch_nothing (h : s.site? p q = none) : s.dispatch p q mine skip check run = .next s := by
  unfold State.dispatch
  rw [h]

/-- A record of the command's own goes through header, predicate and checks. -/
theorem State.dispatch_mine (hs : s.site? p q = some d) (hop : opRow? (recOp d.b) ≠ none) (hm : mine d.b = true) :
    s.dispatch p q mine skip check run =
      (match headerBad d.b with
      | some o => .next (s.endAtDispatch d .illegal o (skip d))
      | none =>
        if !d.Q.predicate d.b then .next (s.endAtDispatch d .skippedPred 0xFF (skip d))
        else
          match check d with
          | .fail st o => .next (s.endAtDispatch d st o (skip d))
          | .hold => .next s
          | .go =>
            if s.crossBroken d then .next (s.endAtDispatch d .timeoutCdc 0xFF (skip d))
            else if s.tableBad d then .next (((run s d).controlFails s.nextId).tick)
            else .next (run s d)) := by
  have hrow : ¬(opRow? (recOp d.b)).isNone = true := by rwa [Option.isNone_iff_eq_none]
  unfold State.dispatch
  rw [hs]
  dsimp only
  rw [if_neg hrow, hm]
  rfl

theorem State.dispatch_answers : ∃ t, s.dispatch p q mine skip check run = .next t := by
  unfold State.dispatch
  (repeat' split) <;> exact ⟨_, rfl⟩

end

/-! ### Every record row -/

/-- Every opcode of a record row has its row in R139. -/
theorem Instr.opRow?_of_record {i : Instr} {p q op : Nat} (h : i.record? = some (p, q, op)) : opRow? op ≠ none := by
  cases i
  all_goals cases h
  all_goals decide

/-- The command is a dispatch of its row: its own records, the records that go with one that does not run, its checks. -/
def State.dispatches (s : State) (i : Instr) (p q : Nat) : Prop :=
  ∃ mine run, (∀ b, mine b = i.takes b) ∧ exec i s
    = (recordBegun i s).dispatch p q mine (recordSkips i) (fun d => (recordBegun i s).checks d i) run

theorem State.dispatches_loop {s : State} {p q : Nat}
    (hw : ∀ d, s.site? p q = some d → (Instr.loop p q).takes d.b = true → loopWaits d = false) : s.dispatches (.loop p q) p q := by
  unfold State.dispatches
  dsimp only [exec, execLoop]
  cases hs : s.site? p q with
  | none => exact ⟨isOp 0x0005, fun s _ => s, fun _ => (Bool.and_true _).symm, (State.dispatch_nothing hs).symm⟩
  | some d =>
    refine ⟨isOp 0x0005, _, fun _ => (Bool.and_true _).symm, if_neg fun h => ?_⟩
    rw [Bool.and_eq_true] at h
    rw [hw d hs ((Bool.and_true _).trans h.1)] at h
    cases h.2

/-- Every record row is a dispatch, but where the body of a LOOP is not fetched whole. -/
theorem State.dispatches_record {i : Instr} {s : State} {p q op : Nat} (h : i.record? = some (p, q, op))
    (hw : ∀ d, s.site? p q = some d → i.takes d.b = true → recordWaits i d = false) : s.dispatches i p q := by
  cases i with
  | loop p q =>
    cases h
    exact State.dispatches_loop hw
  | vop | readCtr =>
    cases h
    exact ⟨_, _, fun _ => rfl, rfl⟩
  | nop | wait | signal | cmp | fence | step | mma | mmaq | csend | crecv | peercopy =>
    cases h
    unfold State.dispatches
    dsimp only [exec, execNop, execWait, execSignal, execCmp, execFence, execStep, execMma, execMmaq, execCsend, execCrecv, execPeercopy]
    exact ⟨_, _, fun _ => (Bool.and_true _).symm, rfl⟩
  | load | store | copy | gather | scatter | hostout | vred | vquant | vdeq | vtopk | attn | attnMerge | nbAttend | nbPool | nbScan | nbFill
    | nbAxpy | nbQuant | cag | crs | car | stOpen | stAppend | stCommit | stRollback | stRelease | prefixLookup | prefixPublish =>
    cases h
    exact ⟨_, _, fun _ => (Bool.and_true _).symm, rfl⟩
  | _ => cases h

theorem site?_recordBegun (i : Instr) (s : State) (p q : Nat) : (recordBegun i s).site? p q = s.site? p q := by
  unfold recordBegun
  split
  · exact State.site?_meetSpans s _ _ _ p q
  · exact State.site?_meetSpans s _ _ _ p q
  · rfl

theorem crossBroken_recordBegun (i : Instr) (s : State) (d : Site) : (recordBegun i s).crossBroken d = s.crossBroken d := by
  unfold recordBegun
  split
  · exact State.crossBroken_meetSpans s _ _ _ d
  · exact State.crossBroken_meetSpans s _ _ _ d
  · rfl

/-- Without a record to dispatch no span list is read. -/
theorem recordBegun_of_nothing {i : Instr} {s : State} {p q op : Nat} (hi : i.record? = some (p, q, op)) (h : s.site? p q = none) :
    recordBegun i s = s := by
  cases i with
  | nbAxpy p q | nbQuant p q =>
    cases hi
    dsimp only [recordBegun, State.meetSpans]
    rw [h]
  | _ => rfl

section
variable {i : Instr} {s : State} {p q op : Nat} {d : Site}

theorem exec_record_nothing (hi : i.record? = some (p, q, op)) (h : s.site? p q = none) : exec i s = .next s := by
  have hw : ∀ d, s.site? p q = some d → i.takes d.b = true → recordWaits i d = false := fun d hd => by
    rw [h] at hd
    cases hd
  obtain ⟨mine, run, -, hexec⟩ := State.dispatches_record hi hw
  rw [hexec, State.dispatch_nothing ((site?_recordBegun i s p q).trans h), recordBegun_of_nothing hi h]

/-- A record that a row takes goes through header, predicate, checks and crossing. -/
theorem exec_record_takes (hi : i.record? = some (p, q, op)) (hs : s.site? p q = some d) (ht : i.takes d.b = true)
    (hw : recordWaits i d = false) : ∃ run : State → Site → State, exec i s =
      (match headerBad d.b with
      | some o => .next ((recordBegun i s).endAtDispatch d .illegal o (recordSkips i d))
      | none =>
        if !d.Q.predicate d.b then .next ((recordBegun i s).endAtDispatch d .skippedPred 0xFF (recordSkips i d))
        else
          match (recordBegun i s).checks d i with
          | .fail st o => .next ((recordBegun i s).endAtDispatch d st o (recordSkips i d))
          | .hold => .next (recordBegun i s)
          | .go =>
            if (recordBegun i s).crossBroken d then .next ((recordBegun i s).endAtDispatch d .timeoutCdc 0xFF (recordSkips i d))
            else if (recordBegun i s).tableBad d then
              .next (((run (recordBegun i s) d).controlFails (recordBegun i s).nextId).tick)
            else .next (run (recordBegun i s) d)) := by
  have hw' : ∀ d', s.site? p q = some d' → i.takes d'.b = true → recordWaits i d' = false := fun d' hd' _ => by
    cases hs.symm.trans hd'
    exact hw
  obtain ⟨mine, run, hmine, hexec⟩ := State.dispatches_record hi hw'
  have hop : opRow? (recOp d.b) ≠ none := by
    rw [Instr.recOp_of_takes hi ht]
    exact Instr.opRow?_of_record hi
  exact ⟨run, hexec.trans (State.dispatch_mine ((site?_recordBegun i s p q).trans hs) hop ((hmine d.b).trans ht))⟩

/-- A record whose predicate is false ends with SKIPPED_PRED (R126). -/
theorem exec_record_skipped (hi : i.record? = some (p, q, op)) (hs : s.site? p q = some d) (ht : i.takes d.b = true)
    (hw : recordWaits i d = false) (hh : headerBad d.b = none) (hp : d.Q.predicate d.b = false) :
    exec i s = .next ((recordBegun i s).endAtDispatch d .skippedPred 0xFF (recordSkips i d)) := by
  obtain ⟨run, hexec⟩ := exec_record_takes hi hs ht hw
  rw [hexec, hh, hp]
  rfl

/-- A record of a legal header whose predicate holds fails, waits or goes by its own checks (R118). -/
theorem exec_record_fails (hi : i.record? = some (p, q, op)) (hs : s.site? p q = some d) (ht : i.takes d.b = true)
    (hw : recordWaits i d = false) (hh : headerBad d.b = none) (hp : d.Q.predicate d.b = true) {st : Status} {o : Nat}
    (hc : (recordBegun i s).checks d i = .fail st o) :
    exec i s = .next ((recordBegun i s).endAtDispatch d st o (recordSkips i d)) := by
  obtain ⟨run, hexec⟩ := exec_record_takes hi hs ht hw
  rw [hexec, hh, hp, hc]
  rfl

end

/-- Settles O7: each row is a dispatch, and the cases of the statement are the branches of one. -/
theorem recordsFollowTheirChecks : Obligations.RecordsFollowTheirChecks := by
  intro i s p q op hi
  refine ⟨exec_record_nothing hi, fun d hs ht hw => ⟨fun o hh => ?_, exec_record_skipped hi hs ht hw,
    fun hh hp => ⟨fun st o => exec_record_fails hi hs ht hw hh hp, fun hc => ?_, fun hc hx => ?_⟩⟩⟩
  all_goals obtain ⟨run, hexec⟩ := exec_record_takes hi hs ht hw
  · rw [hexec, hh]
  · rw [hexec, hh, hp, hc]
    rfl
  · rw [hexec, hh, hp, hc, crossBroken_recordBegun, hx]
    rfl

/-! ### A launch (R115, R121) -/

/-- Settles O19, by what a launch leaves of its queue and of the others. -/
theorem launchMovesTheQueue : Obligations.LaunchMovesTheQueue := by
  intro s d f k hs t
  have hd := State.meetsSite_of_site? hs
  obtain ⟨-, hnext, hflight⟩ := s.launch_spec d f k
  have hmoves : s.movesQueue t d.p d.q d.Q (d.Q.advance k) := s.moves_launch d f k d.Q
  have hk := s.keeps_launched d f k
  refine ⟨hnext, hflight, State.queue?_of_moves hmoves hd.queue?, fun p q hne => ?_, fun n hn => ?_, hk.1 .dram (by decide),
    hk.1 .spad (by decide), hk.1 .hostMem (by decide), hk.1 .streams (by decide), hk.1 .funcs (by decide)⟩
  · by_cases hp : p = d.p
    case pos =>
      subst hp
      exact State.queue?_of_moves_other hmoves hd.queue? (fun hq => hne (by rw [hq]))
    case neg =>
      have hpart : t.part? p = s.part? p := by
        rw [State.part?_congr (s.parts_launch d f k), State.part?_updPart, if_neg hp, State.updQueue, State.part?_updPart, if_neg hp]
      unfold State.queue?
      rw [hpart]
  · rw [s.flight_launch d f k, tget_tput, if_neg hn]

end Sys2Proof.Machine
end

section
/-! SUPPORT. RecordsAndDevice.lean: what no record of a queue changes, whatever it meets (O18). -/

namespace Sys2Proof.Machine

/-- What a record may change: its queue's partition and all that its work and its end reach, and nothing of the device as a whole. -/
def recordFields : List Field :=
  [.flash, .timer, .cycles, .dram, .spad, .hostMem, .caches, .unsettled, .parts, .streams, .prefixes, .flight, .nextId, .sigs, .near,
   .funcs, .handed, .log, .link, .trust, .peers, .rowHits, .perf, .out, .free, .ends]

@[simp] theorem mem_recordFields {f : Field} : f ∈ recordFields ↔ f ∉ [Field.ident, .fuse, .boot, .cross, .keyDraws, .power, .thermal,
    .tests, .sched, .pending] := by
  cases f <;> decide

theorem State.sameDevice_of_keeps {s t : State} (h : s.keeps recordFields t) : s.sameDevice t :=
  ⟨h.1 .ident (by decide), h.1 .fuse (by decide), h.1 .boot (by decide), h.1 .cross (by decide), h.1 .keyDraws (by decide),
    h.1 .power (by decide), h.1 .thermal (by decide), h.1 .tests (by decide), h.1 .sched (by decide), h.1 .pending (by decide)⟩

theorem State.staysRecord_dispatch {s : State} {p q : Nat} {mine : Bytes → Bool} {skip : Site → Nat} {check : Site → Verdict}
    {run : State → Site → State} (hrun : ∀ d : Site, s.keeps recordFields (run s d)) :
    s.mayChange recordFields (s.dispatch p q mine skip check run) :=
  fun _ e => State.keeps_dispatch (List.Subset.refl _) (fun d _ => hrun d) e

/-! ### Stream commands -/

/-- The work of a stream command on one stream keeps to what a record may change. -/
def staysRecord (work : State → Site → Writer → StreamCmd → StreamItem → Worked) : Prop :=
  ∀ (u : State) (d : Site) (w : Writer) (t : StreamCmd) (x : StreamItem), u.keeps recordFields (work u d w t x).1

theorem State.staysRecord_onLive {s : State} (d : Site) (st : Nat) {f : Partition → Pool → Stream → Worked}
    (hf : ∀ P o e, s.keeps recordFields (f P o e).1) : s.keeps recordFields (s.onLive d st f).1 := by
  unfold State.onLive
  (repeat' split) <;> simp [hf]

theorem staysRecord_stOpen : staysRecord State.stOpen := fun u d w t x => by
  unfold State.stOpen
  (repeat' split) <;> simp (maxDischargeDepth := 40)

theorem staysRecord_stCommit : staysRecord State.stCommit := fun u d w t x =>
  State.staysRecord_onLive d x.st (fun P _ e => by split <;> simp)

theorem staysRecord_stRollback : staysRecord State.stRollback := fun u d w t x => by
  refine State.staysRecord_onLive d x.st (fun P o e => ?_)
  dsimp only
  (repeat' split) <;> simp (maxDischargeDepth := 40)

theorem staysRecord_stRelease : staysRecord State.stRelease := fun u d w t x => by
  refine State.staysRecord_onLive d x.st (fun P o e => ?_)
  (repeat' split) <;> simp (maxDischargeDepth := 40)

theorem staysRecord_stAppend : staysRecord State.stAppend := fun u d w t x => by
  refine State.staysRecord_onLive d x.st (fun P o e => ?_)
  dsimp only
  (repeat' split) <;> simp (maxDischargeDepth := 40)

theorem staysRecord_prefixPublish : staysRecord State.prefixPublish := fun u d w t x => by
  refine State.staysRecord_onLive d x.st (fun P o e => ?_)
  refine State.keeps_ite_fst (by simp) (State.keeps_ite_fst (by simp) (State.keeps_ite_fst (by simp) (State.keeps_ite_fst (by simp) ?_)))
  refine State.keeps_foldl Prod.fst _ _ (fun r i => ?_) (by simp)
  split <;> simp

theorem staysRecord_prefixLookup : staysRecord State.prefixLookup := fun u d w t x => by
  refine State.staysRecord_onLive d x.st (fun P o e => ?_)
  refine State.keeps_ite_fst (by simp) (State.keeps_ite_fst (by simp) (State.keeps_ite_fst (by simp) ?_))
  refine State.keeps_setStream _ _ (by simp) (State.keeps_foldl Prod.fst _ _ (fun r j => ?_) (by simp))
  split
  · simp
  · have step := State.keeps_lookupRange (F := recordFields) w x.st j t.data r.2.1 (by simp) (State.keeps_self _ r.1)
    split <;> simp_all

theorem State.staysRecord_stream {s : State} {p q : Nat} {mine : Bytes → Bool} {skip : Site → Nat} {check : Site → Verdict}
    {work : State → Site → Writer → StreamCmd → StreamItem → Worked} (hw : staysRecord work) :
    s.mayChange recordFields (s.dispatch p q mine skip check (State.streamRun work)) :=
  State.staysRecord_dispatch (fun d => State.keeps_streamRun work d (by simp) (fun u => hw u d) (State.keeps_self _ s))

/-! ### Every record row -/

theorem State.staysRecord_execLoop (p q : Nat) (s : State) : s.mayChange recordFields (execLoop p q s) := by
  unfold execLoop
  split
  · simp
  · split
    · simp
    · refine State.staysRecord_dispatch (fun d => ?_)
      dsimp only
      split <;> simp

/-- Every record row keeps to what a record may change. -/
theorem exec_record_stays (i : Instr) (s : State) (h : i.record? ≠ none) : s.mayChange recordFields (exec i s) := by
  cases i with
  | loop p q => exact State.staysRecord_execLoop p q s
  | stOpen => exact State.staysRecord_stream staysRecord_stOpen
  | stAppend => exact State.staysRecord_stream staysRecord_stAppend
  | stCommit => exact State.staysRecord_stream staysRecord_stCommit
  | stRollback => exact State.staysRecord_stream staysRecord_stRollback
  | stRelease => exact State.staysRecord_stream staysRecord_stRelease
  | prefixLookup => exact State.staysRecord_stream staysRecord_prefixLookup
  | prefixPublish => exact State.staysRecord_stream staysRecord_prefixPublish
  | nbAxpy p q | nbQuant p q =>
    dsimp only [exec]
    exact State.mayChange_trans (State.keeps_meetSpans p q _ (by simp) (State.keeps_self _ s))
      (State.staysRecord_dispatch (fun d => by simp))
  | wait =>
    dsimp only [exec]
    exact State.staysRecord_dispatch (fun d => by simp (maxDischargeDepth := 40))
  | signal | csend | crecv | peercopy =>
    dsimp only [exec]
    refine State.staysRecord_dispatch (fun d => ?_)
    dsimp only
    (repeat' split) <;> simp (maxDischargeDepth := 40)
  | nop | cmp | fence | step | load | store | copy | gather | scatter | hostout | mma | mmaq | vop | readCtr | vred | vquant | vdeq | vtopk
    | attn | attnMerge | nbAttend | nbPool | nbScan | nbFill | cag | crs | car =>
    dsimp only [exec]
    exact State.staysRecord_dispatch (fun d => by simp)
  | _ => exact absurd rfl h

/-- Settles O18: a record keeps to the fields it may change, and none of the device as a whole is among them. -/
theorem recordsLeaveTheDevice : Obligations.RecordsLeaveTheDevice := fun i s t _ _ _ hi ht =>
  State.sameDevice_of_keeps (exec_record_stays i s (by rw [hi]; exact Option.some_ne_none _) t ht)

end Sys2Proof.Machine
end

section
/-! SUPPORT. EveryCommand.lean: every command answers a next state (O6). -/

namespace Sys2Proof.Machine

theorem State.serve_answers (s : State) (fn : Nat) (row : MsgRow) (run : State → Msg → State) : ∃ t, s.serve fn row run = .next t := by
  unfold State.serve
  dsimp only
  (repeat' split) <;> exact ⟨_, rfl⟩

/-- A LOOP whose body is not fetched whole waits; every other record is a dispatch (R118). -/
theorem exec_record_answers {i : Instr} (s : State) (h : i.record? ≠ none) : ∃ t, exec i s = .next t := by
  obtain ⟨⟨p, q, op⟩, hi⟩ := Option.ne_none_iff_exists'.mp h
  by_cases hw : ∀ d, s.site? p q = some d → i.takes d.b = true → recordWaits i d = false
  case pos =>
    obtain ⟨mine, run, -, hexec⟩ := State.dispatches_record hi hw
    rw [hexec]
    exact State.dispatch_answers
  case neg =>
    cases i with
    | loop p q =>
      dsimp only [exec, execLoop]
      split
      · exact ⟨_, rfl⟩
      split
      · exact ⟨_, rfl⟩
      · exact State.dispatch_answers
    | _ => exact absurd (fun _ _ _ => rfl) hw

theorem exec_message_answers {i : Instr} (s : State) (h : messageOf i ≠ none) : ∃ t, exec i s = .next t := by
  obtain ⟨⟨fn, row⟩, hm⟩ := Option.ne_none_iff_exists'.mp h
  obtain ⟨served, run, -, hexec⟩ := exec_serves hm
  rw [hexec s]
  exact s.serve_answers fn served run

theorem exec_other_answers (i : Instr) (s : State) (h : i.record? = none ∧ messageOf i = none) : ∃ t, exec i s = .next t := by
  cases i with
  | sleeveWrite | recordFetch | commandComplete | cqConsumerReread | coalesceTimer | stallTimer | waitSatisfied | signalUpdateApply
    | queueDestroyTimeout =>
    dsimp only [exec, execSleeveWrite, execRecordFetch, execCommandComplete, execCqConsumerReread, execCoalesceTimer, execStallTimer,
      execWaitSatisfied, execSignalUpdateApply, execQueueDestroyTimeout]
    (repeat' split) <;> exact ⟨_, rfl⟩
  | expansionResume | cuffEntry | partialEgress | correctedWriteBack | bankRefresh | patrolScrub | pendingRepairApply | streamSweep
    | blockReturn | zeroisation =>
    dsimp only [exec, execExpansionResume, execCuffEntry, execPartialEgress, execCorrectedWriteBack, execBankRefresh, execPatrolScrub,
      execPendingRepairApply, execStreamSweep, execBlockReturn, execZeroisation]
    (repeat' split) <;> exact ⟨_, rfl⟩
  | slotBoundary | guardInterval | majorCycleStart | shareGuardExpiry | governorEpoch | governorBudgetUpdate | pwrbrkAssert
    | pwrbrkRelease | idleEntry | watchEntry | watchWakeSample | watchExitComplete | pfD3hot | pfD0 | sensorSample =>
    dsimp only [exec, execSlotBoundary, execGuardInterval, execMajorCycleStart, execShareGuardExpiry, execGovernorEpoch,
      execGovernorBudgetUpdate, execPwrbrkAssert, execPwrbrkRelease, execIdleEntry, execWatchEntry, execWatchWakeSample,
      execWatchExitComplete, execPfD3hot, execPfD0, execSensorSample]
    (repeat' split) <;> exact ⟨_, rfl⟩
  | heartbeat | cdcWatchdogFire | coreReset | clusterReset | perstAssert | perstRelease | topologyRecheck | pfFlr | vfFlr
    | inputSwitchClose | inputSwitchOpen | memTestEnd =>
    dsimp only [exec, execHeartbeat, execCdcWatchdogFire, execCoreReset, execClusterReset, execPerstAssert, execPerstRelease,
      execTopologyRecheck, execPfFlr, execVfFlr, execInputSwitchClose, execInputSwitchOpen, execMemTestEnd]
    (repeat' split) <;> exact ⟨_, rfl⟩
  | hostLinkLoss | hostLinkRestored | hostLinkHoldExpiry | hostLinkDown | hostLinkRecovery | hostReadTimeout | hostBar4Read | hostBar4Write
    | cxlMemRead | cxlMemWrite | hdmDecoderCommit | ctrValueRead | sampleWrite | registerWrite =>
    dsimp only [exec, execHostLinkLoss, execHostLinkRestored, execHostLinkHoldExpiry, execHostLinkDown, execHostLinkRecovery,
      execHostReadTimeout, execHostBar4Read, execHostBar4Write, execCxlMemRead, execCxlMemWrite, execHdmDecoderCommit, execCtrValueRead,
      execSampleWrite, execRegisterWrite]
    (repeat' split) <;> exact ⟨_, rfl⟩
  | ideIntegrityFailure | lockInterface | startInterface | stopInterface | getDeviceInterfaceReport | getMeasurements | mctpSpdmRequest
    | debugAttach =>
    dsimp only [exec, execIdeIntegrityFailure, execLockInterface, execStartInterface, execStopInterface, execGetDeviceInterfaceReport,
      execGetMeasurements, execMctpSpdmRequest, execDebugAttach]
    (repeat' split) <;> exact ⟨_, rfl⟩
  | peerDataFrame | peerAckFrame | peerNakFrame | keepaliveFrame | identityFrame | lossNotice | abortNotice | groupResetNotice | ackTimer
    | retransmitTimeout | keepaliveTimer | identityTimer | peerSilenceTimeout | peerLinkDown | peerLinkUp | groupActivation
    | receiverNotice =>
    dsimp only [exec, execPeerDataFrame, execPeerAckFrame, execPeerNakFrame, execKeepaliveFrame, execIdentityFrame, execLossNotice,
      execAbortNotice, execGroupResetNotice, execAckTimer, execRetransmitTimeout, execKeepaliveTimer, execIdentityTimer,
      execPeerSilenceTimeout, execPeerLinkDown, execPeerLinkUp, execGroupActivation, execReceiverNotice]
    (repeat' split) <;> exact ⟨_, rfl⟩
  | _ => simp [Instr.record?, messageOf] at h

theorem exec_answers (i : Instr) (s : State) : ∃ t, exec i s = .next t := by
  by_cases hr : i.record? = none
  · by_cases hm : messageOf i = none
    · exact exec_other_answers i s ⟨hr, hm⟩
    · exact exec_message_answers s hm
  · exact exec_record_answers s hr

/-- What no transport carries never reaches the device (log 4). -/
theorem exec_illFormed {i : Instr} (s : State) {w : String} (h : i.illFormed = some w) : exec i s = .next s := by
  cases i with
  | sleeveWrite | hostBar4Read | hostBar4Write | cxlMemRead | cxlMemWrite | registerWrite | peerDataFrame | peerAckFrame | peerNakFrame
    | identityFrame =>
    dsimp only [exec, execSleeveWrite, execHostBar4Read, execHostBar4Write, execCxlMemRead, execCxlMemWrite, execRegisterWrite,
      execPeerDataFrame, execPeerAckFrame, execPeerNakFrame, execIdentityFrame]
    rw [h]
  | _ => cases h

/-- Settles O6: records are dispatches, messages are served, and the branches of every other command end in a next state. -/
theorem everyCommandAnswers : Obligations.EveryCommandAnswers := ⟨exec_answers, fun _ s _ h => exec_illFormed s h⟩

end Sys2Proof.Machine
end

section
/-! SUPPORT. HostBytes.lean: bytes of host memory after a write, and how the bytes of a slot seal it (O30). -/

namespace Sys2Proof.Machine

/-! ### Bytes by number -/

theorem tget_hostList {key k : Nat} {b : Bytes} (h : key ≤ k ∧ k < key + b.length) : tget (hostList key b) k = b[k - key]? := by
  induction b generalizing key with
  | nil =>
    rw [List.length_nil] at h
    omega
  | cons x b ih =>
    rw [List.length_cons] at h
    rw [hostList, tget]
    by_cases hk : k = key
    case pos => rw [if_pos hk, hk, Nat.sub_self, List.getElem?_cons_zero]
    case neg =>
      obtain ⟨i, rfl⟩ : ∃ i, k = key + 1 + i := ⟨k - (key + 1), by omega⟩
      rw [if_neg hk, ih (by omega), show key + 1 + i - key = i + 1 by omega, List.getElem?_cons_succ, Nat.add_sub_cancel_left]

/-- A write of host memory puts its bytes where it goes, and leaves every other byte. -/
theorem hostFind_hostWriteAll (m : List Host.Cell) (key : Nat) (b : Bytes) (k : Nat) :
    hostFind (hostWriteAll m key b) k = if key ≤ k ∧ k < key + b.length then b[k - key]? else hostFind m k := by
  split
  case isTrue h =>
    rw [hostFind_eq_tget, hostWriteAll, tget_append, tget_append, tget_hostList h, tget_filter_keys m (fun i => decide (i < key)),
      if_neg (by simpa using h.1), List.getElem?_eq_getElem (by omega)]
    rfl
  case isFalse h => exact hostFind_hostWriteAll_outside m h

theorem State.hostBytes_eq (s : State) (key n : Nat) : s.hostBytes key n = (List.range n).map (fun i => s.hostByte (key + i)) := by
  unfold State.hostBytes
  refine List.map_congr_left fun i hi => ?_
  have hin : i < n := List.mem_range.mp hi
  rw [State.hostByte, hostFind_eq_tget, hostFind_eq_tget, cslice,
    tget_filter_keys s.hostMem (fun k => decide (key ≤ k) && decide (k < key + n)), if_pos (by simp [hin])]

/-- What has just been written is what is read. -/
theorem State.hostBytes_of_write {s : State} {m : List Host.Cell} {key : Nat} {b : Bytes} (h : s.hostMem = hostWriteAll m key b) :
    s.hostBytes key b.length = b := by
  rw [s.hostBytes_eq]
  refine List.ext_getElem (by simp) fun i hi hb => ?_
  rw [List.getElem_map, List.getElem_range, State.hostByte, h, hostFind_hostWriteAll, if_pos (by omega), Nat.add_sub_cancel_left,
    List.getElem?_eq_getElem hb]
  rfl

/-! ### Slots (R109, R110) -/

theorem hostFind_isSome_iff {l : List Host.Cell} {k : Nat} : (hostFind l k).isSome = true ↔ k ∈ l.map Prod.fst := by
  induction l with
  | nil => simp [hostFind]
  | cons e l ih =>
    obtain ⟨i, v⟩ := e
    rw [hostFind, List.map_cons, List.mem_cons]
    split
    case isTrue h => simp [h]
    case isFalse h => rw [ih]; simp [h]

/-- Rising numbers below n are n of them exactly where each number is among them. -/
theorem length_eq_iff_all_mem {l : List Nat} {n : Nat} (hnodup : l.Nodup) (hlt : ∀ k ∈ l, k < n) : l.length = n ↔ ∀ k < n, k ∈ l := by
  have hsub : l.toFinset ⊆ Finset.range n := fun k hk => Finset.mem_range.mpr (hlt k (List.mem_toFinset.mp hk))
  rw [← List.toFinset_card_of_nodup hnodup]
  constructor
  · intro hcard k hk
    have heq := Finset.eq_of_subset_of_card_le hsub (by rw [hcard, Finset.card_range])
    rw [← List.mem_toFinset, heq]
    exact Finset.mem_range.mpr hk
  · intro hall
    have heq : l.toFinset = Finset.range n :=
      Finset.Subset.antisymm hsub fun k hk => List.mem_toFinset.mpr (hall k (Finset.mem_range.mp hk))
    rw [heq, Finset.card_range]

theorem Queue.sealed_iff {Q : Queue} {pos : Nat} (hrise : (Q.arrived pos).Pairwise (fun a b => a.1 < b.1))
    (hlt : ∀ c ∈ Q.arrived pos, c.1 < 64) : Q.sealed pos = true ↔ ∀ k, k < 64 → (hostFind (Q.arrived pos) k).isSome := by
  have hnodup : ((Q.arrived pos).map Prod.fst).Nodup := List.pairwise_map.mpr (hrise.imp Nat.ne_of_lt)
  have hbelow : ∀ k ∈ (Q.arrived pos).map Prod.fst, k < 64 := by
    intro k hk
    obtain ⟨c, hc, rfl⟩ := List.mem_map.mp hk
    exact hlt c hc
  have hall := length_eq_iff_all_mem hnodup hbelow
  rw [List.length_map] at hall
  unfold Queue.sealed
  rw [decide_eq_true_eq, hall]
  exact forall₂_congr fun k _ => hostFind_isSome_iff.symm

/-- Settles O30: a write of bytes is found byte by byte, a full slot holds each of its 64, and a record is what `Queue.recordAt` says. -/
theorem slotsSealWhenWhole : Obligations.SlotsSealWhenWhole := by
  refine ⟨hostFind_hostWriteAll, fun Q pos => Queue.sealed_iff, fun Q pos => ⟨fun h => ?_, fun h hl => ?_, fun h hl hn => ?_, fun h hl hn => ?_,
    fun hle hlt hmod => ?_⟩⟩
  · simp [Queue.recordAt, h]
  · simp [Queue.recordAt, h, hl]
  · simp [Queue.recordAt, h, hl, hn]
  · simp [Queue.recordAt, h, hl, hn]
  · unfold Queue.position windowSlots
    omega

end Sys2Proof.Machine
end

section
/-! SUPPORT. FalsePredicates.lean: the completion record of a record that ends at its dispatch; records whose predicate is false (O10). -/

namespace Sys2Proof.Machine

/-! ### The completion record of a record that ends at its dispatch (R133) -/

/-- The entry as it goes to the ring: its phase is that of the ring's pass (R133). -/
def Queue.ringEntry (Q : Queue) (e : Bytes) : Bytes :=
  e.take 3 ++ natLe 1 (u8 e 3 / 2 * 2 + b2n (Q.written / Q.ringSize % 2 = 0)) ++ e.drop 4

/-- Where the next entry of a ring lies in host memory. -/
def Queue.ringKey (Q : Queue) (p : Nat) : Nat := hostKey (p + 1) (Q.cqBase + 16 * (Q.written % Q.ringSize))

section
variable {s : State} {p q : Nat} {Q : Queue}

theorem State.hostMem_raiseVector (s : State) (fn v : Nat) : (s.raiseVector fn v).hostMem = s.hostMem :=
  (State.keeps_raiseVector fn v (by decide) (State.keeps_self [.funcs, .out] s)).1 .hostMem (by decide)

theorem State.hostMem_hostWrite (hl : s.linkGone = false) (p q key : Nat) (b : Bytes) :
    (s.hostWrite p q key b).hostMem = hostWriteAll s.hostMem key b := by
  unfold State.hostWrite
  rw [hl]
  rfl

theorem State.hostMem_ringWrite (hl : s.linkGone = false) (p q : Nat) (Q : Queue) (e : Bytes) :
    (s.ringWrite p q Q e).hostMem = hostWriteAll s.hostMem (Q.ringKey p) (Q.ringEntry e) := by
  unfold State.ringWrite
  extract_lets i phase e' hosted counted n fire put
  have hput : put.hostMem = hostWriteAll s.hostMem (Q.ringKey p) (Q.ringEntry e) := State.hostMem_hostWrite hl p q _ _
  split
  · exact (put.hostMem_raiseVector _ _).trans hput
  · exact hput

theorem State.hostMem_ringPut (h : s.queue? p q = some Q) (hf : Q.full = false) (hh : Q.held = []) (hl : s.linkGone = false) (e : Bytes) :
    (s.ringPut p q e).hostMem = hostWriteAll s.hostMem (Q.ringKey p) (Q.ringEntry e) := by
  unfold State.ringPut
  rw [h]
  dsimp only
  rw [hf, hh]
  exact State.hostMem_ringWrite hl p q Q e

end

theorem u8_natLe_at {a b : Bytes} {k v : Nat} (h : a.length = k) (hv : v < 256) : u8 (a ++ natLe 1 v ++ b) k = v := by
  rw [List.append_assoc, u8, ← Nat.add_zero k, fld_append_right h, ← u8, u8_natLe_append, Nat.mod_eq_of_lt hv]

theorem State.linkGone_congr {s t : State} (h : t.link = s.link) : t.linkGone = s.linkGone := by
  unfold State.linkGone
  rw [h]

theorem State.link_meetSpans (s : State) (p q op : Nat) : (s.meetSpans p q op).link = s.link :=
  (State.keeps_meetSpans p q op (by decide)
    (State.keeps_self [.flash, .timer, .dram, .spad, .near, .funcs, .log, .rowHits, .perf, .out, .free] s)).1 .link (by decide)

/-- The queue as its report reaches the ring writes the entry where it would have been written before. -/
theorem Queue.ring_of_reported (Q : Queue) (f : Flight) (st : Status) (p : Nat) (e : Bytes) :
    let Q' := (Q.signalledBy f).skipNotedBy f st
    Q'.full = Q.full ∧ Q'.held = Q.held ∧ Q'.ringKey p = Q.ringKey p ∧ Q'.ringEntry e = Q.ringEntry e := by
  obtain ⟨n, hn⟩ := Queue.skipNotedBy_signalledBy f st Q
  dsimp only
  rw [hn]
  exact ⟨rfl, rfl, rfl, rfl⟩

/-- A report with COMPLETE writes the command's record to its ring (R101, R133). -/
theorem State.hostMem_reportEnd {s : State} {f : Flight} {Q : Queue} (h : s.queue? f.p f.q = some Q) (hf : Q.full = false) (hh : Q.held = [])
    (hl : s.linkGone = false) (hc : recComplete f.bytes = true) (id : Nat) (st : Status) :
    ∃ stamp, (s.reportEnd id f st).hostMem = hostWriteAll s.hostMem (Q.ringKey f.p) (Q.ringEntry (f.record st stamp)) := by
  generalize hu : ((((s.withdrawn id f st).signalled f).skipNoted f st).endCounted f st) = u
  have hkeeps : s.keeps [.timer, .funcs, .log, .out, .free, .flight, .unsettled, .parts, .perf, .ends] u := by
    have h1 := s.keeps_withdrawn id f st
    have h2 : (s.withdrawn id f st).keeps [.parts] ((s.withdrawn id f st).signalled f) := by unfold State.signalled; simp
    have h3 : ((s.withdrawn id f st).signalled f).keeps [.parts] (((s.withdrawn id f st).signalled f).skipNoted f st) := by
      unfold State.skipNoted
      simp
    rw [← hu]
    exact State.keeps_then (State.keeps_endCounted _ f st) (by decide) (State.keeps_then h3 (by decide)
      (State.keeps_then h2 (by decide) (State.keeps_mono h1 (by decide))))
  have hmoves : s.movesQueue u f.p f.q Q ((Q.signalledBy f).skipNotedBy f st) := by
    rw [← hu]
    exact State.movesQueue_then (State.movesQueue_trans (State.movesQueue_trans
      (State.movesQueue_of_parts ((s.keeps_withdrawn id f st).1 .parts (by decide))) (State.moves_signalled _ f Q)) (State.moves_skipNoted _ f st _))
      ((State.keeps_endCounted _ f st).1 .parts (by decide))
  obtain ⟨hstamped, hstampedLink, hstampedParts⟩ : (u.stamp f.island).2.hostMem = s.hostMem ∧ (u.stamp f.island).2.link = s.link
      ∧ (u.stamp f.island).2.parts = u.parts := by
    have hk := State.keeps_stamp f.island (by decide) (State.keeps_self [.cycles, .free] u)
    exact ⟨(hk.1 .hostMem (by decide)).trans (hkeeps.1 .hostMem (by decide)), (hk.1 .link (by decide)).trans (hkeeps.1 .link (by decide)),
      hk.1 .parts (by decide)⟩
  obtain ⟨hfull, hheld, hkey, hentry⟩ := Q.ring_of_reported f st f.p (f.record st (u.stamp f.island).1)
  have hqueue := State.queue?_of_moves (State.movesQueue_then hmoves hstampedParts) h
  have hput := State.hostMem_ringPut hqueue (hfull.trans hf) (hheld.trans hh) ((State.linkGone_congr hstampedLink).trans hl)
    (f.record st (u.stamp f.island).1)
  refine ⟨(u.stamp f.island).1, ?_⟩
  have hrep : s.reportEnd id f st = ((u.stamp f.island).2.ringPut f.p f.q (f.record st (u.stamp f.island).1)).finishSample id f st := by
    unfold State.reportEnd
    rw [hu, State.recorded, if_pos hc]
  rw [hrep, (State.keeps_finishSample id f st (by decide) (State.keeps_self [.perf, .free] _)).1 .hostMem (by decide), hput, hstamped, hkey,
    hentry]

/-- A record that ends at its dispatch is launched, and its end is the report of the command. -/
theorem State.endAtDispatch_reports {s : State} {d : Site} {st : Status} {Q : Queue} (hQ : s.queue? d.p d.q = some Q)
    (hd : Q.destroying = false) (hst : st.faultClass = none) (hok : st ≠ .ok) (off k : Nat) :
    ∃ (u : State) (f : Flight), s.endAtDispatch d st off k = u.reportEnd s.nextId f st ∧ f.p = d.p ∧ f.q = d.q ∧ f.bytes = d.b
      ∧ u.queue? d.p d.q = some (Q.advance k) ∧ u.hostMem = s.hostMem ∧ u.link = s.link := by
  generalize hf : s.issue d.p (d.ended st off) = f
  have hfinal : f.final = st := hf ▸ s.final_issue_ended d.p d st off
  obtain ⟨hp, hq, hbytes, hengine⟩ : f.p = d.p ∧ f.q = d.q ∧ f.bytes = d.b ∧ ¬(f.engine < 32 ∧ f.engine % 4 = 3) := by
    rw [← hf]
    exact ⟨rfl, rfl, rfl, by simp [State.issue, Site.ended, Site.flight]⟩
  rw [s.endAtDispatch_eq]
  generalize hu : (s.launch d (d.ended st off) k).1 = u
  have hkeeps : s.keeps [.timer, .cycles, .parts, .flight, .nextId, .perf, .free, .ends] u := hu ▸ s.keeps_launched d _ k
  have hflight : tget u.flight s.nextId = some f := by rw [← hu, s.flight_launch, hf, tget_tput, if_pos rfl]
  have hqueue : u.queue? f.p f.q = some (Q.advance k) := by
    rw [hp, hq]
    exact State.queue?_of_moves (hu ▸ s.moves_launch d _ k Q) hQ
  have hb := u.crossesBoundary_atBoundary f
  have hkb := u.keeps_atBoundary f
  have hmoved := State.queue?_of_moves (hb.queues f.q (Q.advance k)) hqueue
  refine ⟨(u.atBoundary f).1, f, ?_, hp, hq, hbytes, hp ▸ hq ▸ hmoved, (hkb.1 .hostMem (by decide)).trans (hkeeps.1 .hostMem (by decide)),
    (hkb.1 .link (by decide)).trans (hkeeps.1 .link (by decide))⟩
  have hstatus : f.statusAfter (u.atBoundary f).2 = st := by rw [Flight.statusAfter_of_ne_ok (by rw [hfinal]; exact hok), hfinal]
  obtain ⟨Q', hm, hr⟩ := State.moves_reportEnd hmoved s.nextId (f.statusAfter (u.atBoundary f).2)
  have hstands : Q'.destroying = false := by
    rw [hr.destroying, Q.advance_only k]
    exact hd
  rw [State.complete_faultless hflight (by rw [hfinal]; exact hst), State.landWrites_control u hengine, State.retire_eq hflight,
    State.settleDestroy_stays (State.queue?_of_moves hm hmoved) hstands, hstatus]

/-- The completion record of a record that ends at its dispatch lies in its ring, with its status (R133). -/
theorem State.record_of_endAtDispatch {s : State} {d : Site} {st : Status} (hd : s.meetsSite d) (hst : st.faultClass = none) (hok : st ≠ .ok)
    (hl : s.linkGone = false) (hc : recComplete d.b = true) (hlen : 6 ≤ d.b.length) (off k : Nat) :
    u8 ((s.endAtDispatch d st off k).hostBytes (d.Q.ringKey d.p) 16) 2 = st.code := by
  obtain ⟨u, f, hend, hp, hq, hbytes, hqueue, hmem, hlink⟩ := State.endAtDispatch_reports hd.queue? hd.standing hst hok off k
  have hadv := d.Q.advance_only k
  obtain ⟨stamp, hwritten⟩ := State.hostMem_reportEnd (s := u) (f := f) (by rw [hp, hq]; exact hqueue) (by rw [hadv]; exact hd.room)
    (by rw [hadv]; exact hd.held) ((State.linkGone_congr hlink).trans hl) (by rw [hbytes]; exact hc) s.nextId st
  have hkey : (d.Q.advance k).ringKey f.p = d.Q.ringKey d.p := by rw [hadv, hp]; rfl
  rw [hkey, ← hend] at hwritten
  have htag : ((f.bytes.drop 4).take 2).length = 2 := by
    rw [hbytes, List.length_take, List.length_drop]
    omega
  generalize hrest : natLe 1 (2 * b2n f.looped) ++ natLe 1 (f.q % 64) ++ zeros 1 ++ natLe 2 f.island ++ natLe 8 stamp = rest
  have hrecord : f.record st stamp = (f.bytes.drop 4).take 2 ++ natLe 1 st.code ++ rest := by
    unfold Flight.record
    rw [← hrest]
    simp only [List.append_assoc]
  have hrestlen : rest.length = 13 := by
    rw [← hrest]
    simp [zeros]
  generalize hentry : (d.Q.advance k).ringEntry (f.record st stamp) = e at hwritten
  have hhead : (f.record st stamp).take 3 = (f.bytes.drop 4).take 2 ++ natLe 1 st.code := by
    rw [hrecord, List.take_left' (by rw [List.length_append, htag, length_natLe])]
  have helen : e.length = 16 := by
    rw [← hentry, Queue.ringEntry, hhead, hrecord]
    simp [htag, hrestlen]
  have hread := State.hostBytes_of_write hwritten
  rw [helen] at hread
  rw [hread, ← hentry, Queue.ringEntry, hhead, List.append_assoc]
  exact u8_natLe_at htag (by cases st <;> decide)

theorem link_recordBegun (i : Instr) (s : State) : (recordBegun i s).link = s.link := by
  unfold recordBegun
  split
  · exact State.link_meetSpans s _ _ _
  · exact State.link_meetSpans s _ _ _
  · rfl

/-- Settles O10: the predicate is the comparator's, and a record whose predicate is false ends at its dispatch (R126). -/
theorem falsePredicatesSkip : Obligations.FalsePredicatesSkip := by
  refine ⟨fun Q b c hbit hc => ?_, fun Q b hbit => ?_, fun i s p q op d hi hs ht hw hh hp => ?_⟩
  · simp [Queue.predicate, Queue.holds, hbit, hc]
  · simp [Queue.predicate, hbit]
  · have hexec := exec_record_skipped hi hs ht hw hh hp
    have hs' := (site?_recordBegun i s p q).trans hs
    have hlink := link_recordBegun i s
    generalize hu : recordBegun i s = u at hexec hs' hlink
    obtain ⟨rfl, rfl⟩ := State.site?_place hs'
    have hd := State.meetsSite_of_site? hs'
    have hadv := d.Q.advance_only (recordSkips i d)
    have hends := State.endsRecord_endAtDispatch (st := .skippedPred) hd.queue? hd.standing rfl 0xFF (recordSkips i d)
    obtain ⟨f, st', Q, hbytes, -, -, -, hm, hr⟩ := hends.queue
    have hwritten := hr.written (by rw [hadv]; exact hd.room) (by rw [hadv]; exact hd.held)
    rw [hadv, hbytes] at hwritten
    refine ⟨_, Q, hexec, State.consumed_of_endsRecord hends hd.queue? rfl rfl rfl, State.queue?_of_moves hm hd.queue?, ?_, fun hc => ⟨?_, fun hl hlen => ?_⟩,
      fun hc => ?_⟩
    · rw [hr.ctrs, hbytes, hadv]
      rfl
    · rw [hwritten, hc]
      rfl
    · exact State.record_of_endAtDispatch hd rfl (by decide) ((State.linkGone_congr hlink).trans hl) hc hlen 0xFF _
    · rw [hwritten, hc]
      rfl

end Sys2Proof.Machine
end

section
/-! SUPPORT. ComparatorsAndLoops.lean: CMP (O12), counter updates that cross the Girdle (O14), and LOOP (O15). -/

namespace Sys2Proof.Machine

/-! ### CMP (R125) -/

theorem firstBad_isSome {l : List (Nat × Bool)} {e : Nat × Bool} (he : e ∈ l) (hbad : e.2 = false) : ∃ o, firstBad l = some o := by
  refine Option.ne_none_iff_exists'.mp fun hnone => ?_
  have hgood := firstBad_eq_none hnone e he
  rw [hbad] at hgood
  cases hgood

/-- The codes of no relation make the CMP ILLEGAL. -/
theorem cmpVerdict_badRelation {d : Site} (h : u8 d.b 10 = 6 ∨ u8 d.b 10 = 7) : ∃ o, cmpVerdict d = .fail .illegal o := by
  have hbad : decide (u8 d.b 10 ≤ 5) = false := decide_eq_false (by omega)
  obtain ⟨o, ho⟩ : ∃ o, compareFields d.b 7 = some o :=
    firstBad_isSome (e := (10, decide (u8 d.b 10 ≤ 5))) (List.mem_append_left _ (by simp)) hbad
  exact ⟨o, by rw [cmpVerdict, ho]; rfl⟩

theorem exec_cmp_runs {s : State} {p q : Nat} {d : Site} (h : s.runs (.cmp p q) d) : exec (.cmp p q) s = .next
    ((s.endAtDispatch d .ok 0xFF 0).updQueue p q (fun Q => { Q with cmps := Q.cmps.set (u8 d.b 8) (comparatorOf d.b) })) := by
  dsimp only [exec, execCmp]
  exact State.dispatch_of_runs h rfl (Instr.isOp_of_takes rfl) rfl

/-- The relations of R125, signed where the table says so. -/
theorem relHolds_table (a b : W32) : (relHolds 0 a b = true ↔ a = b) ∧ (relHolds 1 a b = true ↔ a ≠ b) ∧ (relHolds 2 a b = true ↔ a.toInt < b.toInt)
    ∧ (relHolds 3 a b = true ↔ b.toInt ≤ a.toInt) ∧ (relHolds 4 a b = true ↔ a.toNat < b.toNat)
    ∧ (relHolds 5 a b = true ↔ b.toNat ≤ a.toNat) := by
  simp [relHolds, BitVec.slt, BitVec.ult]

/-- Settles O12: a CMP ends at its dispatch and then sets its queue's comparator; what its fields refuse is ILLEGAL. -/
theorem cmpSetsAComparator : Obligations.CmpSetsAComparator := by
  refine ⟨fun s p q d h => ?_, relHolds_table, fun s p q d hs hop hh hp hrel => ?_⟩
  · have hexec := exec_cmp_runs h
    have hs := State.site?_of_runs h rfl
    obtain ⟨rfl, rfl⟩ := State.site?_place hs
    have hd := State.meetsSite_of_site? hs
    have hends := State.endsRecord_endAtDispatch (st := .ok) hd.queue? hd.standing rfl 0xFF 0
    generalize s.endAtDispatch d .ok 0xFF 0 = u at hexec hends
    obtain ⟨f, st, Q, -, -, -, -, hm, hr⟩ := hends.queue
    have hset := State.movesQueue_trans hm
      (u.movesQueue_updQueue d.p d.q Q (fun Q => { Q with cmps := Q.cmps.set (u8 d.b 8) (comparatorOf d.b) }))
    have hqueue := State.queue?_of_moves hset hd.queue?
    refine ⟨_, _, hexec, ⟨hends.nextId, hends.flight, _, hqueue, hr.ahead, hr.loops⟩, hqueue, ?_⟩
    dsimp only
    rw [hr.cmps, d.Q.advance_only 0]
    rfl
  · obtain ⟨o, ho⟩ := cmpVerdict_badRelation hrel
    have ht : (Instr.cmp p q).takes d.b = true := (Bool.and_true _).trans (decide_eq_true hop)
    exact ⟨o, exec_record_fails (i := .cmp p q) rfl hs ht rfl hh hp ho⟩

/-! ### Other queues -/

theorem State.queue?_congr {s t : State} (h : t.parts = s.parts) (p q : Nat) : t.queue? p q = s.queue? p q := by
  unfold State.queue?
  rw [State.part?_congr h]

/-- An update of one queue touches no other. -/
theorem State.queue?_updQueue_other (s : State) {p q p' q' : Nat} (g : Queue → Queue) (h : (p, q) ≠ (p', q')) :
    (s.updQueue p' q' g).queue? p q = s.queue? p q := by
  unfold State.queue? State.updQueue
  rw [State.part?_updPart]
  by_cases hp : p = p'
  case pos =>
    subst hp
    rw [if_pos rfl]
    cases s.part? p with
    | none => rfl
    | some P => exact (tget_tupd _ _ _ _).trans (if_neg fun hq => h (by rw [hq]))
  case neg => rw [if_neg hp]

/-! ### Updates across the Girdle (R124) -/

theorem exec_signalUpdateApply_waits {s : State} {i : Nat} {g : SigUpdate} (hg : s.sigs[i]? = some g) (h : s.controlRuns = false
    ∨ ∃ j h, j < i ∧ s.sigs[j]? = some h ∧ h.p = g.p ∧ h.fromQ = g.fromQ ∧ h.toQ = g.toQ ∧ h.ctr = g.ctr) :
    exec (.signalUpdateApply i) s = .next s := by
  dsimp only [exec, execSignalUpdateApply]
  rw [hg]
  dsimp only
  refine if_pos ?_
  rw [Bool.or_eq_true, Bool.not_eq_true', List.any_eq_true]
  rcases h with h | ⟨j, h, hj, hjs, hp, hf, ht, hc⟩
  · exact .inr h
  · refine .inl ⟨h, List.mem_of_getElem? (i := j) ?_, by simp [hp, hf, ht, hc]⟩
    rw [List.getElem?_take_of_lt hj, hjs]

/-- The update arrives at its counter, and its queue has been told of what it announces (R124, R252). -/
def State.signalArrived (s : State) (i : Nat) (g : SigUpdate) : State :=
  (({ s with sigs := s.sigs.eraseIdx i } : State).updQueue g.p g.toQ (fun Q => Q.applySignal g.ctr g.add g.value)).tell g.tells g.p g.toQ g.ctr

theorem exec_signalUpdateApply_arrives {s : State} {i : Nat} {g : SigUpdate} (hg : s.sigs[i]? = some g) (hr : s.controlRuns = true)
    (h : ∀ j h, j < i → s.sigs[j]? = some h → ¬(h.p = g.p ∧ h.fromQ = g.fromQ ∧ h.toQ = g.toQ ∧ h.ctr = g.ctr)) :
    exec (.signalUpdateApply i) s = .next (s.signalArrived i g) := by
  dsimp only [exec, execSignalUpdateApply]
  rw [hg]
  dsimp only
  refine if_neg ?_
  rw [Bool.or_eq_true, hr, List.any_eq_true]
  rintro (⟨x, hx, heq⟩ | hno)
  · obtain ⟨j, hj, rfl⟩ := List.mem_iff_getElem.mp hx
    rw [List.getElem_take] at heq
    rw [List.length_take] at hj
    refine h j _ (by omega) (List.getElem?_eq_getElem (by omega)) ?_
    simpa [and_assoc] using heq
  · cases hno

/-- Settles O14: an update waits for those before it and for control; else it arrives, and moves its one counter. -/
theorem crossingUpdatesApplyInOrder : Obligations.CrossingUpdatesApplyInOrder := by
  intro s i g hg
  refine ⟨fun h => exec_signalUpdateApply_waits hg (.inl h), fun h => exec_signalUpdateApply_waits hg (.inr h), fun hr hfirst => ?_⟩
  refine ⟨_, exec_signalUpdateApply_arrives hg hr hfirst, rfl, rfl, fun Q hQ => ?_, fun p q hne => ?_⟩
  · refine ⟨Q.applySignal g.ctr g.add g.value, ?_, ?_⟩
    · exact State.queue?_of_moves (State.movesQueue_then (State.movesQueue_updQueue _ g.p g.toQ Q _) rfl) hQ
    · unfold Queue.applySignal
      split <;> rfl
  · exact State.queue?_updQueue_other { s with sigs := s.sigs.eraseIdx i } _ hne

/-! ### LOOP (R130 to R132) -/

theorem loopN_of_runs {d : Site} (h : loopVerdict d = .go) : loopN d.b = u16 d.b 8 ∧ loopPlace d = none := by
  unfold loopVerdict at h
  obtain ⟨hfields, -⟩ := verdictOf_eq_go h
  have hplace : loopPlace d = none := by
    split at hfields
    · cases hfields
    · exact hfields
  refine ⟨?_, hplace⟩
  unfold loopPlace at hplace
  dsimp only at hplace
  split at hplace
  · cases hplace
  · unfold loopN at *
    split
    · rfl
    · next hn =>
      rw [if_neg hn] at *
      contradiction

/-- The body of a LOOP that runs lies whole behind it (R130, R131). -/
theorem loopBody_length {d : Site} (h : loopVerdict d = .go) (hw : loopWaits d = false) : (d.Q.after.take (u16 d.b 8)).length = u16 d.b 8 := by
  obtain ⟨hn, hplace⟩ := loopN_of_runs h
  rw [← hn, List.length_take, Nat.min_eq_left]
  by_contra hlt
  have hlt' : d.Q.after.length < loopN d.b := by omega
  have hinner : d.Q.loops.isEmpty = false := by
    unfold loopWaits at hw
    simpa [hlt'] using hw
  unfold loopPlace at hplace
  simp only [hinner, hlt', Bool.not_false, decide_true, Bool.and_self, if_true] at hplace
  split at hplace
  · cases hplace
  split at hplace <;> cases hplace

/-- The loops of a queue once a LOOP has set its body of n records up (R130). -/
def Site.loopFrames (d : Site) (n : Nat) : List LoopFrame :=
  { body := d.Q.after.take n, idx := 0, left := loopCount d - 1, again := false } :: execLoop.outerLoops d.Q n

theorem exec_loop_runs {s : State} {p q : Nat} {d : Site} (h : s.runs (.loop p q) d) : exec (.loop p q) s
    = .next (if loopCount d = 0 then s.endAtDispatch d .ok 0xFF (loopN d.b)
        else (s.endAtDispatch d .ok 0xFF (loopN d.b)).updQueue p q (fun Q => { Q with loops := d.loopFrames (loopN d.b) })) := by
  have hs := State.site?_of_runs h rfl
  have ⟨_, _, _, hi, _, _, hw, _⟩ := h
  cases hi
  dsimp only [exec, execLoop]
  rw [hs]
  dsimp only
  rw [if_neg (by rw [show loopWaits d = false from hw, Bool.and_false]; exact Bool.false_ne_true)]
  exact State.dispatch_of_runs h rfl (Instr.isOp_of_takes rfl) rfl

/-! Iterations -/

theorem Queue.advances_succ (n : Nat) (Q : Queue) : Queue.advances (n + 1) Q = Queue.advances n (Q.advance 0) := rfl

theorem Queue.advances_add (n m : Nat) (Q : Queue) : Queue.advances (n + m) Q = Queue.advances m (Queue.advances n Q) := by
  induction n generalizing Q with
  | zero => rw [Nat.zero_add]; rfl
  | succ n ih => rw [Nat.succ_add, Queue.advances_succ, Queue.advances_succ, ih]

theorem Queue.loops_advance {Q : Queue} {f : LoopFrame} {r : List LoopFrame} (h : Q.loops = f :: r) :
    (Q.advance 0).loops = settleLoops ({ f with idx := f.idx + 1 } :: r) := by
  unfold Queue.advance
  rw [h]

/-- Within an iteration the next record of the body follows. -/
theorem Queue.loops_advances_within {Q : Queue} {f : LoopFrame} {r : List LoopFrame} (h : Q.loops = f :: r) {i : Nat}
    (hi : f.idx + i < f.body.length) : (Queue.advances i Q).loops = { f with idx := f.idx + i } :: r := by
  induction i with
  | zero => exact h
  | succ i ih =>
    rw [Queue.advances_add i 1, Queue.advances_succ, Queue.advances, Queue.loops_advance (ih (by omega)), settleLoops, if_pos (by exact hi)]
    rfl

/-- The end of an iteration begins the next one, or leaves the loop (R130). -/
theorem Queue.loops_advances_iteration {Q : Queue} {f : LoopFrame} {r : List LoopFrame} (h : Q.loops = f :: r) (h0 : f.idx = 0)
    (hm : 0 < f.body.length) : (Queue.advances f.body.length Q).loops
      = if 0 < f.left then { f with idx := 0, left := f.left - 1, again := true } :: r else settleLoops r := by
  obtain ⟨m, hbody⟩ : ∃ m, f.body.length = m + 1 := ⟨f.body.length - 1, by omega⟩
  have hlast := Queue.loops_advances_within h (i := m) (by omega)
  rw [hbody, Queue.advances_add m 1, Queue.advances_succ, Queue.advances, Queue.loops_advance hlast, settleLoops,
    if_neg (by rw [h0, hbody]; simp)]

theorem Queue.loops_advances_iterations {Q : Queue} {f : LoopFrame} {r : List LoopFrame} (h : Q.loops = f :: r) (h0 : f.idx = 0)
    (hm : 0 < f.body.length) {j : Nat} (hj : j ≤ f.left) : (Queue.advances (j * f.body.length) Q).loops
      = { f with idx := 0, left := f.left - j, again := f.again || decide (0 < j) } :: r := by
  induction j with
  | zero =>
    have hf : { f with idx := 0 } = f := by rw [← h0]
    rw [Nat.zero_mul, Queue.advances, h]
    simp [hf]
  | succ j ih =>
    rw [Nat.succ_mul, Queue.advances_add, Queue.loops_advances_iteration (ih (by omega)) rfl hm, if_pos (by simp; omega)]
    simp
    omega

/-- Settles O15: a LOOP ends at its dispatch with its body consumed, or set up as the innermost loop; iterations follow one another as
`settleLoops` says. -/
theorem loopsRunTheirBody : Obligations.LoopsRunTheirBody := by
  refine ⟨fun s p q d h => ?_, fun Q f r j i hloops h0 hi => ⟨fun hj => ?_, ?_⟩⟩
  · have hexec := exec_loop_runs h
    have hs := State.site?_of_runs h rfl
    have ⟨_, _, _, hi, _, _, hw, _, _, hgo, _⟩ := h
    cases hi
    obtain ⟨rfl, rfl⟩ := State.site?_place hs
    have hd := State.meetsSite_of_site? hs
    rw [(loopN_of_runs hgo).1] at hexec
    have hends := State.endsRecord_endAtDispatch (st := .ok) hd.queue? hd.standing rfl 0xFF (u16 d.b 8)
    generalize s.endAtDispatch d .ok 0xFF (u16 d.b 8) = u at hexec hends
    intro n count
    refine ⟨fun (hc : loopCount d = 0) => ?_, fun (hc : loopCount d ≠ 0) => ?_⟩
    · rw [if_pos hc] at hexec
      exact ⟨u, hexec, State.consumed_of_endsRecord hends hd.queue? rfl rfl rfl, fun a => by rw [hends.dram]⟩
    · rw [if_neg hc] at hexec
      obtain ⟨f, st, Q, -, -, -, -, hm, hr⟩ := hends.queue
      have hset := State.movesQueue_trans hm (u.movesQueue_updQueue d.p d.q Q (fun Q => { Q with loops := d.loopFrames (u16 d.b 8) }))
      exact ⟨_, _, hexec, State.queue?_of_moves hset hd.queue?, hends.nextId, hr.ahead, rfl, loopBody_length hgo hw,
        fun a => by rw [State.dram_updQueue, hends.dram]⟩
  · have hround := Queue.loops_advances_iterations hloops h0 (by omega) hj
    rw [Queue.advances_add, Queue.loops_advances_within hround (by simpa using hi)]
    simp
  · have hround := Queue.loops_advances_iterations hloops h0 (by omega) (le_refl f.left)
    rw [Nat.succ_mul, Queue.advances_add, Queue.loops_advances_iteration hround rfl (show 0 < f.body.length by omega)]
    simp

end Sys2Proof.Machine
end

section
/-! SUPPORT. DestroyTimeouts.lean: a queue.destroy that times out, where a table of mailboxes lists one twice (O34). -/

namespace Sys2Proof.Machine

/-- A queue of context 0 that is being destroyed. -/
def goingQueue : Queue := { Queue.fresh (zeros 40) with destroying := true }

/-- A command of queue 1 of partition 0 that is still in flight. -/
def goingFlight : Flight :=
  { p := 0, q := 1, ctx := 0, cluster := 0, pos := 0, bytes := zeros 64, looped := false, engine := 34, island := 0, conds := [],
    offset := 0xFF, partialDone := false, writes := [], readsHost := false, nb := none, peer := none }

/-- A running module whose partition 0 destroys queues 0 and 1, with a command of queue 1 in flight. Its table of mailboxes lists function 1
twice: `tget` finds the one that waits for queue 0, behind it stands one that waits for queue 1. -/
def goingState : State :=
  { State.reset with
    boot := { Boot.reset with perstLow := false },
    flight := [(0, goingFlight)],
    funcs := [(1, { Func.reset with busy := true, waitFor := some (.queueDestroy 0 0) }),
              (1, { Func.reset with busy := true, waitFor := some (.queueDestroy 0 1) })],
    parts := [(0, { Partition.fresh { clusters := 1, streamBase := 0, streamCount := 1, prefixQuota := 0, policyPartition := false,
                                      perfUser := false } [] 0 with queues := [(0, goingQueue), (1, goingQueue)] })] }

/-- The mailbox is answered TIMEOUT; queue 0 breaks and tears context 0 down, the command of queue 1 ends with it, and the mailbox that is
found to wait for queue 1 has the same number: it is answered OK after all. -/
theorem goingState_timedOut : ∃ t, exec (.queueDestroyTimeout 0 0) goingState = .next t ∧ (t.func 1).lastStatus = 0 := by
  refine ⟨_, rfl, ?_⟩
  decide +kernel

/-- Refutes O34 by its last clause: in `goingState` the last status of the mailbox is OK, not TIMEOUT. The statement speaks of every state, also
of one whose table of mailboxes lists a number twice. -/
theorem not_queueTimersAct : ¬Obligations.QueueTimersAct := by
  unfold Obligations.QueueTimersAct
  rintro ⟨-, -, -, htimeout⟩
  obtain ⟨t, ht, hstatus, -⟩ := htimeout goingState 0 0 goingQueue rfl rfl rfl
  obtain ⟨u, hu, hok⟩ := goingState_timedOut
  cases ht.symm.trans hu
  rw [hok] at hstatus
  cases hstatus

end Sys2Proof.Machine
end

section
/-! SUPPORT. PeerAcks.lean: an acknowledgement that moves commands about in a table of commands out of order (O53). -/

namespace Sys2Proof.Machine

/-- A CRECV of message 0 on channel 0 from peer 0 of partition 0, whose only stretch of 64 bytes is still to come. -/
def receivingJob (bytes : Nat) : PeerJob :=
  { kind := .recv 0 0 0, src := 0, dst := 0, bytes := bytes, opcode := 0x6005, bf16 := false, max := false, tree := false, acc := [], bad := [],
    phases := [{ from? := 0, reduce := false, offset := 0, len := 64, onward := [] }], open? := true }

/-- The command of such a CRECV. -/
def receivingFlight (bytes : Nat) : Flight :=
  { p := 0, q := 0, ctx := 0, cluster := 0, pos := 0, bytes := zeros 64, looped := false, engine := 35, island := 0, conds := [],
    offset := 0xFF, partialDone := false, writes := [], readsHost := false, nb := none, peer := some (receivingJob bytes) }

/-- A running module whose port 0 is up, with a frame of command 3 unacknowledged. Its table of commands is out of order: command 5, a CRECV of
64 bytes, stands before command 3, a CRECV of 128 bytes for the same message. -/
def receivingState : State :=
  { State.reset with
    boot := { Boot.reset with perstLow := false },
    flight := [(5, receivingFlight 64), (3, receivingFlight 128)],
    parts := [(0, Partition.fresh { clusters := 1, streamBase := 0, streamCount := 1, prefixQuota := 0, policyPartition := false,
                                    perfUser := false } [] 0)],
    peers := { State.reset.peers with
               ports := [(0, { Port.reset with
                               state := .up, nextSeq := 1,
                               unacked := [{ seq := 0, last := true, offset := 0, carries := .copyData 3, payload := zeros 64, poison := [],
                                             job := some 3 }] })] } }

/-- A frame of 64 bytes for the message, which acknowledges the frame of command 3. -/
def arrivingFrame : Frame :=
  { fcsOk := true, seq := 0, ack := 1, offset := 0, last := true, poison := [], carries := .message 0 0 0 0 64, payload := zeros 64 }

/-- The acknowledgement moves command 3 to the front of the table; the frame is then taken for command 3's, and command 5 still waits. -/
theorem receivingState_diverted : ∃ t, exec (.peerDataFrame 0 arrivingFrame) receivingState = .next t
    ∧ tget t.flight 5 = some (receivingFlight 64) := by
  refine ⟨_, rfl, ?_⟩
  decide +kernel

/-- Refutes O53 by its clause about a message that arrives: in `receivingState` the command that the frame is for keeps the stretch it waits for.
The statement speaks of every state, also of one whose table of commands is out of order. -/
theorem not_peerTransport : ¬Obligations.PeerTransport := by
  unfold Obligations.PeerTransport
  intro h
  obtain ⟨hup, -⟩ := h receivingState 0
  obtain ⟨hframes, -⟩ := hup (by decide +kernel) rfl
  obtain ⟨-, -, -, haccepted⟩ := hframes arrivingFrame (by decide +kernel)
  obtain ⟨t, ht, -, -, -, -, -, -, -, hmessage⟩ := haccepted rfl (by decide +kernel) rfl
  obtain ⟨f', j', hf', hj', hdone, -⟩ := hmessage 0 0 0 0 64 5 (receivingFlight 64) (receivingJob 64) _ _ [] rfl rfl rfl rfl rfl
  obtain ⟨u, hu, hwaits⟩ := receivingState_diverted
  cases ht.symm.trans hu
  cases hf'.symm.trans hwaits
  cases hj'
  cases hdone rfl

end Sys2Proof.Machine
end

section
/-! SUPPORT. Queries.lean: the messages that ask (O56). -/

namespace Sys2Proof.Machine

/-! ### Queries -/

section
variable {s : State} {i : Instr} {fn : Nat} {size : Bytes → Nat} {row : MsgRow} {run : State → Msg → State} {fields : List (Nat × Bool)}
  {conds : List (Option Nat × Bool)} {legal cond : Prop} {body : Bytes}

/-- A query whose run is `State.checked` over an answer tells its body. -/
theorem State.tells_checked (hexec : exec i s = s.serve fn row run) (hm : messageOf i = some (fn, { row with size := size }))
    (hrun : run s (s.asked fn) = s.checked (s.asked fn) fields conds (s.okay (s.asked fn) body))
    (hlegal : row.mine (s.msgBody fn) = true → (legal ↔ ∀ f ∈ fields, f.2 = true))
    (hcond : cond ↔ ∀ c ∈ conds, c.2 = true) : s.tells i fn legal cond body :=
  State.decides_checked hexec hm hrun hlegal hcond (fun _ _ => ⟨s.answered_respond .., s.onlyAnswer_respond ..⟩)

/-- A query without checks of its own. -/
theorem State.tells_plain (hexec : exec i s = s.serve fn row run) (hm : messageOf i = some (fn, { row with size := size }))
    (hrun : run s (s.asked fn) = s.okay (s.asked fn) body) : s.tells i fn True True body :=
  State.tells_checked (fields := []) (conds := []) hexec hm (hrun.trans rfl) (fun _ => by simp) (by simp)

/-- A message of the counters is refused on a mailbox without PERF_USER_EN. -/
theorem exec_userRefused (hm : messageOf i = some (fn, row)) (huser : row.user = true) (hmay : s.perfUser fn (s.msgPartition fn) = false)
    (hand : s.inHand fn row) (hheader : s.headerEnds fn row = none) (horder : s.behind fn row.code = false)
    (hwait : row.acts (s.msgBody fn) = true → s.mustWait fn (s.msgPartition fn) = false)
    (hexists : row.exists? (s.msgBody fn) = true → (s.part? (s.msgPartition fn)).isSome = true) :
    exec i s = .next (s.respond fn .refused (refusalBody none)) := by
  obtain ⟨served, run, hrow, hexec⟩ := exec_serves hm
  generalize row.size = size at hrow
  subst hrow
  rw [hexec s]
  refine State.serve_userRefused hand hheader ?_ ?_ huser hmay
  · rintro (⟨h, h'⟩ | ⟨-, h'⟩)
    · simp [hwait h] at h'
    · exact absurd (horder.symm.trans h') Bool.false_ne_true
  · rintro ⟨h, h'⟩
    simpa [h'] using hexists h

end

/-! ### Bulk answers -/

section
variable (s : State) (fn k addr : Nat) (r : Bytes) (a : Answer) (body : Bytes)

theorem State.hostWriteFw_eq : s.hostWriteFw fn addr r = { s with hostMem := s.hostAfter fn addr r } := by
  unfold State.hostWriteFw State.hostAfter
  split <;> rfl

/-- What the firmware writes to host memory does not touch the mailboxes. -/
theorem State.answered_hostWriteFw : s.answered ((s.hostWriteFw fn addr r).respond k a body) k a body :=
  State.answered_after (State.raisesOnly_of_funcs (by rw [State.hostWriteFw_eq])) k a body

/-- A bulk answer writes host memory and the mailbox. -/
theorem State.respond_hostWriteFw : ∃ F H O, (s.hostWriteFw fn addr r).respond k a body
    = { s with hostMem := s.hostAfter fn addr r, funcs := F, handed := H, out := O } := by
  obtain ⟨F, H, O, h⟩ := (s.hostWriteFw fn addr r).respond_eq k a body
  exact ⟨F, H, O, by rw [h, State.hostWriteFw_eq]⟩

end

/-! ### Fields and conditions -/

theorem natLe_one_toNat (x : BitVec 8) : natLe 1 x.toNat = [x] := by
  simp [natLe]

theorem forall_mem_map_range {n : Nat} {α : Type} {f : Nat → α} {P : α → Prop} :
    (∀ x ∈ (List.range n).map f, P x) ↔ ∀ i < n, P (f i) := by
  simp

/-- The conditions of perf.config, one for each of its entries. -/
theorem perfMay_iff (s : State) (m : Msg) (b : Bytes) :
    (∀ e ∈ perfEntries b, s.perfMay m e.1 = true)
      ↔ ∀ c ∈ ((List.range (u8 b 1)).zip (perfEntries b)).map (fun e => ((some (8 + 16 * e.1) : Option Nat), s.perfMay m e.2.1)), c.2 = true := by
  have hsnd : ((List.range (u8 b 1)).zip (perfEntries b)).map Prod.snd = perfEntries b := List.map_snd_zip (by simp [perfEntries])
  rw [List.forall_mem_map]
  conv_lhs => rw [← hsnd, List.forall_mem_map]

/-- A body whose OP the map query takes is legal where mapFields is. -/
theorem mapQuery_legal {b : Bytes} (hmine : opIs 2 2 b = true) : (u8 b 0 = 2 ∧ u8 b 1 ≤ 1) ↔ ∀ f ∈ mapFields b, f.2 = true := by
  rw [← opIs_legal (le_refl 2) hmine]
  simp only [mapFields, List.forall_mem_cons, decide_eq_true_eq, Bool.or_eq_true, Bool.and_eq_true]
  have hop := opIs_legal (le_refl 2) hmine
  tauto

/-- The pseudo-channels that a request for results names: none locked, each tested. -/
theorem testConds_iff (s : State) (b : Bytes) :
    (∀ pc ∈ testPcs b, s.lockedPc pc = false ∧ (tget s.tests pc).isSome = true)
      ↔ ∀ c ∈ s.unlockedPcs b
          ++ (List.range (u16 b 16)).map (fun i => ((some (24 + 2 * i) : Option Nat), (tget s.tests (u16 b (24 + 2 * i))).isSome)),
        c.2 = true := by
  simp only [testPcs, State.unlockedPcs, List.forall_mem_append, forall_mem_map_range, Bool.not_eq_true']
  exact forall₂_and

/-! ### What the queries leave -/

section
variable {s t : State} {fn : Nat}

/-- What queue.status leaves (R137). -/
theorem State.skipsRead {p q : Nat} {Q : Queue} {body : Bytes} (hQ : s.queue? p q = some Q)
    (ht : t = (s.updQueue p q (fun Q => { Q with skipLog := [] })).respond fn .ok body) :
    s.answered t fn .ok body ∧ t.queue? p q = some { Q with skipLog := [] }
      ∧ t = { s with parts := t.parts, funcs := t.funcs, handed := t.handed, out := t.out } := by
  have hans := State.answered_after (s := s) (t := s.updQueue p q (fun Q => { Q with skipLog := [] })) (State.raisesOnly_of_funcs rfl) fn .ok body
  obtain ⟨F, H, O, hr⟩ := (s.updQueue p q (fun Q => { Q with skipLog := [] })).respond_eq fn .ok body
  have hqueue := State.queue?_of_moves (State.movesQueue_updQueue s p q Q (fun Q => { Q with skipLog := [] })) hQ
  rw [← ht] at hans
  rw [hr] at ht
  subst ht
  exact ⟨hans, hqueue, rfl⟩

/-- What a bulk answer leaves (R305). -/
theorem State.bulkAnswered {addr : Nat} {r body : Bytes} (ht : t = (s.hostWriteFw fn addr r).respond fn .ok body) :
    s.answered t fn .ok body
      ∧ t = { s with hostMem := s.hostAfter fn addr r, funcs := t.funcs, handed := t.handed, out := t.out } := by
  have hans := s.answered_hostWriteFw fn fn addr r .ok body
  obtain ⟨F, H, O, hr⟩ := s.respond_hostWriteFw fn fn addr r .ok body
  rw [← ht] at hans
  rw [hr] at ht
  subst ht
  exact ⟨hans, rfl⟩

/-- What thermal.query leaves. -/
theorem State.sensorsAnswered {addr : Nat} {r body : Bytes} (ht : t = ((s.hostWriteFw fn addr r).respond fn .ok body).tick) :
    s.answered t fn .ok body
      ∧ t = { s with hostMem := s.hostAfter fn addr r, funcs := t.funcs, handed := t.handed, out := t.out, free := t.free } := by
  have hans := s.answered_hostWriteFw fn fn addr r .ok body
  obtain ⟨F, H, O, hr⟩ := s.respond_hostWriteFw fn fn addr r .ok body
  rw [hr] at ht hans
  subst ht
  exact ⟨hans, rfl⟩

/-- The first n entries for a mailbox are marked as read, where that is asked (R309). -/
def State.markedRead (s : State) (fn n mark : Nat) : State :=
  if mark = 1 then { s with log := { s.log with entries := markRead fn n s.log.entries } } else s

theorem State.markedRead_eq (s : State) (fn n mark : Nat) : s.markedRead fn n mark
    = { s with log := if mark = 1 then { s.log with entries := markRead fn n s.log.entries } else s.log } := by
  unfold State.markedRead
  split <;> rfl

theorem State.lost_markedRead (s : State) (fn n mark : Nat) : (s.markedRead fn n mark).log.lost = s.log.lost := by
  unfold State.markedRead
  split <;> rfl

/-- What err.read leaves (R309). -/
theorem State.errorsRead {addr n mark : Nat} {r body : Bytes}
    (ht : t = ((s.hostWriteFw fn addr r).markedRead fn n mark).respond fn .ok
      (body ++ natLe 4 (tgetD ((s.hostWriteFw fn addr r).markedRead fn n mark).log.lost fn 0))) :
    s.answered t fn .ok (body ++ natLe 4 (tgetD s.log.lost fn 0))
      ∧ t.log = (if mark = 1 then { s.log with entries := markRead fn n s.log.entries } else s.log)
      ∧ t = { s with hostMem := s.hostAfter fn addr r, log := t.log, funcs := t.funcs, handed := t.handed, out := t.out } := by
  have hfuncs : ((s.hostWriteFw fn addr r).markedRead fn n mark).funcs = s.funcs := by rw [State.markedRead_eq, State.hostWriteFw_eq]
  have hlost : ((s.hostWriteFw fn addr r).markedRead fn n mark).log.lost = s.log.lost := by rw [State.lost_markedRead, State.hostWriteFw_eq]
  rw [hlost] at ht
  have hans := State.answered_after (State.raisesOnly_of_funcs hfuncs) fn .ok (body ++ natLe 4 (tgetD s.log.lost fn 0))
  obtain ⟨F, H, O, hr⟩ := ((s.hostWriteFw fn addr r).markedRead fn n mark).respond_eq fn .ok (body ++ natLe 4 (tgetD s.log.lost fn 0))
  rw [← ht] at hans hr
  rw [State.markedRead_eq, State.hostWriteFw_eq] at hr
  rw [hr] at hans ⊢
  exact ⟨hans, rfl, rfl⟩

end

/-- The records of the tests of pseudo-channels, as MEM_TEST_RESULTS writes them. -/
def State.testRecords (s : State) (pcs : List Nat) : Bytes :=
  pcs.flatMap (fun pc => match tget s.tests pc with | some t => t.record pc | none => [])

theorem State.testRecords_single (s : State) {pcs : List Nat} {pc : Nat} {T : TestRun} (hpcs : pcs = [pc]) (hT : tget s.tests pc = some T) :
    s.testRecords pcs = T.record pc := by
  simp [State.testRecords, hpcs, hT]

/-- Settles O56: every query's run is `State.checked` over its answer; the bulk answers write host memory before it. -/
theorem queriesAnswer : Obligations.QueriesAnswer := by
  unfold Obligations.QueriesAnswer
  intro s fn
  dsimp only
  refine ⟨?_, ?_, ?_, ?_, ?_, fun P hP => ⟨?_, ?_, fun hp => ?_⟩, fun hp => ?_, ?_, ?_, ?_, fun Q hQ => ?_, ?_, ?_, ?_, ?_⟩
  · exact State.tells_plain (size := fun _ => 0) (by dsimp only [exec, execDevInfo]) rfl rfl
  · refine State.tells_plain (size := fun _ => 0) (by dsimp only [exec, execDevLicences]) rfl ?_
    rw [natLe_one_toNat, natLe_one_toNat]
    rfl
  · exact State.tells_plain (size := fun _ => 0) (by dsimp only [exec, execDbgStatus]) rfl rfl
  · refine State.tells_checked (size := fun _ => 0) (by dsimp only [exec, execPowerStateRead]) rfl rfl (fun hmine => ?_) (by simp)
    rw [← opIs_legal (last := 1) (by decide) hmine]
    simp
  · refine State.tells_checked (size := fun _ => 72) (by dsimp only [exec, execPartConfigRead]) rfl rfl (fun hmine => ?_) (by simp)
    rw [← opIs_legal (last := 1) (by decide) hmine]
    simp
  · refine State.tells_checked (size := fun _ => 24) (by dsimp only [exec, execPartMapQuery]) rfl ?_ (fun hmine => mapQuery_legal hmine)
      (conds := []) (by simp)
    simp only [State.mapAnswer, hP]
  · refine State.tells_plain (size := fun _ => 0) (by dsimp only [exec, execStreamStats]) rfl ?_
    simp only [hP]
  · refine State.tells_plain (size := fun _ => 0) (by dsimp only [exec, execPeerStatus]) rfl ?_
    simp only [State.asked, if_neg hp, hP]
    rfl
  · refine State.tells_plain (size := fun _ => 0) (by dsimp only [exec, execPeerStatus]) rfl ?_
    simp only [State.asked, if_pos hp]
  · exact State.tells_checked (size := fun _ => 8) (by dsimp only [exec, execPerfConfigRead]) rfl rfl (fun _ => Iff.rfl) (perfMay_iff ..)
  · refine State.tells_checked (size := fun _ => 0) (by dsimp only [exec, execPerfSampleStatus]) rfl rfl (fun _ => ?_) Iff.rfl
    rw [List.append_nil]
  · intro hmay i hi row hm hand hheader horder hwait hexists
    refine ⟨_, exec_userRefused hm ?_ hmay hand hheader horder hwait hexists, s.answered_respond .., s.onlyAnswer_respond ..⟩
    simp only [List.mem_cons, List.not_mem_nil, or_false] at hi
    rcases hi with rfl | rfl | rfl | rfl | rfl <;> (cases hm; rfl)
  · refine State.decides_checked (size := fun _ => 0) (fields := []) (conds := []) (by dsimp only [exec, execQueueStatus]) rfl ?_ (fun _ => by simp)
      (by simp) (fun _ _ => State.skipsRead hQ rfl)
    simp only [hQ]
    rfl
  · exact State.decides_checked (size := fun _ => 0) (by dsimp only [exec, execDevTopology]) rfl rfl (fun _ => by simp) (by simp)
      (fun _ _ => State.bulkAnswered rfl)
  · exact State.decides_checked (size := fun _ => 0) (fields := []) (conds := []) (by dsimp only [exec, execThermalQuery]) rfl rfl
      (fun _ => by simp) (by simp) (fun _ _ => State.sensorsAnswered rfl)
  · exact State.decides_checked (size := fun _ => 0) (by dsimp only [exec, execErrRead]) rfl rfl (fun _ => by simp) (by simp)
      (fun _ _ => State.errorsRead rfl)
  · refine State.decides_checked (size := fun _ => 24) (by dsimp only [exec, execMemTestResults]) rfl rfl (fun hmine => ?_) (testConds_iff ..)
      (fun _ _ => ?_)
    · rw [← opIs_legal (last := 3) (by decide) hmine]
      simp
    · obtain ⟨hans, hframe⟩ := State.bulkAnswered (s := s) (fn := fn) (addr := u64 (s.msgBody fn) 8)
        (r := s.testRecords (testPcs (s.msgBody fn))) (body := natLe 4 (s.testRecords (testPcs (s.msgBody fn))).length) rfl
      exact ⟨_, hans, fun pc T hpcs hT => s.testRecords_single hpcs hT, hframe⟩

end Sys2Proof.Machine
end

section
/-! SUPPORT. PartitionMessages.lean: messages that stage, map, make queues and contexts, and destroy queues (O57). -/

namespace Sys2Proof.Machine

/-! ### A partition changed and the answer to it -/

section
variable {s t : State} {fn p : Nat} {P : Partition} {body : Bytes}

theorem State.part?_setPart (s : State) (p k : Nat) (P : Partition) : (s.setPart p P).part? k = if k = p then some P else s.part? k :=
  tget_tput ..

theorem State.updPart_eq_setPart (hP : s.part? p = some P) (g : Partition → Partition) : s.updPart p g = s.setPart p (g P) := by
  have hget : tget s.parts p = some P := hP
  simp only [State.updPart, State.setPart, tupd, hget]

/-- What a message leaves that changes one partition and is answered. -/
theorem State.partSet (ht : t = (s.setPart p P).respond fn .ok body) :
    s.answered t fn .ok body ∧ t.part? p = some P ∧ (∀ k, k ≠ p → t.part? k = s.part? k)
      ∧ t = { s with parts := t.parts, funcs := t.funcs, handed := t.handed, out := t.out } := by
  have hans := State.answered_after (s := s) (t := s.setPart p P) (State.raisesOnly_of_funcs rfl) fn .ok body
  obtain ⟨F, H, O, hr⟩ := (s.setPart p P).respond_eq fn .ok body
  rw [← ht] at hans
  rw [hr] at ht
  subst ht
  exact ⟨hans, (s.part?_setPart p p P).trans (if_pos rfl), fun k hk => (s.part?_setPart p k P).trans (if_neg hk), rfl⟩

/-- The answer of part.map tells of the partition as it then is. -/
theorem State.mapAnswer_setPart (m : Msg) : (s.setPart m.p P).mapAnswer m = (s.setPart m.p P).respond m.fn .ok (P.mapBody (u64 m.body 8)) := by
  simp only [State.mapAnswer, State.part?_setPart, if_pos, State.okay]

end

/-! ### Fields and conditions -/

/-- Fields of part.map and of its reverse, where the OP is theirs. -/
theorem mapFields_iff {op : Nat} {b : Bytes} (hop : op < 2) (hmine : opIs op 2 b = true) :
    (∀ f ∈ mapFields b, f.2 = true) ↔ u8 b 0 = op ∧ u8 b 1 ≤ 1 ∧ 1 ≤ u32 b 4 ∧ u32 b 4 ≤ 524288 := by
  rw [← opIs_legal (by omega : op ≤ 2) hmine]
  simp only [mapFields, List.forall_mem_cons, decide_eq_true_eq, Bool.or_eq_true, Bool.and_eq_true, List.not_mem_nil, false_implies,
    implies_true, and_true]
  have h := opIs_legal (by omega : op ≤ 2) hmine
  omega

theorem mapOpen_iff (s : State) (m : Msg) : s.mapOpen m = true ↔ m.fn ≠ 0 ∨ s.tdiLocked m.p = false := by
  simp [State.mapOpen]

theorem apart_iff {l : List Page} {a n : Nat} {start : Page → Nat} :
    (!l.any (fun g => overlaps a n (start g) g.bytes)) = true ↔ ∀ g ∈ l, overlaps a n (start g) g.bytes = false := by
  simp

/-- Ranges of a new context: within the partition's clusters and apart from those of its other contexts. -/
theorem ctxConds_iff {P : Partition} {b : Bytes} :
    (∀ c ∈ (List.range (u8 b 2)).map (fun i =>
        let r := ((ctxRanges b)[i]?).getD (0, 0)
        ((some (8 + 8 * i) : Option Nat), P.ownsRange r && !(P.ctxs.flatMap (fun e => e.2.ranges)).any (fun t => overlaps r.1 r.2 t.1 t.2))),
      c.2 = true)
      ↔ ∀ r ∈ ctxRanges b, P.ownsRange r = true ∧ ∀ e ∈ P.ctxs, ∀ u ∈ e.2.ranges, overlaps r.1 r.2 u.1 u.2 = false := by
  rw [forall_mem_map_range, ctxRanges, forall_mem_map_range]
  refine forall₂_congr (fun i hi => ?_)
  have hget : ((List.map (fun i => (u32 b (8 + 8 * i), u32 b (12 + 8 * i))) (List.range (u8 b 2)))[i]?).getD (0, 0)
      = (u32 b (8 + 8 * i), u32 b (12 + 8 * i)) := by
    simp [hi]
  simp only [hget]
  simp

/-! ### queue.destroy (R107) -/

/-- A queue that fetches no more, what is not in flight discarded. -/
def Queue.stopped (Q : Queue) : Queue := { Q with destroying := true, ahead := [], loops := [], waiting := none, slots := [] }

/-- The queue stops and its mailbox waits for it. -/
def State.stopQueue (s : State) (fn p q : Nat) : State :=
  (s.updQueue p q Queue.stopped).updFunc fn (fun F => { F with waitFor := some (.queueDestroy p q) })

theorem find?_tput_key {α : Type} {t : Tab α} {k : Nat} {x : α} {f : Nat × α → Bool} (hx : f (k, x) = true) (ht : ∀ e ∈ t, f e = false) :
    (tput t k x).find? f = some (k, x) := by
  induction t with
  | nil => simp [tput, hx]
  | cons e t ih =>
    obtain ⟨i, v⟩ := e
    have hhead : f (i, v) = false := ht (i, v) List.mem_cons_self
    simp only [tput]
    split
    · simp [hx]
    split
    · simp [hx]
    · rw [List.find?_cons_of_neg (by simp [hhead])]
      exact ih (fun e he => ht e (List.mem_cons_of_mem _ he))

theorem State.answerWait_found {s : State} {w : MailWait} {e : Nat × Func} (a : Answer)
    (h : s.funcs.find? (fun e => decide (e.2.waitFor = some w)) = some e) : s.answerWait w a = s.respond e.1 a [] := by
  simp only [State.answerWait, h]

section
variable {s t : State} {fn p q : Nat} {P : Partition} {Q : Queue}

theorem State.queue?_stopQueue (hQ : s.queue? p q = some Q) : (s.stopQueue fn p q).queue? p q = some Q.stopped :=
  State.queue?_of_moves (State.movesQueue_updQueue s p q Q Queue.stopped) hQ

theorem State.func_stopQueue (s : State) (fn p q : Nat) :
    (s.stopQueue fn p q).func fn = { s.func fn with waitFor := some (.queueDestroy p q) } :=
  ((s.updQueue p q Queue.stopped).func_updFunc fn _ fn).trans (if_pos rfl)

/-- A queue with commands in flight or records that wait is destroyed later. -/
theorem State.settleDestroy_busy (hQ : s.queue? p q = some Q) (h : s.queueBusy p q = true ∨ Q.held ≠ []) :
    (s.stopQueue fn p q).settleDestroy p q = s.stopQueue fn p q := by
  have hbusy : ¬(Q.stopped.destroying && !(s.stopQueue fn p q).queueBusy p q && Q.stopped.held.isEmpty) = true := by
    rcases h with h | h
    · have hb : (s.stopQueue fn p q).queueBusy p q = true := h
      simp [hb]
    · have hh : Q.stopped.held.isEmpty = false := by simpa [Queue.stopped] using h
      simp [hh]
  unfold State.settleDestroy
  rw [State.queue?_stopQueue hQ]
  exact if_neg hbusy

/-- The state without the queue. -/
def State.withoutQueue (s : State) (p q : Nat) : State :=
  { s.updPart p (fun P => { P with queues := tdel P.queues q }) with
    sigs := s.sigs.filter (fun g => !(decide (g.p = p) && decide (g.toQ = q))) }

theorem State.queue?_withoutQueue (s : State) (p q : Nat) : (s.withoutQueue p q).queue? p q = none := by
  have hpart : (s.withoutQueue p q).part? p = (s.part? p).map (fun P => { P with queues := tdel P.queues q }) :=
    (s.part?_updPart p p _).trans (if_pos rfl)
  unfold State.queue?
  rw [hpart]
  cases s.part? p with
  | none => rfl
  | some P => exact (tget_tdel ..).trans (if_pos rfl)

/-- A queue with nothing in flight and nothing that waits goes at once, and the one mailbox that waits for it is answered. -/
theorem State.settleDestroy_idle (hQ : s.queue? p q = some Q) (hbusy : s.queueBusy p q = false) (hheld : Q.held = [])
    (hnone : ∀ e ∈ s.funcs, e.2.waitFor ≠ some (.queueDestroy p q)) :
    (s.stopQueue fn p q).settleDestroy p q = ((s.stopQueue fn p q).withoutQueue p q).respond fn .ok [] := by
  have hidle : (Q.stopped.destroying && !(s.stopQueue fn p q).queueBusy p q && Q.stopped.held.isEmpty) = true := by
    have hb : (s.stopQueue fn p q).queueBusy p q = false := hbusy
    simp [Queue.stopped, hb, hheld]
  have hfind : (s.stopQueue fn p q).funcs.find? (fun e => decide (e.2.waitFor = some (.queueDestroy p q)))
      = some (fn, { s.func fn with waitFor := some (.queueDestroy p q) }) :=
    find?_tput_key (by simp) (fun e he => by simpa using hnone e he)
  unfold State.settleDestroy
  rw [State.queue?_stopQueue hQ]
  exact (if_pos hidle).trans (State.answerWait_found (s := (s.stopQueue fn p q).withoutQueue p q) .ok hfind)

/-- What queue.destroy leaves. -/
theorem State.queueDestroyed (hQ : s.queue? p q = some Q) (hbusy : (s.func fn).busy = true)
    (hnone : ∀ e ∈ s.funcs, e.2.waitFor ≠ some (.queueDestroy p q)) (ht : t = (s.stopQueue fn p q).settleDestroy p q) :
    (s.queueBusy p q = false → Q.held = [] → s.answered t fn .ok [] ∧ t.queue? p q = none)
      ∧ (s.queueBusy p q = true ∨ Q.held ≠ [] → (t.func fn).busy = true ∧ (t.func fn).waitFor = some (.queueDestroy p q)
          ∧ ∃ Q', t.queue? p q = some Q' ∧ Q'.destroying = true ∧ Q'.ahead = [] ∧ Q'.loops = [] ∧ Q'.waiting = none)
      ∧ t.flight = s.flight ∧ t.dram = s.dram := by
  have hkeeps : s.keeps [.parts, .sigs, .funcs, .handed, .out] t := by
    rw [ht]
    exact State.keeps_settleDestroy p q (by decide)
      (State.keeps_updFunc fn _ (by decide) (State.keeps_updQueue p q _ (by decide) (State.keeps_self _ s)))
  refine ⟨fun hb hh => ?_, fun h => ?_, hkeeps.1 .flight (by decide), hkeeps.1 .dram (by decide)⟩
  · rw [State.settleDestroy_idle hQ hb hh hnone] at ht
    obtain ⟨F, H, O, hr⟩ := ((s.stopQueue fn p q).withoutQueue p q).respond_eq fn .ok []
    obtain ⟨hresp, hvalid, hdone, hstatus, hseq⟩ := ((s.stopQueue fn p q).withoutQueue p q).answered_respond fn .ok []
    have hfunc : ((s.stopQueue fn p q).withoutQueue p q).func fn = { s.func fn with waitFor := some (.queueDestroy p q) } :=
      State.func_stopQueue s fn p q
    have hheader : ((s.stopQueue fn p q).withoutQueue p q).reqHeader fn = s.reqHeader fn := by simp only [State.reqHeader, hfunc]
    rw [hheader] at hresp
    rw [hfunc] at hseq
    rw [ht]
    refine ⟨⟨hresp, hvalid, hdone, hstatus, hseq⟩, ?_⟩
    rw [hr]
    exact ((s.stopQueue fn p q).queue?_withoutQueue p q)
  · rw [State.settleDestroy_busy hQ h] at ht
    subst ht
    rw [State.func_stopQueue, State.queue?_stopQueue hQ]
    exact ⟨hbusy, rfl, _, rfl, rfl, rfl, rfl, rfl⟩

end

end Sys2Proof.Machine
end

section
/-! SUPPORT. NewPartitions.lean: zeroised memory, and part.create (O57). -/

namespace Sys2Proof.Machine

/-! ### Tables made from lists -/

theorem mem_keys_tput {α : Type} {t : Tab α} {i k : Nat} {x : α} : k ∈ (tput t i x).map Prod.fst ↔ k = i ∨ k ∈ t.map Prod.fst := by
  induction t with
  | nil => simp [tput]
  | cons e t ih =>
    obtain ⟨j, v⟩ := e
    simp only [tput]
    split
    · simp
    split
    · next h => simp [h]
    · simp only [List.map_cons, List.mem_cons, ih]
      exact or_left_comm

/-- The table of a list of entries. -/
def tableOf {α : Type} (l : List (Nat × α)) : Tab α := l.foldl (fun t e => tput t e.1 e.2) []

theorem mem_keys_foldl_tput {α : Type} {l : List (Nat × α)} {t : Tab α} {k : Nat} :
    k ∈ (l.foldl (fun t e => tput t e.1 e.2) t).map Prod.fst ↔ k ∈ l.map Prod.fst ∨ k ∈ t.map Prod.fst := by
  induction l generalizing t with
  | nil => simp
  | cons e l ih =>
    rw [List.foldl_cons, ih, mem_keys_tput, List.map_cons, List.mem_cons, or_assoc, or_left_comm]

theorem mem_keys_tableOf {α : Type} {l : List (Nat × α)} {k : Nat} : k ∈ (tableOf l).map Prod.fst ↔ k ∈ l.map Prod.fst := by
  rw [tableOf, mem_keys_foldl_tput]
  simp

theorem tget_foldl_tput_absent {α : Type} {l : List (Nat × α)} {t : Tab α} {k : Nat} (h : k ∉ l.map Prod.fst) :
    tget (l.foldl (fun t e => tput t e.1 e.2) t) k = tget t k := by
  induction l generalizing t with
  | nil => rfl
  | cons e l ih =>
    rw [List.map_cons, List.mem_cons, not_or] at h
    rw [List.foldl_cons, ih h.2, tget_tput, if_neg h.1]

theorem tget_foldl_tput_of_mem {α : Type} {l : List (Nat × α)} {t : Tab α} {e : Nat × α} (he : e ∈ l) (hl : (l.map Prod.fst).Nodup) :
    tget (l.foldl (fun t e => tput t e.1 e.2) t) e.1 = some e.2 := by
  induction l generalizing t with
  | nil => cases he
  | cons x l ih =>
    rw [List.map_cons, List.nodup_cons] at hl
    obtain rfl | he := List.mem_cons.1 he
    · rw [List.foldl_cons, tget_foldl_tput_absent hl.1, tget_tput, if_pos rfl]
    · exact ih he hl.2

theorem mem_keys_of_tget {α : Type} {t : Tab α} {k : Nat} (h : (tget t k).isSome = true) : k ∈ t.map Prod.fst := by
  by_contra hk
  rw [tget_eq_none (fun e he h' => hk (List.mem_map.2 ⟨e, he, h'⟩))] at h
  cases h

/-! ### Zeroised memory (R266, R344) -/

/-- A cluster's part of the scratchpads is cleared. -/
def Mem.clearSpad (m : Mem) (c : Nat) : Mem := m.clear (c * 2 ^ 24) (2 ^ 24)

theorem Mem.get_clearSpads (l : List Nat) (m : Mem) (a : Nat) :
    (l.foldl Mem.clearSpad m).get a = if a / 2 ^ 24 ∈ l then 0 else m.get a := by
  induction l generalizing m with
  | nil => simp
  | cons c l ih =>
    have hc : (c * 2 ^ 24 ≤ a ∧ a < c * 2 ^ 24 + 2 ^ 24) ↔ a / 2 ^ 24 = c := by omega
    rw [List.foldl_cons, ih, Mem.clearSpad, Mem.get_clear, if_congr hc rfl rfl]
    generalize a / 2 ^ 24 = x
    by_cases hl : x ∈ l <;> simp [hl]

theorem State.spad_handClusters (s : State) (l : List Nat) : (s.each l State.handCluster).spad = l.foldl Mem.clearSpad s.spad :=
  (List.foldl_hom State.spad (fun _ _ => rfl)).symm

theorem State.dram_handClusters (s : State) (l : List Nat) : (s.each l State.handCluster).dram = s.dram :=
  List.foldlRecOn (motive := fun u : State => u.dram = s.dram) _ _ rfl (fun _ hu _ _ => hu)

/-- The pseudo-channels of a partition are zeroised. -/
def State.zeroisePc (s : State) (e : Nat × Nat) : State :=
  (({ s.clearArray .dram (e.1 * 16 * bankStride) (16 * bankStride) with
      near := (s.clearArray .dram (e.1 * 16 * bankStride) (16 * bankStride)).near.dropBacks
        (fun st x => decide (st = Store.dram) && decide (addrBank (8 * x) / 16 = e.1)),
      boot := { (s.clearArray .dram (e.1 * 16 * bankStride) (16 * bankStride)).boot with
        tested := delNat (s.clearArray .dram (e.1 * 16 * bankStride) (16 * bankStride)).boot.tested e.1 } } : State)).dropPokes e.1

theorem State.dram_zeroise (s : State) (P : Partition) : (s.zeroise P).dram = (P.pcs.map Prod.fst).foldl Mem.clearPc s.dram := by
  have hpcs : (s.each P.pcs State.zeroisePc).dram = (P.pcs.map Prod.fst).foldl Mem.clearPc s.dram := by
    rw [List.foldl_map]
    exact (List.foldl_hom State.dram (fun _ _ => rfl)).symm
  exact (State.dram_handClusters (s.each P.pcs State.zeroisePc) P.clusterList).trans hpcs

theorem State.spad_zeroise (s : State) (P : Partition) : (s.zeroise P).spad = P.clusterList.foldl Mem.clearSpad s.spad := by
  have hpcs : (s.each P.pcs State.zeroisePc).spad = s.spad :=
    List.foldlRecOn (motive := fun u : State => u.spad = s.spad) _ _ rfl (fun u hu _ _ => hu)
  rw [← hpcs]
  exact State.spad_handClusters (s.each P.pcs State.zeroisePc) P.clusterList

/-! ### part.create (R264 to R266) -/

/-- The partition that part.create makes. -/
def State.madePartition (s : State) (b : Bytes) : Partition := Partition.fresh (createSettings b) (tableOf (createPcs b)) s.keyDraws

/-- Zeroised memory, with the counters of its units reset. -/
def State.cleanUnits (s : State) (P : Partition) : State :=
  ((s.zeroise P).each P.pcs (fun s e => s.resetCounters (pcUnit e.1))).each P.clusterList (fun s c => s.resetCounters (clusterUnit c))

theorem State.keeps_cleanUnits (s : State) (P : Partition) : (s.zeroise P).keeps [.perf] (s.cleanUnits P) :=
  State.keeps_each _ (fun v c => State.keeps_resetCounters (clusterUnit c) (by decide) (State.keeps_self _ v))
    (State.keeps_each _ (fun v e => State.keeps_resetCounters (pcUnit e.1) (by decide) (State.keeps_self _ v)) (State.keeps_self _ _))

theorem State.createPartition_eq (s : State) (p : Nat) (b : Bytes) : s.createPartition p b
    = { s.cleanUnits (s.madePartition b) with
        parts := tput (s.cleanUnits (s.madePartition b)).parts p (s.madePartition b), keyDraws := (s.cleanUnits (s.madePartition b)).keyDraws + 1 } :=
  rfl

theorem State.createPartition_spec (s : State) (p : Nat) (b : Bytes) :
    (s.createPartition p b).parts = tput s.parts p (s.madePartition b) ∧ (s.createPartition p b).keyDraws = s.keyDraws + 1
      ∧ (s.createPartition p b).dram = (s.zeroise (s.madePartition b)).dram ∧ (s.createPartition p b).spad = (s.zeroise (s.madePartition b)).spad := by
  have hzero := State.keeps_zeroise (F := [.boot, .dram, .spad, .caches, .unsettled, .near, .trust]) (s.madePartition b) (by decide)
    (State.keeps_self _ s)
  have hcount := s.keeps_cleanUnits (s.madePartition b)
  have hparts : (s.cleanUnits (s.madePartition b)).parts = s.parts := (hcount.1 .parts (by decide)).trans (hzero.1 .parts (by decide))
  have hdraws : (s.cleanUnits (s.madePartition b)).keyDraws = s.keyDraws := (hcount.1 .keyDraws (by decide)).trans (hzero.1 .keyDraws (by decide))
  rw [State.createPartition_eq, hparts, hdraws]
  exact ⟨rfl, rfl, hcount.1 .dram (by decide), hcount.1 .spad (by decide)⟩

theorem mem_createPcs {b : Bytes} {k : Nat} : k ∈ (createPcs b).map Prod.fst ↔ ∃ i < u16 b 24, k = u16 b (32 + 4 * i) := by
  simp only [createPcs, List.map_map, List.mem_map, List.mem_range, Function.comp_apply]
  exact exists_congr (fun i => and_congr_right' eq_comm)

/-- Pseudo-channels named apart are assigned with their counts. -/
theorem tget_createPcs {b : Bytes} (h : ∀ i < u16 b 24, ∀ j < i, u16 b (32 + 4 * j) ≠ u16 b (32 + 4 * i)) {i : Nat} (hi : i < u16 b 24) :
    tget (tableOf (createPcs b)) (u16 b (32 + 4 * i)) = some (u8 b (34 + 4 * i)) := by
  have hnodup : ((createPcs b).map Prod.fst).Nodup := by
    simp only [createPcs, List.map_map]
    refine List.Nodup.map_on (fun x hx y hy hxy => ?_) List.nodup_range
    rw [List.mem_range] at hx hy
    by_contra hne
    rcases Nat.lt_or_gt_of_ne hne with hlt | hlt
    · exact h y hy x hlt hxy
    · exact h x hx y hlt hxy.symm
  exact tget_foldl_tput_of_mem (e := (u16 b (32 + 4 * i), u8 b (34 + 4 * i)))
    (List.mem_map.2 ⟨i, List.mem_range.2 hi, rfl⟩) hnodup

theorem mem_clusterList_madePartition (s : State) (b : Bytes) {c : Nat} :
    c ∈ (s.madePartition b).clusterList ↔ c < 64 ∧ bit (u64 b 8) c = true := by
  simp only [Partition.clusterList, List.mem_filter, List.mem_range, Partition.ownsCluster, State.madePartition, Partition.fresh, createSettings,
    BitVec.getLsbD_ofNat, bit, Bool.and_eq_true, decide_eq_true_eq]
  tauto

/-- Addresses of the pseudo-channels that a new partition gets. -/
theorem State.get_dram_createPartition (s : State) (p : Nat) (b : Bytes) (a : Nat) : (s.createPartition p b).dram.get a
    = if a / (16 * bankStride) ∈ (createPcs b).map Prod.fst then 0 else s.dram.get a := by
  obtain ⟨-, -, hdram, -⟩ := s.createPartition_spec p b
  rw [hdram, State.dram_zeroise, Mem.get_clearPcs]
  exact if_congr mem_keys_tableOf rfl rfl

theorem State.poison_createPartition (s : State) (p : Nat) {b : Bytes} {a : Nat} (h : a / (16 * bankStride) ∈ (createPcs b).map Prod.fst) :
    (s.createPartition p b).dram.poison.contains (a / 8) = false := by
  obtain ⟨-, -, hdram, -⟩ := s.createPartition_spec p b
  have hword : 8 * (a / 8) / (16 * bankStride) = a / (16 * bankStride) := by
    unfold bankStride
    omega
  have hsound : ((s.createPartition p b).dram).sound (a / 8) := by
    rw [hdram, State.dram_zeroise]
    exact Mem.sound_clearPcs (.inl (by rw [hword]; exact mem_keys_tableOf.2 h))
  exact hsound.1

theorem State.get_spad_createPartition (s : State) (p : Nat) (b : Bytes) (a : Nat) : (s.createPartition p b).spad.get a
    = if a / 2 ^ 24 < 64 ∧ bit (u64 b 8) (a / 2 ^ 24) = true then 0 else s.spad.get a := by
  obtain ⟨-, -, -, hspad⟩ := s.createPartition_spec p b
  rw [hspad, State.spad_zeroise, Mem.get_clearSpads, if_congr (mem_clusterList_madePartition s b) rfl rfl]

/-- What part.create leaves. -/
theorem State.partCreated {s t : State} {fn p : Nat} {b : Bytes} (h : ∀ i < u16 b 24, ∀ j < i, u16 b (32 + 4 * j) ≠ u16 b (32 + 4 * i))
    (ht : t = (s.createPartition p b).respond fn .ok []) :
    s.answered t fn .ok [] ∧ t.keyDraws = s.keyDraws + 1 ∧ t.flight = s.flight ∧ t.streams = s.streams
      ∧ (∀ k, k ≠ p → t.part? k = s.part? k)
      ∧ (∃ P, t.part? p = some P ∧ P.live = createSettings b ∧ P.staged = P.live ∧ P.keys = s.keyDraws ∧ P.queues = [] ∧ P.pages = []
        ∧ tget P.ctxs 0 = some { cls := 0, ranges := [] } ∧ P.pool = none ∧ P.zeroing = none
        ∧ (∀ i < u16 b 24, tget P.pcs (u16 b (32 + 4 * i)) = some (u8 b (34 + 4 * i)))
        ∧ (∀ k, (tget P.pcs k).isSome = true → ∃ i < u16 b 24, k = u16 b (32 + 4 * i)))
      ∧ (∀ a, (∃ i < u16 b 24, a / (16 * bankStride) = u16 b (32 + 4 * i)) → t.dram.get a = 0 ∧ t.dram.poison.contains (a / 8) = false)
      ∧ (∀ a, (∀ i < u16 b 24, a / (16 * bankStride) ≠ u16 b (32 + 4 * i)) → t.dram.get a = s.dram.get a)
      ∧ (∀ a, a / 2 ^ 24 < 64 → bit (u64 b 8) (a / 2 ^ 24) = true → t.spad.get a = 0)
      ∧ (∀ a, a / 2 ^ 24 < 64 → bit (u64 b 8) (a / 2 ^ 24) = false → t.spad.get a = s.spad.get a) := by
  obtain ⟨hparts, hdraws, -, -⟩ := s.createPartition_spec p b
  have hkeeps := State.keeps_createPartition (F := [.boot, .dram, .spad, .caches, .unsettled, .parts, .near, .keyDraws, .trust, .perf]) p b (by decide)
    (State.keeps_self _ s)
  have hans := State.answered_after (State.raisesOnly_of_funcs (hkeeps.1 .funcs (by decide))) fn .ok []
  obtain ⟨F, H, O, hr⟩ := (s.createPartition p b).respond_eq fn .ok []
  rw [← ht] at hans
  rw [hr] at ht
  subst ht
  have hpart (k : Nat) : (s.createPartition p b).part? k = if k = p then some (s.madePartition b) else s.part? k := by
    unfold State.part?
    rw [hparts, tget_tput]
  refine ⟨hans, hdraws, hkeeps.1 .flight (by decide), hkeeps.1 .streams (by decide), fun k hk => (hpart k).trans (if_neg hk),
    ⟨s.madePartition b, (hpart p).trans (if_pos rfl), rfl, rfl, rfl, rfl, rfl, rfl, rfl, rfl, fun i hi => tget_createPcs h hi,
      fun k hk => mem_createPcs.1 (mem_keys_tableOf.1 (mem_keys_of_tget hk))⟩, fun a ha => ?_, fun a ha => ?_, fun a hlt ha => ?_, fun a _ ha => ?_⟩
  · have hmem := mem_createPcs.2 ha
    exact ⟨(s.get_dram_createPartition p b a).trans (if_pos hmem), s.poison_createPartition p hmem⟩
  · refine (s.get_dram_createPartition p b a).trans (if_neg (fun hmem => ?_))
    obtain ⟨i, hi, heq⟩ := mem_createPcs.1 hmem
    exact ha i hi heq
  · exact (s.get_spad_createPartition p b a).trans (if_pos ⟨hlt, ha⟩)
  · refine (s.get_spad_createPartition p b a).trans (if_neg (fun h => ?_))
    rw [ha] at h
    exact Bool.false_ne_true h.2

/-! ### Its fields and conditions -/

/-- The pseudo-channels named before the i-th of a request. -/
theorem fresh_iff {b : Bytes} {i : Nat} (hi : i < u16 b 24) :
    (!(((createPcs b).take i).map Prod.fst).contains (u16 b (32 + 4 * i))) = true ↔ ∀ j < i, u16 b (32 + 4 * j) ≠ u16 b (32 + 4 * i) := by
  have htake : ((createPcs b).take i).map Prod.fst = (List.range i).map (fun j => u16 b (32 + 4 * j)) := by
    rw [createPcs, ← List.map_take, List.take_range, Nat.min_eq_left hi.le, List.map_map]
    rfl
  rw [htake]
  simp

end Sys2Proof.Machine
end

section
/-! SUPPORT. Upkeep.lean: what the ends of commands, the deletion of queues and the firmware's writes to pools make of partitions and mailboxes (O57). -/

namespace Sys2Proof.Machine

/-! ### The relation -/

/-- A change of a partition that brings in no queue of another context. -/
def sameContexts (g : Partition → Partition) : Prop := ∀ P, ∀ e ∈ (g P).queues, ∃ e' ∈ P.queues, e.2.ctx = e'.2.ctx

/-- t comes from s by steps of a few kinds: partitions change and bring in no queue of another context; vectors and events rise; mailboxes that
wait for a queue are answered; what lies beside partitions and mailboxes may change as it will. -/
inductive State.upkeep (s : State) : State → Prop
  | refl : s.upkeep s
  | rest {t u : State} (h : s.upkeep t) (hp : u.parts = t.parts) (hf : u.funcs = t.funcs) : s.upkeep u
  | part {t : State} (h : s.upkeep t) (p : Nat) {g : Partition → Partition} (hg : sameContexts g) : s.upkeep (t.updPart p g)
  | vector {t : State} (h : s.upkeep t) (fn v : Nat) : s.upkeep (t.raiseVector fn v)
  | event {t : State} (h : s.upkeep t) (fn i : Nat) : s.upkeep (t.raiseEvent fn i)
  | answer {t : State} (h : s.upkeep t) {e : Nat × Func} {p q : Nat} (he : e ∈ t.funcs) (hw : e.2.waitFor = some (.queueDestroy p q))
      (a : Answer) (b : Bytes) : s.upkeep (t.respond e.1 a b)

theorem mem_of_tget {α : Type} {t : Tab α} {k : Nat} {v : α} (h : tget t k = some v) : (k, v) ∈ t := by
  induction t with
  | nil => cases h
  | cons e t ih =>
    obtain ⟨i, x⟩ := e
    simp only [tget] at h
    split at h
    · next hk =>
      cases h
      rw [hk]
      exact List.mem_cons_self
    · exact List.mem_cons_of_mem _ (ih h)

theorem mem_tput {α : Type} {t : Tab α} {k : Nat} {x : α} {e : Nat × α} (h : e ∈ tput t k x) : e = (k, x) ∨ e ∈ t := by
  induction t with
  | nil => exact .inl (List.mem_singleton.1 h)
  | cons i t ih =>
    obtain ⟨j, v⟩ := i
    simp only [tput] at h
    split at h
    · exact (List.mem_cons.1 h)
    split at h
    · exact (List.mem_cons.1 h).imp_right (List.mem_cons_of_mem _)
    · rcases List.mem_cons.1 h with rfl | h
      · exact .inr List.mem_cons_self
      · exact (ih h).imp_right (List.mem_cons_of_mem _)

theorem mem_tupd {α : Type} {t : Tab α} {k : Nat} {f : α → α} {e : Nat × α} (h : e ∈ tupd t k f) :
    e ∈ t ∨ ∃ v, (k, v) ∈ t ∧ e = (k, f v) := by
  unfold tupd at h
  split at h
  · next v hv =>
    rcases mem_tput h with he | he
    · exact .inr ⟨v, mem_of_tget hv, he⟩
    · exact .inl he
  · exact .inl h

theorem sameContexts_of_queues {g : Partition → Partition} (h : ∀ P, (g P).queues = P.queues) : sameContexts g :=
  fun P e he => ⟨e, h P ▸ he, rfl⟩

theorem sameContexts_of_subset {g : Partition → Partition} (h : ∀ P, (g P).queues ⊆ P.queues) : sameContexts g :=
  fun P e he => ⟨e, h P he, rfl⟩

section
variable {s t u : State}

theorem State.upkeep.keeps {F : List Field} (h : s.upkeep t) (k : t.keeps F u) (hp : Field.parts ∉ F) (hf : Field.funcs ∉ F) : s.upkeep u :=
  h.rest (k.1 .parts hp) (k.1 .funcs hf)

theorem State.upkeep.each {α : Type} {l : List α} {f : State → α → State} (h : s.upkeep t) (hf : ∀ u x, s.upkeep u → s.upkeep (f u x)) :
    s.upkeep (t.each l f) :=
  State.each_induction (R := s.upkeep) h (fun u x _ hu => hf u x hu)

theorem State.upkeep.updQueue (h : s.upkeep t) (p q : Nat) {g : Queue → Queue} (hg : ∀ Q, (g Q).ctx = Q.ctx) : s.upkeep (t.updQueue p q g) := by
  refine h.part p (fun P e he => ?_)
  rcases mem_tupd he with he | ⟨Q, hQ, rfl⟩
  · exact ⟨e, he, rfl⟩
  · exact ⟨(q, Q), hQ, hg Q⟩

theorem State.upkeep.logErr (h : s.upkeep t) (n : LogNew) : s.upkeep (t.logErr n) := by
  unfold State.logErr
  dsimp only
  generalize hpush : ({ t.readTimer.2 with log := t.readTimer.2.log.push { bytes := n.bytes t.readTimer.1, readBy := [] } n.cls } : State) = pushed
  have hpushed : s.upkeep pushed := h.rest (by rw [← hpush]; rfl) (by rw [← hpush]; rfl)
  split
  · exact (hpushed.event 0 5).event (n.part + 1) 5
  · exact hpushed.event 0 5

/-! ### Host memory and the completion ring -/

theorem State.upkeep.hostWrite (h : s.upkeep t) (p q key : Nat) (b : Bytes) : s.upkeep (t.hostWrite p q key b) := by
  unfold State.hostWrite
  split
  · exact h.updQueue p q (fun _ => rfl)
  · exact h.rest rfl rfl

theorem State.upkeep.ringWrite (h : s.upkeep t) (p q : Nat) (Q : Queue) (e : Bytes) : s.upkeep (t.ringWrite p q Q e) := by
  unfold State.ringWrite
  extract_lets i phase e' written counted n fire put
  have hwritten : s.upkeep written := h.hostWrite p q _ e'
  have hcounted : s.upkeep counted := hwritten.keeps (State.keeps_countIo _ _ _ _ _ _ (by decide) (State.keeps_self [.perf] written)) (by decide) (by decide)
  have hput : s.upkeep put := hcounted.updQueue p q (fun _ => rfl)
  split
  · exact hput.vector (p + 1) Q.vector
  · exact hput

theorem State.upkeep.ringPut (h : s.upkeep t) (p q : Nat) (e : Bytes) : s.upkeep (t.ringPut p q e) := by
  unfold State.ringPut
  split
  · exact h
  · split
    · exact h.updQueue p q (fun _ => rfl)
    · exact h.ringWrite p q _ e

theorem State.upkeep.ringDrain (h : s.upkeep t) (p q n : Nat) : s.upkeep (t.ringDrain p q n) := by
  induction n generalizing t with
  | zero => exact h
  | succ n ih =>
    unfold State.ringDrain
    split
    · exact h
    · split
      · exact h
      · split
        · exact h
        · next Q _ _ _ rest _ _ =>
          have htaken : s.upkeep (t.updQueue p q (fun Q => { Q with held := rest })) := h.updQueue p q (fun _ => rfl)
          exact ih (htaken.ringWrite p q Q _)

theorem State.upkeep.lastRecords (h : s.upkeep t) (p q : Nat) : s.upkeep (t.lastRecords p q) := by
  unfold State.lastRecords
  split
  · exact h
  · split
    · exact h
    · next Q _ _ =>
      have hread : s.upkeep (t.updQueue p q (fun R => { R with consumed := leNat (t.hostBytes (hostKey (p + 1) Q.cqConsumer) 8) })) :=
        h.updQueue p q (fun _ => rfl)
      exact hread.ringDrain p q _

/-! ### The end of a command -/

theorem State.upkeep.rejectGroup (h : s.upkeep t) (p g : Nat) : s.upkeep (t.rejectGroup p g) := by
  unfold State.rejectGroup
  extract_lets counted raised
  have hcounted : s.upkeep counted := h.part p (sameContexts_of_queues (fun _ => rfl))
  exact ((hcounted.event 0 0).event (p + 1) 0).logErr _

theorem State.upkeep.stepBoundary (h : s.upkeep t) (p : Nat) : s.upkeep (t.stepBoundary p).1 := by
  unfold State.stepBoundary
  split
  · exact h
  · split
    · exact h
    · extract_lets a b c live moved applied handed afterA afterB afterC
      have happlied : s.upkeep applied := h.part p (sameContexts_of_queues (fun _ => rfl))
      have hhanded : s.upkeep handed := happlied.each (fun u i hu => hu.rest rfl rfl)
      have hA : s.upkeep afterA := by
        dsimp only [afterA]
        split
        · exact hhanded
        · exact hhanded.rejectGroup p 0
      have hB : s.upkeep afterB := by
        dsimp only [afterB]
        split
        · exact hA
        · exact hA.rejectGroup p 1
      dsimp only [afterC]
      split
      · exact hB
      · exact hB.rejectGroup p 2

theorem State.upkeep.atBoundary (h : s.upkeep t) (f : Flight) : s.upkeep (t.atBoundary f).1 := by
  unfold State.atBoundary
  split
  · exact h.stepBoundary f.p
  · exact h

theorem State.upkeep.reportEnd (h : s.upkeep t) (id : Nat) (f : Flight) (st : Status) : s.upkeep (t.reportEnd id f st) := by
  have hlogged : s.upkeep (t.logSecondary f st) := h.each (fun u c hu => hu.logErr _)
  have hwithdrawn : s.upkeep (t.withdrawn id f st) := hlogged.rest rfl rfl
  have hsignalled : s.upkeep ((t.withdrawn id f st).signalled f) := by
    unfold State.signalled
    split
    · exact hwithdrawn.updQueue f.p f.q (fun _ => rfl)
    · exact hwithdrawn
  have hskipped : s.upkeep (((t.withdrawn id f st).signalled f).skipNoted f st) := by
    unfold State.skipNoted
    split
    · refine hsignalled.updQueue f.p f.q (fun Q => ?_)
      obtain ⟨n, hn⟩ := Q.addSkip_eq (f.skipEntry st)
      rw [hn]
    · exact hsignalled
  have hcounted := hskipped.keeps (State.keeps_endCounted _ f st) (by decide) (by decide)
  have hrecorded : s.upkeep (((((t.withdrawn id f st).signalled f).skipNoted f st).endCounted f st).recorded f st) := by
    unfold State.recorded
    split
    · exact (hcounted.keeps (State.keeps_stamp f.island (by decide) (State.keeps_self [.cycles, .free] _)) (by decide) (by decide)).ringPut _ _ _
    · exact hcounted
  exact hrecorded.keeps (State.keeps_finishSample id f st (by decide) (State.keeps_self [.perf, .free] _)) (by decide) (by decide)

theorem State.upkeep.answerWait (h : s.upkeep t) (p q : Nat) (a : Answer) : s.upkeep (t.answerWait (.queueDestroy p q) a) := by
  unfold State.answerWait
  split
  · next e he => exact h.answer (List.mem_of_find?_eq_some he) (by simpa using List.find?_some he) a []
  · exact h

theorem tdel_subset {α : Type} (t : Tab α) (i : Nat) : tdel t i ⊆ t := List.filter_subset_self _

theorem State.upkeep.settleDestroy (h : s.upkeep t) (p q : Nat) : s.upkeep (t.settleDestroy p q) := by
  unfold State.settleDestroy
  split
  · exact h
  · split
    · extract_lets gone cleared
      have hgone : s.upkeep gone := h.part p (sameContexts_of_subset (fun P => tdel_subset P.queues q))
      have hcleared : s.upkeep cleared := hgone.rest rfl rfl
      exact hcleared.answerWait p q .ok
    · exact h

theorem State.upkeep.retire (h : s.upkeep t) (id : Nat) : s.upkeep (t.retire id) := by
  cases hid : tget t.flight id with
  | none =>
    rw [State.retire_absent hid]
    exact h
  | some f =>
    rw [State.retire_eq hid]
    exact ((h.atBoundary f).reportEnd id f _).settleDestroy f.p f.q

theorem State.upkeep.condition (h : s.upkeep t) (id : Nat) (st : Status) : s.upkeep (t.condition id st) := h.rest rfl rfl

theorem State.upkeep.abandon (h : s.upkeep t) (id : Nat) (st : Status) : s.upkeep (t.abandon id st) := by
  unfold State.abandon
  split
  · exact h
  · next f _ =>
    have hdropped : s.upkeep (t.dropWork id) := h.rest rfl rfl
    have hscrambled := hdropped.keeps (State.keeps_scramble f.writes (by decide) (State.keeps_self [.dram, .spad, .hostMem, .free] _))
      (by decide) (by decide)
    exact (hscrambled.condition id st).retire id

/-! ### Queues that go -/

/-- The queues that a test picks are out of the partition, their waiting records written. -/
def State.queuesGone (s : State) (p : Nat) (P : Partition) (f : Queue → Bool) : State :=
  let gone := (P.queues.filter (fun e => f e.2)).map Prod.fst
  let s := (s.each gone (fun s q => s.lastRecords p q)).updPart p (fun P => { P with queues := P.queues.filter (fun e => !f e.2) })
  { s with sigs := s.sigs.filter (fun g => !(decide (g.p = p) && gone.contains g.toQ)) }

theorem State.upkeep.queuesGone (h : s.upkeep t) (p : Nat) (P : Partition) (f : Queue → Bool) : s.upkeep (t.queuesGone p P f) :=
  ((State.upkeep.each h (fun _ q hu => hu.lastRecords p q)).part p
    (sameContexts_of_subset (fun P => List.filter_subset_self P.queues))).rest rfl rfl

theorem State.deleteQueues_eq {p : Nat} {P : Partition} (hP : t.part? p = some P) (f : Queue → Bool) :
    t.deleteQueues p f = (match ((t.queuesGone p P f).func (p + 1)).waitFor with
      | some (.queueDestroy _ q) => if ((P.queues.filter (fun e => f e.2)).map Prod.fst).contains q
          then (t.queuesGone p P f).respond (p + 1) .ok [] else t.queuesGone p P f
      | _ => t.queuesGone p P f) := by
  unfold State.deleteQueues
  rw [hP]
  rfl

end

end Sys2Proof.Machine
end

section
/-! SUPPORT. PoolUpkeep.lean: the firmware's writes to pools as upkeep, and what upkeep leaves (O57). -/

namespace Sys2Proof.Machine

section
variable {s t u : State}

theorem State.upkeep.respondDestroy (h : s.upkeep t) {k p q : Nat} (hw : (t.func k).waitFor = some (.queueDestroy p q)) (a : Answer) (b : Bytes) :
    s.upkeep (t.respond k a b) := by
  cases hF : tget t.funcs k with
  | none =>
    rw [State.func, tgetD, hF] at hw
    cases hw
  | some F =>
    rw [State.func, tgetD, hF] at hw
    exact h.answer (mem_of_tget hF) hw a b

theorem State.upkeep.deleteQueues (h : s.upkeep t) (p : Nat) (f : Queue → Bool) : s.upkeep (t.deleteQueues p f) := by
  cases hP : t.part? p with
  | none =>
    unfold State.deleteQueues
    rw [hP]
    exact h
  | some P =>
    have hgone := h.queuesGone p P f
    rw [State.deleteQueues_eq hP]
    split
    · next p' q hw =>
      split
      · exact hgone.respondDestroy hw .ok []
      · exact hgone
    · exact hgone

/-! ### Writes of the firmware -/

theorem State.upkeep.addCandidate (h : s.upkeep t) (c : Candidate) (w place n nbits : Nat) : s.upkeep (t.addCandidate c w place n nbits) := by
  unfold State.addCandidate
  extract_lets isNew room flash listed loc logged
  have hlisted : s.upkeep listed := h.rest rfl rfl
  have hlogged : s.upkeep logged := hlisted.logErr _
  split
  · exact hlogged.logErr _
  · exact hlogged

theorem State.upkeep.countCorrected (h : s.upkeep t) (w nbits : Nat) (first : Bool) : s.upkeep (t.countCorrected w nbits first) := by
  unfold State.countCorrected
  extract_lets bank row key r n full cand r' ticked counted columns
  have hcounted : s.upkeep counted := h.rest rfl rfl
  split
  · exact hcounted
  · split
    · split
      · exact hcounted
      · exact hcounted.addCandidate _ _ _ _ _
    · refine hcounted.each (fun u x hu => ?_)
      extract_lets c rows drop flash merged
      have hmerged : s.upkeep merged := hu.rest rfl rfl
      split
      · exact hmerged
      · exact hmerged.addCandidate _ _ _ _ _

theorem State.upkeep.meetWord (h : s.upkeep t) (st : Store) (w : Nat) (first : Bool) : s.upkeep (t.meetWord st w first) := by
  unfold State.meetWord
  extract_lets e near listed poisoned
  have hlisted : s.upkeep listed := h.rest rfl rfl
  split
  · exact h
  · split
    · cases st
      · exact hlisted.countCorrected w e first
      · exact hlisted
    · have hpoisoned : s.upkeep poisoned := h.rest (State.parts_setStore _ _ _) (State.funcs_setStore _ _ _)
      exact hpoisoned.logErr _

theorem State.upkeep.mergeWords (h : s.upkeep t) (st : Store) (a n : Nat) : s.upkeep (t.mergeWords st a n) := by
  unfold State.mergeWords
  extract_lets l met o
  have hmet : s.upkeep met := h.each (fun u w hu => hu.meetWord st w _)
  split
  · exact hmet
  · cases st
    · exact hmet.rest rfl rfl
    · exact hmet.rest rfl rfl

theorem State.upkeep.leaseHit (h : s.upkeep t) (w : Writer) (a : Nat) (l : Lease) : s.upkeep (t.leaseHit w a l) := by
  unfold State.leaseHit
  split
  · exact h
  · extract_lets who met counted
    have hcounted : s.upkeep counted := h.rest rfl rfl
    exact hcounted.logErr _

theorem State.upkeep.noted (h : s.upkeep t) (w : Writer) (g : Seg) (b : Bytes) (bad : Nat → Bool) :
    s.upkeep ((t.mixReaders w g b bad).unsettle w g) := by
  have hk : t.keeps [.flight, .unsettled] ((t.mixReaders w g b bad).unsettle w g) := by simp
  exact h.keeps hk (by decide) (by decide)

theorem State.upkeep.writeSeg (h : s.upkeep t) (w : Writer) (g : Seg) (b : Bytes) (bad : Bool) : s.upkeep (t.writeSeg w g b bad) := by
  unfold State.writeSeg
  split
  case h_1 =>
    have hmixed : s.upkeep (t.mixReaders w g b (fun _ => false)) := h.rest rfl rfl
    exact hmixed.hostWrite w.p w.q g.addr b
  case h_2 =>
    extract_lets words merged merge m₀ m noted put
    have hmerged : s.upkeep merged := h.mergeWords .spad g.addr b.length
    have hnoted : s.upkeep noted := hmerged.noted w g b m.badWord
    have hput : s.upkeep put := hnoted.rest rfl rfl
    split
    · exact hput.condition w.cmd .poison
    · exact hput
  case h_3 =>
    split
    · exact h.condition w.cmd .timeoutCdc
    · extract_lets hit words merged merge m₀ m noted put ended
      have hhit : s.upkeep hit := h.each (fun u l hu => hu.leaseHit w g.addr l)
      have hmerged : s.upkeep merged := hhit.mergeWords .dram g.addr b.length
      have hnoted : s.upkeep noted := hmerged.noted w g b m.badWord
      have hended : s.upkeep ended := hnoted.rest rfl rfl
      split
      · exact hended.condition w.cmd .poison
      · exact hended

theorem State.upkeep.writeAll (h : s.upkeep t) (w : Writer) (l : List Seg) (b : Bytes) (bad : Bool) : s.upkeep (t.writeAll w l b bad) := by
  induction l generalizing t b with
  | nil => exact h
  | cons g l ih => exact ih (h.writeSeg w g _ bad) _

theorem State.upkeep.smWrite (h : s.upkeep t) (w : Writer) (va : Nat) (b : Bytes) : s.upkeep (t.smWrite w va b) := by
  unfold State.smWrite
  split
  · exact h
  · split
    · exact h.writeAll w _ b false
    · exact h.condition w.cmd .bounds

theorem State.upkeep.bumpRefs (h : s.upkeep t) (w : Writer) (o : Pool) (r : Nat) (up : Bool) : s.upkeep (t.bumpRefs w o r up) := by
  unfold State.bumpRefs
  split
  · exact h
  · exact h.smWrite w _ _

theorem State.upkeep.releaseStream (h : s.upkeep t) (w : Writer) (st : Nat) (after : List Nat) : s.upkeep (t.releaseStream w st after).1 := by
  unfold State.releaseStream
  extract_lets wr
  split
  case h_2 => exact h
  case h_1 P e _ _ =>
    split
    · exact h
    · rename_i o _
      split
      rename_i own recs n _
      extract_lets bumped cleared later
      have hbumped : s.upkeep bumped := h.each (fun u r hu => hu.bumpRefs wr o r false)
      have hcleared : s.upkeep cleared := hbumped.smWrite wr _ _
      have hlater : s.upkeep later := hcleared.part wr.p (sameContexts_of_queues (fun _ => rfl))
      exact hlater.rest rfl rfl

/-! ### What upkeep leaves -/

/-- No partition goes, and no queue of another context comes. -/
theorem State.upkeep.queues (h : s.upkeep t) {p : Nat} {P : Partition} (hP : s.part? p = some P) :
    ∃ P', t.part? p = some P' ∧ ∀ e ∈ P'.queues, ∃ e' ∈ P.queues, e.2.ctx = e'.2.ctx := by
  induction h with
  | refl => exact ⟨P, hP, fun e he => ⟨e, he, rfl⟩⟩
  | rest _ hp _ ih =>
    obtain ⟨P', hP', hq⟩ := ih
    exact ⟨P', (State.part?_congr hp p).trans hP', hq⟩
  | @part t h k g hg ih =>
    obtain ⟨P', hP', hq⟩ := ih
    rw [State.part?_updPart]
    by_cases hk : p = k
    · subst hk
      refine ⟨g P', by rw [if_pos rfl, hP', Option.map_some], fun e he => ?_⟩
      obtain ⟨e', he', hc⟩ := hg P' e he
      obtain ⟨e'', he'', hc'⟩ := hq e' he'
      exact ⟨e'', he'', hc.trans hc'⟩
    · exact ⟨P', by rw [if_neg hk, hP'], hq⟩
  | vector _ fn v ih =>
    obtain ⟨P', hP', hq⟩ := ih
    exact ⟨P', (State.part?_congr (State.parts_raiseVector _ fn v) p).trans hP', hq⟩
  | @event t _ fn i ih =>
    obtain ⟨P', hP', hq⟩ := ih
    have hparts : (t.raiseEvent fn i).parts = t.parts :=
      (State.keeps_raiseEvent fn i (by decide) (State.keeps_self [.timer, .funcs, .log, .out, .free] t)).1 .parts (by decide)
    exact ⟨P', (State.part?_congr hparts p).trans hP', hq⟩
  | @answer t _ e _ _ _ _ a b ih =>
    obtain ⟨P', hP', hq⟩ := ih
    have hparts : (t.respond e.1 a b).parts = t.parts :=
      (State.keeps_respond e.1 a b (by decide) (State.keeps_self [.funcs, .handed, .out] t)).1 .parts (by decide)
    exact ⟨P', (State.part?_congr hparts p).trans hP', hq⟩

/-- Two register files hold the same request. -/
def Func.sameRequest (F G : Func) : Prop := G.req = F.req ∧ G.reqSeq = F.reqSeq

/-- The requests in the mailboxes stay. -/
theorem State.upkeep.requests (h : s.upkeep t) (k : Nat) : (s.func k).sameRequest (t.func k) := by
  induction h with
  | refl => exact ⟨rfl, rfl⟩
  | @rest t u _ _ hf ih =>
    have hfunc : u.func k = t.func k := by rw [State.func, hf]; rfl
    rw [hfunc]
    exact ih
  | part _ _ _ ih => exact ih
  | @vector t _ fn v ih =>
    obtain ⟨n, hn, -⟩ := t.func_raiseVector fn v k
    rw [hn]
    exact ih
  | @event t _ fn i ih =>
    obtain ⟨e, n, hn⟩ := t.func_raiseEvent fn i k
    rw [hn]
    exact ih
  | @answer t _ e _ _ _ _ a b ih =>
    obtain ⟨n, hn⟩ := t.func_respond e.1 a b k
    rw [hn]
    split
    · next hk =>
      subst hk
      exact ih
    · exact ih

/-- An answer given after upkeep answers the request that was there before. -/
theorem State.answered_afterUpkeep (h : s.upkeep t) (fn : Nat) (a : Answer) (body : Bytes) : s.answered (t.respond fn a body) fn a body := by
  obtain ⟨hreq, hreqSeq⟩ := h.requests fn
  obtain ⟨hresp, hvalid, hbusy, hstatus, hseq⟩ := t.answered_respond fn a body
  have hheader : t.reqHeader fn = s.reqHeader fn := by simp only [State.reqHeader, hreq]
  exact ⟨by rw [hresp, hheader], hvalid, hbusy, hstatus, by rw [hseq, hreqSeq]⟩

end

end Sys2Proof.Machine
end

section
/-! SUPPORT. Teardowns.lean: what ctx.teardown, part.reset and part.destroy leave, and the messages on partitions (O57). -/

namespace Sys2Proof.Machine

/-! ### Events stay -/

section
variable {s : State} {fn k i j : Nat}

/-- The event bits of a function after an event. -/
theorem State.event_raiseEvent (s : State) (fn i k : Nat) :
    ((s.raiseEvent fn i).func k).event = if k = fn then (s.func fn).event ||| (if (s.func fn).event.getLsbD i then 0 else BitVec.ofNat 9 (2 ^ i))
      else (s.func k).event := by
  unfold State.raiseEvent
  dsimp only
  split
  · next hset =>
    split
    · next hk =>
      subst hk
      simp
    · rfl
  · next hclear =>
    have hupd : ((s.updFunc fn (fun F => { F with event := F.event ||| BitVec.ofNat 9 (2 ^ i) })).func k).event
        = if k = fn then (s.func fn).event ||| BitVec.ofNat 9 (2 ^ i) else (s.func k).event := by
      rw [State.func_updFunc]
      split <;> rfl
    split
    · obtain ⟨n, hn, -⟩ := State.func_raiseVector (s.updFunc fn (fun F => { F with event := F.event ||| BitVec.ofNat 9 (2 ^ i) })) fn 0 k
      rw [hn]
      exact hupd
    · exact hupd

theorem State.event_raiseEvent_self (s : State) (fn : Nat) (hi : i < 9) : ((s.raiseEvent fn i).func fn).event.getLsbD i = true := by
  rw [State.event_raiseEvent, if_pos rfl]
  cases h : (s.func fn).event.getLsbD i
  · simp only [Bool.false_eq_true, if_false, BitVec.getLsbD_or, h, Bool.false_or, BitVec.getLsbD_ofNat, Nat.testBit_two_pow_self, hi,
      decide_true, Bool.and_true]
  · simp [h]

theorem State.event_raiseEvent_kept (h : (s.func k).event.getLsbD j = true) (fn i : Nat) : ((s.raiseEvent fn i).func k).event.getLsbD j = true := by
  rw [State.event_raiseEvent]
  split
  · next hk =>
    subst hk
    simp [h]
  · exact h

theorem State.event_logErr_kept (h : (s.func k).event.getLsbD j = true) (n : LogNew) : ((s.logErr n).func k).event.getLsbD j = true := by
  unfold State.logErr
  dsimp only
  generalize hpush : ({ s.readTimer.2 with log := s.readTimer.2.log.push { bytes := n.bytes s.readTimer.1, readBy := [] } n.cls } : State) = pushed
  have hpushed : (pushed.func k).event.getLsbD j = true := by
    rw [← hpush]
    exact h
  split
  · exact State.event_raiseEvent_kept (State.event_raiseEvent_kept hpushed 0 5) (n.part + 1) 5
  · exact State.event_raiseEvent_kept hpushed 0 5

theorem State.event_respond_kept (h : (s.func k).event.getLsbD j = true) (fn : Nat) (a : Answer) (b : Bytes) :
    ((s.respond fn a b).func k).event.getLsbD j = true := by
  obtain ⟨n, hn⟩ := s.func_respond fn a b k
  rw [hn]
  split
  · next hk =>
    subst hk
    exact h
  · exact h

end

/-! ### Commands that are abandoned -/

section
variable {s t u : State} {id p : Nat}

theorem State.absent_abandon_self (s : State) (id : Nat) (st : Status) : tget (s.abandon id st).flight id = none := by
  unfold State.abandon
  split
  · next hid => exact hid
  · exact State.absent_retire_self _ id

/-- A command that is among those abandoned is out of flight. -/
theorem State.absent_abandoned {l : List Nat} (h : id ∈ l) (s : State) (st : Status) :
    tget (s.each l (fun s id => s.abandon id st)).flight id = none := by
  induction l generalizing s with
  | nil => cases h
  | cons k l ih =>
    by_cases hl : id ∈ l
    · exact ih hl (s.abandon k st)
    · obtain rfl : id = k := (List.mem_cons.1 h).resolve_right hl
      exact State.absent_each (s := s.abandon id st) (s.absent_abandon_self id st) (fun u k hu => State.absent_abandon hu k st)

/-! ### Queues that go -/

theorem State.upkeep.trans (h : s.upkeep t) (k : t.upkeep u) : s.upkeep u := by
  induction k with
  | refl => exact h
  | rest _ hp hf ih => exact ih.rest hp hf
  | part _ p hg ih => exact ih.part p hg
  | vector _ fn v ih => exact ih.vector fn v
  | event _ fn i ih => exact ih.event fn i
  | answer _ he hw a b ih => exact ih.answer he hw a b

/-- Of the queues that a test picks none is left. -/
theorem State.part?_deleteQueues {P : Partition} (hP : s.part? p = some P) (f : Queue → Bool) :
    ∃ P', (s.deleteQueues p f).part? p = some P' ∧ ∀ e ∈ P'.queues, f e.2 = false := by
  have hwritten : s.upkeep (s.each ((P.queues.filter (fun e => f e.2)).map Prod.fst) (fun s q => s.lastRecords p q)) :=
    State.upkeep.each .refl (fun _ q hu => hu.lastRecords p q)
  obtain ⟨P₁, hP₁, -⟩ := hwritten.queues hP
  have hgone : (s.queuesGone p P f).part? p = some { P₁ with queues := P₁.queues.filter (fun e => !f e.2) } := by
    refine (State.part?_updPart _ p p _).trans ?_
    rw [if_pos rfl, hP₁, Option.map_some]
  have hanswered (k : Nat) (a : Answer) (b : Bytes) : ((s.queuesGone p P f).respond k a b).parts = (s.queuesGone p P f).parts :=
    (State.keeps_respond k a b (by decide) (State.keeps_self [.funcs, .handed, .out] _)).1 .parts (by decide)
  refine ⟨{ P₁ with queues := P₁.queues.filter (fun e => !f e.2) }, ?_, fun e he => by simpa using (List.mem_filter.1 he).2⟩
  rw [State.deleteQueues_eq hP]
  split
  · split
    · exact (State.part?_congr (hanswered _ _ _) p).trans hgone
    · exact hgone
  · exact hgone

/-- After its queues have gone a partition gets none of theirs back. -/
theorem State.upkeep.queuesStayGone {f : Queue → Bool} (hf : ∀ Q Q' : Queue, Q.ctx = Q'.ctx → f Q = f Q') {P : Partition} (hP : s.part? p = some P)
    (hgone : ∀ e ∈ P.queues, f e.2 = false) (h : s.upkeep t) : ∃ P', t.part? p = some P' ∧ ∀ e ∈ P'.queues, f e.2 = false := by
  obtain ⟨P', hP', hq⟩ := h.queues hP
  refine ⟨P', hP', fun e he => ?_⟩
  obtain ⟨e', he', hc⟩ := hq e he
  rw [hf _ _ hc]
  exact hgone e' he'

/-! ### Scratchpad ranges -/

theorem Mem.get_clearRanges (l : List (Nat × Nat)) (m : Mem) (a : Nat) :
    (l.foldl (fun m r => m.clear r.1 r.2) m).get a = if ∃ r ∈ l, r.1 ≤ a ∧ a < r.1 + r.2 then 0 else m.get a := by
  induction l generalizing m with
  | nil => simp
  | cons r l ih =>
    rw [List.foldl_cons, ih, Mem.get_clear]
    by_cases hl : ∃ r ∈ l, r.1 ≤ a ∧ a < r.1 + r.2
    · rw [if_pos hl, if_pos (hl.imp (fun _ h => ⟨List.mem_cons_of_mem _ h.1, h.2⟩))]
    · rw [if_neg hl]
      refine if_congr ?_ rfl rfl
      simp only [List.exists_mem_cons_iff, hl, or_false]

theorem State.spad_clearRanges (s : State) (l : List (Nat × Nat)) :
    (s.each l (fun s r => s.clearArray .spad r.1 r.2)).spad = l.foldl (fun m r => m.clear r.1 r.2) s.spad :=
  (List.foldl_hom State.spad (fun _ _ => rfl)).symm

/-! ### Teardown of a context (R271) -/

/-- What a teardown leaves. -/
structure State.tornDown (s t : State) (p ctx : Nat) (C : Context) : Prop where
  upkeep : s.upkeep t
  event : (t.func (p + 1)).event.getLsbD 1 = true
  part : ∃ P', t.part? p = some P' ∧ tget P'.ctxs ctx = none ∧ ∀ q Q, tget P'.queues q = some Q → Q.ctx ≠ ctx
  flight : ∀ id f, tget s.flight id = some f → f.p = p → f.ctx = ctx → tget t.flight id = none
  spad : ∀ r ∈ C.ranges, ∀ a, r.1 ≤ a → a < r.1 + r.2 → t.spad.get a = 0

theorem State.teardown_spec {P : Partition} {ctx : Nat} {C : Context} (hP : s.part? p = some P) (hC : tget P.ctxs ctx = some C) (cause : Nat) :
    s.tornDown (s.teardown p ctx cause) p ctx C := by
  unfold State.teardown
  split
  · next hnone => cases hP.symm.trans hnone
  next P₀ hP₀ =>
  obtain rfl : P₀ = P := Option.some.inj (hP₀.symm.trans hP)
  split
  · next hnone => cases hC.symm.trans hnone
  next C₀ hC₀ =>
  obtain rfl : C₀ = C := Option.some.inj (hC₀.symm.trans hC)
  extract_lets before mine abandoned noticed emptied w streams released cleared dropped raised
  have habandoned : s.upkeep abandoned := State.upkeep.each .refl (fun _ id hu => hu.abandon id .contextTorn)
  have hnoticed : s.upkeep noticed :=
    habandoned.keeps (State.keeps_abortNotices p _ (by decide) (State.keeps_self [.out] abandoned)) (by decide) (by decide)
  have hemptied : s.upkeep emptied := hnoticed.deleteQueues p _
  have hstreams : emptied.upkeep (emptied.each streams (fun s st => (s.releaseStream w st before).1)) :=
    State.upkeep.each .refl (fun _ st hu => hu.releaseStream w st before)
  have hreleased : emptied.upkeep released :=
    hstreams.keeps (State.keeps_firmwareDone w (by decide) (State.keeps_self [.unsettled, .free] _)) (by decide) (by decide)
  have hcleared : emptied.upkeep cleared := hreleased.each (fun _ r hu => hu.rest rfl rfl)
  have hdropped : emptied.upkeep dropped := hcleared.part p (sameContexts_of_queues (fun _ => rfl))
  have hlog (n : LogNew) : raised.keeps [.timer, .funcs, .log, .out, .free] (raised.logErr n) :=
    State.keeps_logErr n (by decide) (State.keeps_self _ raised)
  have hraised : dropped.keeps [.timer, .funcs, .log, .out, .free] raised := State.keeps_raiseEvent (p + 1) 1 (by decide) (State.keeps_self _ dropped)
  have hend (n : LogNew) := State.keeps_trans hraised (hlog n)
  refine ⟨hemptied.trans ((hdropped.event (p + 1) 1).logErr _), ?_, ?_, fun id f hid hp hc => ?_, fun r hr a hlo hhi => ?_⟩
  · exact State.event_logErr_kept (dropped.event_raiseEvent_self (p + 1) (by decide)) _
  · obtain ⟨P₁, hP₁, -⟩ := hnoticed.queues hP
    obtain ⟨P₂, hP₂, hgone⟩ := State.part?_deleteQueues hP₁ (fun Q => decide (Q.ctx = ctx))
    obtain ⟨P₃, hP₃, hstay⟩ := hcleared.queuesStayGone (f := fun Q => decide (Q.ctx = ctx)) (fun Q Q' h => by rw [h]) hP₂ hgone
    refine ⟨{ P₃ with ctxs := tdel P₃.ctxs ctx }, ?_, ?_, fun q Q hQ => ?_⟩
    · rw [State.part?_congr ((hend _).1 .parts (by decide))]
      refine (State.part?_updPart cleared p p _).trans ?_
      rw [if_pos rfl, hP₃, Option.map_some]
    · rw [tget_tdel, if_pos rfl]
    · simpa using hstay (q, Q) (mem_of_tget hQ)
  · have hmem : id ∈ mine.map Prod.fst :=
      List.mem_map.2 ⟨(id, f), List.mem_filter.2 ⟨mem_of_tget hid, by simp [hp, hc]⟩, rfl⟩
    have h₁ : tget abandoned.flight id = none := State.absent_abandoned hmem s .contextTorn
    have h₂ : tget noticed.flight id = none :=
      State.absent_of_keeps h₁ (State.keeps_abortNotices p _ (by decide) (State.keeps_self [.out] abandoned)) (by decide)
    have h₃ : tget emptied.flight id = none := State.absent_deleteQueues h₂ p _
    have h₄ : tget released.flight id = none :=
      State.absent_of_keeps (State.absent_each h₃ (fun u st hu => State.absent_releaseStream hu w st before))
        (State.keeps_firmwareDone w (by decide) (State.keeps_self [.unsettled, .free] _)) (by decide)
    have h₅ : tget cleared.flight id = none := State.absent_each h₄ (fun u r hu => hu)
    exact State.absent_of_keeps (s := dropped) h₅ (hend _) (by decide)
  · have hspad : cleared.spad.get a = 0 := by
      rw [State.spad_clearRanges, Mem.get_clearRanges, if_pos ⟨r, hr, hlo, hhi⟩]
    exact (congrArg (fun m => Mem.get m a) ((hend _).1 .spad (by decide))).trans hspad

/-- What ctx.teardown leaves. -/
theorem State.contextEnded {P : Partition} {fn ctx : Nat} {C : Context} (hP : s.part? p = some P) (hC : tget P.ctxs ctx = some C)
    (ht : t = (s.teardown p ctx 0xFF).respond fn .ok []) :
    s.answered t fn .ok [] ∧ (t.func (p + 1)).event.getLsbD 1 = true
      ∧ (∃ P', t.part? p = some P' ∧ tget P'.ctxs ctx = none ∧ ∀ q Q, tget P'.queues q = some Q → Q.ctx ≠ ctx)
      ∧ (∀ id f, tget s.flight id = some f → f.p = p → f.ctx = ctx → tget t.flight id = none)
      ∧ (∀ r ∈ C.ranges, ∀ a, r.1 ≤ a → a < r.1 + r.2 → t.spad.get a = 0)
      ∧ t.ident = s.ident ∧ t.fuse = s.fuse ∧ t.boot = s.boot ∧ t.power = s.power := by
  have htorn := State.teardown_spec hP hC 0xFF
  have hkeeps := State.keeps_teardown (F := [.flash, .timer, .cycles, .dram, .spad, .hostMem, .caches, .unsettled, .parts, .streams, .flight, .sigs,
    .near, .funcs, .handed, .log, .rowHits, .perf, .out, .free, .ends]) p ctx 0xFF (by decide) (State.keeps_self _ s)
  have hans := State.answered_afterUpkeep htorn.upkeep fn .ok []
  have hevent := State.event_respond_kept htorn.event fn .ok []
  obtain ⟨F, H, O, hr⟩ := (s.teardown p ctx 0xFF).respond_eq fn .ok []
  rw [← ht] at hans hevent
  rw [hr] at ht
  subst ht
  exact ⟨hans, hevent, htorn.part, htorn.flight, htorn.spad, hkeeps.1 .ident (by decide), hkeeps.1 .fuse (by decide), hkeeps.1 .boot (by decide),
    hkeeps.1 .power (by decide)⟩

end

end Sys2Proof.Machine
end

section
/-! SUPPORT. Zeroing.lean: how part.reset and part.destroy begin (O57). -/

namespace Sys2Proof.Machine

/-! ### A mailbox that waits -/

/-- The mailbox of a function waits for something that is no queue, and no entry of the table has it wait for a queue. -/
structure State.waitsFor (s : State) (fn : Nat) (w : MailWait) : Prop where
  busy : (s.func fn).busy = true
  waiting : (s.func fn).waitFor = some w
  entries : ∀ e ∈ s.funcs, e.1 = fn → ∀ p q, e.2.waitFor ≠ some (.queueDestroy p q)

section
variable {s t : State} {fn k : Nat} {w : MailWait}

theorem State.waitsFor_of_funcs (h : s.waitsFor fn w) (hf : t.funcs = s.funcs) : t.waitsFor fn w := by
  have hfunc : t.func fn = s.func fn := by rw [State.func, hf]; rfl
  exact ⟨by rw [hfunc]; exact h.busy, by rw [hfunc]; exact h.waiting, by rw [hf]; exact h.entries⟩

/-- A register file that changes and goes on waiting, or one of another function. -/
theorem State.waitsFor_updFunc (h : s.waitsFor fn w) (hw : ∀ p q, w ≠ .queueDestroy p q) {g : Func → Func}
    (hg : k = fn → (g (s.func fn)).busy = (s.func fn).busy ∧ (g (s.func fn)).waitFor = (s.func fn).waitFor) :
    (s.updFunc k g).waitsFor fn w := by
  have hfunc := s.func_updFunc k g fn
  by_cases hk : fn = k
  · subst hk
    obtain ⟨hbusy, hwait⟩ := hg rfl
    rw [if_pos rfl] at hfunc
    refine ⟨by rw [hfunc, hbusy, h.busy], by rw [hfunc, hwait, h.waiting], fun e he hfn p q => ?_⟩
    rcases mem_tput he with rfl | he
    · rw [hwait, h.waiting]
      exact fun heq => hw p q (Option.some.inj heq)
    · exact h.entries e he hfn p q
  · rw [if_neg hk] at hfunc
    refine ⟨by rw [hfunc, h.busy], by rw [hfunc, h.waiting], fun e he hfn p q => ?_⟩
    rcases mem_tput he with rfl | he
    · exact absurd hfn.symm hk
    · exact h.entries e he hfn p q

theorem State.waitsFor_raiseVector (h : s.waitsFor fn w) (hw : ∀ p q, w ≠ .queueDestroy p q) (k v : Nat) : (s.raiseVector k v).waitsFor fn w := by
  have hset : (s.updFunc k (fun F => { F with pba := addNat F.pba v })).waitsFor fn w := State.waitsFor_updFunc h hw (fun _ => ⟨rfl, rfl⟩)
  unfold State.raiseVector
  dsimp only
  split
  · split
    · exact hset
    · exact State.waitsFor_of_funcs h rfl
  · exact hset

theorem State.waitsFor_raiseEvent (h : s.waitsFor fn w) (hw : ∀ p q, w ≠ .queueDestroy p q) (k i : Nat) : (s.raiseEvent k i).waitsFor fn w := by
  unfold State.raiseEvent
  extract_lets F raised
  have hraised : raised.waitsFor fn w := State.waitsFor_updFunc h hw (fun _ => ⟨rfl, rfl⟩)
  split
  · exact h
  · split
    · exact State.waitsFor_raiseVector hraised hw k 0
    · exact hraised

theorem State.waitsFor_respond (h : s.waitsFor fn w) (hw : ∀ p q, w ≠ .queueDestroy p q) (hk : k ≠ fn) (a : Answer) (b : Bytes) :
    (s.respond k a b).waitsFor fn w := by
  unfold State.respond
  extract_lets header answered
  have hanswered : answered.waitsFor fn w := State.waitsFor_updFunc h hw (fun he => absurd he hk)
  refine State.waitsFor_raiseVector ?_ hw k 0
  exact State.waitsFor_of_funcs hanswered rfl

theorem State.upkeep.waitsFor (k : s.upkeep t) (h : s.waitsFor fn w) (hw : ∀ p q, w ≠ .queueDestroy p q) : t.waitsFor fn w := by
  induction k with
  | refl => exact h
  | rest _ _ hf ih => exact State.waitsFor_of_funcs ih hf
  | part _ _ _ ih => exact State.waitsFor_of_funcs ih rfl
  | vector _ fn v ih => exact State.waitsFor_raiseVector ih hw fn v
  | event _ fn i ih => exact State.waitsFor_raiseEvent ih hw fn i
  | @answer t _ e p q he hq a b ih => exact State.waitsFor_respond ih hw (fun hfn => ih.entries e he hfn p q hq) a b

/-! ### The start of a zeroisation (R266, R272) -/

theorem State.upkeep.forgetGroup (h : s.upkeep t) (p g : Nat) : s.upkeep (t.forgetGroup p g) := by
  unfold State.forgetGroup
  extract_lets ofGroup peers forgotten
  have hforgotten : s.upkeep forgotten := h.rest rfl rfl
  split
  · exact hforgotten
  · next P hP =>
    rw [← State.updPart_eq_setPart hP (fun P => { P with aborts := P.aborts.filter (fun a => decide (a.1 ≠ g) || decide (a.2.2.2 = 1)
      || decide (a.2.2.2 = 2)) })]
    exact hforgotten.part p (sameContexts_of_queues (fun _ => rfl))

theorem State.upkeep.resetNotices (h : s.upkeep t) (p : Nat) : s.upkeep (t.resetNotices p) := by
  unfold State.resetNotices
  refine h.each (fun u g hu => ?_)
  extract_lets told
  have htold : s.upkeep told := hu.each (fun v o hv => hv.rest rfl rfl)
  have hset : s.upkeep (told.setGroup p g.group { (told.group p g.group) with state := .failed }) := htold.rest rfl rfl
  exact (hset.forgetGroup p g.group).rest rfl rfl

/-- What the start of a zeroisation leaves. -/
structure State.zeroingBegun (s t : State) (p fn : Nat) (destroy : Bool) : Prop where
  waits : t.waitsFor fn (.zeroing p)
  part : ∃ P, t.part? p = some P ∧ P.zeroing = some { destroy := destroy, mailbox := some fn } ∧ P.queues = []
  flight : ∀ id f, tget s.flight id = some f → f.p = p → tget t.flight id = none
  streams : ∀ st e, tget t.streams st = some e → e.partition ≠ p

theorem State.beginZeroing_spec {p : Nat} {P : Partition} (hP : s.part? p = some P) (hz : P.zeroing = none) (h : s.waitsFor fn (.zeroing p))
    (destroy : Bool) : s.zeroingBegun (s.beginZeroing p destroy (some fn)) p fn destroy := by
  have hw : ∀ p' q, MailWait.zeroing p ≠ .queueDestroy p' q := fun _ _ he => by cases he
  unfold State.beginZeroing
  split
  · next hnone => cases hP.symm.trans hnone
  next P₀ hP₀ =>
  obtain rfl : P₀ = P := Option.some.inj (hP₀.symm.trans hP)
  split
  · next z hz' => cases hz.symm.trans hz'
  extract_lets erred answered abandoned noticed emptied dropped stopped stopped' link forgotten
  have herred : s.keeps [.trust] erred := State.keeps_tdiError p (by decide) (State.keeps_self _ s)
  have hwaits₁ : erred.waitsFor fn (.zeroing p) := State.waitsFor_of_funcs h (herred.1 .funcs (by decide))
  have hanswered : s.keeps [.trust, .funcs, .handed, .out] answered :=
    State.keeps_ite (State.keeps_mono herred (by decide)) (State.keeps_mailGone p (by decide) (State.keeps_mono herred (by decide)))
  have hwaits₂ : answered.waitsFor fn (.zeroing p) := by
    dsimp only [answered]
    split
    · exact hwaits₁
    · next hfn =>
      unfold State.mailGone
      split
      · exact State.waitsFor_respond hwaits₁ hw (fun he => hfn (by rw [he])) _ _
      · exact hwaits₁
  have habandoned : answered.upkeep abandoned := State.upkeep.each .refl (fun _ id hu => hu.abandon id .partitionReset)
  have hnoticed : answered.upkeep noticed := habandoned.resetNotices p
  have hemptied : answered.upkeep emptied := hnoticed.deleteQueues p _
  have hdropped : emptied.upkeep dropped := by
    have hstreams : emptied.upkeep { emptied with streams := emptied.streams.filter (fun e => decide (e.2.partition ≠ p)),
                                                  prefixes := emptied.prefixes.filter (fun e => decide (e.2.partition ≠ p)) } :=
      State.upkeep.rest .refl rfl rfl
    exact hstreams.part p (sameContexts_of_queues (fun _ => rfl))
  have hstopped : emptied.upkeep stopped' := State.upkeep.each (hdropped.rest (u := stopped) rfl rfl) (fun _ c hu => hu.rest rfl rfl)
  have hforgotten : emptied.upkeep forgotten := hstopped.rest rfl rfl
  have hstreams : forgotten.streams = emptied.streams.filter (fun e => decide (e.2.partition ≠ p)) := by
    have hk : stopped.keeps [.perf] stopped' :=
      State.keeps_each _ (fun u c => State.keeps_stopSampling (64 + c) (by decide) (State.keeps_self _ u)) (State.keeps_self _ stopped)
    exact hk.1 .streams (by decide)
  refine ⟨?_, ?_, fun id f hid hp => ?_, fun st e he => ?_⟩
  · exact State.waitsFor_of_funcs ((hemptied.trans hforgotten).waitsFor hwaits₂ hw) rfl
  · obtain ⟨P₁, hP₁, -⟩ := hnoticed.queues ((State.part?_congr (hanswered.1 .parts (by decide)) p).trans hP)
    obtain ⟨P₂, hP₂, hgone⟩ := State.part?_deleteQueues hP₁ (fun _ => true)
    obtain ⟨P₃, hP₃, hstay⟩ := hforgotten.queuesStayGone (f := fun _ => true) (fun _ _ _ => rfl) hP₂ hgone
    refine ⟨{ P₃ with ctxs := P₃.ctxs.filter (fun e => decide (e.1 = 0)), sends := [], recvs := [], notices := [], aborts := [],
                      zeroing := some { destroy := destroy, mailbox := some fn } }, ?_, rfl, ?_⟩
    · exact (State.part?_updPart forgotten p p _).trans (by rw [if_pos rfl, hP₃, Option.map_some])
    · exact List.eq_nil_iff_forall_not_mem.2 (fun e he => by simpa using hstay e he)
  · have hflight : answered.flight = s.flight := hanswered.1 .flight (by decide)
    have hmem : id ∈ answered.inFlight p := by
      rw [State.inFlight, hflight]
      exact List.mem_map.2 ⟨(id, f), List.mem_filter.2 ⟨mem_of_tget hid, by simp [hp]⟩, rfl⟩
    have h₁ : tget abandoned.flight id = none := State.absent_abandoned hmem answered .partitionReset
    have h₂ : tget noticed.flight id = none :=
      State.absent_of_keeps h₁ (State.keeps_resetNotices p (by decide) (State.keeps_self [.parts, .peers, .out] abandoned)) (by decide)
    have h₃ : tget emptied.flight id = none := State.absent_deleteQueues h₂ p _
    have h₄ : tget dropped.flight id = none :=
      State.absent_of_keeps h₃ (State.keeps_dropStreams p (by decide) (State.keeps_self [.parts, .streams, .prefixes] emptied)) (by decide)
    exact State.absent_each (s := stopped) h₄ (fun u c hu => hu)
  · have he' : tget (emptied.streams.filter (fun e => decide (e.2.partition ≠ p))) st = some e := hstreams ▸ he
    simpa using (List.mem_filter.1 (mem_of_tget he')).2

/-- What part.reset and part.destroy leave before the zeroisation. -/
theorem State.zeroingAwaited {m : Msg} {P : Partition} {destroy : Bool} (hP : s.part? m.p = some P) (hz : P.zeroing = none)
    (hbusy : (s.func m.fn).busy = true) (hnone : ∀ e ∈ s.funcs, e.1 = m.fn → e.2.waitFor = none) (ht : t = s.awaitZeroing m destroy) :
    (t.func m.fn).busy = true ∧ (t.func m.fn).waitFor = some (.zeroing m.p)
      ∧ (∃ P, t.part? m.p = some P ∧ P.zeroing = some { destroy := destroy, mailbox := some m.fn } ∧ P.queues = [])
      ∧ (∀ id f, tget s.flight id = some f → f.p = m.p → tget t.flight id = none)
      ∧ (∀ st e, tget t.streams st = some e → e.partition ≠ m.p)
      ∧ t.ident = s.ident ∧ t.fuse = s.fuse ∧ t.power = s.power ∧ t.boot = s.boot := by
  have hfunc := s.func_updFunc m.fn (fun F => { F with waitFor := some (.zeroing m.p) }) m.fn
  rw [if_pos rfl] at hfunc
  have hwaits : (s.updFunc m.fn (fun F => { F with waitFor := some (.zeroing m.p) })).waitsFor m.fn (.zeroing m.p) := by
    refine ⟨by rw [hfunc, ← hbusy], by rw [hfunc], fun e he hfn p q => ?_⟩
    rcases mem_tput he with rfl | he
    · simp
    · simp [hnone e he hfn]
  have hbegun := State.beginZeroing_spec (s := s.updFunc m.fn (fun F => { F with waitFor := some (.zeroing m.p) })) hP hz hwaits destroy
  have hkeeps := State.keeps_awaitZeroing (F := [.timer, .cycles, .dram, .spad, .hostMem, .caches, .unsettled, .parts, .streams, .prefixes, .flight,
    .sigs, .near, .funcs, .handed, .log, .link, .trust, .peers, .perf, .out, .free, .ends]) m destroy (by decide) (State.keeps_self _ s)
  subst ht
  exact ⟨hbegun.waits.busy, hbegun.waits.waiting, hbegun.part, hbegun.flight, hbegun.streams, hkeeps.1 .ident (by decide),
    hkeeps.1 .fuse (by decide), hkeeps.1 .power (by decide), hkeeps.1 .boot (by decide)⟩

end

end Sys2Proof.Machine
end

section
/-! SUPPORT. PartitionMessagesAct.lean: the fields and conditions of the messages on partitions, and O57. -/

namespace Sys2Proof.Machine

/-! ### What a request that asks has passed -/

section
variable {s : State} {i : Instr} {fn : Nat} {row : MsgRow}

theorem State.asks_busy (ha : s.asks i) (hm : messageOf i = some (fn, row)) : (s.func fn).busy = true := by
  obtain ⟨fn', row', hm', hand, -⟩ := ha
  cases hm.symm.trans hm'
  exact hand.1

/-- The partition of a message that acts on one that exists is there, and nothing zeroises it. -/
theorem State.asks_part (ha : s.asks i) (hm : messageOf i = some (fn, row)) (hacts : row.acts (s.msgBody fn) = true)
    (hexists : row.exists? (s.msgBody fn) = true) : ∃ P, s.part? (s.msgPartition fn) = some P ∧ P.zeroing = none := by
  obtain ⟨fn', row', hm', -, -, hwait, -, -, hpart, -⟩ := ha
  cases hm.symm.trans hm'
  obtain ⟨P, hP⟩ := Option.isSome_iff_exists.1 (hpart hexists)
  have hfree := hwait hacts
  rw [State.mustWait, hP, Bool.or_eq_false_iff] at hfree
  exact ⟨P, hP, Option.isSome_eq_false_iff.1 hfree.2 |> Option.isNone_iff_eq_none.1⟩

/-- A message that refuses whatever it says. -/
theorem State.decides_refused {o : Option Nat} {run : State → Msg → State} {size : Bytes → Nat} (hexec : exec i s = s.serve fn row run)
    (hm : messageOf i = some (fn, { row with size := size })) (hrun : run s (s.asked fn) = s.respond fn .refused (refusalBody o)) :
    s.decides i fn True False (fun _ => True) := by
  intro ha
  obtain ⟨hnext, -⟩ := exec_of_asks hexec hm ha
  rw [hrun] at hnext
  exact ⟨_, hnext, fun h => absurd trivial h, fun _ _ => ⟨s.onlyAnswer_respond .., o, s.answered_respond ..⟩, fun _ h => h.elim⟩

end

/-! ### Fields and conditions of part.create -/

theorem forall_mem_flatMap_range {α : Type} {n : Nat} {f : Nat → List α} {Q : α → Prop} :
    (∀ x ∈ (List.range n).flatMap f, Q x) ↔ ∀ i < n, ∀ x ∈ f i, Q x := by
  simp only [List.mem_flatMap, List.mem_range]
  exact ⟨fun h i hi x hx => h x ⟨i, hi, hx⟩, fun h x ⟨i, hi, hx⟩ => h i hi x hx⟩

/-- The clusters that a part.create names. -/
def namedClusters (b : Bytes) : List Nat := (List.range 64).filter (fun c => bit (u64 b 8) c)

theorem mem_namedClusters {b : Bytes} {c : Nat} : c ∈ namedClusters b ↔ c < 64 ∧ bit (u64 b 8) c = true := by
  simp [namedClusters]

/-- No repair holds the creation of a partition back (R391). -/
theorem repairs_iff {s : State} {b : Bytes} :
    (createPcs b).any (fun e => s.repairDue e.1 && s.inMaintenance e.1) = false
      ↔ ∀ i < u16 b 24, s.repairDue (u16 b (32 + 4 * i)) = false ∨ s.inMaintenance (u16 b (32 + 4 * i)) = false := by
  simp only [createPcs, List.any_eq_false, List.forall_mem_map, List.mem_range, Bool.and_eq_true, not_and_or, Bool.not_eq_true]

theorem createFields_iff {s : State} {b : Bytes} :
    (∀ f ∈ [(0, decide (u8 b 0 ≤ 1)), (4, decide (u32 b 4 ≤ 8388608)), (16, decide (u32 b 16 < 2 ^ 20)),
          (20, decide (1 ≤ u32 b 20) && decide (u32 b 20 ≤ 2 ^ 20))]
        ++ (List.range (u16 b 24)).flatMap (fun i =>
          [(32 + 4 * i, decide (u16 b (32 + 4 * i) < 768) && s.stackFitted (u16 b (32 + 4 * i) / 64)), (34 + 4 * i, decide (u8 b (34 + 4 * i) ≤ 16))]),
        f.2 = true)
      ↔ u8 b 0 ≤ 1 ∧ u32 b 4 ≤ 8388608 ∧ u32 b 16 < 2 ^ 20 ∧ 1 ≤ u32 b 20 ∧ u32 b 20 ≤ 2 ^ 20
        ∧ ∀ i < u16 b 24, u16 b (32 + 4 * i) < 768 ∧ s.stackFitted (u16 b (32 + 4 * i) / 64) = true ∧ u8 b (34 + 4 * i) ≤ 16 := by
  rw [List.forall_mem_append, forall_mem_flatMap_range]
  simp only [List.forall_mem_cons, List.not_mem_nil, false_implies, implies_true, and_true, decide_eq_true_eq, Bool.and_eq_true, and_assoc]

theorem createConds_iff {s : State} {p : Nat} {b : Bytes} :
    (∀ c ∈ [((none : Option Nat), decide (s.parts.length < 8) || bit s.boot.licLive.toNat 2), (some 8, !(namedClusters b).isEmpty),
          (some 24, decide (1 ≤ u16 b 24)),
          (some 8, (namedClusters b).all (fun c => !s.clusterFenced c && !s.parts.any (fun e => e.2.ownsCluster c)))]
        ++ (List.range (u16 b 24)).flatMap (fun i =>
          [(some (32 + 4 * i), s.pcFree (u16 b (32 + 4 * i)) && !(((createPcs b).take i).map Prod.fst).contains (u16 b (32 + 4 * i))),
           (some (34 + 4 * i), !s.fencedLocal (u16 b (32 + 4 * i), u8 b (34 + 4 * i)))])
        ++ [(some 16, s.rangeOk p (u32 b 16) (u32 b 20)), (some 4, decide (s.quotaTotal p + u32 b 4 ≤ 8388608))], c.2 = true)
      ↔ (s.parts.length < 8 ∨ s.boot.licLive.getLsbD 2 = true) ∧ (∃ c < 64, bit (u64 b 8) c = true) ∧ 1 ≤ u16 b 24
        ∧ (∀ c < 64, bit (u64 b 8) c = true → s.clusterFenced c = false ∧ ∀ e ∈ s.parts, e.2.ownsCluster c = false)
        ∧ (∀ i < u16 b 24, s.pcFree (u16 b (32 + 4 * i)) = true ∧ (∀ j < i, u16 b (32 + 4 * j) ≠ u16 b (32 + 4 * i))
          ∧ s.fencedLocal (u16 b (32 + 4 * i), u8 b (34 + 4 * i)) = false)
        ∧ s.rangeOk p (u32 b 16) (u32 b 20) = true ∧ s.quotaTotal p + u32 b 4 ≤ 8388608 := by
  have hsome : (!(namedClusters b).isEmpty) = true ↔ ∃ c < 64, bit (u64 b 8) c = true := by
    simp only [Bool.not_eq_true', List.isEmpty_eq_false_iff_exists_mem, mem_namedClusters]
  have hall : (namedClusters b).all (fun c => !s.clusterFenced c && !s.parts.any (fun e => e.2.ownsCluster c)) = true
      ↔ ∀ c < 64, bit (u64 b 8) c = true → s.clusterFenced c = false ∧ ∀ e ∈ s.parts, e.2.ownsCluster c = false := by
    simp only [List.all_eq_true, mem_namedClusters, Bool.and_eq_true, Bool.not_eq_true', List.any_eq_false, Bool.not_eq_true, and_imp]
  have heach : (∀ i < u16 b 24, ∀ c ∈ [(some (32 + 4 * i), s.pcFree (u16 b (32 + 4 * i))
          && !(((createPcs b).take i).map Prod.fst).contains (u16 b (32 + 4 * i))),
        (some (34 + 4 * i), !s.fencedLocal (u16 b (32 + 4 * i), u8 b (34 + 4 * i)))], c.2 = true)
      ↔ ∀ i < u16 b 24, s.pcFree (u16 b (32 + 4 * i)) = true ∧ (∀ j < i, u16 b (32 + 4 * j) ≠ u16 b (32 + 4 * i))
          ∧ s.fencedLocal (u16 b (32 + 4 * i), u8 b (34 + 4 * i)) = false := by
    refine forall₂_congr (fun i hi => ?_)
    simp only [List.forall_mem_cons, List.not_mem_nil, false_implies, implies_true, and_true, Bool.and_eq_true, fresh_iff hi, Bool.not_eq_true',
      and_assoc]
  rw [List.forall_mem_append, List.forall_mem_append, forall_mem_flatMap_range, heach]
  simp only [List.forall_mem_cons, List.not_mem_nil, false_implies, implies_true, and_true, hsome, hall, Bool.or_eq_true, decide_eq_true_eq,
    and_assoc]
  rfl

/-! ### Fields and conditions of the other messages -/

theorem configFields_iff {fn : Nat} {b : Bytes} (hmine : opIs 1 1 b = true) :
    (u8 b 0 = 1 ∧ u16 b 2 < 64 ∧ (fn = 0 ∨ u16 b 2 = 0 ∨ u16 b 2 = 16) ∧ (bit (u16 b 2) 1 = true → u32 b 16 < 2 ^ 20)
        ∧ (bit (u16 b 2) 2 = true → 1 ≤ u32 b 20 ∧ u32 b 20 ≤ 2 ^ 20) ∧ (bit (u16 b 2) 3 = true → u32 b 24 ≤ 8388608) ∧ u8 b 28 ≤ 3)
      ↔ ∀ f ∈ [(0, decide (u8 b 0 ≤ 1)), (2, decide (u16 b 2 < 64) && (decide (fn = 0) || decide (u16 b 2 = 0) || decide (u16 b 2 = 16))),
          (16, !bit (u16 b 2) 1 || decide (u32 b 16 < 2 ^ 20)), (20, !bit (u16 b 2) 2 || (decide (1 ≤ u32 b 20) && decide (u32 b 20 ≤ 2 ^ 20))),
          (24, !bit (u16 b 2) 3 || decide (u32 b 24 ≤ 8388608)), (28, decide (u8 b 28 ≤ 3))], f.2 = true := by
  rw [← opIs_legal (le_refl 1) hmine]
  simp only [List.forall_mem_cons, List.not_mem_nil, false_implies, implies_true, and_true, decide_eq_true_eq, Bool.and_eq_true, Bool.or_eq_true,
    Bool.not_eq_true', and_assoc, or_assoc, ← Bool.not_eq_true, ← imp_iff_not_or]

theorem configConds_iff {s : State} {m : Msg} {f : Nat} : (f % 16 = 0 ∨ m.fn ≠ 0 ∨ s.tdiLocked m.p = false)
    ↔ ∀ c ∈ [((some 2 : Option Nat), decide (f % 16 = 0) || decide (m.fn ≠ 0) || !s.tdiLocked m.p)], c.2 = true := by
  simp [or_assoc]

theorem queueFields_iff {b : Bytes} :
    (u8 b 0 ≤ 63 ∧ u8 b 2 ≤ 63 ∧ 8 ≤ u8 b 3 ∧ u8 b 3 ≤ 16 ∧ 1 ≤ u16 b 4 ∧ u16 b 4 ≤ 127 ∧ 1 ≤ u16 b 6 ∧ u16 b 6 ≤ 1024
        ∧ u32 b 8 ≤ 10000 ∧ u64 b 16 % 8 = 0 ∧ u64 b 24 % 4096 = 0 ∧ u64 b 32 % 8 = 0)
      ↔ ∀ f ∈ [(0, decide (u8 b 0 ≤ 63)), (2, decide (u8 b 2 ≤ 63)), (3, decide (8 ≤ u8 b 3) && decide (u8 b 3 ≤ 16)),
         (4, decide (1 ≤ u16 b 4) && decide (u16 b 4 ≤ 127)), (6, decide (1 ≤ u16 b 6) && decide (u16 b 6 ≤ 1024)),
         (8, decide (u32 b 8 ≤ 10000)), (16, decide (u64 b 16 % 8 = 0)), (24, decide (u64 b 24 % 4096 = 0)),
         (32, decide (u64 b 32 % 8 = 0))], f.2 = true := by
  simp only [List.forall_mem_cons, List.not_mem_nil, false_implies, implies_true, and_true, decide_eq_true_eq, Bool.and_eq_true, and_assoc]

theorem queueConds_iff {s : State} {P : Partition} {b : Bytes} :
    (tget P.queues (u8 b 0) = none ∧ (tget P.ctxs (u8 b 1)).isSome = true ∧ P.ownsCluster (u8 b 2) = true
        ∧ s.clusterFenced (u8 b 2) = false ∧ (P.queues.filter (fun e => decide (e.2.cluster = u8 b 2))).length < 32
        ∧ sumNat (s.parts.map (fun e => e.2.queues.length)) < 2048)
      ↔ ∀ c ∈ [(some 0, (tget P.queues (u8 b 0)).isNone), (some 1, (tget P.ctxs (u8 b 1)).isSome),
         (some 2, P.ownsCluster (u8 b 2) && !s.clusterFenced (u8 b 2)),
         (some 2, decide ((P.queues.filter (fun e => decide (e.2.cluster = u8 b 2))).length < 32)),
         ((none : Option Nat), decide (sumNat (s.parts.map (fun e => e.2.queues.length)) < 2048))], c.2 = true := by
  simp only [List.forall_mem_cons, List.not_mem_nil, false_implies, implies_true, and_true, decide_eq_true_eq, Bool.and_eq_true, and_assoc,
    Bool.not_eq_true', Option.isNone_iff_eq_none]

theorem ctxFields_iff {b : Bytes} :
    (u8 b 1 ≤ 7 ∧ u8 b 2 ≤ 16 ∧ ∀ i < u8 b 2, u32 b (8 + 8 * i) % 64 = 0 ∧ u32 b (12 + 8 * i) % 64 = 0)
      ↔ ∀ f ∈ [(1, decide (u8 b 1 ≤ 7)), (2, decide (u8 b 2 ≤ 16))] ++ (List.range (u8 b 2)).flatMap (fun i =>
          [(8 + 8 * i, decide (u32 b (8 + 8 * i) % 64 = 0)), (12 + 8 * i, decide (u32 b (12 + 8 * i) % 64 = 0))]), f.2 = true := by
  rw [List.forall_mem_append, forall_mem_flatMap_range]
  simp only [List.forall_mem_cons, List.not_mem_nil, false_implies, implies_true, and_true, decide_eq_true_eq, and_assoc]

/-! ### part.map and its reverse -/

/-- The pages that a part.map adds. -/
def Partition.mapped (P : Partition) (b : Bytes) : Partition :=
  { P with pages := P.pages ++ (List.range (u32 b 4)).map (fun i =>
      { va := u64 b 8 + i * pageSize b, pa := u64 b 16 + i * pageSize b, big := decide (u8 b 1 = 1) }) }

/-- A page within the range that a request unmaps. -/
def unmaps (b : Bytes) (g : Page) : Bool := decide (u64 b 8 ≤ g.va) && decide (g.va + g.bytes ≤ u64 b 8 + u32 b 4 * pageSize b)

/-- The pages within the range are gone. -/
def Partition.unmapped (P : Partition) (b : Bytes) : Partition := { P with pages := P.pages.filter (fun g => !unmaps b g) }

theorem mem_unmapped {P : Partition} {b : Bytes} {g : Page} : g ∈ (P.unmapped b).pages
    ↔ g ∈ P.pages ∧ ¬(u64 b 8 ≤ g.va ∧ g.va + g.bytes ≤ u64 b 8 + u32 b 4 * pageSize b) := by
  simp only [Partition.unmapped, List.mem_filter, unmaps, Bool.not_eq_true', ← Bool.not_eq_true, Bool.and_eq_true, decide_eq_true_eq]

theorem mapLegal_iff {b : Bytes} (hmine : opIs 0 2 b = true) :
    (u8 b 0 = 0 ∧ (u8 b 1 ≤ 1 ∧ 1 ≤ u32 b 4 ∧ u32 b 4 ≤ 524288 ∧ u64 b 8 % pageSize b = 0) ∧ u64 b 16 % pageSize b = 0)
      ↔ ∀ f ∈ mapFields b ++ [(8, decide (u64 b 8 % pageSize b = 0)), (16, decide (u64 b 16 % pageSize b = 0))], f.2 = true := by
  rw [List.forall_mem_append, mapFields_iff (by decide) hmine]
  simp only [List.forall_mem_cons, List.not_mem_nil, false_implies, implies_true, and_true, decide_eq_true_eq, and_assoc]

theorem unmapLegal_iff {b : Bytes} (hmine : opIs 1 2 b = true) :
    (u8 b 0 = 1 ∧ u8 b 1 ≤ 1 ∧ 1 ≤ u32 b 4 ∧ u32 b 4 ≤ 524288 ∧ u64 b 8 % pageSize b = 0)
      ↔ ∀ f ∈ mapFields b ++ [(8, decide (u64 b 8 % pageSize b = 0))], f.2 = true := by
  rw [List.forall_mem_append, mapFields_iff (by decide) hmine]
  simp only [List.forall_mem_cons, List.not_mem_nil, false_implies, implies_true, and_true, decide_eq_true_eq, and_assoc]

theorem mapConds_iff {s : State} {m : Msg} {P : Partition} {va pa len : Nat} :
    ((m.fn ≠ 0 ∨ s.tdiLocked m.p = false) ∧ va + len ≤ 2 ^ 40 ∧ pa + len ≤ P.capacity
        ∧ ∀ g ∈ P.pages, overlaps va len g.va g.bytes = false ∧ overlaps pa len g.pa g.bytes = false)
      ↔ ∀ c ∈ [((none : Option Nat), s.mapOpen m), (some 8, decide (va + len ≤ 2 ^ 40) && !P.pages.any (fun g => overlaps va len g.va g.bytes)),
          (some 16, decide (pa + len ≤ P.capacity) && !P.pages.any (fun g => overlaps pa len g.pa g.bytes))], c.2 = true := by
  simp only [List.forall_mem_cons, List.not_mem_nil, false_implies, implies_true, and_true, Bool.and_eq_true, mapOpen_iff, apart_iff,
    decide_eq_true_eq, forall₂_and]
  tauto

theorem unmapConds_iff {s : State} {m : Msg} {P : Partition} {b : Bytes} :
    ((m.fn ≠ 0 ∨ s.tdiLocked m.p = false) ∧ ∀ g ∈ P.pages, overlaps (u64 b 8) (u32 b 4 * pageSize b) g.va g.bytes = true →
        u64 b 8 ≤ g.va ∧ g.va + g.bytes ≤ u64 b 8 + u32 b 4 * pageSize b)
      ↔ ∀ c ∈ [((none : Option Nat), s.mapOpen m),
          (some 8, P.pages.all (fun g => !overlaps (u64 b 8) (u32 b 4 * pageSize b) g.va g.bytes || unmaps b g))], c.2 = true := by
  simp only [List.forall_mem_cons, List.not_mem_nil, false_implies, implies_true, and_true, mapOpen_iff, List.all_eq_true, Bool.or_eq_true,
    Bool.not_eq_true', ← Bool.not_eq_true, ← imp_iff_not_or, unmaps, Bool.and_eq_true, decide_eq_true_eq]

/-- The two messages that zeroise a partition. -/
theorem State.decides_zeroing {s : State} {fn : Nat} {i : Instr} {destroy : Bool}
    (hi : (i = .partDestroy fn ∧ destroy = true) ∨ (i = .partReset fn ∧ destroy = false)) 
    {effect : State → Prop} (heffect : ∀ P, s.part? (s.msgPartition fn) = some P → P.zeroing = none → (s.func fn).busy = true →
      effect (s.awaitZeroing (s.asked fn) destroy)) :
    s.decides i fn True (destroy = true → tget s.link.decoders (s.msgPartition fn) = none) effect := by
  intro ha
  rcases hi with ⟨rfl, rfl⟩ | ⟨rfl, rfl⟩
  · obtain ⟨P, hP, hz⟩ := State.asks_part ha rfl rfl rfl
    refine State.decides_checked (size := fun _ => 0) (fields := []) (by dsimp only [exec, execPartDestroy]) rfl rfl (fun _ => by simp) (by simp)
      (fun _ _ => heffect P hP hz (State.asks_busy ha rfl)) ha
  · obtain ⟨P, hP, hz⟩ := State.asks_part ha rfl rfl rfl
    refine State.decides_checked (size := fun _ => 0) (fields := []) (conds := []) (by dsimp only [exec, execPartReset]) rfl rfl (fun _ => by simp)
      (by simp) (fun _ _ => heffect P hP hz (State.asks_busy ha rfl)) ha

/-- Settles O57: the run of every message is `State.checked` over its own fields and conditions, and what follows them is its effect. -/
theorem partitionMessagesAct : Obligations.PartitionMessagesAct := by
  unfold Obligations.PartitionMessagesAct
  intro s fn
  dsimp only
  refine ⟨fun h => ?_, fun hp hnew hrepair => ?_, fun i destroy hi hnone => ?_, fun P hP => ⟨?_, ⟨?_, ?_⟩, ?_, ?_, ?_, fun hnone => ?_⟩⟩
  · refine State.decides_refused (size := createRow.size) (o := some 8) (by dsimp only [exec, execPartCreate]) rfl ?_
    simp only [if_pos h]
  · have htaken : ¬(31 < s.msgPartition fn ∨ (s.part? (s.msgPartition fn)).isSome = true) := by simp [hnew, hp]
    refine State.decides_checked (size := createRow.size) (go := (s.createPartition (s.msgPartition fn) (s.msgBody fn)).respond fn .ok [])
      (by dsimp only [exec, execPartCreate]) rfl ?_ (fun _ => createFields_iff.symm) createConds_iff.symm (fun _ hc => ?_)
    · simp only [if_neg htaken, repairs_iff.2 hrepair, Bool.false_eq_true, if_false]
      rfl
    · obtain ⟨-, -, -, -, hpcs, -, -⟩ := hc
      exact State.partCreated (fun i hi => (hpcs i hi).2.1) rfl
  · exact State.decides_zeroing hi (fun P hP hz hbusy => State.zeroingAwaited hP hz hbusy hnone rfl)
  · refine State.decides_checked (size := fun _ => 72) (go := (s.setPart (s.msgPartition fn) { P with staged := P.staged.with (s.msgBody fn) }).respond
      fn .ok ({ P with staged := P.staged.with (s.msgBody fn) } : Partition).blocks) (by dsimp only [exec, execPartConfigWrite]) rfl ?_
      (fun hmine => configFields_iff hmine) (configConds_iff (m := s.asked fn)) (fun _ _ => State.partSet rfl)
    simp only [State.updPart_eq_setPart hP, State.configBody, State.part?_setPart, if_pos]
    rfl
  · refine State.decides_checked (size := fun _ => 24) (go := (s.setPart (s.msgPartition fn) (P.mapped (s.msgBody fn))).respond fn .ok
      ((P.mapped (s.msgBody fn)).mapBody (u64 (s.msgBody fn) 8))) (by dsimp only [exec, execPartMap]) rfl ?_ (fun hmine => mapLegal_iff hmine)
      (mapConds_iff (m := s.asked fn)) (fun _ _ => ?_)
    · simp only [hP, ← State.mapAnswer_setPart (s.asked fn)]
      rfl
    · obtain ⟨hans, hpart, -, hframe⟩ := State.partSet (s := s) (fn := fn) (p := s.msgPartition fn) (P := P.mapped (s.msgBody fn)) rfl
      exact ⟨_, hpart, hans, rfl, hframe⟩
  · refine State.decides_checked (size := fun _ => 24) (go := (s.setPart (s.msgPartition fn) (P.unmapped (s.msgBody fn))).respond fn .ok
      ((P.unmapped (s.msgBody fn)).mapBody (u64 (s.msgBody fn) 8))) (by dsimp only [exec, execPartMapUnmap]) rfl ?_
      (fun hmine => unmapLegal_iff hmine) (unmapConds_iff (m := s.asked fn)) (fun _ _ => ?_)
    · simp only [hP, ← State.mapAnswer_setPart (s.asked fn)]
      rfl
    · obtain ⟨hans, hpart, -, hframe⟩ := State.partSet (s := s) (fn := fn) (p := s.msgPartition fn) (P := P.unmapped (s.msgBody fn)) rfl
      exact ⟨_, hpart, hans, fun g => mem_unmapped, rfl, hframe⟩
  · refine State.decides_checked (size := fun _ => 0) (by dsimp only [exec, execQueueCreate]) rfl (by simp only [hP]; rfl) (fun _ => queueFields_iff)
      queueConds_iff (fun _ _ => ?_)
    obtain ⟨hans, hpart, -, hframe⟩ := State.partSet (s := s) (fn := fn) (p := s.msgPartition fn) (body := [])
      (P := { P with queues := tput P.queues (u8 (s.msgBody fn) 0) (Queue.fresh (s.msgBody fn)) }) rfl
    exact ⟨hans, hpart, hframe⟩
  · refine State.decides_checked (size := fun _ => 0) (by dsimp only [exec, execCtxCreate]) rfl (by simp only [hP]; rfl) (fun _ => ctxFields_iff)
      ?_ (fun _ _ => ?_)
    · rw [List.forall_mem_cons, ctxConds_iff, Option.isNone_iff_eq_none]
    · obtain ⟨hans, hpart, -, hframe⟩ := State.partSet (s := s) (fn := fn) (p := s.msgPartition fn) (body := [])
        (P := { P with ctxs := tput P.ctxs (u8 (s.msgBody fn) 0) { cls := u8 (s.msgBody fn) 1, ranges := ctxRanges (s.msgBody fn) } }) rfl
      exact ⟨hans, hpart, hframe⟩
  · refine State.decides_checked (size := fun _ => 0) (fields := []) (by dsimp only [exec, execCtxTeardown]) rfl (by simp only [hP]; rfl)
      (fun _ => by simp) (by simp) (fun _ hc => ?_)
    obtain ⟨C, hC⟩ := Option.isSome_iff_exists.1 hc
    obtain ⟨hans, hevent, hpart, hflight, hspad, hframe⟩ := State.contextEnded (fn := fn) hP hC rfl
    exact ⟨hans, hevent, hpart, hflight, fun C' hC' => Option.some.inj (hC.symm.trans hC') ▸ hspad, hframe⟩
  · intro ha
    refine State.decides_checked (size := fun _ => 0) (by dsimp only [exec, execQueueDestroy]) rfl rfl (fun _ => by simp)
      (by simp [State.queue?_of_part hP]) (fun _ _ Q hQ => ?_) ha
    exact State.queueDestroyed ((State.queue?_of_part hP _).trans hQ) (State.asks_busy ha rfl) hnone rfl

end Sys2Proof.Machine
end

section
/-! SUPPORT. Fetching.lean: what a fetch does to its queue (O32). -/

namespace Sys2Proof.Machine

theorem sumNat_append (l k : List Nat) : sumNat (l ++ k) = sumNat l + sumNat k := by
  induction l with
  | nil => simp [sumNat]
  | cons a l ih => simp [sumNat, ih, Nat.add_assoc]

/-- A queue of whose ring n slots have been consumed; records, loops and counters stand. -/
def Queue.slotsConsumed (n : Nat) (Q Q' : Queue) : Prop :=
  Q'.cpos = Q.cpos + n ∧ Q'.ahead = Q.ahead ∧ Q'.loops = Q.loops ∧ Q'.ctrs = Q.ctrs

/-- A queue that has taken records from its ring into the run-ahead buffer (R115). -/
structure Queue.fetched (l : List Rec) (Q Q' : Queue) : Prop where
  ahead : Q'.ahead = Q.ahead ++ l
  cpos : Q'.cpos = Q.cpos + sumNat (l.map recSlots)
  loops : Q'.loops = Q.loops
  ctrs : Q'.ctrs = Q.ctrs

theorem Queue.fetched_nil (Q : Queue) : Queue.fetched [] Q Q := ⟨by simp, rfl, rfl, rfl⟩

theorem Queue.fetched_cons {r : Rec} {l : List Rec} {Q Q' Q'' : Queue} (h : Queue.fetched [r] Q Q') (k : Queue.fetched l Q' Q'') :
    Queue.fetched (r :: l) Q Q'' := by
  refine ⟨by rw [k.ahead, h.ahead, List.append_assoc]; rfl, ?_, k.loops.trans h.loops, k.ctrs.trans h.ctrs⟩
  rw [k.cpos, h.cpos]
  simp [sumNat, Nat.add_assoc]

section
variable {s : State} {p q n : Nat} {Q : Queue}

theorem State.queue?_writeCredit (h : s.queue? p q = some Q) : ∃ n, (s.writeCredit p q).queue? p q = some { Q with discarded := n } := by
  unfold State.writeCredit
  rw [h]
  obtain ⟨n, hn⟩ := s.moves_hostWrite p q Q (hostKey (p + 1) Q.credit) (natLe 8 Q.creditWord)
  exact ⟨n, State.queue?_of_moves hn h⟩

theorem State.queue?_updQueue_self (h : s.queue? p q = some Q) (g : Queue → Queue) : (s.updQueue p q g).queue? p q = some (g Q) :=
  State.queue?_of_moves (s.movesQueue_updQueue p q Q g) h

theorem State.queue?_consumeSlot (h : s.queue? p q = some Q) : ∃ Q', (s.consumeSlot p q).queue? p q = some Q' ∧ Queue.slotsConsumed 1 Q Q' := by
  unfold State.consumeSlot
  rw [h]
  have hupd := State.queue?_updQueue_self h (fun R => { R with cpos := Q.cpos + 1, slots := R.slots.filter (fun e => decide (Q.cpos + 1 ≤ e.1)) })
  dsimp only
  split
  · obtain ⟨n, hn⟩ := State.queue?_writeCredit hupd
    exact ⟨_, hn, rfl, rfl, rfl, rfl⟩
  · exact ⟨_, hupd, rfl, rfl, rfl, rfl⟩

theorem State.queue?_consumeSlots (h : s.queue? p q = some Q) (l : List Nat) :
    ∃ Q', (s.each l (fun s _ => s.consumeSlot p q)).queue? p q = some Q' ∧ Queue.slotsConsumed l.length Q Q' := by
  induction l generalizing s Q with
  | nil => exact ⟨Q, h, rfl, rfl, rfl, rfl⟩
  | cons x l ih =>
    obtain ⟨Q₁, hQ₁, hc, ha, hl, hx⟩ := State.queue?_consumeSlot h
    obtain ⟨Q₂, hQ₂, hc', ha', hl', hx'⟩ := ih hQ₁
    refine ⟨Q₂, hQ₂, ?_, ha'.trans ha, hl'.trans hl, hx'.trans hx⟩
    rw [hc', hc, List.length_cons]
    omega

theorem State.queue?_consume (h : s.queue? p q = some Q) (r : Rec) :
    ∃ Q', (s.consume p q Q r).queue? p q = some Q' ∧ Queue.fetched [r] Q Q' := by
  unfold State.consume
  extract_lets listed counted
  have hlisted : listed.queue? p q = some { Q with ahead := Q.ahead ++ [r] } := State.queue?_updQueue_self h _
  have hcounted : counted.queue? p q = some { Q with ahead := Q.ahead ++ [r] } := hlisted
  obtain ⟨Q', hQ', hc, ha, hl, hx⟩ := State.queue?_consumeSlots hcounted (List.range (recSlots r))
  refine ⟨Q', hQ', ha, ?_, hl, hx⟩
  simpa [sumNat] using hc

theorem State.keeps_consume_self (s : State) (p q : Nat) (Q : Queue) (r : Rec) : s.keeps [.parts, .hostMem, .perf] (s.consume p q Q r) :=
  State.keeps_consume p q Q r (by decide) (State.keeps_self _ s)

theorem State.eq_of_fetched {t : State} (h : s.keeps [.parts, .hostMem, .perf] t) :
    t = { s with parts := t.parts, hostMem := t.hostMem, perf := t.perf } :=
  State.eq_of_keeps h (fun f k => by cases f <;> simp_all [State.same])

/-- No ring slot of the queue is poisoned. -/
def State.slotsGood (s : State) (p q : Nat) : Prop := ∀ pos n, s.slotsBad p q pos n = false

/-- Whether slots are poisoned is a matter of device memory. -/
theorem State.slotsGood_of_dram {t : State} (h : s.slotsGood p q) (hd : t.dram = s.dram) : t.slotsGood p q := by
  intro pos n
  have hbad : t.slotsBad p q pos n = s.slotsBad p q pos n := by simp only [State.slotsBad, State.sysBad, hd]
  rw [hbad]
  exact h pos n

/-- A burst stops where no whole record lies or none may be fetched. -/
theorem State.fetchBurst_stops (h : s.queue? p q = some Q) (hno : Q.recordAt Q.cpos = none ∨ s.mayFetch Q = false) (k slots : Nat) :
    s.fetchBurst p q k slots = s := by
  cases k with
  | zero => rfl
  | succ k =>
    unfold State.fetchBurst
    rw [h]
    dsimp only
    split
    · rfl
    · next r hr =>
      have hmay : s.mayFetch Q = false := hno.resolve_left (fun hnone => by rw [hnone] at hr; cases hr)
      rw [hmay]
      rfl

/-- A burst goes on behind a record that it takes. -/
theorem State.fetchBurst_takes (h : s.queue? p q = some Q) {r : Rec} (hr : Q.recordAt Q.cpos = some r) (hmay : s.mayFetch Q = true) {slots : Nat}
    (hroom : recSlots r ≤ slots) (hgood : s.slotsGood p q) (k : Nat) :
    s.fetchBurst p q (k + 1) slots = (s.consume p q Q r).fetchBurst p q k (slots - recSlots r) := by
  have hgo : (s.mayFetch Q && decide (recSlots r ≤ slots)) = true := by simp [hmay, hroom]
  have hgood' : ¬s.slotsBad p q Q.cpos (recSlots r) = true := by simp [hgood Q.cpos (recSlots r)]
  rw [State.fetchBurst, h]
  dsimp only
  rw [hr]
  dsimp only
  rw [if_pos hgo, if_neg hgood']

/-- What a burst leaves: whole records in the order of their slots, as many slots as it may take. -/
theorem State.fetchBurst_spec (h : s.queue? p q = some Q) (hgood : s.slotsGood p q) (k slots : Nat) :
    ∃ Q' l, (s.fetchBurst p q k slots).queue? p q = some Q' ∧ Queue.fetched l Q Q' ∧ sumNat (l.map recSlots) ≤ slots
      ∧ s.keeps [.parts, .hostMem, .perf] (s.fetchBurst p q k slots) := by
  have stop : ∃ Q' l, s.queue? p q = some Q' ∧ Queue.fetched l Q Q' ∧ sumNat (l.map recSlots) ≤ slots ∧ s.keeps [.parts, .hostMem, .perf] s :=
    ⟨Q, [], h, Q.fetched_nil, Nat.zero_le _, State.keeps_self _ s⟩
  induction k generalizing s Q slots with
  | zero => exact stop
  | succ k ih =>
    cases hr : Q.recordAt Q.cpos with
    | none =>
      rw [State.fetchBurst_stops h (.inl hr)]
      exact stop
    | some r =>
      by_cases hgo : s.mayFetch Q = true ∧ recSlots r ≤ slots
      · obtain ⟨hmay, hroom⟩ := hgo
        obtain ⟨Q₁, hQ₁, hf₁⟩ := State.queue?_consume h r
        have hk₁ := s.keeps_consume_self p q Q r
        have hgood₁ := State.slotsGood_of_dram hgood (hk₁.1 .dram (by decide))
        obtain ⟨Q₂, l, hQ₂, hf₂, hsum, hk₂⟩ := ih hQ₁ hgood₁ (slots - recSlots r)
          ⟨Q₁, [], hQ₁, Q₁.fetched_nil, Nat.zero_le _, State.keeps_self _ _⟩
        rw [State.fetchBurst_takes h hr hmay hroom hgood]
        refine ⟨Q₂, r :: l, hQ₂, Queue.fetched_cons hf₁ hf₂, ?_, State.keeps_trans hk₁ hk₂⟩
        simp only [List.map_cons, sumNat]
        omega
      · have hstop : s.fetchBurst p q (k + 1) slots = s := by
          have hno : ¬(s.mayFetch Q && decide (recSlots r ≤ slots)) = true := by simpa using hgo
          rw [State.fetchBurst, h]
          dsimp only
          rw [hr]
          exact if_neg hno
        rw [hstop]
        exact stop

end

/-- Settles O32: by induction on the burst, record by record. -/
theorem fetchTakesRecordsInOrder : Obligations.FetchTakesRecordsInOrder := by
  unfold Obligations.FetchTakesRecordsInOrder
  intro s p q slots Q hQ
  refine ⟨fun hno => congrArg Host.Outcome.next (State.fetchBurst_stops hQ hno 16 (min slots 16)), fun r hr hmay hroom hgood => ?_⟩
  obtain ⟨Q₁, hQ₁, hf₁⟩ := State.queue?_consume hQ r
  have hk₁ := s.keeps_consume_self p q Q r
  obtain ⟨Q', l, hQ', hf', hsum, hk'⟩ := State.fetchBurst_spec hQ₁ (State.slotsGood_of_dram hgood (hk₁.1 .dram (by decide))) 15 (min slots 16 - recSlots r)
  rw [← State.fetchBurst_takes hQ hr hmay hroom hgood 15] at hQ' hk'
  have hf := Queue.fetched_cons hf₁ hf'
  have hahead : Q'.ahead = (Q.ahead ++ [r]) ++ l := by rw [hf.ahead, List.append_assoc]; rfl
  have hcpos : Q'.cpos = Q.cpos + (recSlots r + sumNat (l.map recSlots)) := hf.cpos
  refine ⟨_, Q', rfl, hQ', ⟨l, hahead.symm⟩, by omega, by omega, ?_, hf.loops, hf.ctrs, ?_⟩
  · rw [hf.ahead, List.drop_left, hf.cpos]
  · exact State.eq_of_fetched (State.keeps_trans hk₁ hk')

end Sys2Proof.Machine
end

section
/-! SUPPORT. SleeveSlots.lean: a write of the Sleeve within one slot (O31). -/

namespace Sys2Proof.Machine

/-! ### Entries of the log (R309) -/

theorem fld_natLe_at {a b : Bytes} {n v k : Nat} (h : a.length = k) : fld (a ++ natLe n v ++ b) k n = v % 256 ^ n := by
  rw [List.append_assoc, ← Nat.add_zero k, fld_append_right h, fld, List.drop_zero, List.take_left' (length_natLe n v), leNat_natLe]

theorem LogNew.part_bytes (n : LogNew) (time : Nat) : u8 (n.bytes time) 14 = n.part % 256 := by
  obtain ⟨rest, hb⟩ : ∃ rest, n.bytes time = natLe 8 time ++ natLe 2 n.cls ++ natLe 2 n.islandA ++ natLe 2 n.islandB ++ natLe 1 n.part ++ rest := by
    simp only [LogNew.bytes, List.append_assoc]
    exact ⟨_, rfl⟩
  rw [hb]
  exact fld_natLe_at (by simp)

theorem LogNew.queue_bytes (n : LogNew) (time : Nat) : u8 (n.bytes time) 15 = n.queue % 256 := by
  obtain ⟨rest, hb⟩ : ∃ rest, n.bytes time
      = natLe 8 time ++ natLe 2 n.cls ++ natLe 2 n.islandA ++ natLe 2 n.islandB ++ natLe 1 n.part ++ natLe 1 n.queue ++ rest := by
    simp only [LogNew.bytes, List.append_assoc]
    exact ⟨_, rfl⟩
  rw [hb]
  exact fld_natLe_at (by simp)

theorem LogNew.loc_bytes (n : LogNew) (time v : Nat) (h : n.loc = natLe 8 v) : u64 (n.bytes time) 24 = v % 2 ^ 64 := by
  have hpad : padTo 8 (natLe 8 v) = natLe 8 v := by simp [padTo, zeros]
  obtain ⟨rest, hb⟩ : ∃ rest, n.bytes time = natLe 8 time ++ natLe 2 n.cls ++ natLe 2 n.islandA ++ natLe 2 n.islandB ++ natLe 1 n.part
      ++ natLe 1 n.queue ++ natLe 2 n.tag ++ natLe 1 n.status ++ zeros 5 ++ natLe 8 v ++ rest := by
    simp only [LogNew.bytes, h, hpad, List.append_assoc]
    exact ⟨_, rfl⟩
  rw [hb]
  exact fld_natLe_at (by simp [zeros])

theorem State.log_logErr (s : State) (n : LogNew) : (s.logErr n).log = s.log.push { bytes := n.bytes s.readTimer.1, readBy := [] } n.cls := by
  have hraise (u : State) (fn : Nat) : (u.raiseEvent fn 5).log = u.log :=
    (State.keeps_raiseEvent fn 5 (by decide) (State.keeps_self [.funcs, .out] u)).1 .log (by decide)
  unfold State.logErr
  dsimp only
  split
  · exact (hraise _ _).trans (hraise _ 0)
  · exact hraise _ 0

/-! ### One piece -/

theorem slotPieces_single {offset : Nat} {data : Bytes} (hdata : data ≠ []) (hfit : offset % 64 + data.length ≤ 64) (k : Nat) :
    slotPieces offset data (k + 2) = [(offset / 65536, offset % 65536 / 64, offset % 64, data)] := by
  have hempty : data.isEmpty = false := by simpa using hdata
  have htake : data.take (64 - offset % 64) = data := List.take_of_length_le (by omega)
  have hdrop : data.drop (64 - offset % 64) = [] := List.drop_eq_nil_of_le (by omega)
  simp [slotPieces, hempty, htake, hdrop]

theorem Queue.raiseFrontier_eq (Q : Queue) (k : Nat) : ∃ n, Q.raiseFrontier k = { Q with fpos := n } ∧ Q.fpos ≤ n := by
  induction k generalizing Q with
  | zero => exact ⟨Q.fpos, rfl, le_refl _⟩
  | succ k ih =>
    unfold Queue.raiseFrontier
    split
    · obtain ⟨n, hn, hle⟩ := ih { Q with fpos := Q.fpos + 1 }
      exact ⟨n, hn, Nat.le_of_succ_le hle⟩
    · exact ⟨Q.fpos, rfl, le_refl _⟩

section
variable {s : State} {p q : Nat} {Q : Queue}

/-- While the link is there the credit word is written and its queue stays. -/
theorem State.queue?_writeCredit_linked (hlink : s.linkGone = false) (h : s.queue? p q = some Q) : (s.writeCredit p q).queue? p q = some Q := by
  unfold State.writeCredit
  rw [h]
  dsimp only
  unfold State.hostWrite
  rw [hlink]
  exact h

theorem State.queue?_unstall (hlink : s.linkGone = false) (h : s.queue? p q = some Q) :
    ∃ b, (s.unstall p q).queue? p q = some { Q with stalled := b } := by
  unfold State.unstall
  rw [h]
  dsimp only
  split
  · exact ⟨false, State.queue?_writeCredit_linked hlink (State.queue?_updQueue_self h _)⟩
  · exact ⟨Q.stalled, h⟩

/-! ### Bytes that are discarded (R111) -/

/-- A write to a position that takes none is counted and logged. -/
def State.overwritten (s : State) (p q pos : Nat) : State :=
  ((s.updQueue p q (fun Q => { Q with overwrites := Q.overwrites + 1 })).countIo 3 0 0xC4 1 p 0).logErr
    { cls := 9, islandA := islPcie, part := p, queue := q, loc := natLe 8 pos }

theorem State.slotWrite_overwrites (h : s.queue? p q = some Q) (hb : Q.broken = false) (hd : Q.destroying = false) {w : Nat} (off : Nat) (data : Bytes)
    (hfull : (Q.sealed (Q.position w) || decide (Q.cpos + 4096 ≤ Q.position w)) = true) :
    s.slotWrite p q w off data = s.overwritten p q (Q.position w) := by
  have hgo : ¬(Q.broken || Q.destroying) = true := by simp [hb, hd]
  unfold State.slotWrite
  rw [h]
  dsimp only
  rw [if_neg hgo]
  exact if_pos hfull

theorem State.overwritten_spec (h : s.queue? p q = some Q) (pos : Nat) :
    (s.overwritten p q pos).queue? p q = some { Q with overwrites := Q.overwrites + 1 }
      ∧ s.keeps [.parts, .perf, .timer, .funcs, .log, .out, .free] (s.overwritten p q pos)
      ∧ ∃ e, (s.overwritten p q pos).log.entries.getLast? = some e ∧ u16 e.bytes 8 = 9 ∧ u8 e.bytes 14 = p % 256 ∧ u8 e.bytes 15 = q % 256
        ∧ u64 e.bytes 24 = pos % 2 ^ 64 := by
  unfold State.overwritten
  generalize hn : ({ cls := 9, islandA := islPcie, part := p, queue := q, loc := natLe 8 pos } : LogNew) = n
  generalize hc : (s.updQueue p q (fun Q => { Q with overwrites := Q.overwrites + 1 })).countIo 3 0 0xC4 1 p 0 = counted
  have hqueue : counted.queue? p q = some { Q with overwrites := Q.overwrites + 1 } := by
    rw [← hc]
    exact State.queue?_updQueue_self h _
  have hkeeps : s.keeps [.parts, .perf, .timer, .funcs, .log, .out, .free] counted := by
    rw [← hc]
    exact State.keeps_countIo _ _ _ _ _ _ (by decide) (State.keeps_updQueue p q _ (by decide) (State.keeps_self _ s))
  have hlogged : counted.keeps [.timer, .funcs, .log, .out, .free] (counted.logErr n) := State.keeps_logErr n (by decide) (State.keeps_self _ counted)
  refine ⟨(State.queue?_congr (hlogged.1 .parts (by decide)) p q).trans hqueue, State.keeps_logErr n (by decide) hkeeps, ?_⟩
  rw [State.log_logErr]
  have hcls : n.cls % 2 ^ 16 = 9 := by simp [← hn]
  have hpart : n.part % 256 = p % 256 := by rw [← hn]
  have hq : n.queue % 256 = q % 256 := by rw [← hn]
  have hloc : n.loc = natLe 8 pos := by rw [← hn]
  exact ⟨_, ErrLog.getLast?_push _ _ _, (n.class_bytes _).trans hcls, (n.part_bytes _).trans hpart, (n.queue_bytes _).trans hq,
    n.loc_bytes _ pos hloc⟩

/-! ### Bytes that are taken (R110) -/

/-- The queue with the bytes at their position. -/
def Queue.holdsBytes (Q : Queue) (pos off : Nat) (data : Bytes) : Queue :=
  { Q with slots := tput Q.slots pos (hostWriteAll (Q.arrived pos) off data), hpos := max Q.hpos (pos + 1) }

/-- The bytes lie in the ring, words written whole lose their poison, and a sealed slot is counted. -/
def State.bytesTaken (s : State) (p q pos off : Nat) (Q : Queue) (data : Bytes) : State :=
  let s := s.sysWritten (slotWords p q (pos % ringSlots) off data.length)
  let s := if (Q.holdsBytes pos off data).sealed pos then s.countIo 3 0 0xC3 1 p 0 else s
  s.updQueue p q (fun _ => (Q.holdsBytes pos off data).raiseFrontier (Q.holdsBytes pos off data).slots.length)

/-- A slot that seals a record makes the host's earlier writes readable, and wakes. -/
def State.recordSealed (s : State) (pos : Nat) (Q : Queue) : State := if Q.sealsRecord pos then s.settleHost.wake .host else s

theorem State.slotWrite_takes (h : s.queue? p q = some Q) (hb : Q.broken = false) (hd : Q.destroying = false) {w : Nat} (off : Nat) (data : Bytes)
    (hopen : (Q.sealed (Q.position w) || decide (Q.cpos + 4096 ≤ Q.position w)) = false) :
    s.slotWrite p q w off data = ((s.bytesTaken p q (Q.position w) off Q data).recordSealed (Q.position w)
      (Q.holdsBytes (Q.position w) off data)).unstall p q := by
  have hgo : ¬(Q.broken || Q.destroying) = true := by simp [hb, hd]
  unfold State.slotWrite
  rw [h]
  dsimp only
  rw [if_neg hgo]
  exact if_neg (by rw [Bool.not_eq_true]; exact hopen)

theorem State.keeps_recordSealed (s : State) (pos : Nat) (Q : Queue) : s.keeps [.unsettled, .power] (s.recordSealed pos Q) := by
  unfold State.recordSealed
  split
  · exact State.keeps_wake .host (by decide) (State.keeps_settleHost (by decide) (State.keeps_self _ s))
  · exact State.keeps_self _ s

theorem State.bytesTaken_spec (h : s.queue? p q = some Q) (pos off : Nat) (data : Bytes) :
    (∃ n, (s.bytesTaken p q pos off Q data).queue? p q = some { Q.holdsBytes pos off data with fpos := n } ∧ Q.fpos ≤ n)
      ∧ (s.sysWritten (slotWords p q (pos % ringSlots) off data.length)).keeps [.parts, .perf] (s.bytesTaken p q pos off Q data) := by
  unfold State.bytesTaken
  extract_lets written counted
  have hcounted : written.keeps [.parts, .perf] counted := by
    dsimp only [counted]
    split
    · exact State.keeps_countIo _ _ _ _ _ _ (by decide) (State.keeps_self _ written)
    · exact State.keeps_self _ written
  have hqueue : counted.queue? p q = some Q := by
    have hparts : counted.parts = written.parts := by
      dsimp only [counted]
      split <;> rfl
    exact (State.queue?_congr hparts p q).trans h
  obtain ⟨n, hn, hle⟩ := (Q.holdsBytes pos off data).raiseFrontier_eq (Q.holdsBytes pos off data).slots.length
  refine ⟨⟨n, ?_, hle⟩, State.keeps_updQueue p q _ (by decide) hcounted⟩
  rw [← hn]
  exact State.queue?_updQueue_self hqueue _

/-- Poison outside the system region stays. -/
theorem State.sysWritten_frame (s : State) (holds : SysUse → Bool) : (∀ a, (s.sysWritten holds).dram.get a = s.dram.get a)
    ∧ (s.sysWritten holds).dram.errs = s.dram.errs
    ∧ ∀ w, systemPc (addrBank (8 * w) / 16) = false → (s.sysWritten holds).dram.poison.contains w = s.dram.poison.contains w := by
  refine ⟨fun _ => rfl, rfl, fun w hw => ?_⟩
  simp [State.sysWritten, Mem.unpoison, hw]

end

/-! ### O31 -/

/-- What a write within one slot leaves. -/
structure State.slotReached (s t : State) (p q pos off : Nat) (data : Bytes) (Q Q' : Queue) : Prop where
  queue : t.queue? p q = some Q'
  get : ∀ a, t.dram.get a = s.dram.get a
  errs : t.dram.errs = s.dram.errs
  poison : ∀ w, systemPc (addrBank (8 * w) / 16) = false → t.dram.poison.contains w = s.dram.poison.contains w
  spad : t.spad = s.spad
  flight : t.flight = s.flight
  taken : (Q.sealed pos || decide (Q.cpos + 4096 ≤ pos)) = false →
    Q' = { Q with slots := tput Q.slots pos (hostWriteAll (Q.arrived pos) off data), hpos := max Q.hpos (pos + 1), fpos := Q'.fpos,
                  stalled := Q'.stalled } ∧ Q.fpos ≤ Q'.fpos
  discarded : (Q.sealed pos || decide (Q.cpos + 4096 ≤ pos)) = true → Q' = { Q with overwrites := Q.overwrites + 1 }
    ∧ ∃ e, t.log.entries.getLast? = some e ∧ u16 e.bytes 8 = 9 ∧ u8 e.bytes 14 = p % 256 ∧ u8 e.bytes 15 = q % 256 ∧ u64 e.bytes 24 = pos % 2 ^ 64

section
variable {s t : State} {p q : Nat} {Q : Queue}

theorem State.slotWrite_spec (h : s.queue? p q = some Q) (hb : Q.broken = false) (hd : Q.destroying = false) (hlink : s.linkGone = false)
    (w off : Nat) (data : Bytes) : ∃ Q', s.slotReached (s.slotWrite p q w off data) p q (Q.position w) off data Q Q' := by
  cases hfull : (Q.sealed (Q.position w) || decide (Q.cpos + 4096 ≤ Q.position w))
  case true =>
    obtain ⟨hqueue, hkeeps, hentry⟩ := State.overwritten_spec h (Q.position w)
    rw [State.slotWrite_overwrites h hb hd off data hfull]
    have hdram := hkeeps.1 .dram (by decide)
    exact ⟨_, hqueue, fun a => congrArg (fun m => Mem.get m a) hdram, congrArg Mem.errs hdram,
      fun w _ => congrArg (fun m => m.poison.contains w) hdram, hkeeps.1 .spad (by decide), hkeeps.1 .flight (by decide),
      fun hopen => absurd (hfull.symm.trans hopen) (by decide), fun _ => ⟨rfl, hentry⟩⟩
  case false =>
    obtain ⟨⟨n, hqueue, hle⟩, htaken⟩ := State.bytesTaken_spec h (Q.position w) off data
    have hsealed := State.keeps_recordSealed (s.bytesTaken p q (Q.position w) off Q data) (Q.position w) (Q.holdsBytes (Q.position w) off data)
    have hqueue' := (State.queue?_congr (hsealed.1 .parts (by decide)) p q).trans hqueue
    have hlink' : ((s.bytesTaken p q (Q.position w) off Q data).recordSealed (Q.position w) (Q.holdsBytes (Q.position w) off data)).linkGone = false :=
      (State.linkGone_congr ((hsealed.1 .link (by decide)).trans (htaken.1 .link (by decide)))).trans hlink
    obtain ⟨b, hunstalled⟩ := State.queue?_unstall hlink' hqueue'
    have hkeeps : (s.sysWritten (slotWords p q (Q.position w % ringSlots) off data.length)).keeps [.parts, .perf, .unsettled, .power, .hostMem]
        (((s.bytesTaken p q (Q.position w) off Q data).recordSealed (Q.position w) (Q.holdsBytes (Q.position w) off data)).unstall p q) :=
      State.keeps_unstall p q (by decide)
        (State.keeps_trans (State.keeps_mono htaken (by decide)) (State.keeps_mono hsealed (by decide)))
    obtain ⟨hget, herrs, hpoison⟩ := s.sysWritten_frame (slotWords p q (Q.position w % ringSlots) off data.length)
    rw [State.slotWrite_takes h hb hd off data hfull]
    have hdram := hkeeps.1 .dram (by decide)
    exact ⟨_, hunstalled, fun a => (congrArg (fun m => Mem.get m a) hdram).trans (hget a), (congrArg Mem.errs hdram).trans herrs,
      fun w hw => (congrArg (fun m => m.poison.contains w) hdram).trans (hpoison w hw), hkeeps.1 .spad (by decide), hkeeps.1 .flight (by decide),
      fun _ => ⟨rfl, hle⟩, fun hopen => absurd (hfull.symm.trans hopen) (by decide)⟩

/-- A write that the host may make is one write of a slot, counted and woken for. -/
theorem exec_sleeveWrite_single {offset : Nat} {data : Bytes} {via : Via} (hreach : s.hostReaches = true) (hp : p < 32) (hdata : data ≠ [])
    (hbar : offset + data.length ≤ 0x400000) (hfit : offset % 64 + data.length ≤ 64) (hstream : s.streamDrops via = false)
    (hopen : s.barOpen p via = true) : ∃ u, s.keeps [.perf, .power] u
      ∧ exec (.sleeveWrite p offset data via) s = .next (u.slotWrite p (offset / 65536) (offset % 65536 / 64) (offset % 64) data) := by
  have hempty : data.isEmpty = false := by simpa using hdata
  have hgo : ¬(!s.hostReaches || decide (32 ≤ p) || decide (0x400000 < offset + data.length) || s.streamDrops via || !s.barOpen p via) = true := by
    simp [hreach, hstream, hopen]
    omega
  have hcounted : s.keeps [.perf, .power] (s.countIo 3 0 0xC2 (cdiv data.length 64) p 0) :=
    State.keeps_countIo _ _ _ _ _ _ (by decide) (State.keeps_self _ s)
  refine ⟨if (s.countIo 3 0 0xC2 (cdiv data.length 64) p 0).power.state = .watch then (s.countIo 3 0 0xC2 (cdiv data.length 64) p 0).wake .host
    else s.countIo 3 0 0xC2 (cdiv data.length 64) p 0, ?_, ?_⟩
  · split
    · exact State.keeps_wake .host (by decide) hcounted
    · exact hcounted
  · dsimp only [exec]
    unfold execSleeveWrite
    have hform : (Instr.sleeveWrite p offset data via).illFormed = none := by simp [Instr.illFormed, hempty]
    rw [hform]
    dsimp only
    rw [if_neg hgo, slotPieces_single hdata hfit]
    rfl

end

/-- Settles O31: the write is one write of a slot, which is taken or counted and logged. -/
theorem sleeveWritesReachTheirSlot : Obligations.SleeveWritesReachTheirSlot := by
  unfold Obligations.SleeveWritesReachTheirSlot
  intro s p offset data via Q hreach hp hdata hbar hfit hstream hopen hQ hb hd
  dsimp only
  obtain ⟨u, hu, hexec⟩ := exec_sleeveWrite_single hreach hp hdata hbar hfit hstream hopen
  have hqueue : u.queue? p (offset / 65536) = some Q := (State.queue?_congr (hu.1 .parts (by decide)) p _).trans hQ
  have hlink : u.linkGone = false := by
    have hup : u.link.state = .up := by
      simp only [State.hostReaches, Bool.and_eq_true, decide_eq_true_eq] at hreach
      rw [hu.1 .link (by decide)]
      exact hreach.1.1
    simp [State.linkGone, hup]
  obtain ⟨Q', hr⟩ := State.slotWrite_spec hqueue hb hd hlink (offset % 65536 / 64) (offset % 64) data
  have hdram : u.dram = s.dram := hu.1 .dram (by decide)
  exact ⟨_, Q', hexec, hr.queue, fun a => by rw [hr.get, hdram], by rw [hr.errs, hdram], fun w hw => by rw [hr.poison w hw, hdram],
    hr.spad.trans (hu.1 .spad (by decide)), hr.flight.trans (hu.1 .flight (by decide)), hr.taken, hr.discarded⟩

end Sys2Proof.Machine
end

section
/-! SUPPORT. UnknownRecords.lean: records that are no row's own (O8), LOOPs of too long a body (O16). -/

namespace Sys2Proof.Machine

/-! ### Records that a row does not take (R118, R139) -/

section
variable {s : State} {p q : Nat} {d : Site} {mine : Bytes → Bool} {skip : Site → Nat} {check : Site → Verdict}
  {run : State → Site → State}

theorem State.dispatch_unknown (hs : s.site? p q = some d) (hop : opRow? (recOp d.b) = none) :
    s.dispatch p q mine skip check run = .next (s.endAtDispatch d .illegal 0 0) := by
  unfold State.dispatch
  rw [hs]
  dsimp only
  rw [hop]
  rfl

theorem State.dispatch_other (hs : s.site? p q = some d) (hop : opRow? (recOp d.b) ≠ none) (hm : mine d.b = false) :
    s.dispatch p q mine skip check run = .next s := by
  have hrow : ¬(opRow? (recOp d.b)).isNone = true := by rwa [Option.isNone_iff_eq_none]
  unfold State.dispatch
  rw [hs]
  dsimp only
  rw [if_neg hrow, hm]
  rfl

end

section
variable {i : Instr} {s : State} {p q op : Nat} {d : Site}

/-- No row takes a record of an opcode outside R139. -/
theorem Instr.takes_of_unknown (hi : i.record? = some (p, q, op)) {b : Bytes} (hop : opRow? (recOp b) = none) : i.takes b = false := by
  by_contra ht
  refine Instr.opRow?_of_record hi ?_
  rwa [← Instr.recOp_of_takes hi (Bool.eq_true_of_not_eq_false ht)]

/-- A span list is read for a record of the row's own only. -/
theorem recordBegun_of_other (hi : i.record? = some (p, q, op)) (hs : s.site? p q = some d) (ht : i.takes d.b = false) :
    recordBegun i s = s := by
  cases i with
  | nbAxpy p q | nbQuant p q =>
    cases hi
    have hop : isOp _ d.b = false := (Bool.and_true _).symm.trans ht
    dsimp only [recordBegun, State.meetSpans]
    rw [hs]
    dsimp only
    rw [hop]
    rfl
  | _ => rfl

/-- The command of a row is a dispatch where the record at the head is not its own. -/
theorem State.dispatches_other (hi : i.record? = some (p, q, op)) (hs : s.site? p q = some d) (ht : i.takes d.b = false) :
    s.dispatches i p q := by
  refine State.dispatches_record hi fun d' hd' ht' => ?_
  cases hs.symm.trans hd'
  rw [ht] at ht'
  cases ht'

end

/-- Settles O8: a record that its row does not take has no body to wait for, so the command is a dispatch, and its first two branches are
the statement's. -/
theorem unknownOpcodesAreIllegal : Obligations.UnknownOpcodesAreIllegal := by
  intro i s p q op d hi hs
  refine ⟨fun hop => ?_, fun hop ht => ?_⟩
  · obtain ⟨mine, run, -, hexec⟩ := State.dispatches_other hi hs (Instr.takes_of_unknown hi hop)
    rw [hexec, State.dispatch_unknown ((site?_recordBegun i s p q).trans hs) hop]
  · obtain ⟨mine, run, hmine, hexec⟩ := State.dispatches_other hi hs ht
    rw [hexec, State.dispatch_other ((site?_recordBegun i s p q).trans hs) hop ((hmine d.b).trans ht), recordBegun_of_other hi hs ht]

/-! ### LOOPs of too long a body (R131, R145) -/

/-- A LOOP that its place refuses is ILLEGAL. -/
theorem loopVerdict_illegal {d : Site} (h : loopPlace d ≠ none) : ∃ o, loopVerdict d = .fail .illegal o := by
  obtain ⟨o, ho⟩ := Option.ne_none_iff_exists'.mp h
  unfold loopVerdict
  dsimp only
  split
  · exact ⟨_, rfl⟩
  · exact ⟨o, by rw [ho]; rfl⟩

/-- A body of more than 256 slots is none that a LOOP may have (R131). -/
theorem loopPlace_long {d : Site} (h : 256 < sumNat ((d.Q.after.take (loopN d.b)).map recSlots)) : loopPlace d ≠ none := by
  unfold loopPlace
  dsimp only
  split
  · exact Option.some_ne_none _
  split
  · exact Option.some_ne_none _
  split
  · exact Option.some_ne_none _
  · exact Option.some_ne_none _

/-- Settles O16: such a LOOP does not wait, its place refuses it, and its body is the records that go with it. -/
theorem longLoopBodiesAreIllegal : Obligations.LongLoopBodiesAreIllegal := by
  intro s p q d hs hop hh hp hlo hhi hfit hlong
  obtain ⟨rfl, rfl⟩ := State.site?_place hs
  have hd := State.meetsSite_of_site? hs
  have hn : loopN d.b = u16 d.b 8 := if_pos ⟨hlo, hhi⟩
  have ht : (Instr.loop d.p d.q).takes d.b = true := (Bool.and_true _).trans (decide_eq_true hop)
  have hw : loopWaits d = false := by
    rw [loopWaits, hn, decide_eq_false (by omega), Bool.and_false]
  have hskip : loopSkip d = u16 d.b 8 := by rw [loopSkip, hn, Nat.min_eq_left hfit]
  obtain ⟨o, ho⟩ := loopVerdict_illegal (loopPlace_long (hn ▸ hlong))
  have hexec := exec_record_fails rfl hs ht hw hh hp ho
  rw [show recordSkips (.loop d.p d.q) d = loopSkip d from rfl, hskip] at hexec
  exact ⟨_, o, hexec, rfl, State.consumed_of_endsRecord (State.endsRecord_endAtDispatch hd.queue? hd.standing rfl o _) hd.queue? rfl rfl rfl⟩

end Sys2Proof.Machine
end

section
/-! SUPPORT. SpanLists.lean: span lists with reserved bytes that are not zero (O27). -/

namespace Sys2Proof.Machine

/-! ### Fields that break no requirement (R118) -/

theorem firstBad_of_all {l : List (Nat × Bool)} (h : ∀ e ∈ l, e.2 = true) : firstBad l = none := by
  induction l using List.reverseRecOn with
  | nil => rfl
  | append_singleton l x ih =>
    rw [firstBad_concat, if_pos (h x (by simp))]
    exact ih fun e he => h e (List.mem_append_left _ he)

/-- The fields of a legal span record pass. -/
theorem axpyFields_of_legal {b : Bytes} (hop : recOp b = 0x5005) (h : spanFieldsLegal b) : axpyFields b = none := by
  obtain ⟨hcode, hcount, hva, hzero⟩ := h.1 hop
  refine firstBad_of_all fun e he => ?_
  rcases List.mem_append.mp he with hfield | hreserved
  · have hcode' : (decide (u8 b 8 = 1) || decide (u8 b 8 = 2)) = true := by simpa using hcode
    simp only [List.mem_cons, List.not_mem_nil, or_false] at hfield
    rcases hfield with rfl | rfl | rfl
    · exact hcode'
    · exact decide_eq_true hcount
    · exact hva
  · exact hzero e hreserved

theorem quantFields_of_legal {b : Bytes} (hop : recOp b = 0x5006) (h : spanFieldsLegal b) : quantFields b = none := by
  obtain ⟨hsrc, hdst, hscale, hgroup, hcount, hva, hstat, hzero⟩ := h.2 hop
  refine firstBad_of_all fun e he => ?_
  rcases List.mem_append.mp he with hfield | hreserved
  · simp only [List.mem_cons, List.not_mem_nil, or_false] at hfield
    rcases hfield with rfl | rfl | rfl | rfl | rfl | rfl | rfl
    · exact hsrc
    · exact hdst
    · exact decide_eq_true hscale
    · exact decide_eq_true hgroup
    · exact decide_eq_true hcount
    · exact hva
    · exact hstat
  · exact hzero e hreserved

/-! ### The verdict on a span list (R118, R429) -/

/-- Reserved bytes that are not zero count after the record's own fields. -/
theorem spanVerdict_reserved {b : Bytes} {l : List Span} (hx : ∃ x ∈ l, x.rest ≠ 0) (fields cons bo : Option Nat) :
    spanVerdict b fields cons bo l = .fail .illegal (fields.getD 0xFF) := by
  have hrest : l.all (fun x => decide (x.rest = 0)) = false := by simpa [List.all_eq_false] using hx
  unfold spanVerdict
  rw [hrest]
  cases fields <;> rfl

section
variable {s : State} {d : Site} {l : List Span}

theorem State.nbAxpyVerdict_reserved (hl : s.spans d = .ok l) (hx : ∃ x ∈ l, x.rest ≠ 0) :
    s.nbAxpyVerdict d = .fail .illegal ((axpyFields d.b).getD 0xFF) := by
  unfold State.nbAxpyVerdict
  rw [hl]
  dsimp only
  cases axpyFields d.b <;> exact spanVerdict_reserved hx _ _ _

theorem State.nbQuantVerdict_reserved (hl : s.spans d = .ok l) (hx : ∃ x ∈ l, x.rest ≠ 0) :
    s.nbQuantVerdict d = .fail .illegal ((quantFields d.b).getD 0xFF) := by
  unfold State.nbQuantVerdict
  rw [hl]
  dsimp only
  cases quantFields d.b <;> exact spanVerdict_reserved hx _ _ _

/-- Either span record whose list breaks R12 fails at step 3, with the offset of its own fields where those are illegal too. -/
theorem checks_spans_reserved {i : Instr} {p q op : Nat} (hi : i.record? = some (p, q, op)) (hop : op = 0x5005 ∨ op = 0x5006)
    (hrec : recOp d.b = op) (hl : s.spans d = .ok l) (hx : ∃ x ∈ l, x.rest ≠ 0) :
    ∃ o, s.checks d i = .fail .illegal o ∧ (spanFieldsLegal d.b → o = 0xFF) := by
  cases i with
  | nbAxpy =>
    cases hi
    exact ⟨_, State.nbAxpyVerdict_reserved hl hx, fun h => by rw [axpyFields_of_legal hrec h]; rfl⟩
  | nbQuant =>
    cases hi
    exact ⟨_, State.nbQuantVerdict_reserved hl hx, fun h => by rw [quantFields_of_legal hrec h]; rfl⟩
  | _ =>
    cases hi <;> omega

/-- A row of a span command takes every record of its opcode, and none of its records waits or takes others along. -/
theorem takes_spans {i : Instr} {p q op : Nat} (hi : i.record? = some (p, q, op)) (hop : op = 0x5005 ∨ op = 0x5006) (hrec : recOp d.b = op) :
    i.takes d.b = true ∧ recordWaits i d = false ∧ recordSkips i d = 0 := by
  cases i with
  | nbAxpy | nbQuant =>
    cases hi
    exact ⟨(Bool.and_true _).trans (decide_eq_true hrec), rfl, rfl⟩
  | _ => cases hi <;> omega

end

/-- Settles O27: the list fails at step 3 of R118, and the record's end at its dispatch is what O9 says of any. -/
theorem spanReservedBytesAreIllegal : Obligations.SpanReservedBytesAreIllegal := by
  intro i s p q op d l hi hop hs hrec hh hp hl hx hlen
  obtain ⟨o, hchecks, hoff⟩ := checks_spans_reserved hi hop hrec hl hx
  obtain ⟨ht, hw, hskips⟩ := takes_spans hi hop hrec
  have hexec := exec_record_fails hi hs ht hw hh hp hchecks
  rw [hskips] at hexec
  have hs' := (site?_recordBegun i s p q).trans hs
  obtain ⟨hconsumed, Q, hQ, -, -, -, -, -, hskip⟩ :=
    endingAtDispatch (recordBegun i s) p q o 0 d .illegal hs' rfl (by decide) (by decide)
  obtain ⟨e, he, hcode, hoffset⟩ := hskip rfl hlen
  exact ⟨_, Q, e, hexec, hconsumed, hQ, he, hcode, fun h => by rw [hoffset, hoff h]⟩

end Sys2Proof.Machine
end

section
/-! SUPPORT. SweepsReturns.lean: the sweep of a shard and the return of freed blocks (O39). -/

namespace Sys2Proof.Machine

/-! ### The sweep (R228) -/

section
variable {s : State} {shard st : Nat} {e : Stream}

/-- Shards are numbered modulo four. -/
theorem State.swept_mod (s : State) (shard : Nat) (e : Nat × Stream) : s.swept shard e = s.swept (shard % 4) e := by
  unfold State.swept
  rw [Nat.mod_mod]

/-- The sweep of its shard makes a stream IDLE that its pool's IDLE_STEPS call idle. -/
theorem State.swept_becomesIdle {P : Partition} {o : Pool} (hp : s.part? e.partition = some P) (ho : P.pool = some o)
    (hs : st % 4 = shard % 4) (ha : e.state = .active) (hi : o.idleSteps ≠ 0) (hl : e.lastStep.toNat + o.idleSteps ≤ P.stepNo.toNat) :
    s.swept shard (st, e) = (st, { e with state := .idle }) := by
  rw [State.swept_mod, ← hs]
  exact State.swept_idle hp ho ha hi hl

/-- Any other stream stays as it is. -/
theorem State.swept_stays (h : st % 4 ≠ shard % 4 ∨ e.state ≠ .active
    ∨ ∀ P o, s.part? e.partition = some P → P.pool = some o → o.idleSteps = 0 ∨ P.stepNo.toNat < e.lastStep.toNat + o.idleSteps) :
    s.swept shard (st, e) = (st, e) := by
  unfold State.swept
  split
  case isFalse => rfl
  case isTrue hswept =>
    obtain ⟨hs, ha⟩ := hswept
    split
    · rfl
    next P hP =>
    split
    · rfl
    next o ho =>
    refine if_neg fun ⟨hi, hl⟩ => ?_
    rcases h with hs' | ha' | hpool
    · exact hs' hs
    · exact ha' ha
    · exact (hpool P o hP ho).elim hi (fun hlt => Nat.not_lt.mpr hl hlt)

end

/-! ### The return of blocks (R162, R228) -/

/-- The first batch whose commands have all completed returns to the pool. -/
theorem State.returnBlocks_found {s : State} {p : Nat} {P : Partition} {o : Pool} {f : Freed} (hp : s.part? p = some P)
    (ho : P.pool = some o) (hf : o.freed.find? (fun f => f.after.all (fun id => (tget s.flight id).isNone)) = some f) :
    s.returnBlocks p = { s.setPart p { P with pool := some { o with
        freed := o.freed.erase f, used := o.used.filter (fun u => !f.slots.contains u) } } with
      streams := s.streams.filter (fun e => !f.streams.contains e.1) } := by
  unfold State.returnBlocks
  rw [hp]
  dsimp only
  rw [ho]
  dsimp only
  rw [hf]
  rfl

/-- Settles O39: a sweep acts on each entry where it stands, and a batch that returns takes its slots and its streams with it. -/
theorem sweepsAndReturns : Obligations.SweepsAndReturns := by
  refine ⟨fun s shard => ⟨_, exec_streamSweep s shard, rfl, fun st e he => ?_⟩, fun s p P o f hp ho hf => ?_⟩
  · refine ⟨(s.swept shard (st, e)).2, ?_, fun P o hp ho hs ha hi hl => ?_, fun h => ?_⟩
    · rw [tget_map _ _ (s.swept_fst shard), he]
      rfl
    · rw [State.swept_becomesIdle hp ho hs ha hi hl]
    · rw [State.swept_stays h]
  · refine ⟨_, _, congrArg Host.Outcome.next (State.returnBlocks_found hp ho hf), (tget_tput _ _ _ _).trans (if_pos rfl), rfl, fun u => by simp,
      fun st hst => ?_, fun st hst => ?_, rfl⟩
    · rw [tget_filter_keys s.streams (fun k => !f.streams.contains k), if_neg (by simpa using hst)]
    · rw [tget_filter_keys s.streams (fun k => !f.streams.contains k), if_pos (by simpa using hst)]

end Sys2Proof.Machine
end

section
/-! SUPPORT. ElementStores.lean: where the element writes of an engine go, and what surrounds its work (O21, O23). -/

namespace Sys2Proof.Machine

/-! ### Sorting, joining and cutting invents no byte -/

section
variable {α : Type} {le : α → α → Bool} {x : α}

theorem mem_mergeInto {y : α} {rest : List α → List α} {l a : List α} (h : x ∈ mergeInto le y rest l) (hrest : ∀ l', x ∈ rest l' → x ∈ a ∨ x ∈ l') :
    x = y ∨ x ∈ a ∨ x ∈ l := by
  induction l with
  | nil => exact (List.mem_cons.mp h).imp id (hrest [])
  | cons z l ih =>
    unfold mergeInto at h
    split at h
    · exact (List.mem_cons.mp h).imp id (hrest (z :: l))
    · rcases List.mem_cons.mp h with rfl | h
      · exact .inr (.inr List.mem_cons_self)
      · exact (ih h).imp id (Or.imp id (List.mem_cons_of_mem z))

theorem mem_mergeTwo {a b : List α} (h : x ∈ mergeTwo le a b) : x ∈ a ∨ x ∈ b := by
  induction a generalizing b with
  | nil => exact .inr h
  | cons y a ih => exact (or_assoc.mpr (mem_mergeInto h (fun l' => ih))).imp List.mem_cons.mpr id

theorem mem_mergePairs {l : List (List α)} (h : x ∈ (mergePairs le l).flatten) : x ∈ l.flatten := by
  fun_induction mergePairs le l with
  | case1 a b t ih =>
    simp only [List.flatten_cons, List.mem_append] at h ⊢
    rcases h with h | h
    · exact (or_assoc.mp (.inl (mem_mergeTwo h)))
    · exact .inr (.inr (ih h))
  | case2 l _ => exact h

theorem mem_mergeSort {l : List α} (h : x ∈ mergeSort le l) : x ∈ l := by
  have hflat : (l.map (fun x => [x])).flatten = l := by
    rw [← List.flatMap_def]
    exact List.flatMap_singleton' l
  have hrounds : ∀ k (l : List (List α)), x ∈ mergeRounds le k l → x ∈ l.flatten := by
    intro k
    induction k with
    | zero => exact fun l h => h
    | succ k ih => exact fun l h => mem_mergePairs (ih _ h)
  exact hflat ▸ hrounds _ _ h

end

theorem va_of_joinPuts {l : List BytePut} {x : BytePut} (h : x ∈ joinPuts l) : ∃ y ∈ l, y.va = x.va := by
  induction l generalizing x with
  | nil => cases h
  | cons w l ih =>
    have htail : ∀ {z}, z ∈ joinPuts l → ∃ y ∈ w :: l, y.va = z.va := fun hz =>
      (ih hz).imp fun _ ⟨hy, he⟩ => ⟨List.mem_cons_of_mem w hy, he⟩
    unfold joinPuts at h
    split at h
    · rw [List.mem_singleton.mp h]
      exact ⟨w, List.mem_cons_self, rfl⟩
    next z r hjoin =>
    rw [hjoin] at htail
    split at h
    · rcases List.mem_cons.mp h with rfl | h
      · exact ⟨w, List.mem_cons_self, rfl⟩
      · exact htail (List.mem_cons_of_mem z h)
    · rcases List.mem_cons.mp h with rfl | h
      · exact ⟨x, List.mem_cons_self, rfl⟩
      · exact htail h

/-- The bytes of a run follow each other, and each is one that is written. -/
theorem va_of_runsOf {l : List BytePut} {w : BytePut} {t : List BytePut} (h : w :: t ∈ runsOf l) {j : Nat} (hj : j < (w :: t).length) :
    ∃ x ∈ l, x.va = w.va + j := by
  induction l generalizing w t j with
  | nil => cases h
  | cons y l ih =>
    have htail : ∀ {w t j}, w :: t ∈ runsOf l → j < (w :: t).length → ∃ x ∈ y :: l, x.va = w.va + j := fun hr hj =>
      (ih hr hj).imp fun _ ⟨hx, he⟩ => ⟨List.mem_cons_of_mem y hx, he⟩
    have hone : ∀ {w t j}, w :: t = [y] → j < (w :: t).length → ∃ x ∈ y :: l, x.va = w.va + j := fun hr hj => by
      cases hr
      exact ⟨y, List.mem_cons_self, by simp at hj; omega⟩
    unfold runsOf at h
    split at h
    · exact hone (List.mem_singleton.mp h) hj
    · next r hruns =>
      rw [hruns] at htail
      exact (List.mem_cons.mp h).elim (fun he => hone he hj) (fun hr => htail (List.mem_cons_of_mem _ hr) hj)
    · next x m r hruns =>
      rw [hruns] at htail
      split at h
      case isTrue hnext =>
        rcases List.mem_cons.mp h with he | hr
        · cases he
          cases j with
          | zero => exact ⟨_, List.mem_cons_self, rfl⟩
          | succ j =>
            obtain ⟨z, hz, hva⟩ := htail (j := j) List.mem_cons_self (Nat.lt_of_succ_lt_succ hj)
            exact ⟨z, hz, by rw [hva, hnext.2.2.1]; omega⟩
        · exact htail (List.mem_cons_of_mem _ hr) hj
      case isFalse =>
        exact (List.mem_cons.mp h).elim (fun he => hone he hj) (fun hr => htail hr hj)

/-! ### Element writes -/

/-- The fields that a write of memory changes. -/
def storeFields : List Field :=
  [.flash, .timer, .dram, .spad, .hostMem, .caches, .unsettled, .parts, .flight, .near, .funcs, .log, .rowHits, .perf, .out, .free]

section
variable {D : Space → Nat → Prop} {s₀ s : State} {wr : Writer} {P : Partition}

/-- A run goes where its bytes lie. -/
theorem State.storesIn_putRun {r : List BytePut}
    (hD : ∀ w t, r = w :: t → ∀ j < r.length, ∀ sp a, s.place wr.p P (w.va + j) = some (sp, a) → D sp a) (h : s₀.storesIn D s) :
    s₀.storesIn D (s.putRun wr P r) := by
  unfold State.putRun
  split
  · exact h
  next w t =>
  split
  · exact State.storesIn_then (State.bytesStay_condition _ _ _) h
  next l hl =>
  refine State.storesIn_writeAll _ _ _ (fun g hg i hi => ?_) h
  obtain ⟨j, hj, hp⟩ := State.segs_place hl g hg i hi
  exact hD w t rfl j hj _ _ hp

/-- Values go where the bytes that they touch lie, and nowhere else. -/
theorem State.storesIn_putFields {l : List BitPut}
    (hD : ∀ w ∈ l.flatMap BitPut.bytes, ∀ sp a, s.place wr.p P w.va = some (sp, a) → D sp a) (h : s₀.storesIn D s) :
    s₀.storesIn D (s.putFields wr P l) := by
  unfold State.putFields
  extract_lets puts fed
  refine (State.each_induction (R := fun u => s.keeps storeFields u ∧ s₀.storesIn D u) ⟨State.keeps_self _ s, h⟩
    (fun u r hr ⟨hk, hu⟩ => ⟨State.keeps_putRun wr P r (List.Subset.refl _) hk, State.storesIn_putRun (fun w t hrun j hj sp a hp => ?_) hu⟩)).2
  subst hrun
  obtain ⟨x, hx, hva⟩ := va_of_runsOf hr hj
  obtain ⟨y, hy, rfl⟩ := List.mem_map.mp hx
  obtain ⟨z, hz, hzva⟩ := va_of_joinPuts hy
  rw [State.place_congr (hk.1 .ident (by decide)) (hk.1 .boot (by decide)), ← hva] at hp
  exact hD z (mem_mergeSort hz) sp a (by rw [hzva]; exact hp)

/-- The bytes of an element, whatever is put there. -/
theorem Desc.bytesAt_put {d : Desc} {x : Ix} {l : List Ix} (hx : x ∈ l) (v : Nat) (bad : Bool) {w : BytePut} (hw : w ∈ (d.put x v bad).bytes) :
    w.va ∈ d.bytesAt l := by
  obtain ⟨i, hi, rfl⟩ := List.mem_map.mp hw
  exact List.mem_flatMap.mpr ⟨x, hx, List.mem_map.mpr ⟨_, List.mem_map.mpr ⟨i, hi, rfl⟩, rfl⟩⟩

/-- The places where virtual addresses of a partition lead. -/
def State.leadsTo (s : State) (p : Nat) (P : Partition) (l : List Nat) (sp : Space) (a : Nat) : Prop := ∃ va ∈ l, s.place p P va = some (sp, a)

theorem State.onlyStores_of_storesIn {p : Nat} {l : List Nat} (h : s₀.storesIn (s₀.leadsTo p P l) s) : s₀.onlyStores s p P l :=
  ⟨fun a ha => h.dram a (fun ⟨va, hva, hp⟩ => ha va hva hp), fun a ha => h.spad a (fun ⟨va, hva, hp⟩ => ha va hva hp),
    fun k hk => h.host k (fun ⟨va, hva, hp⟩ => hk va hva hp)⟩

/-- Elements of a descriptor are put where they lie. -/
theorem State.storesIn_putAll {C : Desc} {puts : List Put} {l : List Ix} (hl : ∀ w ∈ puts, w.ix ∈ l)
    (hplace : ∀ va, s.place wr.p P va = s₀.place wr.p P va) (h : s₀.storesIn (s₀.leadsTo wr.p P (C.bytesAt l)) s) :
    s₀.storesIn (s₀.leadsTo wr.p P (C.bytesAt l)) (s.putAll wr P C puts) := by
  refine State.storesIn_putFields (fun w hw sp a hp => ⟨w.va, ?_, (hplace _).symm.trans hp⟩) h
  obtain ⟨b, hb, hwb⟩ := List.mem_flatMap.mp hw
  obtain ⟨x, hx, rfl⟩ := List.mem_map.mp hb
  exact Desc.bytesAt_put (hl x hx) _ _ hwb

end

theorem mem_box {x : Ix} {e0 e1 e2 e3 : Nat} : x ∈ box e0 e1 e2 e3 ↔ x.i0 < e0 ∧ x.i1 < e1 ∧ x.i2 < e2 ∧ x.i3 < e3 := by
  simp only [box, List.mem_flatMap, List.mem_map, List.mem_range]
  constructor
  · rintro ⟨i3, h3, i2, h2, i1, h1, i0, h0, rfl⟩
    exact ⟨h0, h1, h2, h3⟩
  · rintro ⟨h0, h1, h2, h3⟩
    exact ⟨x.i3, h3, x.i2, h2, x.i1, h1, x.i0, h0, rfl⟩

end Sys2Proof.Machine
end

section
/-! SUPPORT. ComputeStores.lean: MMA, MMAQ, VOP, VDEQ and READ_CTR store to their destination (O21), and READ_CTR writes its counter (O23). -/

namespace Sys2Proof.Machine

/-! ### What surrounds the work of an engine -/

section
variable {s : State} {d : Site}

/-- A product's elements are put on what a launch leaves; what follows leaves every byte alone. -/
theorem State.matrixRun_puts (s : State) (d : Site) (quant : Bool) :
    ∃ u id, s.keeps launchFields u ∧ State.bytesStay (u.putAll (d.writer id (s.mmEngine d) 1) d.P (sdAt d.b 64)
      (u.product (d.access (s.mmEngine d) false) (sdAt d.b 16) (sdAt d.b 40) (sdAt d.b 64) quant (u8 d.b 9 = 1))) (s.matrixRun d quant) := by
  unfold State.matrixRun
  extract_lets e A B C idle acc reads _ f
  split
  rename_i s1 id heq
  have h1 : s.keeps launchFields s1 := by
    rw [← show _ = s1 from congrArg Prod.fst heq]
    exact s.keeps_launched d f 0
  extract_lets u puts t t2
  have hu : s.keeps launchFields u := State.keeps_ite h1 (State.keeps_begins _ _ _ _ (by decide) h1)
  refine ⟨u, id, hu, ?_⟩
  have ht2 : t.bytesStay t2 := State.bytesStay_ite (t.bytesStay_condition id .poison) t.bytesStay_self
  refine State.bytesStay_trans ht2 (State.bytesStay_trans (t2.bytesStay_readRanges id d.p d.P reads) ?_)
  exact ⟨rfl, rfl, rfl, rfl, rfl⟩

variable {reads writes : List VaRange} {work : State → Access → Writer → State × Bool}

/-- A vector command without work is launched and no more. -/
theorem State.vectorRun_idle : s.keeps launchFields (s.vectorRun d true reads writes work) := by
  unfold State.vectorRun
  extract_lets e _ f
  exact State.keeps_tick (by decide) (s.keeps_launched d f 0)

/-- One with work does it on what a launch leaves; what follows leaves every byte alone. -/
theorem State.vectorRun_works : ∃ u id f, s.keeps launchFields u ∧ u.perf = (s.launch d f 0).1.perf
    ∧ State.bytesStay (work u (d.access (veEngine d.b) false) (d.writer id (veEngine d.b) 1)).1 (s.vectorRun d false reads writes work) := by
  unfold State.vectorRun
  extract_lets e _ f
  split
  rename_i s1 id heq
  have hs1 : (s.launch d f 0).1 = s1 := congrArg Prod.fst heq
  have h1 : s.keeps launchFields s1 := hs1 ▸ s.keeps_launched d f 0
  extract_lets u
  have hbegun : s1.keeps [.flight] u :=
    State.keeps_ite (State.keeps_self _ s1) (State.keeps_begins _ _ _ _ (by decide) (State.keeps_self _ s1))
  refine ⟨u, id, f, State.keeps_then hbegun (by decide) h1, hs1 ▸ hbegun.1 .perf (by decide), ?_⟩
  split
  rename_i t bad heq
  rw [if_neg Bool.false_ne_true] at heq
  rw [show (work u (d.access (veEngine d.b) false) (d.writer id (veEngine d.b) 1)).1 = t from congrArg Prod.fst heq]
  extract_lets t1
  have ht1 : t.bytesStay t1 := State.bytesStay_ite (t.bytesStay_condition id .poison) t.bytesStay_self
  exact State.bytesStay_trans ht1 (State.bytesStay_trans (t1.bytesStay_readRanges id d.p d.P reads) ⟨rfl, rfl, rfl, rfl, rfl⟩)

end

/-! ### Frames -/

section
variable {s t u : State} {p : Nat} {P : Partition} {wr : Writer} {l : List Nat}

/-- A launch changes no byte. -/
theorem State.bytesStay_launchFields (h : s.keeps launchFields u) : s.bytesStay u := State.bytesStay_of_keeps h (by decide)

theorem State.onlyStores_of_bytesStay (h : s.bytesStay t) : s.onlyStores t p P l :=
  State.onlyStores_of_storesIn (State.storesIn_then h (State.storesIn_self _ s))

/-- Elements put after a launch, and no other byte. -/
theorem State.onlyStores_of_putAll {C : Desc} {puts : List Put} (hu : s.keeps launchFields u) (hputs : ∀ w ∈ puts, w.ix ∈ C.all)
    (ht : (u.putAll wr P C puts).bytesStay t) (hp : wr.p = p) : s.onlyStores t p P (C.bytesAt C.all) :=
  hp ▸ State.onlyStores_of_storesIn (State.storesIn_then ht (State.storesIn_putAll hputs
    (fun va => State.place_congr (hu.1 .ident (by decide)) (hu.1 .boot (by decide)) wr.p P va)
    (State.storesIn_then (State.bytesStay_launchFields hu) (State.storesIn_self _ s))))

end

/-! ### Elements that are put are those of the destination -/

theorem Desc.extents_pos {D : Desc} (h : D.empty = false) : 0 < D.e0 ∧ 0 < D.e1 ∧ 0 < D.e2 ∧ 0 < D.e3 := by
  simp only [Desc.empty, Bool.or_eq_false_iff, decide_eq_false_iff_not] at h
  omega

theorem State.ix_of_product {s : State} {a : Access} {A B C : Desc} {quant acc : Bool} {w : Put} (h : w ∈ s.product a A B C quant acc) :
    w.ix ∈ C.all := by
  unfold State.product at h
  split at h
  case isTrue => cases h
  case isFalse hne =>
    rw [Bool.or_eq_true, not_or, Bool.not_eq_true] at hne
    obtain ⟨-, -, h2, h3⟩ := Desc.extents_pos (Bool.not_eq_true _ ▸ hne.2)
    obtain ⟨r, hr, hw⟩ := List.mem_flatMap.mp h
    obtain ⟨c, hc, rfl⟩ := List.mem_map.mp hw
    have h1 : r.1 < C.e1 := List.mem_range.mp (List.of_mem_zip hr).1
    have h0 : c.1 < C.e0 := List.mem_range.mp (List.of_mem_zip hc).1
    dsimp only
    split <;> exact mem_box.mpr ⟨h0, h1, h2, h3⟩

/-- Operands of a rotary VOP: as many pairs as half a row of the destination has elements (R152, R213). -/
theorem State.vopVerdict_rotary {s : State} {d : Site} (h : s.vopVerdict d = .go) (hk : vopKind (u8 d.b 9) = some .rotary) :
    2 * (sdAt d.b 40).e0 = (sdAt d.b 64).e0 ∧ (sdAt d.b 40).e1 = (sdAt d.b 64).e1 ∧ (sdAt d.b 40).e2 = (sdAt d.b 64).e2
      ∧ (sdAt d.b 40).e3 = (sdAt d.b 64).e3 := by
  unfold State.vopVerdict at h
  dsimp only at h
  rw [hk] at h
  dsimp only at h
  obtain ⟨-, hcons, -⟩ := verdictOf_eq_go h
  have hall := firstBad_eq_none hcons
  have hA0 := hall (24, decide ((sdAt d.b 16).e0 = (sdAt d.b 64).e0)) (by simp)
  have hA1 := hall (26, decide ((sdAt d.b 16).e1 = (sdAt d.b 64).e1)) (by simp)
  have hA2 := hall (28, decide ((sdAt d.b 16).e2 = (sdAt d.b 64).e2)) (by simp)
  have hA3 := hall (30, decide ((sdAt d.b 16).e3 = (sdAt d.b 64).e3)) (by simp)
  have hB0 := hall (48, decide (2 * (sdAt d.b 40).e0 = (sdAt d.b 16).e0)) (by simp)
  have hB1 := hall (50, decide ((sdAt d.b 40).e1 = (sdAt d.b 16).e1)) (by simp)
  have hB2 := hall (52, decide ((sdAt d.b 40).e2 = (sdAt d.b 16).e2)) (by simp)
  have hB3 := hall (54, decide ((sdAt d.b 40).e3 = (sdAt d.b 16).e3)) (by simp)
  simp only [decide_eq_true_eq] at hA0 hA1 hA2 hA3 hB0 hB1 hB2 hB3
  exact ⟨hB0.trans hA0, hB1.trans hA1, hB2.trans hA2, hB3.trans hA3⟩

theorem State.ix_of_vopPuts {s u : State} {a : Access} {d : Site} (h : s.vopVerdict d = .go) {w : Put} (hw : w ∈ u.vopPuts a d.b) :
    w.ix ∈ (sdAt d.b 64).all := by
  unfold State.vopPuts at hw
  dsimp only at hw
  split at hw
  · cases hw
  split at hw
  · cases hw
  · next hk =>
    obtain ⟨he0, he1, he2, he3⟩ := State.vopVerdict_rotary h hk
    obtain ⟨x, hx, hw⟩ := List.mem_flatMap.mp hw
    obtain ⟨h0, h1, h2, h3⟩ := mem_box.mp hx
    simp only [List.mem_cons, List.not_mem_nil, or_false] at hw
    rcases hw with rfl | rfl <;> exact mem_box.mpr ⟨by dsimp only; omega, he1 ▸ h1, he2 ▸ h2, he3 ▸ h3⟩
  · obtain ⟨x, hx, rfl⟩ := List.mem_map.mp hw
    exact hx

/-! ### Each command -/

section
variable {s : State} {d : Site}

theorem State.onlyStores_matrixRun (s : State) (d : Site) (quant : Bool) :
    s.onlyStores (s.matrixRun d quant) d.p d.P ((sdAt d.b 64).bytesAt (sdAt d.b 64).all) := by
  obtain ⟨u, id, hu, ht⟩ := s.matrixRun_puts d quant
  exact State.onlyStores_of_putAll hu (fun w hw => State.ix_of_product hw) ht rfl

theorem State.onlyStores_vopRun (h : s.vopVerdict d = .go) :
    s.onlyStores (s.vopRun d) d.p d.P ((sdAt d.b 64).bytesAt (sdAt d.b 64).all) := by
  unfold State.vopRun
  dsimp only
  generalize ((sdAt d.b 16).empty || (sdAt d.b 64).empty) = idle
  cases idle with
  | true => exact State.onlyStores_of_bytesStay (State.bytesStay_launchFields State.vectorRun_idle)
  | false =>
    obtain ⟨u, id, f, hu, -, ht⟩ := State.vectorRun_works (s := s) (d := d)
      (work := fun s a wr => (s.putAll wr d.P (sdAt d.b 64) (s.vopPuts a d.b), (s.vopPuts a d.b).any Put.bad))
    dsimp only at ht
    exact State.onlyStores_of_putAll hu (fun w hw => State.ix_of_vopPuts h hw) ht rfl

/-- Elements of D as a VDEQ of A writes them (R202). -/
def State.dequantised (s : State) (a : Access) (A D : Desc) : List Put :=
  D.all.map (fun x => { ix := x, code := s.codeIn D x (s.elemValue a A x).1, bad := (s.elemValue a A x).2 })

theorem State.vdeqRun_works (h : ((sdAt d.b 16).empty || (sdAt d.b 40).empty) = false) :
    s.vdeqRun d = s.vectorRun d false ((sdAt d.b 16).spans (sdAt d.b 16).all) ((sdAt d.b 40).spans (sdAt d.b 40).all)
      (fun s a wr => (s.putAll wr d.P (sdAt d.b 40) (s.dequantised a (sdAt d.b 16) (sdAt d.b 40)),
        (s.dequantised a (sdAt d.b 16) (sdAt d.b 40)).any Put.bad)) := by
  unfold State.vdeqRun
  dsimp only
  rw [h]
  rfl

theorem State.onlyStores_vdeqRun (s : State) (d : Site) :
    s.onlyStores (s.vdeqRun d) d.p d.P ((sdAt d.b 40).bytesAt (sdAt d.b 40).all) := by
  cases hidle : ((sdAt d.b 16).empty || (sdAt d.b 40).empty) with
  | true =>
    unfold State.vdeqRun
    dsimp only
    rw [hidle]
    exact State.onlyStores_of_bytesStay (State.bytesStay_launchFields State.vectorRun_idle)
  | false =>
    rw [State.vdeqRun_works hidle]
    obtain ⟨u, id, f, hu, -, ht⟩ := State.vectorRun_works (s := s) (d := d)
      (work := fun s a wr => (s.putAll wr d.P (sdAt d.b 40) (s.dequantised a (sdAt d.b 16) (sdAt d.b 40)),
        (s.dequantised a (sdAt d.b 16) (sdAt d.b 40)).any Put.bad))
    dsimp only at ht
    refine State.onlyStores_of_putAll hu (fun w hw => ?_) ht rfl
    obtain ⟨x, hx, rfl⟩ := List.mem_map.mp hw
    exact hx

/-- The bytes that READ_CTR writes of a counter: COUNT, and OVF as bit 63 (R152, R404). -/
def Counter.image (c : Counter) : Bytes := natLe 8 (c.count + b2n c.ovf * 2 ^ 63)

/-- What READ_CTR puts once its counter is sampled. -/
def State.counterPut (s : State) (wr : Writer) (P : Partition) (va sel : Nat) : State :=
  (s.sampleCounter sel).2.putVa wr P va (s.sampleCounter sel).1.image false

theorem State.readCtrRun_eq (s : State) (d : Site) :
    s.readCtrRun d = s.vectorRun d (sdAt d.b 64).empty [] [(((sdAt d.b 64).base : Int), 8)]
      (fun s _ wr => (s.counterPut wr d.P (sdAt d.b 64).base (u32 d.b 12), false)) := rfl

/-- A READ_CTR whose destination has a zero extent is launched and no more (R142). -/
theorem State.readCtrRun_idle (h : (sdAt d.b 64).empty = true) : s.keeps launchFields (s.readCtrRun d) := by
  rw [s.readCtrRun_eq, h]
  exact State.vectorRun_idle

/-- Any other puts its counter after its launch. -/
theorem State.readCtrRun_works (h : (sdAt d.b 64).empty = false) : ∃ u id f, s.keeps launchFields u ∧ u.perf = (s.launch d f 0).1.perf
    ∧ State.bytesStay (u.counterPut (d.writer id (veEngine d.b) 1) d.P (sdAt d.b 64).base (u32 d.b 12)) (s.readCtrRun d) := by
  rw [s.readCtrRun_eq, h]
  exact State.vectorRun_works (work := fun s _ wr => (s.counterPut wr d.P (sdAt d.b 64).base (u32 d.b 12), false))

/-- Sampling a counter changes no memory and no place. -/
theorem State.keeps_sampleCounter_self (s : State) (sel : Nat) : s.keeps [.perf, .free] (s.sampleCounter sel).2 :=
  State.keeps_sampleCounter sel (by decide) (State.keeps_self _ s)

theorem State.onlyStores_readCtrRun (s : State) (d : Site) :
    s.onlyStores (s.readCtrRun d) d.p d.P ((List.range 8).map (fun i => (sdAt d.b 64).base + i)) := by
  cases h : (sdAt d.b 64).empty with
  | true => exact State.onlyStores_of_bytesStay (State.bytesStay_launchFields (State.readCtrRun_idle h))
  | false =>
    obtain ⟨u, id, f, hu, -, ht⟩ := State.readCtrRun_works h
    have hk := State.keeps_then (u.keeps_sampleCounter_self (u32 d.b 12)) (by decide) hu
    refine State.onlyStores_of_storesIn (State.storesIn_then ht (State.storesIn_putVa _ _ _ (fun j hj sp a hp => ?_)
      (State.storesIn_then (State.bytesStay_launchFields hk) (State.storesIn_self _ s))))
    rw [State.place_congr (hk.1 .ident (by decide)) (hk.1 .boot (by decide))] at hp
    exact ⟨_, List.mem_map_of_mem (List.mem_range.mpr (by simpa [Counter.image] using hj)), hp⟩

end

theorem exec_vdeq_runs {s : State} {p q : Nat} {d : Site} (h : s.runs (.vdeq p q) d) : exec (.vdeq p q) s = .next (s.vdeqRun d) := by
  dsimp only [exec, execVdeq]
  exact State.dispatch_of_runs h rfl (Instr.isOp_of_takes rfl) rfl

/-- A record that runs has passed the checks of its row. -/
theorem State.checks_of_runs {s : State} {i : Instr} {d : Site} (h : s.runs i d) : (recordBegun i s).checks d i = .go := by
  obtain ⟨_, _, _, _, _, _, _, _, _, hgo, _⟩ := h
  exact hgo

/-- Settles O21: each command is launched, puts elements of its destination, or a counter's eight bytes, and changes no byte besides. -/
theorem computeStoresOnlyItsResult : Obligations.ComputeStoresOnlyItsResult := by
  refine ⟨fun s p q d h => ⟨_, exec_mma_runs h, ?_⟩, fun s p q d h => ⟨_, exec_mmaq_runs h, ?_⟩, fun s p q d h => ⟨_, exec_vop_runs h, ?_⟩,
    fun s p q d h => ⟨_, exec_vdeq_runs h, ?_⟩, fun s p q d h => ⟨_, exec_readCtr_runs h, ?_⟩⟩
  all_goals obtain ⟨rfl, rfl⟩ := State.site?_place (State.site?_of_runs h rfl)
  · exact s.onlyStores_matrixRun d false
  · exact s.onlyStores_matrixRun d true
  · exact State.onlyStores_vopRun (State.checks_of_runs h)
  · exact s.onlyStores_vdeqRun d
  · exact s.onlyStores_readCtrRun d

/-! ### The counter that READ_CTR reads -/

/-- Dispatches are counted by counters of dispatches alone. -/
theorem State.ctr_count {s : State} {sel : Nat} {c : Counter} (hc : tget s.perf.ctrs sel = some c) {ev : Nat} (he : c.event ≠ ev)
    (kind inst n : Nat) : tget (s.count kind inst ev n).perf.ctrs sel = some c := by
  have hsel : c.selects ev 0 0 = false := by simp [Counter.selects, he]
  refine (tget_map _ _ (fun e => ?_) sel).trans ?_
  · split <;> rfl
  · rw [hc, Option.map_some, hsel, if_neg (by simp)]

/-- Sampling a dispatch leaves the counters alone. -/
theorem State.ctrs_sampleDispatch (s : State) (cluster id : Nat) : (s.sampleDispatch cluster id).perf.ctrs = s.perf.ctrs := by
  refine State.each_induction (R := fun u => u.perf.ctrs = s.perf.ctrs) rfl (fun u e _ hu => ?_)
  dsimp only
  split
  case isFalse => exact hu
  case isTrue => split <;> exact hu

theorem State.ctr_launch {s : State} {sel : Nat} {c : Counter} (hc : tget s.perf.ctrs sel = some c) (he : c.event ≠ 0x43) (d : Site)
    (f : Flight) (k : Nat) : tget (s.launch d f k).1.perf.ctrs sel = some c := by
  unfold State.launch
  extract_lets id flown moved turned counted
  rw [State.ctrs_sampleDispatch]
  exact State.ctr_count hc he 1 d.Q.cluster 1

/-- A counter of no timed event is read as it stands. -/
theorem State.sampleCounter_of_plain {s : State} {sel : Nat} {c : Counter} (hc : tget s.perf.ctrs sel = some c)
    (ht : timedEvent c.event = false) : (s.sampleCounter sel).1 = c := by
  have hget : tgetD s.perf.ctrs sel Counter.none = c := by rw [tgetD, hc, Option.getD_some]
  exact ((s.sampleCounter_spec sel).2 (hget.symm ▸ ht)).trans hget

/-- Bytes put within a page of the scratchpads. -/
theorem State.spadPut_putVa {s : State} {wr : Writer} {P : Partition} {va c : Nat} {b : Bytes} (bad : Bool)
    (h : s.place wr.p P va = some (.spad, c)) (hn : 0 < b.length) (hpage : va % 4096 + b.length ≤ 4096) :
    s.spadPut (s.putVa wr P va b bad) c b := by
  unfold State.putVa
  rw [State.segs_page h hn hpage]
  simp only [State.writeAll, List.take_length]
  exact s.spadPut_writeSeg wr c b.length b bad

/-- READ_CTR writes a doubleword at a multiple of 8, within a page (R152). -/
theorem State.readCtrVerdict_aligned {s : State} {d : Site} (h : s.readCtrVerdict d = .go) : (sdAt d.b 64).base % 8 = 0 := by
  unfold State.readCtrVerdict at h
  obtain ⟨-, hcons, -⟩ := verdictOf_eq_go h
  exact of_decide_eq_true (firstBad_eq_none hcons (64, decide ((sdAt d.b 64).base % 8 = 0)) (by simp))

theorem Counter.leNat_image (c : Counter) : leNat c.image = (c.count + (if c.ovf then 2 ^ 63 else 0)) % 2 ^ 64 := by
  rw [Counter.image, leNat_natLe]
  cases c.ovf <;> rfl

/-- Settles O23: the launch leaves the counter as it is, and the doubleword that is put at the destination is its image. -/
theorem readCtrWritesTheCounter : Obligations.ReadCtrWritesTheCounter := by
  intro s p q a d c h hc hevent htimed hplace
  obtain ⟨rfl, rfl⟩ := State.site?_place (State.site?_of_runs h rfl)
  refine ⟨_, exec_readCtr_runs h, State.launched_of_worksFrom (s.worksFrom_readCtrRun d), fun hempty => ?_, fun hempty => ?_⟩
  · obtain ⟨u, id, f, hu, hperf, ht⟩ := State.readCtrRun_works hempty
    have halign := State.readCtrVerdict_aligned (State.checks_of_runs h)
    have hsample : (u.sampleCounter (u32 d.b 12)).1 = c :=
      State.sampleCounter_of_plain (hperf ▸ State.ctr_launch hc hevent d f 0) htimed
    have hk := State.keeps_then (u.keeps_sampleCounter_self (u32 d.b 12)) (by decide) hu
    have hput : (u.sampleCounter (u32 d.b 12)).2.spadPut (u.counterPut (d.writer id (veEngine d.b) 1) d.P (sdAt d.b 64).base (u32 d.b 12)) a c.image := by
      rw [State.counterPut, hsample]
      refine State.spadPut_putVa false ?_ (by simp [Counter.image]) (by simp only [Counter.image, length_natLe]; omega)
      exact (State.place_congr (hk.1 .ident (by decide)) (hk.1 .boot (by decide)) _ _ _).trans hplace
    have hbytes := (State.spadPut_then hput ht).bytes
    rw [show c.image.length = 8 from length_natLe 8 _] at hbytes
    rw [hbytes, c.leNat_image]
  · have hk := State.readCtrRun_idle (s := s) hempty
    exact ⟨hk.1 .spad (by decide), hk.1 .dram (by decide)⟩

end Sys2Proof.Machine
end


section
/-! SUPPORT. JobEnds.lean: what the ends of commands leave of the commands in flight and of the peer side (O54). -/

namespace Sys2Proof.Machine

/-- t comes from s by ends of commands: what is in flight was in flight, of the same partition and with the same peer job; the manifest and the
ports are as they were, and a failed group stays failed. -/
structure State.onlyEnds (s t : State) : Prop where
  flight : ∀ id g, tget t.flight id = some g → ∃ f, tget s.flight id = some f ∧ f.p = g.p ∧ f.peer = g.peer
  manifest : t.peers.manifest = s.peers.manifest
  ports : t.peers.ports = s.peers.ports
  failed : ∀ p g, (s.group p g).state = .failed → (t.group p g).state = .failed

section
variable {s t u : State}

theorem State.onlyEnds.refl (s : State) : s.onlyEnds s := ⟨fun _ g h => ⟨g, h, rfl, rfl⟩, rfl, rfl, fun _ _ => id⟩

theorem State.onlyEnds.trans (h : s.onlyEnds t) (k : t.onlyEnds u) : s.onlyEnds u := by
  refine ⟨fun id g hg => ?_, k.manifest.trans h.manifest, k.ports.trans h.ports, fun p g hs => k.failed p g (h.failed p g hs)⟩
  obtain ⟨f, hf, hp, hj⟩ := k.flight id g hg
  obtain ⟨e, he, hp', hj'⟩ := h.flight id f hf
  exact ⟨e, he, hp'.trans hp, hj'.trans hj⟩

/-- A step that leaves the peer side alone. -/
theorem State.onlyEnds.flights (h : s.onlyEnds t) (hp : u.peers = t.peers)
    (hf : ∀ id g, tget u.flight id = some g → ∃ f, tget t.flight id = some f ∧ f.p = g.p ∧ f.peer = g.peer) : s.onlyEnds u :=
  h.trans ⟨hf, by rw [hp], by rw [hp], fun p g hs => by rw [State.group, hp]; exact hs⟩

theorem State.onlyEnds.rest (h : s.onlyEnds t) (hf : u.flight = t.flight) (hp : u.peers = t.peers) : s.onlyEnds u :=
  h.flights hp (fun _ g hg => ⟨g, hf ▸ hg, rfl, rfl⟩)

theorem State.onlyEnds.keeps {F : List Field} (h : s.onlyEnds t) (k : t.keeps F u) (hf : Field.flight ∉ F) (hp : Field.peers ∉ F) : s.onlyEnds u :=
  h.rest (k.1 .flight hf) (k.1 .peers hp)

/-- A command in flight changes, but for its partition and its peer job. -/
theorem State.onlyEnds.updFlight (h : s.onlyEnds t) (id : Nat) {c : Flight → Flight} (hc : ∀ f, (c f).p = f.p ∧ (c f).peer = f.peer) :
    s.onlyEnds (t.updFlight id c) := by
  refine h.flights rfl (fun k g hg => ?_)
  change tget (tupd t.flight id c) k = some g at hg
  rw [tget_tupd] at hg
  split at hg
  · next hk =>
    obtain ⟨f, hf, rfl⟩ := Option.map_eq_some_iff.mp hg
    exact ⟨f, hk ▸ hf, (hc f).1.symm, (hc f).2.symm⟩
  · exact ⟨g, hg, rfl, rfl⟩

theorem State.onlyEnds.each {α : Type} {l : List α} {c : State → α → State} (h : s.onlyEnds t) (hc : ∀ u x, s.onlyEnds u → s.onlyEnds (c u x)) :
    s.onlyEnds (t.each l c) :=
  State.each_induction (R := s.onlyEnds) h (fun u x _ hu => hc u x hu)

/-- A command that is in flight no more does not come back. -/
theorem State.onlyEnds.absent (h : s.onlyEnds t) {id : Nat} (hid : tget s.flight id = none) : tget t.flight id = none := by
  cases hg : tget t.flight id with
  | none => rfl
  | some g =>
    obtain ⟨f, hf, -⟩ := h.flight id g hg
    cases hid.symm.trans hf

/-! ### Conditions and writes -/

theorem State.onlyEnds.condition (h : s.onlyEnds t) (id : Nat) (st : Status) : s.onlyEnds (t.condition id st) :=
  h.updFlight id (fun f => by split <;> exact ⟨rfl, rfl⟩)

theorem State.onlyEnds.leaseHit (h : s.onlyEnds t) (w : Writer) (a : Nat) (l : Lease) : s.onlyEnds (t.leaseHit w a l) := by
  unfold State.leaseHit
  split
  · exact h
  · extract_lets who met counted
    have hmet : s.onlyEnds met := (h.condition l.cmd .leaseConflict).rest rfl rfl
    have hk : met.keeps [.timer, .funcs, .log, .perf, .out, .free] counted := State.keeps_count _ _ _ _ (by decide) (State.keeps_self _ met)
    exact hmet.keeps (State.keeps_logErr _ (by decide) hk) (by decide) (by decide)

theorem State.onlyEnds.mixReaders (h : s.onlyEnds t) (w : Writer) (g : Seg) (b : Bytes) (bad : Nat → Bool) :
    s.onlyEnds (t.mixReaders w g b bad) := by
  refine h.flights rfl (fun id e he => ?_)
  unfold State.mixReaders at he
  dsimp only at he
  rw [tget_map _ _ (fun x => by split <;> rfl)] at he
  obtain ⟨f, hf, rfl⟩ := Option.map_eq_some_iff.mp he
  refine ⟨f, hf, ?_⟩
  split <;> exact ⟨rfl, rfl⟩

theorem State.onlyEnds.noted (h : s.onlyEnds t) (w : Writer) (g : Seg) (b : Bytes) (bad : Nat → Bool) :
    s.onlyEnds ((t.mixReaders w g b bad).unsettle w g) :=
  (h.mixReaders w g b bad).keeps (State.keeps_unsettle w g (by decide) (State.keeps_self [.unsettled] _)) (by decide) (by decide)

theorem State.onlyEnds.mergeWords (h : s.onlyEnds t) (st : Store) (a n : Nat) : s.onlyEnds (t.mergeWords st a n) :=
  h.keeps (State.keeps_mergeWords st a n (by decide)
    (State.keeps_self [.flash, .timer, .dram, .spad, .near, .funcs, .log, .rowHits, .perf, .out, .free] t)) (by decide) (by decide)

theorem State.onlyEnds.writeSeg (h : s.onlyEnds t) (w : Writer) (g : Seg) (b : Bytes) (bad : Bool) : s.onlyEnds (t.writeSeg w g b bad) := by
  unfold State.writeSeg
  split
  case h_1 =>
    exact (h.mixReaders w g b _).keeps (State.keeps_hostWrite w.p w.q g.addr b (by decide) (State.keeps_self [.hostMem, .parts, .perf] _))
      (by decide) (by decide)
  case h_2 =>
    extract_lets words merged merge m₀ m noted put
    have hput : s.onlyEnds put := ((h.mergeWords .spad _ _).noted w g b m.badWord).rest rfl rfl
    split
    · exact hput.condition _ _
    · exact hput
  case h_3 =>
    split
    · exact h.condition _ _
    · extract_lets hit words merged merge m₀ m noted put ended
      have hhit : s.onlyEnds hit := h.each (fun u l hu => hu.leaseHit w g.addr l)
      have hended : s.onlyEnds ended := ((hhit.mergeWords .dram _ _).noted w g b m.badWord).rest rfl rfl
      split
      · exact hended.condition _ _
      · exact hended

theorem State.onlyEnds.writeAll (h : s.onlyEnds t) (w : Writer) (l : List Seg) (b : Bytes) (bad : Bool) : s.onlyEnds (t.writeAll w l b bad) := by
  induction l generalizing t b with
  | nil => exact h
  | cons g l ih => exact ih (h.writeSeg w g _ bad) _

/-! ### Streams that are released -/

theorem State.onlyEnds.smWrite (h : s.onlyEnds t) (w : Writer) (va : Nat) (b : Bytes) : s.onlyEnds (t.smWrite w va b) := by
  unfold State.smWrite
  split
  · exact h
  · split
    · exact h.writeAll w _ b false
    · exact h.condition _ _

theorem State.onlyEnds.bumpRefs (h : s.onlyEnds t) (w : Writer) (o : Pool) (r : Nat) (up : Bool) : s.onlyEnds (t.bumpRefs w o r up) := by
  unfold State.bumpRefs
  split
  · exact h
  · exact h.smWrite w _ _

theorem State.onlyEnds.releaseStream (h : s.onlyEnds t) (w : Writer) (st : Nat) (after : List Nat) :
    s.onlyEnds (t.releaseStream w st after).1 := by
  unfold State.releaseStream
  extract_lets wr
  split
  case h_2 => exact h
  case h_1 P e _ _ =>
    split
    · exact h
    · next o _ =>
      split
      extract_lets bumped cleared later
      have hbumped : s.onlyEnds bumped := h.each (fun u r hu => hu.bumpRefs wr o r false)
      have hcleared : s.onlyEnds cleared := hbumped.smWrite wr _ _
      exact hcleared.rest rfl rfl

/-! ### A command that ends -/

theorem State.onlyEnds.retire (h : s.onlyEnds t) (id : Nat) : s.onlyEnds (t.retire id) := by
  cases hid : tget t.flight id with
  | none =>
    rw [State.retire_absent hid]
    exact h
  | some f =>
    have hb : s.onlyEnds (t.atBoundary f).1 := h.keeps (t.keeps_atBoundary f) (by decide) (by decide)
    have hkr := (t.atBoundary f).1.keeps_reportEnd id f (f.statusAfter (t.atBoundary f).2)
    rw [State.retire_eq hid]
    refine State.onlyEnds.keeps (hb.flights (hkr.1 .peers (by decide)) (fun k g hg => ⟨g, ?_, rfl, rfl⟩))
      (State.keeps_settleDestroy f.p f.q (by decide) (State.keeps_self [.parts, .sigs, .funcs, .handed, .out] _)) (by decide) (by decide)
    rw [State.flight_reportEnd, tget_tdel] at hg
    split at hg
    · cases hg
    · exact hg

/-- The work of a command is dropped, its destination undefined, and its status noted. -/
theorem State.onlyEnds.stopped (h : s.onlyEnds t) (id : Nat) (l : List Range) (st : Status) :
    s.onlyEnds (((t.dropWork id).scramble l).condition id st) := by
  have hdropped : s.onlyEnds (t.dropWork id) := h.rest rfl rfl
  exact (hdropped.keeps (State.keeps_scramble l (by decide) (State.keeps_self [.dram, .spad, .hostMem, .free] _)) (by decide) (by decide)).condition id st

theorem State.onlyEnds.abandon (h : s.onlyEnds t) (id : Nat) (st : Status) : s.onlyEnds (t.abandon id st) := by
  unfold State.abandon
  split
  · exact h
  · exact (h.stopped id _ st).retire id

/-! ### Faults -/

theorem State.onlyEnds.deleteQueues (h : s.onlyEnds t) (p : Nat) (c : Queue → Bool) : s.onlyEnds (t.deleteQueues p c) :=
  h.keeps (State.keeps_deleteQueues p c (by decide) (State.keeps_self [.hostMem, .parts, .sigs, .funcs, .handed, .perf, .out] t))
    (by decide) (by decide)

theorem State.onlyEnds.teardown (h : s.onlyEnds t) (p ctx cause : Nat) : s.onlyEnds (t.teardown p ctx cause) := by
  unfold State.teardown
  split
  · exact h
  split
  · exact h
  · extract_lets before mine abandoned noticed emptied w streams released cleared dropped raised
    have habandoned : s.onlyEnds abandoned := h.each (fun u k hu => hu.abandon k .contextTorn)
    have hnoticed : s.onlyEnds noticed :=
      habandoned.keeps (State.keeps_abortNotices p _ (by decide) (State.keeps_self [.out] abandoned)) (by decide) (by decide)
    have hemptied : s.onlyEnds emptied := hnoticed.deleteQueues p _
    have hreleased : s.onlyEnds released := State.onlyEnds.keeps (hemptied.each (fun u st hu => hu.releaseStream w st before))
      (State.keeps_firmwareDone w (by decide) (State.keeps_self [.unsettled, .free] _)) (by decide) (by decide)
    have hcleared : s.onlyEnds cleared := hreleased.each (fun u r hu => hu.rest rfl rfl)
    have hdropped : s.onlyEnds dropped := hcleared.rest rfl rfl
    have hraised : dropped.keeps [.timer, .funcs, .log, .out, .free] raised := State.keeps_raiseEvent _ _ (by decide) (State.keeps_self _ dropped)
    exact hdropped.keeps (State.keeps_logErr _ (by decide) hraised) (by decide) (by decide)

/-- A group becomes FAILED, or any of its fields changes while its state stays. -/
theorem State.onlyEnds.groups (h : s.onlyEnds t) (hf : u.flight = t.flight) (hm : u.peers.manifest = t.peers.manifest)
    (hp : u.peers.ports = t.peers.ports) (hg : ∀ p g, (t.group p g).state = .failed → (u.group p g).state = .failed) : s.onlyEnds u :=
  h.trans ⟨fun _ g hu => ⟨g, hf ▸ hu, rfl, rfl⟩, hm, hp, hg⟩

theorem State.group_setGroup (s : State) (p g p' g' : Nat) (G : Group) :
    (s.setGroup p g G).group p' g' = if groupKey p' g' = groupKey p g then G else s.group p' g' := by
  unfold State.group State.setGroup tgetD
  rw [tget_tput]
  split <;> rfl

theorem State.onlyEnds.failed_setGroup (h : s.onlyEnds t) (p g : Nat) {G : Group} (hG : G.state = .failed) : s.onlyEnds (t.setGroup p g G) := by
  refine h.groups rfl rfl rfl (fun p' g' hs => ?_)
  rw [State.group_setGroup]
  split
  · exact hG
  · exact hs

theorem State.forgetGroup_state (s : State) (p g p' g' : Nat) : ((s.forgetGroup p g).group p' g').state = (s.group p' g').state := by
  have hgroups : (s.forgetGroup p g).peers.groups
      = s.peers.groups.map (fun (e : Nat × Group) => if e.1 = groupKey p g then (e.1, { e.2 with empties := [] }) else e) := by
    unfold State.forgetGroup
    dsimp only
    split <;> rfl
  unfold State.group tgetD
  rw [hgroups, tget_map _ _ (fun e => by split <;> rfl)]
  cases tget s.peers.groups (groupKey p' g') with
  | none => rfl
  | some G =>
    rw [Option.map_some, Option.getD_some, Option.getD_some]
    split <;> rfl

theorem State.forgetGroup_rest (s : State) (p g : Nat) : (s.forgetGroup p g).flight = s.flight
    ∧ (s.forgetGroup p g).peers.manifest = s.peers.manifest ∧ (s.forgetGroup p g).peers.ports = s.peers.ports := by
  unfold State.forgetGroup
  dsimp only
  split <;> exact ⟨rfl, rfl, rfl⟩

theorem State.onlyEnds.forgetGroup (h : s.onlyEnds t) (p g : Nat) : s.onlyEnds (t.forgetGroup p g) := by
  obtain ⟨hf, hm, hp⟩ := t.forgetGroup_rest p g
  exact h.groups hf hm hp (fun p' g' hs => (t.forgetGroup_state p g p' g').trans hs)

theorem State.onlyEnds.forgetCopies (h : s.onlyEnds t) (c : Nat → Nat → Bool) : s.onlyEnds (t.forgetCopies c) :=
  h.groups rfl rfl rfl (fun _ _ => id)

theorem State.onlyEnds.resetNotices (h : s.onlyEnds t) (p : Nat) : s.onlyEnds (t.resetNotices p) := by
  unfold State.resetNotices
  refine h.each (fun u g hu => ?_)
  extract_lets told
  have htold : s.onlyEnds told := hu.each (fun v o hv => hv.rest rfl rfl)
  exact ((htold.failed_setGroup p g.group rfl).forgetGroup p g.group).forgetCopies _

theorem State.onlyEnds.beginZeroing (h : s.onlyEnds t) (p : Nat) (destroy : Bool) (mailbox : Option Nat) :
    s.onlyEnds (t.beginZeroing p destroy mailbox) := by
  unfold State.beginZeroing
  split
  · exact h
  split
  case h_1 =>
    split
    · split
      · exact h.keeps (F := [.parts, .link, .funcs, .handed, .out]) (by simp) (by decide) (by decide)
      · exact h.rest rfl rfl
    · exact h
  case h_2 P _ _ =>
    extract_lets erred answered abandoned noticed emptied dropped stopped stopped' forgotten
    have herred : s.onlyEnds erred := h.keeps (State.keeps_tdiError p (by decide) (State.keeps_self [.trust] t)) (by decide) (by decide)
    have hanswered : s.onlyEnds answered :=
      herred.keeps (State.keeps_ite (State.keeps_self [.funcs, .handed, .out] erred) (State.keeps_mailGone p (by decide) (State.keeps_self _ erred)))
        (by decide) (by decide)
    have habandoned : s.onlyEnds abandoned := hanswered.each (fun u k hu => hu.abandon k .partitionReset)
    have hemptied : s.onlyEnds emptied := (habandoned.resetNotices p).deleteQueues p _
    have hdropped : s.onlyEnds dropped :=
      hemptied.keeps (State.keeps_dropStreams p (by decide) (State.keeps_self [.parts, .streams, .prefixes] emptied)) (by decide) (by decide)
    have hstopped : s.onlyEnds stopped' := State.onlyEnds.each (t := stopped) (hdropped.rest rfl rfl) (fun u c hu => hu.rest rfl rfl)
    exact hstopped.rest rfl rfl

theorem State.onlyEnds.fault (h : s.onlyEnds t) (p ctx cause : Nat) : s.onlyEnds (t.fault p ctx cause) := by
  unfold State.fault
  split
  · exact h
  split
  · exact h
  split
  · exact h.beginZeroing p false none
  · exact h.teardown p ctx cause

/-! ### Completions -/

theorem State.onlyEnds.complete (h : s.onlyEnds t) (id : Nat) : s.onlyEnds (t.complete id) := by
  unfold State.complete
  split
  · exact h
  · next f _ =>
    extract_lets st logged scrambled retired
    have hlogged : s.onlyEnds logged :=
      h.keeps (State.keeps_ite (State.keeps_logErr _ (by decide) (State.keeps_self [.timer, .funcs, .log, .out, .free] t))
        (State.keeps_self _ t)) (by decide) (by decide)
    have hscrambled : s.onlyEnds scrambled :=
      hlogged.keeps (State.keeps_ite (State.keeps_scramble f.writes (by decide) (State.keeps_self [.dram, .spad, .hostMem, .free] logged))
        (State.keeps_self _ logged)) (by decide) (by decide)
    have hretired : s.onlyEnds retired :=
      (hscrambled.keeps (State.keeps_landWrites f (by decide) (State.keeps_self [.caches] scrambled)) (by decide) (by decide)).retire id
    split
    · exact hretired.fault _ _ _
    · exact hretired

theorem State.onlyEnds.cutShort (h : s.onlyEnds t) (id : Nat) (st : Status) : s.onlyEnds (t.cutShort id st) := by
  unfold State.cutShort
  split
  · exact h
  · exact (h.stopped id _ st).complete id

theorem State.onlyEnds.losePeer (h : s.onlyEnds t) (id : Nat) (st : Status) : s.onlyEnds (t.losePeer id st) := by
  unfold State.losePeer
  split
  · exact h
  · next f j _ =>
    exact (h.updFlight id (c := fun x => { x with writes := t.unconfirmed f j }) (fun _ => ⟨rfl, rfl⟩)).cutShort id st

theorem State.onlyEnds.losePeerJobs (h : s.onlyEnds t) (c : Flight → PeerJob → Bool) : s.onlyEnds (t.losePeerJobs c) :=
  h.each (fun _ id hu => hu.losePeer id .peerLost)

theorem State.onlyEnds.failGroup (h : s.onlyEnds t) (p g k : Nat) : s.onlyEnds (t.failGroup p g k) := by
  unfold State.failGroup
  extract_lets group failed forgotten lost
  have hforgotten : s.onlyEnds forgotten := ((h.failed_setGroup p g (G := { t.group p g with state := .failed }) rfl).forgetGroup p g).forgetCopies _
  have hlost : s.onlyEnds lost := hforgotten.losePeerJobs _
  have hraised : lost.keeps [.timer, .funcs, .log, .out, .free] ((lost.raiseEvent (p + 1) 3).raiseEvent 0 3) :=
    State.keeps_raiseEvent 0 3 (by decide) (State.keeps_raiseEvent (p + 1) 3 (by decide) (State.keeps_self _ lost))
  exact hlost.keeps hraised (by decide) (by decide)

end

/-! ### Which commands end -/

section
variable {s : State} {id : Nat}

theorem State.absent_cutShort_self (s : State) (id : Nat) (st : Status) : tget (s.cutShort id st).flight id = none := by
  unfold State.cutShort
  split
  · assumption
  · exact State.absent_complete _ id

/-- A peer command that is lost is out of flight. -/
theorem State.absent_losePeer_self (h : ∀ f, tget s.flight id = some f → f.peer ≠ none) (st : Status) :
    tget (s.losePeer id st).flight id = none := by
  unfold State.losePeer
  split
  · next hjob =>
    unfold State.job? at hjob
    split at hjob
    · next f hf => exact absurd (Option.map_eq_none_iff.mp hjob) (h f hf)
    · assumption
  · exact State.absent_cutShort_self _ id st

/-- Of a list of peer commands that are lost, none is left in flight. -/
theorem State.absent_each_losePeer {l : List Nat} (hl : id ∈ l) (st : Status) (h : ∀ f, tget s.flight id = some f → f.peer ≠ none) :
    tget (s.each l (fun s id => s.losePeer id st)).flight id = none := by
  induction l generalizing s with
  | nil => cases hl
  | cons k l ih =>
    have hk := (State.onlyEnds.refl s).losePeer k st
    rcases List.mem_cons.mp hl with rfl | hl
    · exact ((State.onlyEnds.refl (s.losePeer id st)).each (fun _ k hu => hu.losePeer k st)).absent (State.absent_losePeer_self h st)
    · refine ih hl (fun g hg => ?_)
      obtain ⟨f, hf, -, hj⟩ := hk.flight id g hg
      exact hj ▸ h f hf

/-- The commands that the test of a loss picks are in flight no more. -/
theorem State.absent_losePeerJobs {c : Flight → PeerJob → Bool} (h : ∀ f, tget s.flight id = some f → ∃ j, f.peer = some j ∧ c f j = true) :
    tget (s.losePeerJobs c).flight id = none := by
  cases hid : tget s.flight id with
  | none => exact ((State.onlyEnds.refl s).losePeerJobs c).absent hid
  | some f =>
    obtain ⟨j, hj, hc⟩ := h f hid
    refine State.absent_each_losePeer (List.mem_map.mpr ⟨(id, f), List.mem_filter.mpr ⟨mem_of_tget hid, ?_⟩, rfl⟩) .peerLost (fun g hg hn => ?_)
    · dsimp only
      rw [hj]
      exact hc
    · obtain ⟨j', hj', -⟩ := h g hg
      cases hn.symm.trans hj'

end

end Sys2Proof.Machine
end


section
/-! SUPPORT. PeerLosses.lean: the loss of a peer and the notices of it (O54). -/

namespace Sys2Proof.Machine

/-! ### The log's summary -/

theorem ErrLog.summary_push (l : ErrLog) (e : LogEntry) (cls : Nat) :
    (l.push e cls).summary = if cls < 12 then l.summary ||| BitVec.ofNat 12 (2 ^ cls) else l.summary := by
  unfold ErrLog.push
  dsimp only
  split
  · rfl
  · split <;> rfl

section
variable {s t : State} {p port k : Nat}

theorem State.summary_logLoss (s : State) (p port k : Nat) : (s.logLoss p port k).log.summary.getLsbD 4 = true := by
  unfold State.logLoss
  rw [State.log_logErr, ErrLog.summary_push]
  dsimp only
  rw [if_pos (by decide), BitVec.getLsbD_or, show (BitVec.ofNat 12 (2 ^ 4)).getLsbD 4 = true from rfl, Bool.or_true]

theorem State.event_logLoss_kept {fn i : Nat} (h : (s.func fn).event.getLsbD i = true) (p port k : Nat) :
    ((s.logLoss p port k).func fn).event.getLsbD i = true :=
  State.event_logErr_kept h _

theorem State.keeps_logLoss_self (s : State) (p port k : Nat) : s.keeps [.timer, .funcs, .log, .out, .free] (s.logLoss p port k) :=
  State.keeps_logLoss p port k (by decide) (State.keeps_self _ s)

/-- A loss that is logged for each of some partitions is in the summary. -/
theorem State.summary_each_logLoss {l : List Nat} (hl : l ≠ []) (s : State) (port k : Nat) :
    (s.each l (fun s p => s.logLoss p port k)).log.summary.getLsbD 4 = true := by
  induction l generalizing s with
  | nil => exact absurd rfl hl
  | cons p l ih =>
    by_cases h : l = []
    · subst h
      exact s.summary_logLoss p port k
    · exact ih h _

end

/-! ### Ports that carry frames -/

section
variable {s t : State}

theorem State.carries_congr (hb : t.boot = s.boot) (ht : t.thermal = s.thermal) (hp : t.peers.ports = s.peers.ports) (n : Nat) :
    t.carries n = s.carries n := by
  unfold State.carries State.portsRun State.alive State.powerGood State.port
  rw [hb, ht, hp]

theorem State.groupPorts_congr (h : t.peers.manifest.links = s.peers.manifest.links) (G : GroupEntry) : t.groupPorts G = s.groupPorts G := by
  unfold State.groupPorts State.portsTo
  rw [h]

theorem State.each_emit {α : Type} (s : State) (l : List α) (o : α → Out) : s.each l (fun s x => s.emit (o x)) = { s with out := s.out ++ l.map o } := by
  induction l generalizing s with
  | nil =>
    rw [List.map_nil, List.append_nil]
    rfl
  | cons x l ih =>
    refine (ih (s.emit (o x))).trans ?_
    rw [List.map_cons, List.append_cons]
    rfl

end

/-! ### A group that fails -/

/-- What the failure of a group for the loss of a member leaves. -/
structure State.groupLost (s t : State) (p g k : Nat) : Prop where
  ends : s.onlyEnds t
  failed : (t.group p g).state = .failed
  gone : ∀ id f j, tget s.flight id = some f → f.peer = some j → f.p = p → j.ofGroup g = true ∨ j.withPeer k = true → tget t.flight id = none
  eventAll : (t.func 0).event.getLsbD 3 = true
  event : (t.func (p + 1)).event.getLsbD 3 = true

/-- The peer side of a group that fails, before its commands end. -/
def State.groupGivenUp (s : State) (p g k : Nat) : State :=
  ((s.setGroup p g { s.group p g with state := .failed }).forgetGroup p g).forgetCopies (fun p' k' => decide (p' = p) && decide (k' = k))

/-- Whether a group's failure ends a command. -/
def Flight.failsWith (p g k : Nat) (f : Flight) (j : PeerJob) : Bool := decide (f.p = p) && (j.ofGroup g || j.withPeer k)

section
variable {s t : State}

theorem State.failGroup_eq (s : State) (p g k : Nat) :
    s.failGroup p g k = (((s.groupGivenUp p g k).losePeerJobs (Flight.failsWith p g k)).raiseEvent (p + 1) 3).raiseEvent 0 3 := rfl

theorem State.keeps_raised (s : State) (p i : Nat) : s.keeps [.funcs, .out] ((s.raiseEvent p i).raiseEvent 0 i) :=
  State.keeps_raiseEvent 0 i (by decide) (State.keeps_raiseEvent p i (by decide) (State.keeps_self _ s))

theorem State.groupGivenUp_failed (s : State) (p g k : Nat) : ((s.groupGivenUp p g k).group p g).state = .failed := by
  refine (State.forgetGroup_state _ p g p g).trans ?_
  rw [State.group_setGroup, if_pos rfl]

theorem State.flight_groupGivenUp (s : State) (p g k : Nat) : (s.groupGivenUp p g k).flight = s.flight := (State.forgetGroup_rest _ p g).1

theorem State.groupLost_failGroup (s : State) (p g k : Nat) : s.groupLost (s.failGroup p g k) p g k := by
  have hends : s.onlyEnds (s.failGroup p g k) := (State.onlyEnds.refl s).failGroup p g k
  rw [State.failGroup_eq] at hends ⊢
  have hraised := ((s.groupGivenUp p g k).losePeerJobs (Flight.failsWith p g k)).keeps_raised (p + 1) 3
  have hlost := (State.onlyEnds.refl (s.groupGivenUp p g k)).losePeerJobs (Flight.failsWith p g k)
  have hkept := hlost.keeps hraised (by decide) (by decide)
  refine ⟨hends, hkept.failed p g (s.groupGivenUp_failed p g k), fun id f j hf hj hp hc => ?_, State.event_raiseEvent_self _ 0 (by decide),
    State.event_raiseEvent_kept (State.event_raiseEvent_self _ (p + 1) (by decide)) 0 3⟩
  rw [show ((((s.groupGivenUp p g k).losePeerJobs (Flight.failsWith p g k)).raiseEvent (p + 1) 3).raiseEvent 0 3).flight = _
    from hraised.1 .flight (by decide)]
  refine State.absent_losePeerJobs (fun f' hf' => ?_)
  rw [State.flight_groupGivenUp] at hf'
  obtain rfl := Option.some.inj (hf.symm.trans hf')
  exact ⟨j, hj, by simpa [Flight.failsWith, hp] using hc⟩

end

/-! ### A notice of a loss (R320, R322) -/

/-- What says whether ports run stays when a group fails. -/
theorem State.still_failGroup (s : State) (p g k : Nat) :
    (s.failGroup p g k).boot = s.boot ∧ (s.failGroup p g k).thermal = s.thermal := by
  have hkeeps := State.keeps_failGroup p g k (by decide) (State.keeps_self [.flash, .timer, .cycles, .dram, .spad, .hostMem, .caches, .unsettled,
    .parts, .streams, .prefixes, .flight, .sigs, .near, .funcs, .handed, .log, .link, .trust, .peers, .rowHits, .perf, .out, .free, .ends] s)
  exact ⟨hkeeps.1 .boot (by decide), hkeeps.1 .thermal (by decide)⟩

theorem State.included_exclude (s : State) (k : Nat) :
    (((s.exclude k).peers.manifest.peers[k]?).map PeerEntry.included).getD false = false := by
  unfold State.exclude
  dsimp only
  rw [List.getElem?_map]
  cases he : ((List.range s.peers.manifest.peers.length).zip s.peers.manifest.peers)[k]? with
  | none => rfl
  | some e =>
    obtain ⟨hk, -⟩ := List.getElem?_zip_eq_some.mp he
    obtain ⟨hlt, hk⟩ := List.getElem?_eq_some_iff.mp hk
    rw [List.getElem_range] at hk
    rw [Option.map_some, if_pos hk.symm]
    rfl

/-- The state in which a notice is told on: the group has failed and the loss is logged. -/
def State.lossTaken (s : State) (port p g k : Nat) (reset : Bool) : State :=
  ((if reset then s else s.exclude k).failGroup p g k).logLoss p port k

/-- What a device tells on. -/
def lossToTell (p g k : Nat) (reset : Bool) (o : Nat) : Out := if reset then .resetNotice o p g k else .lossNotice o p g k

section
variable {s : State} {port p g k : Nat} {reset : Bool} {G : GroupEntry}

theorem State.noticed_eq (hG : s.groupEntry? p g = some G) (hs : (s.group p g).state ≠ .failed) (port k : Nat) (reset : Bool) :
    s.noticed port p g k reset = ((s.lossTaken port p g k reset).each
      (((s.lossTaken port p g k reset).groupPorts G).filter (fun o => decide (o ≠ port) && (s.lossTaken port p g k reset).carries o))
      (fun s o => s.emit (lossToTell p g k reset o))) := by
  unfold State.noticed
  rw [hG]
  dsimp only
  rw [if_neg hs]
  rfl

/-- What a notice of a loss leaves. -/
structure State.lossNoticed (s t : State) (port p g k : Nat) (reset : Bool) (G : GroupEntry) : Prop where
  failed : (t.group p g).state = .failed
  gone : ∀ id f j, tget s.flight id = some f → f.peer = some j → f.p = p → j.ofGroup g = true ∨ j.withPeer k = true → tget t.flight id = none
  eventAll : (t.func 0).event.getLsbD 3 = true
  event : (t.func (p + 1)).event.getLsbD 3 = true
  summary : t.log.summary.getLsbD 4 = true
  manifest : t.peers.manifest = if reset then s.peers.manifest else (s.exclude k).peers.manifest
  told : ∀ o ∈ s.groupPorts G, o ≠ port → s.carries o = true → lossToTell p g k reset o ∈ t.out

theorem State.lossNoticed_noticed (hG : s.groupEntry? p g = some G) (hs : (s.group p g).state ≠ .failed) (port k : Nat) (reset : Bool) :
    s.lossNoticed (s.noticed port p g k reset) port p g k reset G := by
  rw [State.noticed_eq hG hs, State.each_emit]
  generalize he : (if reset then s else s.exclude k) = e
  have hflight : e.flight = s.flight := by rw [← he]; split <;> rfl
  have hports : e.peers.ports = s.peers.ports := by rw [← he]; split <;> rfl
  have hlinks : e.peers.manifest.links = s.peers.manifest.links := by rw [← he]; split <;> rfl
  have hboot : e.boot = s.boot := by rw [← he]; split <;> rfl
  have hthermal : e.thermal = s.thermal := by rw [← he]; split <;> rfl
  have hmanifest : e.peers.manifest = if reset then s.peers.manifest else (s.exclude k).peers.manifest := by rw [← he]; split <;> rfl
  have htaken : s.lossTaken port p g k reset = (e.failGroup p g k).logLoss p port k := by rw [State.lossTaken, he]
  have hlost := e.groupLost_failGroup p g k
  have hlogged := (e.failGroup p g k).keeps_logLoss_self p port k
  have hends := hlost.ends.keeps hlogged (by decide) (by decide)
  obtain ⟨hboot', hthermal'⟩ := e.still_failGroup p g k
  rw [htaken]
  refine ⟨?_, fun id f j hf hj hp hc => ?_, State.event_logLoss_kept hlost.eventAll p port k, State.event_logLoss_kept hlost.event p port k,
    State.summary_logLoss _ p port k, hends.manifest.trans hmanifest, fun o ho hne hcar => ?_⟩
  · exact ((State.onlyEnds.refl _).keeps hlogged (by decide) (by decide)).failed p g hlost.failed
  · exact (congrArg (fun l => tget l id) (hlogged.1 .flight (by decide))).trans (hlost.gone id f j (hflight ▸ hf) hj hp hc)
  · refine List.mem_append_right _ (List.mem_map.mpr ⟨o, List.mem_filter.mpr ⟨?_, ?_⟩, rfl⟩)
    · rw [State.groupPorts_congr ((congrArg Manifest.links hends.manifest).trans hlinks)]
      exact ho
    · rw [State.carries_congr (((hlogged.1 .boot (by decide)).trans hboot').trans hboot)
        (((hlogged.1 .thermal (by decide)).trans hthermal').trans hthermal) (hends.ports.trans hports), hcar]
      simpa using hne

/-- A notice of a loss that comes in on a port that carries frames (R319, R320). -/
theorem State.lossNoticed_wake (hG : s.groupEntry? p g = some G) (hs : (s.group p g).state ≠ .failed) (port k : Nat) (reset : Bool) :
    s.lossNoticed ((s.wake .peer).noticed port p g k reset) port p g k reset G := by
  rw [s.wake_only .peer]
  generalize (s.wake .peer).power = x
  obtain ⟨hfailed, hgone, hall, hevent, hsummary, hmanifest, htold⟩ :=
    State.lossNoticed_noticed (s := { s with power := x }) (p := p) (g := g) (G := G) hG hs port k reset
  exact ⟨hfailed, hgone, hall, hevent, hsummary, hmanifest, htold⟩

end

theorem exec_lossNotice {s : State} {port : Nat} (hc : s.carries port = true) (p g k : Nat) :
    exec (.lossNotice port p g k) s = .next ((s.wake .peer).noticed port p g k false) := if_pos hc

theorem exec_groupResetNotice {s : State} {port : Nat} (hc : s.carries port = true) (p g k : Nat) :
    exec (.groupResetNotice port p g k) s = .next ((s.wake .peer).noticed port p g k true) := if_pos hc

/-- A frame of a party on a port that carries none does nothing (R315, R420). -/
theorem exec_notice_stopped {s : State} {port : Nat} (hc : s.carries port = false) (p g k : Nat) (l : List Abandoned) (r : Option (Nat × Nat)) :
    ∀ i ∈ [Instr.lossNotice port p g k, .groupResetNotice port p g k, .abortNotice port p k l r], exec i s = .next s := by
  have hno : ¬s.carries port = true := by rw [hc]; decide
  simp only [List.forall_mem_cons]
  refine ⟨if_neg hno, if_neg hno, if_pos ?_, fun i hi => absurd hi List.not_mem_nil⟩
  rw [hc]
  rfl

/-! ### A peer that is declared lost (R319) -/

section
variable {s : State} {k : Nat}

/-- The groups of a list fail, one after the other. -/
theorem State.failed_each_failGroup {l : List GroupEntry} {G : GroupEntry} (hG : G ∈ l) (s : State) (k : Nat) :
    ((s.each l (fun s g => s.failGroup g.partition g.group k)).group G.partition G.group).state = .failed := by
  induction l generalizing s with
  | nil => cases hG
  | cons H l ih =>
    rcases List.mem_cons.mp hG with rfl | hG
    · exact ((State.onlyEnds.refl (s.failGroup G.partition G.group k)).each (fun _ g hu => hu.failGroup g.partition g.group k)).failed _ _
        (s.groupLost_failGroup G.partition G.group k).failed
    · exact ih hG _

/-- The groups through a peer that have not failed. -/
def State.groupsWith (s : State) (k : Nat) : List GroupEntry :=
  s.peers.manifest.groups.filter (fun g => g.peers.contains k && decide ((s.group g.partition g.group).state ≠ .failed))

/-- The groups have failed and the commands of the peer have ended. -/
def State.peerGone (s : State) (k : Nat) : State :=
  (((s.exclude k).forgetCopies (fun _ k' => decide (k' = k))).each (s.groupsWith k) (fun s g => s.failGroup g.partition g.group k)).losePeerJobs
    (fun _ j => j.withPeer k)

/-- The loss is logged, for each partition that has a group of the peer, or for none. -/
def State.lossLogged (s : State) (gs : List GroupEntry) (k port : Nat) : State :=
  if gs.isEmpty then s.logLoss 0xFF port k else s.each (nubNat (gs.map GroupEntry.partition)) (fun s p => s.logLoss p port k)

/-- The loss is told on. -/
def State.lossSent (s : State) (gs : List GroupEntry) (k : Nat) : State :=
  s.each gs (fun s g => s.each ((s.groupPorts g).filter s.carries) (fun s port => s.emit (.lossNotice port g.partition g.group k)))

theorem State.declareLost_eq (s : State) (k port : Nat) :
    s.declareLost k port = (((s.peerGone k).raiseEvent 0 3).lossLogged (s.groupsWith k) k port).lossSent (s.groupsWith k) k := rfl

theorem State.summary_lossLogged (s : State) (gs : List GroupEntry) (k port : Nat) : (s.lossLogged gs k port).log.summary.getLsbD 4 = true := by
  unfold State.lossLogged
  cases gs with
  | nil => exact s.summary_logLoss 0xFF port k
  | cons G gs => exact State.summary_each_logLoss (l := nubNat ((G :: gs).map GroupEntry.partition)) (List.cons_ne_nil _ _) s port k

theorem State.event_lossLogged_kept {fn i : Nat} (h : (s.func fn).event.getLsbD i = true) (gs : List GroupEntry) (k port : Nat) :
    ((s.lossLogged gs k port).func fn).event.getLsbD i = true := by
  unfold State.lossLogged
  split
  · exact State.event_logLoss_kept h 0xFF port k
  · exact State.each_induction (R := fun u => (u.func fn).event.getLsbD i = true) h (fun u p _ hu => State.event_logLoss_kept hu p port k)

theorem State.keeps_lossLogged (s : State) (gs : List GroupEntry) (k port : Nat) : s.keeps [.timer, .funcs, .log, .out, .free] (s.lossLogged gs k port) :=
  State.keeps_ite (s.keeps_logLoss_self 0xFF port k) (State.keeps_each _ (fun u p => u.keeps_logLoss_self p port k) (State.keeps_self _ s))

theorem State.keeps_lossSent (s : State) (gs : List GroupEntry) (k : Nat) : s.keeps [.out] (s.lossSent gs k) :=
  State.keeps_each _ (fun u _ => State.keeps_each _ (fun v _ => State.keeps_emit _ (by decide) (State.keeps_self _ v)) (State.keeps_self _ u))
    (State.keeps_self _ s)

/-- What the loss of a peer leaves. -/
structure State.peerLost (s t : State) (k : Nat) : Prop where
  excluded : ((t.peers.manifest.peers[k]?).map PeerEntry.included).getD false = false
  failed : ∀ G ∈ s.peers.manifest.groups, G.peers.contains k = true → (t.group G.partition G.group).state = .failed
  gone : ∀ id f j, tget s.flight id = some f → f.peer = some j → j.withPeer k = true → tget t.flight id = none
  event : (t.func 0).event.getLsbD 3 = true
  summary : t.log.summary.getLsbD 4 = true
  ports : t.peers.ports = s.peers.ports

theorem State.failed_peerGone {G : GroupEntry} (hG : G ∈ s.peers.manifest.groups) (hk : G.peers.contains k = true) :
    ((s.peerGone k).group G.partition G.group).state = .failed := by
  refine ((State.onlyEnds.refl _).losePeerJobs _).failed _ _ ?_
  by_cases hs : (s.group G.partition G.group).state = .failed
  · exact ((State.onlyEnds.refl _).each (fun _ g hu => hu.failGroup g.partition g.group k)).failed _ _ hs
  · exact State.failed_each_failGroup (List.mem_filter.mpr ⟨hG, by rw [hk, Bool.true_and]; exact decide_eq_true hs⟩) _ k

theorem State.absent_peerGone {id : Nat} {f : Flight} {j : PeerJob} (hf : tget s.flight id = some f) (hj : f.peer = some j)
    (hk : j.withPeer k = true) : tget (s.peerGone k).flight id = none := by
  refine State.absent_losePeerJobs (fun f' hf' => ?_)
  obtain ⟨e, he, -, hpeer⟩ := ((State.onlyEnds.refl ((s.exclude k).forgetCopies (fun _ k' => decide (k' = k)))).each
    (fun _ g hu => hu.failGroup g.partition g.group k)).flight id f' hf'
  obtain rfl := Option.some.inj (hf.symm.trans he)
  exact ⟨j, hpeer.symm.trans hj, hk⟩

theorem State.peerLost_declareLost (s : State) (k port : Nat) : s.peerLost (s.declareLost k port) k := by
  have hends : ((s.exclude k).forgetCopies (fun _ k' => decide (k' = k))).onlyEnds (s.peerGone k) :=
    ((State.onlyEnds.refl _).each (fun _ g hu => hu.failGroup g.partition g.group k)).losePeerJobs _
  rw [State.declareLost_eq]
  generalize hr : (s.peerGone k).raiseEvent 0 3 = raised
  have hraised : (s.peerGone k).keeps [.funcs, .out] raised := hr ▸ State.keeps_raiseEvent 0 3 (by decide) (State.keeps_self _ _)
  have hlogged := raised.keeps_lossLogged (s.groupsWith k) k port
  have hsent := (raised.lossLogged (s.groupsWith k) k port).keeps_lossSent (s.groupsWith k) k
  have htold := State.keeps_then hsent (by decide) hlogged
  have hpeers := (htold.1 .peers (by decide)).trans (hraised.1 .peers (by decide))
  have hevent : (raised.func 0).event.getLsbD 3 = true := hr ▸ State.event_raiseEvent_self _ 0 (by decide)
  have hkept := (State.onlyEnds.refl (s.peerGone k)).rest ((htold.1 .flight (by decide)).trans (hraised.1 .flight (by decide))) hpeers
  refine ⟨?_, fun G hG hk => hkept.failed _ _ (State.failed_peerGone hG hk), fun id f j hf hj hk => hkept.absent (State.absent_peerGone hf hj hk),
    ?_, ?_, (hkept.ports.trans hends.ports).trans rfl⟩
  · rw [hkept.manifest, hends.manifest]
    exact s.included_exclude k
  · unfold State.func
    rw [hsent.1 .funcs (by decide)]
    exact State.event_lossLogged_kept hevent _ k port
  · rw [hsent.1 .log (by decide)]
    exact raised.summary_lossLogged _ k port

end

end Sys2Proof.Machine
end


section
/-! SUPPORT. PeerNotices.lean: what notices about matches do, and the activation of a group (O54). -/

namespace Sys2Proof.Machine

/-! ### The commands that notices are about -/

section
variable {s : State} {p k g op ch n id : Nat} {f : Flight} {j : PeerJob}

theorem State.job?_of_flight (hf : tget s.flight id = some f) (hj : f.peer = some j) : s.job? id = some (f, j) := by
  unfold State.job?
  rw [hf]
  dsimp only
  rw [hj]
  rfl

theorem State.collectiveJob_spec (h : s.collectiveJob p g op = some (id, f, j)) :
    f.peer = some j ∧ f.p = p ∧ ∃ r m, j.kind = .collective g op r m := by
  obtain ⟨e, -, he⟩ := List.exists_of_findSome?_eq_some h
  grind

theorem State.recvJob_spec (h : s.recvJob p k ch n = some (id, f, j)) : f.peer = some j ∧ f.p = p ∧ j.kind = .recv k ch n := by
  obtain ⟨e, -, he⟩ := List.exists_of_findSome?_eq_some h
  grind

theorem State.sendJob_spec (h : s.sendJob p k ch n = some (id, f, j)) : f.peer = some j ∧ f.p = p ∧ j.kind = .send k ch n := by
  obtain ⟨e, -, he⟩ := List.exists_of_findSome?_eq_some h
  grind

/-! ### Abort notices (R159, R322) -/

/-- A peer command in flight that is lost is in flight no more. -/
theorem State.absent_losePeer (hf : tget s.flight id = some f) (hj : f.peer = some j) (st : Status) : tget (s.losePeer id st).flight id = none := by
  refine State.absent_losePeer_self (fun e he hn => ?_) st
  obtain rfl := Option.some.inj (hf.symm.trans he)
  cases hn.symm.trans hj

/-- A collective that differs from its match is in flight no more. -/
theorem State.absent_mismatch (hf : tget s.flight id = some f) (hj : f.peer = some j) {r m : Nat} (hk : j.kind = .collective g op r m) :
    tget (s.mismatch id).flight id = none := by
  unfold State.mismatch
  rw [State.job?_of_flight hf hj]
  dsimp only
  rw [hk]
  dsimp only
  split <;> exact State.absent_cutShort_self _ id .inconsistent

variable {P : Partition}

/-- An item about a collective of a group, with the kind under which a later dispatch finds it. -/
def aboutCollective (g op : Nat) (a : Abandoned) (kind : Nat) : Prop :=
  (a = .collective g op ∧ kind = 0) ∨ (a = .mismatch g op ∧ kind = 3) ∨ (a = .empty g op ∧ kind = 4)

theorem State.absent_abortItem_collective (hP : s.part? p = some P) {a : Abandoned} {kind : Nat} (ha : aboutCollective g op a kind)
    (hjob : s.collectiveJob p g op = some (id, f, j)) (hf : tget s.flight id = some f) : tget (s.abortItem p k a).flight id = none := by
  obtain ⟨hj, -, r, m, hk⟩ := State.collectiveJob_spec hjob
  unfold State.abortItem
  rw [hP]
  rcases ha with ⟨rfl, -⟩ | ⟨rfl, -⟩ | ⟨rfl, -⟩ <;> dsimp only <;> rw [hjob]
  · exact State.absent_losePeer hf hj .peerLost
  · exact State.absent_losePeer hf hj .inconsistent
  · exact State.absent_mismatch hf hj hk

/-- The partition with a notice kept for a later dispatch. -/
def Partition.keepAbort (P : Partition) (x : Nat × Nat × Nat × Nat) : Partition :=
  { P with aborts := if P.aborts.contains x then P.aborts else P.aborts ++ [x] }

theorem State.keptAbort_spec (hP : s.part? p = some P) (x : Nat × Nat × Nat × Nat) :
    (if P.aborts.contains x then s else s.setPart p { P with aborts := P.aborts ++ [x] }).part? p = some (P.keepAbort x)
      ∧ (if P.aborts.contains x then s else s.setPart p { P with aborts := P.aborts ++ [x] }).flight = s.flight := by
  unfold Partition.keepAbort
  split
  · exact ⟨hP, rfl⟩
  · exact ⟨(s.part?_setPart p p _).trans (if_pos rfl), rfl⟩

theorem State.abortItem_ahead (hP : s.part? p = some P) {a : Abandoned} {kind : Nat} (ha : aboutCollective g op a kind)
    (hjob : s.collectiveJob p g op = none) (hop : (s.group p g).opSeq.toNat ≤ op) (hs : (s.group p g).state ≠ .failed) :
    (s.abortItem p k a).part? p = some (P.keepAbort (g, op, 0, kind)) ∧ (s.abortItem p k a).flight = s.flight := by
  unfold State.abortItem
  rw [hP]
  rcases ha with ⟨rfl, rfl⟩ | ⟨rfl, rfl⟩ | ⟨rfl, rfl⟩ <;>
    (dsimp only; rw [hjob]; dsimp only; rw [if_pos ⟨hop, hs⟩]; exact State.keptAbort_spec hP _)

theorem State.absent_abortItem_recv (hP : s.part? p = some P) (hjob : s.recvJob p k ch n = some (id, f, j)) (hf : tget s.flight id = some f) :
    tget (s.abortItem p k (.message true ch n)).flight id = none := by
  unfold State.abortItem
  rw [hP]
  dsimp only
  rw [hjob]
  exact State.absent_losePeer hf (State.recvJob_spec hjob).1 .peerLost

theorem State.absent_abortItem_send (hP : s.part? p = some P) (hjob : s.sendJob p k ch n = some (id, f, j)) (hf : tget s.flight id = some f) :
    tget (s.abortItem p k (.message false ch n)).flight id = none := by
  unfold State.abortItem
  rw [hP]
  dsimp only
  rw [hjob]
  exact State.absent_losePeer hf (State.sendJob_spec hjob).1 .peerLost

theorem exec_abortNotice {port : Nat} (hc : s.carries port = true) (p k : Nat) (a : Abandoned) :
    ∃ x, exec (.abortNotice port p k [a] none) s = .next (State.abortItem { s with power := x } p k a) := by
  refine ⟨(s.wake .peer).power, ?_⟩
  rw [← s.wake_only .peer]
  exact if_neg (by rw [hc]; decide)

/-- A notice about the match of a collective (R159, R322). -/
theorem exec_abortNotice_collective {port : Nat} (hc : s.carries port = true) (hP : s.part? p = some P) (k : Nat) {a : Abandoned} {kind : Nat}
    (ha : aboutCollective g op a kind) : ∃ t, exec (.abortNotice port p k [a] none) s = .next t
      ∧ (∀ id f j, s.collectiveJob p g op = some (id, f, j) → tget s.flight id = some f → tget t.flight id = none)
      ∧ (s.collectiveJob p g op = none → (s.group p g).opSeq.toNat ≤ op → (s.group p g).state ≠ .failed →
          t.part? p = some (P.keepAbort (g, op, 0, kind)) ∧ t.flight = s.flight) := by
  obtain ⟨x, hx⟩ := exec_abortNotice hc p k a
  exact ⟨_, hx, fun id f j hjob hf => State.absent_abortItem_collective (s := { s with power := x }) hP ha hjob hf,
    fun hjob hop hs => State.abortItem_ahead (s := { s with power := x }) hP ha hjob hop hs⟩

end

/-! ### A receiver's notice (R160, R326) -/

section
variable {s t : State} {p k ch n id bytes port : Nat} {f : Flight} {j : PeerJob} {P : Partition}

/-- A peer command runs with a job. -/
def State.runsJob (s : State) (id : Nat) (j : PeerJob) : Prop := ∃ f, tget s.flight id = some f ∧ f.peer = some j

theorem State.runsJob.keeps {F : List Field} (h : s.runsJob id j) (k : s.keeps F t) (hF : Field.flight ∉ F) : t.runsJob id j := by
  unfold State.runsJob
  rw [show t.flight = s.flight from k.1 .flight hF]
  exact h

theorem State.flight_updFlight_self (hf : tget s.flight id = some f) (c : Flight → Flight) : tget (s.updFlight id c).flight id = some (c f) := by
  refine (tget_tupd _ _ _ _).trans ?_
  rw [if_pos rfl, hf, Option.map_some]

theorem State.runsJob.updFlight (h : s.runsJob id j) (k : Nat) {c : Flight → Flight} (hc : ∀ f, (c f).peer = f.peer) :
    (s.updFlight k c).runsJob id j := by
  obtain ⟨f, hf, hj⟩ := h
  by_cases hk : id = k
  · subst hk
    exact ⟨c f, State.flight_updFlight_self hf c, (hc f).trans hj⟩
  · refine ⟨f, (tget_tupd _ _ _ _).trans ?_, hj⟩
    rw [if_neg hk, hf]

/-- A command that has met a condition. -/
def Flight.noting (st : Status) (f : Flight) : Flight := if f.conds.contains st then f else { f with conds := f.conds ++ [st] }

theorem State.condition_eq (s : State) (id : Nat) (st : Status) : s.condition id st = s.updFlight id (Flight.noting st) := rfl

theorem Flight.peer_noting (st : Status) (f : Flight) : (f.noting st).peer = f.peer := by
  unfold Flight.noting
  split <;> rfl

theorem Flight.mem_conds_noting (st : Status) (f : Flight) : st ∈ (f.noting st).conds := by
  unfold Flight.noting
  split
  · next h => exact List.contains_iff_mem.mp h
  · exact List.mem_append_right _ (List.mem_singleton.mpr rfl)

theorem State.runsJob.condition (h : s.runsJob id j) (k : Nat) (st : Status) : (s.condition k st).runsJob id j :=
  h.updFlight k (Flight.peer_noting st)

theorem State.runsJob.readVa (h : s.runsJob id j) (k p : Nat) (P : Partition) (r : VaRange) : (s.readVa k p P r).runsJob id j := by
  unfold State.readVa
  split
  · exact h
  · split
    · exact h.condition k .bounds
    · next l _ =>
      have hcross : (s.crossReads k l).runsJob id j := by
        unfold State.crossReads
        split
        · exact h.condition k .timeoutCdc
        · exact h
      exact hcross.keeps (State.keeps_meetAll l (by decide)
        (State.keeps_self [.flash, .timer, .dram, .spad, .near, .funcs, .log, .rowHits, .perf, .out, .free] _)) (by decide)

/-- A peer job whose data may flow. -/
def PeerJob.opened (j : PeerJob) : PeerJob := { j with open? := true }

/-- What the notice opens: the send goes on with its job open; of another size it is INCONSISTENT, and memory stays. -/
theorem State.openSend_opens (hf : tget s.flight id = some f) (hj : f.peer = some j) (hk : j.kind = .send k ch n)
    {G : GroupEntry} {r : Nat} (hG : s.peerGroup f.p k = some G) (hP : s.partOf f = some P) (hr : G.rankOf k = some r) (bytes : Nat) :
    ∃ f', tget (s.openSend id bytes).flight id = some f' ∧ f'.peer = some j.opened
      ∧ (bytes ≠ j.bytes → .inconsistent ∈ f'.conds ∧ (s.openSend id bytes).dram = s.dram) := by
  unfold State.openSend
  rw [State.job?_of_flight hf hj]
  dsimp only
  rw [hk]
  dsimp only
  rw [hG, hP]
  dsimp only
  rw [hr]
  dsimp only
  generalize ho : s.updJob id (fun j => { j with open? := true }) = opened
  have hopened : tget opened.flight id = some { f with peer := some j.opened } := by
    rw [← ho, State.updJob, State.flight_updFlight_self hf, hj]
    rfl
  have hruns : opened.runsJob id j.opened := ⟨_, hopened, rfl⟩
  by_cases hb : bytes = j.bytes
  case neg =>
    rw [if_pos hb]
    have hsent := State.keeps_sendSize G r ch n j.bytes (by decide) (State.keeps_self [.out] (opened.condition id .inconsistent))
    have hflight := (congrArg (fun l => tget l id) (hsent.1 .flight (by decide))).trans
      (State.flight_updFlight_self hopened (Flight.noting .inconsistent))
    refine ⟨_, hflight, Flight.peer_noting _ _, fun _ => ⟨Flight.mem_conds_noting _ _, ?_⟩⟩
    rw [hsent.1 .dram (by decide), ← ho]
    rfl
  case pos =>
    rw [if_neg (fun h => h hb)]
    refine (fun ⟨f', hf', hj'⟩ => ⟨f', hf', hj', fun h => absurd hb h⟩ : State.runsJob _ id { j with open? := true } → _) ?_
    split
    · exact hruns.keeps (State.keeps_sendSize G r ch n 0 (by decide) (State.keeps_self [.out] opened)) (by decide)
    · have hsent := State.runsJob.keeps (hruns.readVa id f.p P ((j.src : Int), j.bytes))
        (State.keeps_sendTo G r (.message (G.partitionOf r) k ch n j.bytes) 0 (opened.peerGet f.p P j.src j.bytes).1
          (opened.peerGet f.p P j.src j.bytes).2 (some id) true (by decide) (State.keeps_self [.peers, .perf, .out] _)) (by decide)
      split
      · exact hsent
      · exact hsent.condition id .poison

theorem State.takeNotice_opens (hjob : s.sendJob p k ch n = some (id, f, j)) (hf : tget s.flight id = some f) (ho : j.open? = false)
    {G : GroupEntry} {r : Nat} (hP : s.partOf f = some P) (hG : s.peerGroup f.p k = some G) (hr : G.rankOf k = some r) (port bytes : Nat) :
    ∃ f', tget (s.takeNotice port p k ch n bytes).flight id = some f' ∧ f'.peer = some j.opened
      ∧ (bytes ≠ j.bytes → .inconsistent ∈ f'.conds ∧ (s.takeNotice port p k ch n bytes).dram = s.dram) := by
  obtain ⟨hj, -, hk⟩ := State.sendJob_spec hjob
  unfold State.takeNotice
  rw [hjob]
  dsimp only
  rw [ho, if_neg Bool.false_ne_true]
  exact State.openSend_opens (s := s.updFlight id (fun f => { f with island := islPeer port })) (State.flight_updFlight_self hf _) hj hk hG hP hr bytes

/-- A notice whose CSEND is still to come is kept for it. -/
theorem State.takeNotice_kept (hP : s.part? p = some P) (hjob : s.sendJob p k ch n = none) (hn : tgetD P.sends (channelKey k ch) 0 ≤ n)
    (port bytes : Nat) :
    (s.takeNotice port p k ch n bytes).part? p = some { P with notices := P.notices ++ [(channelKey k ch, n, bytes)] }
      ∧ s.takeNotice port p k ch n bytes = { s with parts := (s.takeNotice port p k ch n bytes).parts } := by
  unfold State.takeNotice
  rw [hjob]
  refine ⟨(State.part?_updPart s p p _).trans ?_, rfl⟩
  rw [if_pos rfl, hP, Option.map_some, if_pos hn]

/-- A peer job that expects nothing more. -/
def PeerJob.over (j : PeerJob) : PeerJob := { j with phases := [], open? := true }

/-- The sender's word of another size: the CRECV is INCONSISTENT, and memory stays. -/
theorem State.takeSize_differs (hjob : s.recvJob p k ch n = some (id, f, j)) (hf : tget s.flight id = some f) (hb : bytes ≠ j.bytes) (port : Nat) :
    ∃ f', tget (s.takeSize port p k ch n bytes).flight id = some f' ∧ f'.peer = some j.over ∧ .inconsistent ∈ f'.conds
      ∧ (s.takeSize port p k ch n bytes).dram = s.dram ∧ (s.takeSize port p k ch n bytes).spad = s.spad := by
  obtain ⟨hj, -, -⟩ := State.recvJob_spec hjob
  unfold State.takeSize
  rw [hjob]
  dsimp only
  rw [if_neg hb, if_neg (fun h => hb h.1)]
  have hmoved := State.flight_updFlight_self hf (fun f => { f with island := islPeer port })
  have hnoted := State.flight_updFlight_self hmoved (Flight.noting .inconsistent)
  refine ⟨_, State.flight_updFlight_self hnoted _, ?_, Flight.mem_conds_noting _ { f with island := islPeer port }, rfl, rfl⟩
  dsimp only
  rw [Flight.peer_noting, hj]
  rfl

theorem exec_receiverNotice (hc : s.carries port = true) (p k ch n bytes : Nat) :
    ∃ x, exec (.receiverNotice p k ch { port := port, number := n, bytes := bytes }) s
      = .next (State.takeNotice { s with power := x } port p k ch n bytes) := by
  refine ⟨(s.wake .peer).power, ?_⟩
  rw [← s.wake_only .peer]
  exact if_neg (by rw [hc]; decide)

theorem exec_receiverNotice_size (hc : s.carries port = true) (p k ch n bytes : Nat) :
    ∃ x, exec (.receiverNotice p k ch { port := port, number := n, bytes := bytes, size := true }) s
      = .next (State.takeSize { s with power := x } port p k ch n bytes) := by
  refine ⟨(s.wake .peer).power, ?_⟩
  rw [← s.wake_only .peer]
  exact if_neg (by rw [hc]; decide)

end

end Sys2Proof.Machine
end

section
/-! SUPPORT. GroupActivation.lean: when a group becomes ACTIVE; losses and notices of peers as a whole (O54). -/

namespace Sys2Proof.Machine

/-! ### Reports of digests (R317) -/

section
variable {s : State} {p g : Nat} {G : GroupEntry}

/-- The state in which the reports of members are held. -/
def State.reported (s : State) (p g : Nat) (own : List (Nat × BitVec 512)) : State :=
  own.foldl (fun u x => u.report p g x) (if own.isEmpty then s else s.wake .peer)

theorem State.foldl_report (s : State) (p g : Nat) (own : List (Nat × BitVec 512)) :
    ∃ d, own.foldl (fun u x => u.report p g x) s = { s with peers := { s.peers with digests := d } } := by
  induction own generalizing s with
  | nil => exact ⟨s.peers.digests, rfl⟩
  | cons x own ih =>
    obtain ⟨d, hd⟩ := ih (s.report p g x)
    exact ⟨d, hd⟩

/-- Reports change nothing but the digests held; they wake. -/
theorem State.reported_eq (s : State) (p g : Nat) (own : List (Nat × BitVec 512)) :
    ∃ x d, s.reported p g own = { s with power := x, peers := { s.peers with digests := d } } := by
  unfold State.reported
  split
  · obtain ⟨d, hd⟩ := s.foldl_report p g own
    exact ⟨s.power, d, hd⟩
  · obtain ⟨d, hd⟩ := (s.wake .peer).foldl_report p g own
    refine ⟨(s.wake .peer).power, d, hd.trans ?_⟩
    rw [s.wake_only .peer]

/-- The group that a partition names is one of its own. -/
theorem State.groupEntry?_spec (h : s.groupEntry? p g = some G) : G.partition = p ∧ G.group = g := by
  simpa using List.find?_some h

/-- Every other member of the group has reported the digest of this device's own entry. -/
def State.agreed (s : State) (G : GroupEntry) (key : Nat) (digests : List (Nat × Nat × BitVec 512)) : Prop :=
  ∀ r < G.members.length, r ≠ G.rank → (key, r, s.groupDigest G) ∈ digests

/-- The members are included and the links to them up. -/
def State.linked (s : State) (G : GroupEntry) : Prop :=
  (∀ k ∈ G.peers, ((s.peers.manifest.peers[k]?).map PeerEntry.included).getD false = true) ∧ ∀ k ∈ G.peers, ∀ n ∈ s.portsTo k, (s.port n).state = .up

theorem State.digestsAgree_iff (hp : G.partition = p) (hg : G.group = g) :
    s.digestsAgree G = true ↔ s.agreed G (groupKey p g) s.peers.digests := by
  unfold State.digestsAgree State.agreed
  subst hp hg
  simp only [List.all_eq_true, List.mem_range, Bool.or_eq_true, decide_eq_true_eq, List.contains_iff_mem]
  exact forall₂_congr (fun r _ => or_iff_not_imp_left)

theorem State.groupLinked_iff (hr : s.portsRun = true) : s.groupLinked G = true ↔ s.linked G := by
  have hcarries (n : Nat) : s.carries n = true ↔ (s.port n).state = .up := by
    unfold State.carries
    rw [hr, Bool.true_and, decide_eq_true_eq]
  unfold State.groupLinked State.linked
  simp only [Bool.and_eq_true, List.all_eq_true, List.mem_flatMap, hcarries]
  refine and_congr (forall₂_congr (fun k _ => ?_)) ⟨fun h k hk n hn => h n ⟨k, hk, hn⟩, fun h n ⟨k, hk, hn⟩ => h k hk n hn⟩
  cases s.peers.manifest.peers[k]? <;> rfl

theorem State.each_report (s : State) (p g : Nat) (own : List (Nat × BitVec 512)) :
    (if !(own.isEmpty && ([] : List (Nat × Nat × BitVec 512)).isEmpty) then s.wake .peer else s).each own (fun s x => s.report p g x)
      = s.reported p g own := by
  cases own <;> rfl

theorem exec_groupActivation_unknown (hr : s.portsRun = true) (hw : s.power.state ≠ .watch) (own : List (Nat × BitVec 512))
    (hG : s.groupEntry? p g = none) : exec (.groupActivation p g { own := own }) s = .next (s.reported p g own) := by
  obtain ⟨x, d, hR⟩ := s.reported_eq p g own
  have hentry : (s.reported p g own).groupEntry? p g = none := by rw [hR]; exact hG
  dsimp only [exec, execGroupActivation]
  rw [if_neg (by rw [hr]; decide), if_neg hw, s.each_report p g own, hentry]

theorem exec_groupActivation (hr : s.portsRun = true) (hw : s.power.state ≠ .watch) (own : List (Nat × BitVec 512))
    (hG : s.groupEntry? p g = some G) : exec (.groupActivation p g { own := own }) s
      = if decide ((s.group p g).state = .pending) && (s.reported p g own).groupLinked G && (s.reported p g own).digestsAgree G
        then .next ((s.reported p g own).setGroup p g { s.group p g with state := .active }) else .next (s.reported p g own) := by
  obtain ⟨x, d, hR⟩ := s.reported_eq p g own
  have hentry : (s.reported p g own).groupEntry? p g = some G := by rw [hR]; exact hG
  have hgroup : (s.reported p g own).group p g = s.group p g := by rw [hR]; rfl
  dsimp only [exec, execGroupActivation]
  rw [if_neg (by rw [hr]; decide), if_neg hw, s.each_report p g own, hentry]
  rw [← hgroup]
  rfl

/-- A group of this device becomes ACTIVE once it is PENDING, linked and agreed, and not before (R317). -/
theorem exec_groupActivation_iff (hr : s.portsRun = true) (hw : s.power.state ≠ .watch) (own : List (Nat × BitVec 512))
    (hG : s.groupEntry? p g = some G) :
    ((s.group p g).state = .pending → s.agreed G (groupKey p g) (s.reported p g own).peers.digests ∧ s.linked G →
        exec (.groupActivation p g { own := own }) s = .next ((s.reported p g own).setGroup p g { s.group p g with state := .active }))
      ∧ ((s.group p g).state ≠ .pending ∨ ¬(s.agreed G (groupKey p g) (s.reported p g own).peers.digests ∧ s.linked G) →
        exec (.groupActivation p g { own := own }) s = .next (s.reported p g own)) := by
  obtain ⟨x, d, hR⟩ := s.reported_eq p g own
  obtain ⟨hp, hg⟩ := State.groupEntry?_spec hG
  have hagree : (s.reported p g own).digestsAgree G = true ↔ s.agreed G (groupKey p g) (s.reported p g own).peers.digests := by
    rw [State.digestsAgree_iff hp hg, hR]
    exact Iff.rfl
  have hlinked : (s.reported p g own).groupLinked G = true ↔ s.linked G := by
    rw [hR]
    exact State.groupLinked_iff (s := { s with power := x, peers := { s.peers with digests := d } }) hr
  have hall : (decide ((s.group p g).state = .pending) && (s.reported p g own).groupLinked G && (s.reported p g own).digestsAgree G) = true
      ↔ (s.group p g).state = .pending ∧ s.agreed G (groupKey p g) (s.reported p g own).peers.digests ∧ s.linked G := by
    rw [Bool.and_eq_true, Bool.and_eq_true, decide_eq_true_eq, hagree, hlinked]
    tauto
  rw [exec_groupActivation hr hw own hG]
  refine ⟨fun hpending hready => if_pos (hall.mpr ⟨hpending, hready⟩), fun hnot => if_neg (fun h => ?_)⟩
  obtain ⟨hpending, hready⟩ := hall.mp h
  exact hnot.elim (fun hn => hn hpending) (fun hn => hn hready)

end

/-! ### Links that go down (R315, R319) -/

section
variable {s : State} {k n : Nat}

/-- A port whose link has gone down holds nothing. -/
def Port.dropped (x : Port) : Port := { x with state := .down, unacked := [], backlog := [], sinceAck := 0, nextSeq := 0, expected := 0 }

theorem exec_peerLinkDown (hk : s.portPeer n = some k) (hx : (s.port n).state ∈ [PortState.up, .training, .mismatch]) :
    exec (.peerLinkDown n) s = .next ((s.setPort n (s.port n).dropped).declareLost k n) := by
  dsimp only [exec, execPeerLinkDown]
  rw [hk]
  simp only [List.mem_cons, List.not_mem_nil, or_false] at hx
  rcases hx with hx | hx | hx <;> rw [hx] <;> rfl

theorem exec_peerSilenceTimeout (h : s.portsTo k ≠ []) : ∃ port, exec (.peerSilenceTimeout k) s = .next (s.declareLost k port) := by
  dsimp only [exec, execPeerSilenceTimeout]
  split
  · next hn => exact absurd hn h
  · next port _ _ => exact ⟨port, rfl⟩

theorem State.port_setPort_self (s : State) (n : Nat) (x : Port) : (s.setPort n x).port n = x := by
  unfold State.port State.setPort tgetD
  dsimp only
  rw [tget_tput, if_pos rfl, Option.getD_some]

end

/-- Settles O54, notice by notice: a loss and a reset take up a group (`State.lossNoticed`), a peer that is silent or whose link goes down is
declared lost (`State.peerLost`), an abort ends the match it names or is kept for it, a receiver's notice opens its CSEND, and a group becomes
ACTIVE once it is linked and its members agree. -/
theorem peerLossAndNotices : Obligations.PeerLossAndNotices := by
  intro s
  refine ⟨fun i p g k port G hi hc hG hs => ?_, fun i k hi => ?_, fun port p k P hP hc => ⟨fun a g op kind ha => ?_, fun ch n => ?_⟩,
    fun port p k ch n bytes hc => ⟨fun P hP hjob hn => ?_, fun id f j P G r hjob hf ho hP hG hr => ?_, fun id f j hjob hf hb => ?_⟩,
    fun p g own hr hw => ?_, fun port hc p g k l r => exec_notice_stopped hc p g k l r⟩
  · rcases hi with rfl | rfl
    · have h := State.lossNoticed_wake hG hs port k false
      refine ⟨_, exec_lossNotice hc p g k, h.failed, h.gone, h.eventAll, h.event, h.summary, fun _ => ⟨?_, h.told⟩, fun hi => by cases hi⟩
      rw [h.manifest]
      exact s.included_exclude k
    · have h := State.lossNoticed_wake hG hs port k true
      exact ⟨_, exec_groupResetNotice hc p g k, h.failed, h.gone, h.eventAll, h.event, h.summary, fun hi => Instr.noConfusion hi,
        fun _ => ⟨h.manifest, h.told⟩⟩
  · rcases hi with ⟨rfl, hports⟩ | ⟨n, rfl, hk, hx⟩
    · obtain ⟨port, hexec⟩ := exec_peerSilenceTimeout hports
      have h := s.peerLost_declareLost k port
      exact ⟨_, hexec, h.excluded, h.failed, h.gone, h.event, h.summary, fun n hi => by cases hi⟩
    · have h := (s.setPort n (s.port n).dropped).peerLost_declareLost k n
      refine ⟨_, exec_peerLinkDown hk hx, h.excluded, h.failed, h.gone, h.event, h.summary, fun m hi => ?_⟩
      cases hi
      have hport : ((s.setPort n (s.port n).dropped).declareLost k n).port n = (s.port n).dropped := by
        rw [State.port, h.ports]
        exact s.port_setPort_self n _
      rw [hport]
      exact ⟨rfl, rfl, rfl⟩
  · exact exec_abortNotice_collective hc hP k ha
  · obtain ⟨x, hx⟩ := exec_abortNotice hc p k (.message true ch n)
    obtain ⟨y, hy⟩ := exec_abortNotice hc p k (.message false ch n)
    exact ⟨⟨_, hx, fun id f j hjob hf => State.absent_abortItem_recv (s := { s with power := x }) hP hjob hf⟩,
      _, hy, fun id f j hjob hf => State.absent_abortItem_send (s := { s with power := y }) hP hjob hf⟩
  · obtain ⟨x, hx⟩ := exec_receiverNotice hc p k ch n bytes
    obtain ⟨hpart, hrest⟩ := State.takeNotice_kept (s := { s with power := x }) hP hjob hn port bytes
    refine ⟨_, hx, hpart, ?_⟩
    rw [hrest]
  · obtain ⟨x, hx⟩ := exec_receiverNotice hc p k ch n bytes
    obtain ⟨f', hf', hj', hdiffers⟩ := State.takeNotice_opens (s := { s with power := x }) hjob hf ho hP hG hr port bytes
    exact ⟨_, f', _, hx, hf', hj', rfl, hdiffers⟩
  · obtain ⟨x, hx⟩ := exec_receiverNotice_size hc p k ch n bytes
    obtain ⟨f', hf', hj', hconds, hdram, hspad⟩ := State.takeSize_differs (s := { s with power := x }) hjob hf hb port
    exact ⟨_, f', _, hx, hf', hj', rfl, rfl, hconds, hdram, hspad⟩
  · exact ⟨exec_groupActivation_unknown hr hw own, fun G hG => exec_groupActivation_iff hr hw own hG⟩

end Sys2Proof.Machine
end

section
/-! SUPPORT. StrayPools.lean: a stream.pool that zeroises the records of a pool whose metadata area lies in a scratchpad (O58). -/

namespace Sys2Proof.Machine

/-- A pool of no streams and one shared-group record, whose metadata area begins where the scratchpads do. -/
def strayPool : Pool :=
  { firstStream := 0, streamCount := 0, base := 0, size := 0, maxBlocks := 1, sharedGroups := 1, lowWater := 0, idleSteps := 0,
    metaVa := spadBase, tokens := 16, groups := 1, layers := [], banks := [64], used := [], freed := [] }

/-- A partition that owns cluster 0 and pseudo-channel 4 with one bank-local bank, maps one page, and has that pool. -/
def strayPartition : Partition :=
  { Partition.fresh { clusters := 1, streamBase := 0, streamCount := 1, prefixQuota := 0, policyPartition := false, perfUser := false }
      [(4, 1)] 0 with pages := [{ va := 0, pa := 0, big := false }], pool := some strayPool }

/-- The body of a stream.pool that asks for one stream of one block, with one layer, in bank 64, its metadata area at address 0 (R230). -/
def newPoolBody : Bytes :=
  zeros 4 ++ natLe 4 1 ++ zeros 8 ++ natLe 4 1 ++ zeros 20 ++ [16, 1] ++ natLe 2 1 ++ natLe 2 1 ++ zeros 6 ++ natLe 2 64

/-- A READY module with that partition as number 0 and the request in its mailbox; byte 0 of the scratchpad of cluster 0 is 1. -/
def strayState : State :=
  { State.reset with
    boot := { Boot.reset with perstLow := false, served := true, readiness := .ready },
    spad := { Mem.empty with cells := [(0, 1)] },
    funcs := [(1, { Func.reset with
                    busy := true, reqSeq := 1,
                    req := clist 0 (natLe 2 0x0040 ++ natLe 2 newPoolBody.length ++ natLe 2 1 ++ [1, 0, 0xFF, 0] ++ zeros 6 ++ newPoolBody) })],
    parts := [(0, strayPartition)] }

theorem strayState_asks : strayState.asks (.streamPool 1) := by
  refine ⟨1, _, rfl, ⟨rfl, rfl, ?_, rfl, ?_, rfl⟩, ?_, ?_, ?_, ?_, ?_, ?_⟩ <;> decide +kernel

/-- The record of the pool that goes is written with zeros where it lies. -/
theorem strayState_cleared : ∃ t, exec (.streamPool 1) strayState = .next t ∧ t.spad.get 0 = 0 := by
  refine ⟨_, rfl, ?_⟩
  decide +kernel

/-- Refutes O58 by its first clause: in `strayState` a legal stream.pool changes a scratchpad. The statement speaks of every state, also of one
whose pool, that the message replaces, has its metadata area outside striped memory. -/
theorem not_streamScheduleAndCounterMessagesAct : ¬Obligations.StreamScheduleAndCounterMessagesAct := by
  unfold Obligations.StreamScheduleAndCounterMessagesAct
  intro h
  obtain ⟨hpool, -⟩ := h strayState 1
  obtain ⟨t, ht, -, -, heffect⟩ := hpool strayPartition rfl strayState_asks
  obtain ⟨-, -, -, -, hspad, -⟩ := heffect (by decide +kernel) (by decide +kernel)
  obtain ⟨u, hu, hzero⟩ := strayState_cleared
  cases ht.symm.trans hu
  have hkept : strayState.spad.get 0 = 0 := hspad ▸ hzero
  cases hkept

end Sys2Proof.Machine
end

section
/-! SUPPORT. ReadsAlike.lean: what is read of block tables, records and lists rests on the memories and on where bytes lie; a read of sound
words leaves both as they are (O28). -/

namespace Sys2Proof.Machine

/-! ### The same places and memories -/

/-- The bytes of a partition lie, and read, in u as they do in s. -/
structure State.readsAlike (s : State) (P : Partition) (u : State) (P' : Partition) (p : Nat) : Prop where
  place : ∀ va, u.place p P' va = s.place p P va
  dram : u.dram = s.dram
  spad : u.spad = s.spad
  host : u.hostMem = s.hostMem

namespace State.readsAlike
variable {s u : State} {P P' : Partition} {p : Nat} (h : s.readsAlike P u P' p)
include h

theorem segsAux (k va n : Nat) : u.segsAux p P' k va n = s.segsAux p P k va n := by
  induction k generalizing va n with
  | zero => rfl
  | succ k ih => simp only [State.segsAux, h.place, ih]

theorem segs (va n : Nat) : u.segs p P' va n = s.segs p P va n := h.segsAux _ va n

theorem hostBytes (k n : Nat) : u.hostBytes k n = s.hostBytes k n := by
  unfold State.hostBytes
  rw [h.host]

theorem rawVa (va n : Nat) : u.rawVa p P' va n = s.rawVa p P va n := by
  simp only [State.rawVa, h.segs, h.dram, h.spad, h.hostBytes]

theorem badAll : u.badAll = s.badAll := by
  funext l
  have hseg : u.badSeg = s.badSeg := by
    funext g
    simp only [State.badSeg, h.dram, h.spad]
  rw [State.badAll, hseg]
  rfl

theorem rawFault (va n : Nat) : u.rawFault p P' va n = s.rawFault p P va n := by
  unfold State.rawFault
  rw [h.segs, h.badAll]

theorem recordFault (o : Pool) : u.recordFault p P' o = s.recordFault p P o := by
  funext r
  exact h.rawFault _ _

theorem recordValid (o : Pool) : u.recordValid p P' o = s.recordValid p P o := by
  funext r
  simp only [State.recordValid, h.rawVa]

theorem recordOf (o : Pool) (l e : Nat) : u.recordOf p P' o l e = s.recordOf p P o l e := by
  simp only [State.recordOf, h.recordValid, h.rawVa]

theorem shareLost (o : Pool) (table lo hi : Nat) : u.shareLost p P' o table lo hi = s.shareLost p P o table lo hi := by
  simp only [State.shareLost, h.recordOf, h.rawVa, h.recordFault]

theorem rowsFrom (o : Pool) (table lo hi : Nat) : u.rowsFrom p P' o table lo hi = s.rowsFrom p P o table lo hi := by
  simp only [State.rowsFrom, h.recordOf, h.rawVa]

theorem rowsFault (o : Pool) (table lo hi : Nat) : u.rowsFault p P' o table lo hi = s.rowsFault p P o table lo hi := by
  simp only [State.rowsFault, h.rawFault, h.shareLost, h.rowsFrom, h.recordFault]

theorem freeRecord (o : Pool) : u.freeRecord p P' o = s.freeRecord p P o := by
  simp only [State.freeRecord, h.recordFault, h.recordValid]

theorem recordTokens (o : Pool) (r : Nat) : u.recordTokens p P' o r = s.recordTokens p P o r := h.rawVa _ _

theorem confirmFault (o : Pool) (r : Nat) : u.confirmFault p P' o r = s.confirmFault p P o r := h.rawFault _ _

theorem sysBad (f : SysUse → Bool) : u.sysBad f = s.sysBad f := by
  unfold State.sysBad
  rw [h.dram]

theorem bucketBad (k : BitVec 128) : u.bucketBad k = s.bucketBad k := h.sysBad _

end State.readsAlike

section
variable {s u v : State} {P P' P'' : Partition} {p : Nat}

theorem State.readsAlike_trans (h : s.readsAlike P u P' p) (k : u.readsAlike P' v P'' p) : s.readsAlike P v P'' p :=
  ⟨fun va => (k.place va).trans (h.place va), k.dram.trans h.dram, k.spad.trans h.spad, k.host.trans h.host⟩

theorem State.readsAlike_of_keeps {F : List Field} (h : s.keeps F u)
    (hF : .ident ∉ F ∧ .boot ∉ F ∧ .dram ∉ F ∧ .spad ∉ F ∧ .hostMem ∉ F) : s.readsAlike P u P p :=
  ⟨State.place_congr (h.1 .ident hF.1) (h.1 .boot hF.2.1) p P, h.1 .dram hF.2.2.1, h.1 .spad hF.2.2.2.1, h.1 .hostMem hF.2.2.2.2⟩

theorem State.deviceOk_alike {d d' : Site} (h : s.readsAlike d.P u d'.P d.p) (hp : d'.p = d.p) (va n : Nat) :
    u.deviceOk d' va n = s.deviceOk d va n := by
  simp only [State.deviceOk, State.reachTe, hp, h.segs]

/-! ### Reads where no write is under way (R262) -/

theorem State.view_settled (hs : s.unsettled = []) (r : Reader) (g : Seg) : s.view r g = match g.space with
    | .host => s.hostBytes g.addr g.len
    | .dram => s.dram.bytes g.addr g.len
    | .spad => s.spad.bytes g.addr g.len := by
  unfold State.view
  cases g.space with
  | host => rfl
  | dram => exact State.observeAll_settled hs r g (s.dram.length_bytes _ _)
  | spad => exact State.observeAll_settled hs r g (s.spad.length_bytes _ _)

theorem State.fetch_alike (h : s.readsAlike P u P' p) (hs : s.unsettled = []) (hu : u.unsettled = []) (va n : Nat) :
    u.fetch (nearAccess p P') va n = s.fetch (nearAccess p P) va n := by
  have hseg : u.fetchSeg (nearAccess p P') = s.fetchSeg (nearAccess p P) := by
    funext g
    simp only [State.fetchSeg, State.view_settled hs, State.view_settled hu, h.hostBytes, h.dram, h.spad, nearAccess]
  simp only [State.fetch, hseg, show (nearAccess p P').p = p from rfl, show (nearAccess p P).p = p from rfl,
    show (nearAccess p P').P = P' from rfl, show (nearAccess p P).P = P from rfl, h.segs]

theorem State.rangeTokens_alike (h : s.readsAlike P u P' p) (hs : s.unsettled = []) (hu : u.unsettled = []) (o : Pool) (list j : Nat) :
    u.rangeTokens p P' o list j = s.rangeTokens p P o list j := by
  unfold State.rangeTokens
  rw [State.fetch_alike h hs hu]

end

/-! ### Sound words that are read (R385) -/

/-- What meeting a word may change that holds no uncorrectable error: its bytes and poison stay. -/
def soundFields : List Field := [.flash, .timer, .near, .funcs, .log, .rowHits, .perf, .out, .free]

/-- No word of a stretch that holds stored errors is a bad one. -/
def State.soundSeg (s : State) (g : Seg) : Prop :=
  match g.space with
  | .host => True
  | .dram => ∀ w ∈ s.dram.errWords g.addr g.len, s.dram.badWord w = false
  | .spad => ∀ w ∈ s.spad.errWords g.addr g.len, s.spad.badWord w = false

section
variable {s u : State}

theorem Mem.errs_of_sound {m : Mem} {w : Nat} (h : m.badWord w = false) : tgetD m.errs w 0 ≤ 2 := by
  rw [Mem.badWord, Bool.or_eq_false_iff, decide_eq_false_iff_not] at h
  omega

theorem State.keeps_meetWord_sound {st : Store} {w : Nat} (h : (s.store st).badWord w = false) (first : Bool) :
    s.keeps soundFields (s.meetWord st w first) := by
  unfold State.meetWord
  extract_lets e near t
  have ht : s.keeps soundFields t := by simp [t, soundFields]
  clear_value t
  split
  · exact State.keeps_self _ s
  · rw [if_pos (Mem.errs_of_sound h)]
    cases st with
    | dram => exact State.keeps_countCorrected _ _ _ (by decide) ht
    | spad => exact ht

theorem State.store_of_sound (h : s.keeps soundFields u) (st : Store) : u.store st = s.store st := by
  cases st
  · exact h.1 .dram (by decide)
  · exact h.1 .spad (by decide)

theorem State.keeps_meetWords_sound {st : Store} {l : List Nat} (h : ∀ w ∈ l, (s.store st).badWord w = false) :
    s.keeps soundFields (s.meetWords st l) :=
  State.each_induction (R := fun u => s.keeps soundFields u) (State.keeps_self _ s)
    (fun _ w hw hu => State.keeps_trans hu (State.keeps_meetWord_sound (State.store_of_sound hu st ▸ h w hw) _))

theorem State.keeps_meetSeg_sound {g : Seg} (h : s.soundSeg g) : s.keeps soundFields (s.meetSeg g) := by
  unfold State.soundSeg at h
  unfold State.meetSeg
  generalize g.space = space at h ⊢
  cases space with
  | host => exact State.keeps_self _ s
  | dram => exact State.keeps_meetWords_sound (st := .dram) h
  | spad => exact State.keeps_meetWords_sound (st := .spad) h

theorem State.soundSeg_of_keeps {g : Seg} (h : s.soundSeg g) (k : s.keeps soundFields u) : u.soundSeg g := by
  unfold State.soundSeg at h ⊢
  rw [show u.dram = s.dram from k.1 .dram (by decide), show u.spad = s.spad from k.1 .spad (by decide)]
  exact h

theorem State.keeps_meetAll_sound {l : List Seg} (h : ∀ g ∈ l, s.soundSeg g) : s.keeps soundFields (s.meetAll l) :=
  State.each_induction (R := fun u => s.keeps soundFields u) (State.keeps_self _ s)
    (fun _ g hg hu => State.keeps_trans hu (State.keeps_meetSeg_sound (State.soundSeg_of_keeps (h g hg) hu)))

/-- No stretch of a range is empty. -/
theorem State.segsAux_pos {p k va n : Nat} {P : Partition} {l : List Seg} (h : s.segsAux p P k va n = some l) : ∀ g ∈ l, 0 < g.len := by
  induction k generalizing va n l with
  | zero =>
    unfold State.segsAux at h
    split at h
    · cases h
      simp
    · cases h
  | succ k ih =>
    unfold State.segsAux at h
    dsimp only at h
    split at h
    · cases h
      simp
    next hn =>
    split at h
    · cases h
    split at h
    · cases h
    next rest hrest =>
    cases h
    intro g hg
    rcases List.mem_cons.1 hg with rfl | hg
    · dsimp only
      omega
    · exact ih hrest g hg

/-- A word that meets a stretch of bytes holds one of them. -/
theorem Mem.sound_of_bytes {m : Mem} {a n : Nat} (hn : 0 < n) (h : ∀ i < n, m.badWord ((a + i) / 8) = false) :
    ∀ w ∈ m.errWords a n, m.badWord w = false := by
  intro w hw
  obtain ⟨e, he, rfl⟩ := List.mem_map.mp hw
  obtain ⟨-, hb⟩ := List.mem_filter.mp he
  rw [Bool.and_eq_true, decide_eq_true_eq, decide_eq_true_eq] at hb
  have hx := h (max a (8 * e.1) - a) (by omega)
  rwa [show (a + (max a (8 * e.1) - a)) / 8 = e.1 by omega] at hx

theorem any_zip_range {n : Nat} {l : Bytes} (hl : l.length = n) (f : Nat → Bool) :
    (((List.range n).zip l).map (fun e => (e.2, f e.1))).any Prod.snd = false ↔ ∀ i < n, f i = false := by
  have hfst : ((List.range n).zip l).map Prod.fst = List.range n := List.map_fst_zip (by simp [hl])
  rw [List.any_map, show (Prod.snd ∘ fun e : Nat × Byte => (e.2, f e.1)) = f ∘ Prod.fst from rfl, ← List.any_map, hfst]
  simp

/-- Where a read finds no bad word, its stretch is sound. -/
theorem State.soundSeg_of_fetchSeg {a : Access} {g : Seg} (hs : s.unsettled = []) (hc : a.cache = none) (hlen : 0 < g.len)
    (h : (s.fetchSeg a g).any Prod.snd = false) : s.soundSeg g := by
  unfold State.fetchSeg at h
  unfold State.soundSeg
  rw [hc] at h
  split at h
  · next hg => rw [hg]; trivial
  · next hg =>
    rw [hg]
    rw [State.view_settled hs, hg] at h
    exact Mem.sound_of_bytes hlen ((any_zip_range (s.spad.length_bytes _ _) _).mp h)
  · next hg =>
    rw [hg]
    rw [State.view_settled hs, hg] at h
    exact Mem.sound_of_bytes hlen ((any_zip_range (s.dram.length_bytes _ _) (fun i => s.dram.badWord ((g.addr + i) / 8))).mp h)

theorem State.keeps_readVa_sound {p : Nat} {P : Partition} {va n : Nat} (hs : s.unsettled = []) (id : Nat)
    (h : (s.fetch (nearAccess p P) va n).2 = false) : s.keeps (.flight :: soundFields) (s.readVa id p P ((va : Int), n)) := by
  unfold State.readVa
  split
  · exact State.keeps_self _ s
  · unfold State.fetch at h
    dsimp only [nearAccess] at h
    rw [Int.toNat_natCast]
    split
    · exact State.keeps_condition id .bounds (by decide) (State.keeps_self _ s)
    · next l hl =>
      rw [hl] at h
      have hsound : ∀ g ∈ l, s.soundSeg g := by
        intro g hg
        refine State.soundSeg_of_fetchSeg (a := nearAccess p P) hs rfl (State.segsAux_pos hl g hg) ?_
        rw [List.any_eq_false]
        intro x hx
        exact List.any_eq_false.mp h x (List.mem_flatMap.mpr ⟨g, hg, hx⟩)
      have hcross : s.keeps [.flight] (s.crossReads id l) := State.keeps_crossReads _ _ (by decide) (State.keeps_self _ s)
      refine State.keeps_trans (State.keeps_mono hcross (by decide)) (State.keeps_mono (State.keeps_meetAll_sound (fun g hg => ?_)) (by decide))
      have hg := hsound g hg
      unfold State.soundSeg at hg ⊢
      rw [show (s.crossReads id l).dram = s.dram from hcross.1 .dram (by decide),
        show (s.crossReads id l).spad = s.spad from hcross.1 .spad (by decide)]
      exact hg

end

end Sys2Proof.Machine
end

section
/-! SUPPORT. SingleStreams.lean: what surrounds the work of a stream command on the one stream that its record names (O28, O29). -/

namespace Sys2Proof.Machine

/-! ### Streams that a command finds -/

/-- The partition has a pool, in whose range a live stream of the queue's context stands. -/
structure State.liveStream (s : State) (d : Site) (st : Nat) (P : Partition) (o : Pool) (e : Stream) : Prop where
  part : s.part? d.p = some P
  pool : P.pool = some o
  inside : s.streamOutside P d.Q.ctx st = false
  entry : tget s.streams st = some e
  live : e.live = true

/-- In t one stream has an entry, and every other stream the one that it has in s. -/
structure State.setsStream (s t : State) (st : Nat) (e : Stream) : Prop where
  entry : tget t.streams st = some e
  others : ∀ x, x ≠ st → tget t.streams x = tget s.streams x

section
variable {s u t : State} {d : Site} {st : Nat} {P : Partition} {o : Pool} {e : Stream}

theorem Stream.not_free_of_live (h : e.live = true) : e.state ≠ .free := by
  intro hf
  rw [Stream.live, hf] at h
  cases h

theorem State.streamOutside_of_range (ho : P.pool = some o) (hlo : o.firstStream ≤ st) (hhi : st < o.firstStream + o.streamCount) {ctx : Nat}
    (he : ∀ e, tget s.streams st = some e → e.ctx = ctx) : s.streamOutside P ctx st = false := by
  unfold State.streamOutside
  rw [ho]
  dsimp only
  rw [decide_eq_false (Nat.not_lt.mpr hlo), decide_eq_false (Nat.not_le.mpr hhi), Bool.or_self, Bool.false_or]
  split
  · next e hget => rw [decide_eq_false (not_not.mpr (he e hget)), Bool.and_false]
  · rfl

theorem State.streamOutside_congr {P' : Partition} (hs : u.streams = s.streams) (hp : P'.pool = P.pool) (ctx : Nat) :
    u.streamOutside P' ctx st = s.streamOutside P ctx st := by
  unfold State.streamOutside
  rw [hs, hp]

theorem State.ownStream_of_live (h : s.liveStream d st P o e) : s.ownStream d P st = some (some e) := by
  unfold State.ownStream
  rw [h.inside, if_neg Bool.false_ne_true, h.entry]
  simp [Stream.not_free_of_live h.live]

theorem State.onLive_of_live (h : s.liveStream d st P o e) (f : Partition → Pool → Stream → Worked) : s.onLive d st f = f P o e := by
  unfold State.onLive
  simp only [h.part, State.ownStream_of_live h, h.pool]
  exact if_pos h.live

theorem State.touched_of_live (h : s.liveStream d st P o e) : s.touched d st = s.setStream st (e.touch P.stepNo) := by
  unfold State.touched
  simp only [h.part, State.ownStream_of_live h]
  exact if_pos h.live

theorem State.setsStream_tput (hu : u.streams = tput s.streams st e) : s.setsStream u st e where
  entry := by rw [hu, tget_tput, if_pos rfl]
  others x hx := by rw [hu, tget_tput, if_neg hx]

theorem State.setsStream_from (h : u.setsStream t st e) (hu : u.streams = s.streams) : s.setsStream t st e :=
  ⟨h.entry, fun x hx => (h.others x hx).trans (by rw [hu])⟩

theorem State.setsStream_trans {e' : Stream} (h : s.setsStream u st e) (k : u.setsStream t st e') : s.setsStream t st e' :=
  ⟨k.entry, fun x hx => (k.others x hx).trans (h.others x hx)⟩

/-- The entry that was set is set again. -/
theorem State.setsStream_again {e' : Stream} (h : s.setsStream t st e) (hu : u.streams = tput t.streams st e') : s.setsStream u st e' :=
  State.setsStream_trans h (State.setsStream_tput hu)

theorem State.setsStream_congr (h : s.setsStream t st e) (hu : u.streams = t.streams) : s.setsStream u st e :=
  ⟨hu ▸ h.entry, fun x hx => hu ▸ h.others x hx⟩

end

/-! ### Conditions that a command has met stay with it -/

/-- A command in flight has met a condition. -/
def State.hasMet (s : State) (id : Nat) (st : Status) : Prop := ∃ f, tget s.flight id = some f ∧ st ∈ f.conds

section
variable {s t : State} {id : Nat} {st : Status}

theorem State.hasMet_of_keeps {F : List Field} (h : s.hasMet id st) (k : s.keeps F t) (hF : Field.flight ∉ F) : t.hasMet id st := by
  unfold State.hasMet
  rw [show t.flight = s.flight from k.1 .flight hF]
  exact h

theorem State.hasMet_each {α : Type} {l : List α} {g : State → α → State} (h : s.hasMet id st)
    (hg : ∀ (u : State) (x : α), u.hasMet id st → (g u x).hasMet id st) : (s.each l g).hasMet id st :=
  State.each_induction (R := fun u => u.hasMet id st) h (fun u x _ hu => hg u x hu)

theorem Flight.conds_noting_of_mem {f : Flight} (h : st ∈ f.conds) (c : Status) : st ∈ (f.noting c).conds := by
  unfold Flight.noting
  split
  · exact h
  · exact List.mem_append_left _ h

theorem State.hasMet_condition (h : s.hasMet id st) (k : Nat) (c : Status) : (s.condition k c).hasMet id st := by
  obtain ⟨f, hf, hm⟩ := h
  rw [State.condition_eq]
  by_cases hk : id = k
  · subst hk
    exact ⟨_, State.flight_updFlight_self hf _, Flight.conds_noting_of_mem hm c⟩
  · exact ⟨f, (tget_tupd _ _ _ _).trans ((if_neg hk).trans hf), hm⟩

theorem State.hasMet_leaseHit (h : s.hasMet id st) (w : Writer) (a : Nat) (l : Lease) : (s.leaseHit w a l).hasMet id st := by
  unfold State.leaseHit
  split
  · exact h
  · extract_lets who met counted
    have hk : met.keeps [.timer, .funcs, .log, .perf, .out, .free] counted :=
      State.keeps_count _ _ _ _ (by decide) (State.keeps_self _ met)
    have hmet : met.hasMet id st := State.hasMet_condition h _ _
    exact State.hasMet_of_keeps hmet (State.keeps_logErr _ (by decide) hk) (by decide)

theorem State.hasMet_mixReaders (h : s.hasMet id st) (w : Writer) (g : Seg) (b : Bytes) (bad : Nat → Bool) :
    (s.mixReaders w g b bad).hasMet id st := by
  obtain ⟨f, hf, hm⟩ := h
  unfold State.hasMet State.mixReaders
  dsimp only
  rw [tget_map _ _ (fun e => by split <;> rfl), hf]
  refine ⟨_, rfl, ?_⟩
  dsimp only
  split
  · exact hm
  · exact hm

theorem State.hasMet_noted (h : s.hasMet id st) (w : Writer) (g : Seg) (b : Bytes) (bad : Nat → Bool) :
    ((s.mixReaders w g b bad).unsettle w g).hasMet id st :=
  State.hasMet_of_keeps (State.hasMet_mixReaders h w g b bad) (State.keeps_unsettle w g (by decide) (State.keeps_self [.unsettled] _)) (by decide)

theorem State.hasMet_mergeWords (h : s.hasMet id st) (sp : Store) (a n : Nat) : (s.mergeWords sp a n).hasMet id st :=
  State.hasMet_of_keeps h (State.keeps_mergeWords sp a n (by decide)
    (State.keeps_self [.flash, .timer, .dram, .spad, .near, .funcs, .log, .rowHits, .perf, .out, .free] s)) (by decide)

theorem State.hasMet_writeSeg (h : s.hasMet id st) (w : Writer) (g : Seg) (b : Bytes) (bad : Bool) : (s.writeSeg w g b bad).hasMet id st := by
  unfold State.writeSeg
  split
  case h_1 =>
    exact State.hasMet_of_keeps (State.hasMet_mixReaders h w g b _)
      (State.keeps_hostWrite w.p w.q g.addr b (by decide) (State.keeps_self [.hostMem, .parts, .perf] _)) (by decide)
  case h_2 =>
    extract_lets words merged merge m₀ m noted put
    have hput : put.hasMet id st := State.hasMet_noted (State.hasMet_mergeWords h _ _ _) w g b m.badWord
    split
    · exact State.hasMet_condition hput _ _
    · exact hput
  case h_3 =>
    split
    · exact State.hasMet_condition h _ _
    · extract_lets hit words merged merge m₀ m noted put ended
      have hhit : hit.hasMet id st := State.hasMet_each h (fun u l hu => State.hasMet_leaseHit hu w g.addr l)
      have hended : ended.hasMet id st := State.hasMet_noted (State.hasMet_mergeWords hhit _ _ _) w g b m.badWord
      split
      · exact State.hasMet_condition hended _ _
      · exact hended

theorem State.hasMet_writeAll (h : s.hasMet id st) (w : Writer) (l : List Seg) (b : Bytes) (bad : Bool) :
    (s.writeAll w l b bad).hasMet id st := by
  induction l generalizing s b with
  | nil => exact h
  | cons g l ih => exact ih (State.hasMet_writeSeg h w g _ bad) _

theorem State.hasMet_smWrite (h : s.hasMet id st) (w : Writer) (va : Nat) (b : Bytes) : (s.smWrite w va b).hasMet id st := by
  unfold State.smWrite
  split
  · exact h
  · split
    · exact State.hasMet_writeAll h w _ b false
    · exact State.hasMet_condition h _ _

theorem State.hasMet_controlFails (h : s.hasMet id st) (k : Nat) : (s.controlFails k).hasMet id st := by
  unfold State.controlFails
  split
  · exact h
  · exact State.hasMet_condition (State.hasMet_of_keeps h
      (State.keeps_scramble _ (by decide) (State.keeps_self [.dram, .spad, .hostMem, .free] s)) (by decide)) _ _

end

/-! ### The single form (R161) -/

/-- The one item of a record in the single form. -/
def StreamCmd.item (t : StreamCmd) : StreamItem := { st := t.stream, val := t.length, q := none, ordinal := 0, index := 0, faulty := false }

/-- The command of such a record as it goes into flight. -/
def State.streamFlight (s : State) (d : Site) : Flight :=
  let t := streamCmdOf d.b
  { d.flight 36 (islStream (t.stream % 4)) with writes := s.rangesOf d.p d.P [((t.result : Int), if t.result = 0 then 0 else 8)] }

/-- What its work begins on. -/
def State.streamBegun (s : State) (d : Site) : State := (s.launch d (s.streamFlight d) 0).1

def State.streamWriter (s : State) (d : Site) : Writer :=
  { cmd := s.nextId, p := d.p, q := d.q, cluster := d.Q.cluster, engine := 36 + (streamCmdOf d.b).stream % 4, kind := 2 }

/-- What follows its work: the result is written, and left undefined after an uncorrectable operand (R144, R161). -/
def State.streamEnds (s : State) (d : Site) (w : Writer) (n : Nat × Nat) : State :=
  let t := streamCmdOf d.b
  let s := if t.result ≠ 0 ∧ hasResult (recOp d.b) then s.smWrite w t.result (natLe 4 n.1 ++ natLe 4 n.2) else s
  let s := if (tget s.flight w.cmd).any (fun f => f.conds.contains .eccUncorr) then s.controlFails w.cmd else s
  (s.endControl w.cmd).tick

/-- A record in the single form, whose stream's entry holds no bad word. -/
structure State.namesOne (s : State) (d : Site) : Prop where
  form : u64 d.b 16 = 0
  sound : s.streamBad d.P (streamCmdOf d.b).stream = false

section
variable {s v : State} {d : Site} {work : State → Site → Writer → StreamCmd → StreamItem → Worked} {w : Writer} {n : Nat × Nat}

theorem State.keeps_streamBegun (s : State) (d : Site) :
    s.keeps [.timer, .cycles, .parts, .flight, .nextId, .perf, .free, .ends] (s.streamBegun d) := s.keeps_launched d _ 0

theorem State.streams_streamBegun (s : State) (d : Site) : (s.streamBegun d).streams = s.streams :=
  (s.keeps_streamBegun d).1 .streams (by decide)

theorem State.streamBad_begun (h : s.streamBad d.P st = false) : (s.streamBegun d).streamBad d.P st = false := by
  unfold State.streamBad State.sysBad at h ⊢
  rw [show (s.streamBegun d).dram = s.dram from (s.keeps_streamBegun d).1 .dram (by decide)]
  exact h

/-- What the work on its stream comes to: a state and the counts of the result. A command that failed has touched a live stream (R228). -/
def State.streamWorked (s : State) (d : Site) (work : State → Site → Writer → StreamCmd → StreamItem → Worked) : State × Nat × Nat :=
  match work (s.streamBegun d) d (s.streamWriter d) (streamCmdOf d.b) (streamCmdOf d.b).item with
  | (v, .ok n) => (v, n)
  | (v, .error st) => ((v.touched d (streamCmdOf d.b).stream).condition s.nextId st, (0, 0))

/-- A record in the single form is launched, works on its one stream, and ends. -/
theorem State.streamRun_single (h : s.namesOne d) :
    s.streamRun work d = (s.streamWorked d work).1.streamEnds d (s.streamWriter d) (s.streamWorked d work).2 := by
  have ht : (streamCmdOf d.b).table = 0 := h.form
  have hitems : s.streamItems d (streamCmdOf d.b) = ([(streamCmdOf d.b).item], false) := by
    unfold State.streamItems
    rw [if_pos ht]
    rfl
  have hlaunch : s.launch d (s.streamFlight d) 0 = (s.streamBegun d, s.nextId) := Prod.ext rfl (s.launch_spec d _ 0).1
  have hsound : (s.streamBegun d).streamBad d.P (streamCmdOf d.b).stream = false := State.streamBad_begun h.sound
  unfold State.streamRun
  extract_lets t lost
  have hlost : lost = false := by simp [lost, t, ht]
  rw [if_neg (fun hno => hno.1 ht)]
  split
  next items bad heq =>
  cases hitems.symm.trans heq
  extract_lets shards shard base f
  have hshard : shard = t.stream % 4 := by simp [shard, shards, StreamCmd.item, Nat.mod_one, t]
  have hf : f = s.streamFlight d := by
    simp only [f, base, hshard, State.streamFlight, t, ht, ne_eq, not_true_eq_false, decide_false, Bool.false_and]
    rfl
  split
  next u id heq =>
  cases hlaunch.symm.trans (hf ▸ heq)
  extract_lets v r worked noted w put failed
  have hv : v = s.streamBegun d := by
    unfold v State.readVa
    rw [if_pos (Or.inl (if_pos ht))]
  have hr : r = s.streamWorked d work := by
    unfold r State.streamWorked
    rw [hv, List.foldl_cons, List.foldl_nil]
    refine (if_neg (Bool.not_eq_true _ ▸ hsound)).trans ((if_neg Bool.false_ne_true).trans ?_)
    change (match work (s.streamBegun d) d (s.streamWriter d) t t.item with
      | (v, .ok (a, b)) => (v, 0 + a, 0 + b)
      | (v, .error st) => ((if t.table = 0 then v.touched d t.stream else v).condition s.nextId st, (0, 0))) = _
    obtain ⟨v, st | ⟨a, b⟩⟩ := work (s.streamBegun d) d (s.streamWriter d) t t.item
    · exact congrArg (fun u => (State.condition u s.nextId st, 0, 0)) (if_pos ht)
    · simp only [Nat.zero_add]
  have hnoted : noted = (s.streamWorked d work).1 := by rw [← hr]; exact if_pos ht
  rw [hlost, if_neg Bool.false_ne_true, if_neg Bool.false_ne_true]
  unfold State.streamEnds failed put
  rw [hnoted, hr]
  simp only [w, hshard]
  rfl

/-- What the end of a stream command may change. -/
def streamEndFields : List Field :=
  [.flash, .timer, .dram, .spad, .hostMem, .caches, .unsettled, .parts, .flight, .near, .funcs, .log, .rowHits, .perf, .out, .free]

theorem State.keeps_streamEnds (v : State) (d : Site) (w : Writer) (n : Nat × Nat) : v.keeps streamEndFields (v.streamEnds d w n) := by
  unfold State.streamEnds
  extract_lets t put failed
  have hput : v.keeps streamEndFields put := State.keeps_ite (State.keeps_smWrite _ _ _ (by decide) (State.keeps_self _ v)) (State.keeps_self _ v)
  have hfailed : v.keeps streamEndFields failed := State.keeps_ite (State.keeps_controlFails _ (by decide) hput) hput
  exact State.keeps_tick (by decide) (State.keeps_endControl _ (by decide) hfailed)

theorem State.streamRun_works (h : s.namesOne d)
    (hw : work (s.streamBegun d) d (s.streamWriter d) (streamCmdOf d.b) (streamCmdOf d.b).item = (v, .ok n)) :
    v.keeps streamEndFields (s.streamRun work d) := by
  rw [State.streamRun_single h, State.streamWorked, hw]
  exact v.keeps_streamEnds d _ _

/-- The stream of a command that works has the entry that the work gives it. -/
theorem State.streamRun_sets {st : Nat} {e : Stream} (h : s.namesOne d)
    (hw : work (s.streamBegun d) d (s.streamWriter d) (streamCmdOf d.b) (streamCmdOf d.b).item = (v, .ok n))
    (hv : (s.streamBegun d).setsStream v st e) : s.setsStream (s.streamRun work d) st e :=
  State.setsStream_congr (State.setsStream_from hv (s.streams_streamBegun d)) ((State.streamRun_works h hw).1 .streams (by decide))

theorem State.launched_streamRun (h : s.namesOne d)
    (hwork : ∀ (u : State) (d : Site) (w : Writer) (t : StreamCmd) (x : StreamItem), u.keeps workFields (work u d w t x).1) :
    s.launched (s.streamRun work d) d 36 :=
  State.launched_of_worksFrom (s.worksFrom_streamRun d hwork (fun hno => hno.1 h.form))

/-! ### Its launch -/

/-- The partition once the record has been taken. -/
def Site.advanced (d : Site) : Partition :=
  { d.P with queues := tupd d.P.queues d.q (fun Q => Q.advance 0), turns := tput d.P.turns d.Q.cluster d.q }

theorem State.part?_streamBegun (hd : s.meetsSite d) : (s.streamBegun d).part? d.p = some d.advanced := s.part?_launch d _ 0 hd.part

theorem State.readsAlike_begun (s : State) (d : Site) : s.readsAlike d.P (s.streamBegun d) d.advanced d.p :=
  State.readsAlike_trans (State.readsAlike_of_keeps (P := d.P) (s.keeps_streamBegun d) (by decide)) ⟨fun _ => rfl, rfl, rfl, rfl⟩

theorem State.deviceOk_begun (s : State) (d : Site) (va n : Nat) :
    (s.streamBegun d).deviceOk { d with P := d.advanced } va n = s.deviceOk d va n :=
  State.deviceOk_alike (d := d) (d' := { d with P := d.advanced }) (s.readsAlike_begun d) rfl va n

/-- A live stream is still one when the command begins. -/
theorem State.liveStream_begun {st : Nat} {o : Pool} {e : Stream} (hd : s.meetsSite d) (h : s.liveStream d st d.P o e) :
    (s.streamBegun d).liveStream d st d.advanced o e where
  part := State.part?_streamBegun hd
  pool := h.pool
  inside := (State.streamOutside_congr (s.streams_streamBegun d) rfl _).trans h.inside
  entry := (s.streams_streamBegun d).symm ▸ h.entry
  live := h.live

/-! ### A command that fails on its stream (R228) -/

theorem State.rangesOf_empty (s : State) (p : Nat) (P : Partition) (va : Int) : s.rangesOf p P [(va, 0)] = [] := rfl

/-- One without a result meets no broken crossing at its launch (R373). -/
theorem State.conds_issue_streamFlight (h : u64 d.b 48 = 0) : (s.issue d.p (s.streamFlight d)).conds = [] := by
  have hw : (s.streamFlight d).writes = [] := by
    have hr : (streamCmdOf d.b).result = 0 := h
    unfold State.streamFlight
    dsimp only
    rw [if_pos hr, State.rangesOf_empty]
  have hno : s.meetsBroken (s.streamFlight d) = false := by
    unfold State.meetsBroken
    rw [List.any_eq_false]
    intro x _
    split
    · simp [State.streamFlight, Site.flight]
    · simp [State.streamFlight, Site.flight]
    · rw [Flight.reaches, hw]
      simp [State.streamFlight, Site.flight]
    · simp
  unfold State.issue
  rw [hno]
  rfl

theorem State.hasMet_streamEnds {id : Nat} {c : Status} (h : v.hasMet id c) (d : Site) (w : Writer) (n : Nat × Nat) :
    (v.streamEnds d w n).hasMet id c := by
  unfold State.streamEnds
  extract_lets t put failed
  have hput : put.hasMet id c := by
    unfold put
    split
    · exact State.hasMet_smWrite h _ _ _
    · exact h
  have hfailed : failed.hasMet id c := by
    unfold failed
    split
    · exact State.hasMet_controlFails hput _
    · exact hput
  exact State.hasMet_of_keeps hfailed (State.keeps_tick (by decide) (State.keeps_endControl _ (by decide)
    (State.keeps_self [.dram, .spad, .hostMem, .free] _))) (by decide)

/-- Without a result, the end of a command that met no bad operand leaves the commands in flight as they are. -/
theorem State.flight_streamEnds {f : Flight} (hr : u64 d.b 48 = 0) (hf : tget v.flight w.cmd = some f) (hc : .eccUncorr ∉ f.conds) :
    (v.streamEnds d w n).flight = v.flight := by
  have hno : f.conds.contains .eccUncorr = false := by simpa using hc
  unfold State.streamEnds
  extract_lets t put failed
  have hput : put = v := if_neg (fun hx => hx.1 hr)
  have hfailed : failed = v := by
    unfold failed
    rw [hput, hf, Option.any_some, hno, if_neg Bool.false_ne_true]
  rw [hfailed]
  unfold State.endControl
  rw [hf]
  dsimp only
  rw [hno, if_neg Bool.false_ne_true]
  rfl

/-- A command that fails on a live stream leaves it ACTIVE and has met the condition. -/
theorem State.streamRun_fails {P : Partition} {o : Pool} {e : Stream} {c : Status} (h : s.namesOne d)
    (hl : (s.streamBegun d).liveStream d (streamCmdOf d.b).stream P o e)
    (hw : work (s.streamBegun d) d (s.streamWriter d) (streamCmdOf d.b) (streamCmdOf d.b).item = (s.streamBegun d, .error c))
    (hok : c ≠ .ok) (hecc : c ≠ .eccUncorr) :
    s.setsStream (s.streamRun work d) (streamCmdOf d.b).stream (e.touch P.stepNo)
      ∧ ∃ f, tget (s.streamRun work d).flight s.nextId = some f ∧ c ∈ f.conds ∧ (u64 d.b 48 = 0 → f.final = c) := by
  rw [State.streamRun_single h, State.streamWorked, hw]
  dsimp only
  rw [State.touched_of_live hl]
  generalize ht : ((s.streamBegun d).setStream (streamCmdOf d.b).stream (e.touch P.stepNo)).condition s.nextId c = t
  have hf : tget t.flight s.nextId = some ((s.issue d.p (s.streamFlight d)).noting c) := by
    rw [← ht, State.condition_eq]
    exact State.flight_updFlight_self (s.launch_spec d _ 0).2.2 _
  have hstreams : t.streams = tput (s.streamBegun d).streams (streamCmdOf d.b).stream (e.touch P.stepNo) := by
    rw [← ht]
    exact (State.keeps_condition s.nextId c (by decide) (State.keeps_self [.flight] _)).1 .streams (by decide)
  refine ⟨State.setsStream_congr (State.setsStream_from (State.setsStream_tput hstreams) (s.streams_streamBegun d))
    ((t.keeps_streamEnds d _ _).1 .streams (by decide)), ?_⟩
  by_cases hr : u64 d.b 48 = 0
  · have hconds : ((s.issue d.p (s.streamFlight d)).noting c).conds = [c] := by
      unfold Flight.noting
      rw [State.conds_issue_streamFlight hr]
      rfl
    refine ⟨_, (congrArg (fun x => tget x s.nextId) (State.flight_streamEnds hr hf ?_)).trans hf, Flight.mem_conds_noting c _,
      fun _ => Flight.final_of_conds ?_⟩
    · rw [hconds, List.mem_singleton]
      exact Ne.symm hecc
    · rw [hconds, if_neg hok]
  · obtain ⟨f, hget, hmem⟩ := State.hasMet_streamEnds (v := t) ⟨_, hf, Flight.mem_conds_noting c _⟩ d (s.streamWriter d) (0, 0)
    exact ⟨f, hget, hmem, fun hx => absurd hx hr⟩

end

/-! ### Records that run (R118) -/

section
variable {s : State} {i : Instr} {p q op st : Nat} {d : Site} {o : Pool} {e : Stream}
  {work : State → Site → Writer → StreamCmd → StreamItem → Worked}

theorem State.exec_sets (h : s.namesOne d) (hexec : exec i s = .next (s.streamRun work d))
    (hwork : ∀ (u : State) (d : Site) (w : Writer) (t : StreamCmd) (x : StreamItem), u.keeps workFields (work u d w t x).1)
    (hset : s.setsStream (s.streamRun work d) st e) :
    ∃ t, exec i s = .next t ∧ s.launched t d 36 ∧ tget t.streams st = some e ∧ ∀ x, x ≠ st → tget t.streams x = tget s.streams x :=
  ⟨_, hexec, State.launched_streamRun h hwork, hset.entry, hset.others⟩

theorem State.exec_fails {c : Status} (h : s.namesOne d) (hexec : exec i s = .next (s.streamRun work d))
    (hl : (s.streamBegun d).liveStream d (streamCmdOf d.b).stream d.advanced o e)
    (hw : work (s.streamBegun d) d (s.streamWriter d) (streamCmdOf d.b) (streamCmdOf d.b).item = (s.streamBegun d, .error c))
    (hok : c ≠ .ok) (hecc : c ≠ .eccUncorr) :
    ∃ t f, exec i s = .next t ∧ tget t.streams (streamCmdOf d.b).stream = some (e.touch d.P.stepNo)
      ∧ (∀ x, x ≠ (streamCmdOf d.b).stream → tget t.streams x = tget s.streams x)
      ∧ tget t.flight s.nextId = some f ∧ c ∈ f.conds ∧ (u64 d.b 48 = 0 → f.final = c) := by
  obtain ⟨hset, f, hf, hmet, hfinal⟩ := State.streamRun_fails h hl hw hok hecc
  exact ⟨_, f, hexec, hset.entry, hset.others, hf, hmet, hfinal⟩

/-- A record that runs stands in its own queue. -/
theorem State.site_of_runs (h : s.runs i d) (hi : i.record? = some (p, q, op)) : s.meetsSite d ∧ d.p = p ∧ d.q = q :=
  ⟨State.meetsSite_of_site? (State.site?_of_runs h hi), State.site?_place (State.site?_of_runs h hi)⟩

theorem exec_stOpen_runs (h : s.runs (.stOpen p q) d) : exec (.stOpen p q) s = .next (s.streamRun State.stOpen d) :=
  State.dispatch_of_runs h rfl (Instr.isOp_of_takes rfl) rfl

theorem exec_stAppend_runs (h : s.runs (.stAppend p q) d) : exec (.stAppend p q) s = .next (s.streamRun State.stAppend d) :=
  State.dispatch_of_runs h rfl (Instr.isOp_of_takes rfl) rfl

theorem exec_stCommit_runs (h : s.runs (.stCommit p q) d) : exec (.stCommit p q) s = .next (s.streamRun State.stCommit d) :=
  State.dispatch_of_runs h rfl (Instr.isOp_of_takes rfl) rfl

theorem exec_stRollback_runs (h : s.runs (.stRollback p q) d) : exec (.stRollback p q) s = .next (s.streamRun State.stRollback d) :=
  State.dispatch_of_runs h rfl (Instr.isOp_of_takes rfl) rfl

theorem exec_stRelease_runs (h : s.runs (.stRelease p q) d) : exec (.stRelease p q) s = .next (s.streamRun State.stRelease d) :=
  State.dispatch_of_runs h rfl (Instr.isOp_of_takes rfl) rfl

theorem exec_prefixLookup_runs (h : s.runs (.prefixLookup p q) d) :
    exec (.prefixLookup p q) s = .next (s.streamRun State.prefixLookup d) :=
  State.dispatch_of_runs h rfl (Instr.isOp_of_takes rfl) rfl

theorem exec_prefixPublish_runs (h : s.runs (.prefixPublish p q) d) :
    exec (.prefixPublish p q) s = .next (s.streamRun State.prefixPublish d) :=
  State.dispatch_of_runs h rfl (Instr.isOp_of_takes rfl) rfl

end

end Sys2Proof.Machine
end

section
/-! SUPPORT. StreamWork.lean: the work of ST_OPEN, ST_APPEND, ST_COMMIT, ST_ROLLBACK and ST_RELEASE on one stream (O28, O29). -/

namespace Sys2Proof.Machine

/-- What the work on a stream may change besides the stream's own entry. -/
def streamWorkFields : List Field :=
  [.flash, .timer, .dram, .spad, .hostMem, .caches, .unsettled, .parts, .prefixes, .flight, .near, .funcs, .log, .rowHits, .perf, .out, .free]

/-- The entry that ST_OPEN makes (R228, R232). -/
def Stream.opened (d : Site) (P : Partition) (o : Pool) (t : StreamCmd) (x : StreamItem) : Stream :=
  { state := .active, priority := t.priority, partition := d.p, ctx := d.Q.ctx, domain := t.domain, committed := 0,
    speculative := 0, appendBase := 0, positionBase := BitVec.ofNat 32 x.val, blocks := 0, chainValid := false, shared := 0,
    published := 0, blockTable := o.tableVa x.st, lastStep := P.stepNo, chainHash := 0 }

/-- The first ordinal of an append, and how many it stores (R234). -/
def StreamItem.first (x : StreamItem) (base : Nat) : Nat := match x.q with | some q => x.val - q | none => base
def StreamItem.count (x : StreamItem) : Nat := match x.q with | some q => q | none => x.val

theorem State.streams_of_keeps {s t : State} (h : s.keeps streamWorkFields t) : t.streams = s.streams := h.1 .streams (by decide)

section
variable {s : State} {d : Site} {w : Writer} {t : StreamCmd} {x : StreamItem} {P : Partition} {o : Pool} {e : Stream}

/-! ### ST_OPEN (R228, R232) -/

theorem State.stOpen_free (hP : s.part? d.p = some P) (ho : P.pool = some o) (hin : s.streamOutside P d.Q.ctx x.st = false)
    (hnone : tget s.streams x.st = none) (hsegs : (s.segs d.p P (o.tableVa x.st) o.tableBytes).isSome = true) :
    s.stOpen d w t x = ((s.smWrite w (o.tableVa x.st) (zeros o.tableBytes)).setStream x.st (.opened d P o t x), .ok (0, 0)) := by
  have hown : s.ownStream d P x.st = some none := by
    unfold State.ownStream
    rw [hin, hnone]
    rfl
  have hmapped : (s.segs d.p P (o.tableVa x.st) o.tableBytes).isNone = false := by
    rw [← Option.not_isSome, hsegs]
    rfl
  unfold State.stOpen
  simp only [hP, hown, ho]
  rw [hmapped]
  rfl

/-! ### ST_COMMIT (R235) -/

theorem State.stCommit_within (h : s.liveStream d x.st P o e) (hlo : e.committed ≤ x.val) (hhi : x.val ≤ e.speculative) :
    s.stCommit d w t x = (s.setStream x.st { e.touch P.stepNo with committed := x.val }, .ok (0, 0)) := by
  unfold State.stCommit
  rw [State.onLive_of_live h]
  exact if_pos ⟨hlo, hhi⟩

theorem State.stCommit_beyond (h : s.liveStream d x.st P o e) (hout : x.val < e.committed ∨ e.speculative < x.val) :
    s.stCommit d w t x = (s, .error .inconsistent) := by
  unfold State.stCommit
  rw [State.onLive_of_live h]
  exact if_neg (by omega)

/-! ### ST_ROLLBACK (R236) -/

theorem State.stRollback_within (h : s.liveStream d x.st P o e) (hlo : e.committed ≤ x.val) (hhi : x.val ≤ e.speculative)
    (hrows : s.rowsFault d.p P o e.blockTable (cdiv x.val o.tokens) e.blocks = none) :
    ∃ v n, s.stRollback d w t x = (v, .ok n) ∧ v.streams = tput s.streams x.st { e.touch P.stepNo with
      speculative := x.val, appendBase := x.val, blocks := min e.blocks (cdiv x.val o.tokens) } := by
  unfold State.stRollback
  rw [State.onLive_of_live h]
  dsimp only
  rw [if_pos ⟨hlo, hhi⟩, hrows]
  dsimp only
  refine ⟨_, _, rfl, ?_⟩
  refine congrArg (fun l => tput l x.st _) (State.streams_of_keeps ?_)
  exact State.keeps_ite (State.keeps_ite (State.keeps_self _ s) (State.keeps_smWrite _ _ _ (by decide) (State.keeps_self _ s)))
    (State.keeps_freeLater _ _ _ _ (by decide)
      (State.keeps_ite (State.keeps_self _ s) (State.keeps_smWrite _ _ _ (by decide) (State.keeps_self _ s))))

theorem State.stRollback_beyond (h : s.liveStream d x.st P o e) (hout : x.val < e.committed ∨ e.speculative < x.val) :
    s.stRollback d w t x = (s, .error .inconsistent) := by
  unfold State.stRollback
  rw [State.onLive_of_live h]
  exact if_neg (by omega)

/-! ### ST_RELEASE (R248) -/

theorem State.streams_releaseStream {st : Nat} {after : List Nat} (hP : s.part? w.p = some P) (ho : P.pool = some o)
    (he : tget s.streams st = some e) : (s.releaseStream w st after).1.streams
      = tput s.streams st { e with state := .draining, lastStep := P.stepNo } := by
  unfold State.releaseStream
  dsimp only
  rw [hP, he]
  dsimp only
  rw [ho]
  dsimp only
  refine congrArg (fun l => tput l st _) (State.streams_of_keeps ?_)
  exact State.keeps_freeLater _ _ _ _ (by decide) (State.keeps_smWrite _ _ _ (by decide)
    (State.keeps_each _ (fun u r => State.keeps_bumpRefs _ _ _ _ (by decide) (State.keeps_self _ u)) (State.keeps_self _ s)))

theorem State.stRelease_mapped (h : s.liveStream d x.st P o e) (hw : w.p = d.p)
    (hsegs : (s.segs d.p P e.blockTable o.tableBytes).isSome = true) (hrows : s.rowsFault d.p P o e.blockTable 0 e.blocks = none) :
    ∃ v n, s.stRelease d w t x = (v, .ok n)
      ∧ v.streams = tput s.streams x.st { e with state := .draining, lastStep := P.stepNo } := by
  have hmapped : (s.segs d.p P e.blockTable o.tableBytes).isNone = false := by
    rw [← Option.not_isSome, hsegs]
    rfl
  unfold State.stRelease
  rw [State.onLive_of_live h]
  dsimp only
  rw [hmapped, if_neg Bool.false_ne_true, hrows]
  exact ⟨_, _, rfl, State.streams_releaseStream (hw ▸ h.part) h.pool h.entry⟩

/-! ### ST_APPEND (R233, R234) -/

/-- An append of nothing touches its stream. -/
theorem State.stAppend_empty (h : s.liveStream d x.st P o e) (hlo : e.committed ≤ x.first (e.touch P.stepNo).appendBase)
    (hhi : x.first (e.touch P.stepNo).appendBase ≤ e.speculative) (hc : x.count = 0) :
    s.stAppend d w t x = (s.setStream x.st (e.touch P.stepNo), .ok (0, 0)) := by
  unfold State.stAppend
  rw [State.onLive_of_live h]
  exact (if_neg (not_or.mpr ⟨Nat.not_lt.mpr hlo, Nat.not_lt.mpr hhi⟩)).trans (if_pos hc)

theorem State.stAppend_beyond (h : s.liveStream d x.st P o e) (hlo : e.committed ≤ x.first (e.touch P.stepNo).appendBase)
    (hhi : x.first (e.touch P.stepNo).appendBase ≤ e.speculative) (hc : x.count ≠ 0)
    (hmax : o.maxBlocks ≤ (x.first (e.touch P.stepNo).appendBase + x.count - 1) / o.tokens) :
    s.stAppend d w t x = (s, .error .bounds) := by
  unfold State.stAppend
  rw [State.onLive_of_live h]
  exact (if_neg (not_or.mpr ⟨Nat.not_lt.mpr hlo, Nat.not_lt.mpr hhi⟩)).trans ((if_neg hc).trans (if_pos hmax))

end

end Sys2Proof.Machine
end

section
/-! SUPPORT. Appends.lean: appends at or beyond MAX_BLOCKS (O29), and appends that find their slots. -/

namespace Sys2Proof.Machine

/-! ### Appends beyond MAX_BLOCKS (R233) -/

/-- Settles O29: the work ends with BOUNDS where it stands, and the one stream of a record has been touched (R228). -/
theorem appendBeyondMaxBlocks : Obligations.AppendBeyondMaxBlocks := by
  unfold Obligations.AppendBeyondMaxBlocks
  constructor
  · intro s d w c x P o e hP ho hin he hlive first count hlo hhi hc hmax
    exact State.stAppend_beyond ⟨hP, ho, hin, he, hlive⟩ hlo hhi hc hmax
  · intro s p q d o e hruns ho hform c first hin hsound he hlive hlo hhi hc hmax
    obtain ⟨hd, -, -⟩ := State.site_of_runs hruns rfl
    have hl := State.liveStream_begun hd ⟨hd.part, ho, hin, he, hlive⟩
    exact State.exec_fails ⟨hform, hsound⟩ (exec_stAppend_runs hruns) hl (State.stAppend_beyond (x := c.item) hl hlo hhi hc hmax)
      (by decide) (by decide)

/-! ### Appends that find their slots (R76, R234) -/

theorem filter_of_unique {α : Type} {l : List α} {f : α → Bool} (hl : l.Nodup)
    (h : ∀ a ∈ l, ∀ b ∈ l, f a = true → f b = true → b = a) :
    l.filter f = [] ∨ ∃ a ∈ l, f a = true ∧ l.filter f = [a] := by
  cases hfl : l.filter f with
  | nil => exact .inl rfl
  | cons a r =>
    refine .inr ?_
    have hmem : ∀ b ∈ a :: r, b ∈ l ∧ f b = true := fun b hb => List.mem_filter.mp (hfl ▸ hb)
    obtain ⟨ha, hfa⟩ := hmem a List.mem_cons_self
    refine ⟨a, ha, hfa, ?_⟩
    have hnd : (a :: r).Nodup := hfl ▸ hl.filter f
    cases r with
    | nil => rfl
    | cons b r =>
      obtain ⟨hb, hfb⟩ := hmem b (by simp)
      have hba : b = a := h a ha b hb hfa hfb
      simp [hba] at hnd

/-- The token ranges of an append. -/
def appendRanges (first last : Nat) : List Nat := (List.range (last + 1 - first)).map (fun i => first + i)

theorem nodup_appendRanges (first last : Nat) : (appendRanges first last).Nodup :=
  List.nodup_range.map (fun _ _ h => Nat.add_left_cancel h)

theorem mem_appendRanges {first last j : Nat} (h : j ∈ appendRanges first last) : first ≤ j ∧ j ≤ last := by
  obtain ⟨i, hi, rfl⟩ := List.mem_map.mp h
  have := List.mem_range.mp hi
  omega

/-- The block-table entry of a token range names no block yet. -/
def State.lacksSlot (s : State) (p : Nat) (P : Partition) (o : Pool) (table layer j : Nat) : Bool :=
  !entryValid (u32 (s.rawVa p P (o.entryVa table j layer) 4) 0)

/-- The entries of an append's ranges can be read, and at most one of the ranges lacks a slot, which a bank has free. -/
structure State.appendFits (s : State) (p : Nat) (P : Partition) (o : Pool) (table st layer first last : Nat) : Prop where
  rows : ∀ j ∈ appendRanges first last, s.rawFault p P (o.entryVa table j layer) 4 = none
  slot : ∀ j ∈ appendRanges first last, s.lacksSlot p P o table layer j = true → (o.choose st layer j).isSome = true
  single : ∀ j ∈ appendRanges first last, ∀ k ∈ appendRanges first last,
    s.lacksSlot p P o table layer j = true → s.lacksSlot p P o table layer k = true → k = j

section
variable {s : State} {d : Site} {w : Writer} {t : StreamCmd} {x : StreamItem} {P : Partition} {o : Pool} {e : Stream}

theorem State.appendFits_of_rows {p table st layer first last : Nat}
    (h : ∀ j, first ≤ j → j ≤ last → s.rawFault p P (o.entryVa table j layer) 4 = none
      ∧ (entryValid (u32 (s.rawVa p P (o.entryVa table j layer) 4) 0) = false → (o.choose st layer j).isSome = true
        ∧ ∀ k, first ≤ k → k ≤ last → entryValid (u32 (s.rawVa p P (o.entryVa table k layer) 4) 0) = false → k = j)) :
    s.appendFits p P o table st layer first last := by
  have hlacks : ∀ j, s.lacksSlot p P o table layer j = true → entryValid (u32 (s.rawVa p P (o.entryVa table j layer) 4) 0) = false :=
    fun j hj => Eq.mp (Bool.not_eq_true' _) hj
  have hrow := fun j (hj : j ∈ appendRanges first last) => h j (mem_appendRanges hj).1 (mem_appendRanges hj).2
  refine ⟨fun j hj => (hrow j hj).1, fun j hj hl => ((hrow j hj).2 (hlacks j hl)).1, fun j hj k hk hl hl' => ?_⟩
  exact ((hrow j hj).2 (hlacks j hl)).2 k (mem_appendRanges hk).1 (mem_appendRanges hk).2 (hlacks k hl')

theorem State.appendFits.need {p table st layer first last : Nat} (h : s.appendFits p P o table st layer first last) :
    (appendRanges first last).filter (s.lacksSlot p P o table layer) = []
      ∨ ∃ j, (appendRanges first last).filter (s.lacksSlot p P o table layer) = [j] ∧ (o.choose st layer j).isSome = true := by
  rcases filter_of_unique (nodup_appendRanges first last) h.single with hnone | ⟨j, hj, hl, hone⟩
  · exact .inl hnone
  · exact .inr ⟨j, hone, h.slot j hj hl⟩

theorem State.appendFits_alike {u : State} {P' : Partition} {p table st layer first last : Nat} (hr : s.readsAlike P u P' p)
    (h : s.appendFits p P o table st layer first last) : u.appendFits p P' o table st layer first last := by
  have hl : u.lacksSlot p P' o table layer = s.lacksSlot p P o table layer := by
    funext j
    unfold State.lacksSlot
    rw [hr.rawVa]
  refine ⟨fun j hj => (hr.rawFault _ _).trans (h.rows j hj), ?_, ?_⟩
  · rw [hl]
    exact h.slot
  · rw [hl]
    exact h.single

theorem State.allocate_chosen {st layer j : Nat} (hP : s.part? w.p = some P) (ho : P.pool = some o) (hc : (o.choose st layer j).isSome = true)
    (k : Nat) : ∃ u g, s.allocate w st layer j (k + 1) = (u, some g) := by
  obtain ⟨g, hg⟩ := Option.isSome_iff_exists.mp hc
  unfold State.allocate
  simp only [hP, ho, hg]
  exact ⟨_, _, rfl⟩

/-- At most one range needs a slot, and a bank has one free: the append gets what it needs. -/
theorem State.allocAll_chosen {st layer : Nat} {need : List Nat} (hP : s.part? w.p = some P) (ho : P.pool = some o)
    (hneed : need = [] ∨ ∃ j, need = [j] ∧ (o.choose st layer j).isSome = true) : (s.allocAll w st layer need).2.1 = true := by
  rcases hneed with rfl | ⟨j, rfl, hc⟩
  · rfl
  · obtain ⟨u, g, hu⟩ := State.allocate_chosen hP ho hc s.prefixes.length
    unfold State.allocAll
    rw [List.foldl_cons, List.foldl_nil, if_pos rfl]
    dsimp only
    rw [hu]

/-- An append whose ranges can be read and get their slots raises the speculative length and the rows in use. -/
theorem State.stAppend_stores {first last : Nat} (h : s.liveStream d x.st P o e) (hw : w.p = d.p)
    (hfirst : x.first (e.touch P.stepNo).appendBase = first) (hlast : (first + x.count - 1) / o.tokens = last)
    (hlo : e.committed ≤ first) (hhi : first ≤ e.speculative) (hc : x.count ≠ 0) (hmax : last < o.maxBlocks)
    (hsrc : s.deviceOk { d with P := P } (t.data + x.ordinal * t.stride) ((x.count - 1) * t.stride + o.groups * 1024) = true)
    (hfits : s.appendFits d.p P o e.blockTable x.st t.layer (first / o.tokens) last) :
    ∃ v n, s.stAppend d w t x = (v, .ok n) ∧ v.streams = tput s.streams x.st { e.touch P.stepNo with
      speculative := max e.speculative (first + x.count), blocks := max e.blocks (last + 1) } := by
  subst hfirst hlast
  unfold State.stAppend
  rw [State.onLive_of_live h]
  extract_lets e' first count L src ranges entryAt need r got s1 a slotOf s2 s3
  have hranges : ∀ j ∈ ranges, s.rawFault d.p P (o.entryVa e.blockTable j t.layer) 4 = none := hfits.rows
  have hflag : r.2.1 = true := State.allocAll_chosen (hw ▸ h.part) h.pool hfits.need
  have hr : s.keeps streamWorkFields r.1 := State.keeps_allocAll _ _ _ _ (by decide) (State.keeps_self _ s)
  have h1 : s.keeps streamWorkFields s1 :=
    State.keeps_each _ (fun u g => State.keeps_smWrite _ _ _ (by decide) (State.keeps_self _ u)) hr
  have h2 : s.keeps streamWorkFields s2 := State.keeps_each _ (fun u k => State.keeps_appendToken _ _ _ _ _ _ _ (by decide)
    (State.keeps_readVa _ _ _ _ (by decide) (State.keeps_self _ u))) h1
  have hin : ¬(first < e.committed ∨ e.speculative < first) := not_or.mpr ⟨Nat.not_lt.mpr hlo, Nat.not_lt.mpr hhi⟩
  have hcount : ¬count = 0 := hc
  have hbelow : ¬o.maxBlocks ≤ (first + count - 1) / o.tokens := Nat.not_le.mpr hmax
  have hdata : s.deviceOk { d with P := P } src ((count - 1) * t.stride + o.groups * 1024) = true := hsrc
  rw [if_neg hin, if_neg hcount, if_neg hbelow, hdata, Bool.not_true, if_neg Bool.false_ne_true, List.findSome?_eq_none_iff.mpr hranges]
  dsimp only
  rw [hflag, Bool.not_true, if_neg Bool.false_ne_true]
  refine ⟨_, _, rfl, ?_⟩
  have h3 : s3.streams = tput s.streams x.st { e' with
      speculative := max e.speculative (first + count), blocks := max e.blocks ((first + count - 1) / o.tokens + 1) } :=
    congrArg (fun l => tput l x.st _) (State.streams_of_keeps h2)
  have hrefill : s3.keeps streamWorkFields (s3.refill w (s3.prefixes.length + 1)) := State.keeps_refill _ _ (by decide) (State.keeps_self _ s3)
  exact (State.streams_of_keeps (State.keeps_ite (State.keeps_self _ s3) hrefill)).trans h3

end

end Sys2Proof.Machine
end

section
/-! SUPPORT. PrefixWork.lean: what PREFIX_LOOKUP and PREFIX_PUBLISH do range by range (O28). -/

namespace Sys2Proof.Machine

/-! ### The list of token identifiers -/

/-- The state once the list has been read. -/
def State.listRead (s : State) (id p : Nat) (P : Partition) (st : Nat) (e : Stream) (list n : Nat) : State :=
  (s.setStream st e).readVa id p P ((list : Int), n)

section
variable {s : State} {p st list n : Nat} {P : Partition} {e : Stream} (hs : s.unsettled = []) (id : Nat)
  (hclean : (s.fetch (nearAccess p P) list n).2 = false)
include hs hclean

theorem State.keeps_listRead : (s.setStream st e).keeps (.flight :: soundFields) (s.listRead id p P st e list n) := by
  refine State.keeps_readVa_sound (s := s.setStream st e) hs id ?_
  have hread : s.readsAlike P (s.setStream st e) P p := ⟨fun _ => rfl, rfl, rfl, rfl⟩
  exact (congrArg Prod.snd (State.fetch_alike hread hs hs _ _)).trans hclean

theorem State.streams_listRead : (s.listRead id p P st e list n).streams = tput s.streams st e :=
  (State.keeps_listRead hs id hclean).1 .streams (by decide)

theorem State.prefixes_listRead : (s.listRead id p P st e list n).prefixes = s.prefixes :=
  (State.keeps_listRead hs id hclean).1 .prefixes (by decide)

theorem State.unsettled_listRead : (s.listRead id p P st e list n).unsettled = [] :=
  ((State.keeps_listRead hs id hclean).1 .unsettled (by decide)).trans hs

theorem State.part?_listRead (k : Nat) : (s.listRead id p P st e list n).part? k = s.part? k :=
  State.part?_congr ((State.keeps_listRead hs id hclean).1 .parts (by decide)) k

theorem State.readsAlike_listRead : s.readsAlike P (s.listRead id p P st e list n) P p :=
  State.readsAlike_trans (u := s.setStream st e) (P' := P) ⟨fun _ => rfl, rfl, rfl, rfl⟩
    (State.readsAlike_of_keeps (State.keeps_listRead hs id hclean) (by decide))

end

/-! ### PREFIX_LOOKUP, range by range (R242) -/

/-- What a lookup has come to: the state, the hash of the last range found, ranges and entries found, whether it has stopped. -/
abbrev Looked := State × BitVec 128 × Nat × Nat × Bool

/-- One range of a lookup, unless it has stopped. -/
def State.lookupStep (w : Writer) (st list : Nat) (acc : Looked) (j : Nat) : Looked :=
  if acc.2.2.2.2 then acc
  else
    match acc.1.lookupRange w st j list acc.2.1 with
    | (s, some (h, k)) => (s, h, acc.2.2.1 + 1, acc.2.2.2.1 + k, false)
    | (s, none) => (s, acc.2.1, acc.2.2.1, acc.2.2.2.1, true)

def State.lookups (s : State) (w : Writer) (st list n : Nat) : Looked :=
  (List.range n).foldl (State.lookupStep w st list) (s, 0, 0, 0, false)

/-- The entry of a stream that has been given m ranges. -/
def Stream.given (e : Stream) (o : Pool) (m : Nat) (g : BitVec 128) : Stream :=
  { e with committed := m * o.tokens, speculative := m * o.tokens, appendBase := m * o.tokens, blocks := m,
           shared := m, published := m, chainHash := g, chainValid := decide (0 < m) }

section
variable {s u : State} {d : Site} {w : Writer} {t : StreamCmd} {x : StreamItem} {P : Partition} {o : Pool} {e : Stream} {st list : Nat}

theorem State.prefixLookup_eq {n : Nat} (h : s.liveStream d x.st P o e) (hspec : e.speculative = 0)
    (hn : min ((x.val - 1) / max o.tokens 1) o.maxBlocks = n) (hlist : s.deviceOk { d with P := P } t.data (4 * x.val) = true)
    (hclean : (s.fetch (nearAccess d.p P) t.data (4 * n * o.tokens)).2 = false) :
    ∃ k, s.prefixLookup d w t x =
      (let r := (s.listRead w.cmd d.p P x.st (e.touch P.stepNo) t.data (4 * n * o.tokens)).lookups w x.st t.data n
       (r.1.setStream x.st ((e.touch P.stepNo).given o r.2.2.1 r.2.1), .ok (r.2.2.1 * o.tokens, k))) := by
  subst hn
  unfold State.prefixLookup
  rw [State.onLive_of_live h]
  dsimp only
  rw [if_neg (not_not.mpr hspec), hlist, Bool.not_true, if_neg Bool.false_ne_true, hclean, if_neg Bool.false_ne_true]
  exact ⟨_, rfl⟩

theorem State.lookupStep_stopped {acc : Looked} (h : acc.2.2.2.2 = true) (l : List Nat) : l.foldl (State.lookupStep w st list) acc = acc := by
  induction l with
  | nil => rfl
  | cons j l ih =>
    rw [List.foldl_cons, show State.lookupStep w st list acc j = acc from if_pos h]
    exact ih

theorem State.found_lookupStep (acc : Looked) (j : Nat) :
    acc.2.2.1 ≤ (State.lookupStep w st list acc j).2.2.1 ∧ (State.lookupStep w st list acc j).2.2.1 ≤ acc.2.2.1 + 1 := by
  unfold State.lookupStep
  split
  · omega
  · split
    · exact ⟨Nat.le_succ _, le_refl _⟩
    · exact ⟨le_refl _, Nat.le_succ _⟩

theorem State.found_foldl (l : List Nat) (acc : Looked) :
    acc.2.2.1 ≤ (l.foldl (State.lookupStep w st list) acc).2.2.1
      ∧ (l.foldl (State.lookupStep w st list) acc).2.2.1 ≤ acc.2.2.1 + l.length := by
  induction l generalizing acc with
  | nil => exact ⟨le_refl _, le_refl _⟩
  | cons j l ih =>
    obtain ⟨hlo, hhi⟩ := State.found_lookupStep (w := w) (st := st) (list := list) acc j
    obtain ⟨hlo', hhi'⟩ := ih (State.lookupStep w st list acc j)
    rw [List.foldl_cons, List.length_cons]
    omega

theorem State.found_lookups_le (s : State) (w : Writer) (st list n : Nat) : (s.lookups w st list n).2.2.1 ≤ n := by
  have h := (State.found_foldl (w := w) (st := st) (list := list) (List.range n) (s, 0, 0, 0, false)).2
  rw [List.length_range, Nat.zero_add] at h
  exact h

theorem State.streams_lookups (s : State) (w : Writer) (st list n : Nat) : (s.lookups w st list n).1.streams = s.streams := by
  refine State.streams_of_keeps (State.keeps_foldl (F := streamWorkFields) Prod.fst _ _ (fun r j => ?_) (State.keeps_self _ s))
  have step := State.keeps_lookupRange (F := streamWorkFields) w st j list r.2.1 (by decide) (State.keeps_self _ r.1)
  unfold State.lookupStep
  split
  · exact State.keeps_self _ r.1
  · split
    · next heq => rw [heq] at step; exact step
    · next heq => rw [heq] at step; exact step

theorem State.lookups_cons (s : State) (w : Writer) (st list n : Nat) : s.lookups w st list (n + 1)
    = ((List.range n).map Nat.succ).foldl (State.lookupStep w st list) (State.lookupStep w st list (s, 0, 0, 0, false) 0) := by
  unfold State.lookups
  rw [List.range_succ_eq_map]
  rfl

/-- A lookup whose first range is not found stops there. -/
theorem State.lookups_absent (h : s.lookupRange w st 0 list 0 = (u, none)) (n : Nat) : s.lookups w st list (n + 1) = (u, 0, 0, 0, true) := by
  have hstep : State.lookupStep w st list (s, 0, 0, 0, false) 0 = (u, 0, 0, 0, true) := by
    unfold State.lookupStep
    rw [if_neg Bool.false_ne_true]
    dsimp only
    rw [h]
  rw [s.lookups_cons, hstep]
  exact State.lookupStep_stopped rfl _

/-- One whose first range is found has one range at least. -/
theorem State.lookups_found {g : BitVec 128 × Nat} (h : s.lookupRange w st 0 list 0 = (u, some g)) (n : Nat) :
    1 ≤ (s.lookups w st list (n + 1)).2.2.1 := by
  have hstep : State.lookupStep w st list (s, 0, 0, 0, false) 0 = (u, g.1, 1, g.2, false) := by
    unfold State.lookupStep
    rw [if_neg Bool.false_ne_true]
    dsimp only
    rw [h]
    simp only [Nat.zero_add]
  rw [s.lookups_cons, hstep]
  exact (State.found_foldl (w := w) (st := st) (list := list) _ (u, g.1, 1, g.2, false)).1

/-! One range -/

theorem State.prefixes_lookupRange {j : Nat} {prev : BitVec 128} (h : s.lookupRange w st j list prev = (u, none)) : u.prefixes = s.prefixes := by
  have hcond : ∀ (v : State) (id : Nat) (c : Status), (v.condition id c).prefixes = v.prefixes :=
    fun v id c => (State.keeps_condition id c (by decide) (State.keeps_self [.flight] v)).1 .prefixes (by decide)
  unfold State.lookupRange at h
  split at h
  · split at h
    · cases h
      rfl
    · dsimp only at h
      split at h
      · cases h
        exact hcond _ _ _
      · split at h
        · cases h
          rfl
        · split at h
          · cases h
            exact (hcond _ _ _).trans ((State.keeps_readVa _ _ _ _ (by decide)
              (State.keeps_self [.flash, .timer, .dram, .spad, .flight, .near, .funcs, .log, .rowHits, .perf, .out, .free] s)).1 .prefixes
              (by decide))
          · split at h
            · cases h
            · cases h
              rfl
  · cases h
    rfl

section
variable (hP : s.part? w.p = some P) (ho : P.pool = some o) (he : tget s.streams st = some e)
include hP ho he

theorem State.lookupRange_absent {j : Nat} {prev : BitVec 128}
    (hno : s.bucketBad (rangeHash P e.domain prev (s.rangeTokens w.p P o list j)) = true
      ∨ s.findPrefix w.p e.domain (rangeHash P e.domain prev (s.rangeTokens w.p P o list j)) = none) :
    ∃ u, s.lookupRange w st j list prev = (u, none) := by
  unfold State.lookupRange
  simp only [hP, he, ho]
  split
  · exact ⟨_, rfl⟩
  · next hgood =>
    rw [hno.resolve_left hgood]
    exact ⟨_, rfl⟩

theorem State.lookupRange_present {j : Nat} {prev : BitVec 128} {y : Nat × PrefixEntry}
    (hgood : s.bucketBad (rangeHash P e.domain prev (s.rangeTokens w.p P o list j)) = false)
    (hy : s.findPrefix w.p e.domain (rangeHash P e.domain prev (s.rangeTokens w.p P o list j)) = some y)
    (hrecord : s.confirmFault w.p P o y.2.record = none)
    (hrow : s.rawFault w.p P (o.entryVa e.blockTable j 0) (4 * o.layers.length) = none) :
    ∃ u g, s.lookupRange w st j list prev = (u, g)
      ∧ (g.isSome = true ↔ s.recordTokens w.p P o y.2.record = s.rangeTokens w.p P o list j) := by
  unfold State.lookupRange
  simp only [hP, he, ho]
  rw [hgood, if_neg Bool.false_ne_true, hy]
  dsimp only
  rw [hrecord, hrow, Option.none_or]
  dsimp only
  split
  · next heq => exact ⟨_, _, rfl, fun _ => heq, fun _ => rfl⟩
  · next hne => exact ⟨_, none, rfl, fun hx => absurd hx Bool.false_ne_true, fun hx => absurd hx hne⟩

/-- Nothing is found where the index does not hold the first range. -/
theorem State.lookups_unknown {n : Nat} {h : BitVec 128} (hh : rangeHash P e.domain 0 (s.rangeTokens w.p P o list 0) = h)
    (hno : n = 0 ∨ s.bucketBad h = true ∨ s.findPrefix w.p e.domain h = none) : (s.lookups w st list n).2.2.1 = 0 := by
  subst hh
  cases n with
  | zero => rfl
  | succ n =>
    obtain ⟨u, hu⟩ := State.lookupRange_absent (list := list) hP ho he (hno.resolve_left (Nat.succ_ne_zero n))
    rw [State.lookups_absent hu]

/-- Where it holds it and can be read, the first range is found just when its token identifiers agree. -/
theorem State.lookups_known {n : Nat} {h : BitVec 128} {y : Nat × PrefixEntry} (hn : 1 ≤ n)
    (hh : rangeHash P e.domain 0 (s.rangeTokens w.p P o list 0) = h) (hgood : s.bucketBad h = false)
    (hy : s.findPrefix w.p e.domain h = some y) (hrecord : s.confirmFault w.p P o y.2.record = none)
    (hrow : s.rawFault w.p P (o.entryVa e.blockTable 0 0) (4 * o.layers.length) = none) :
    s.recordTokens w.p P o y.2.record = s.rangeTokens w.p P o list 0 ↔ 1 ≤ (s.lookups w st list n).2.2.1 := by
  subst hh
  obtain ⟨n, rfl⟩ := Nat.exists_eq_add_of_le' hn
  obtain ⟨u, g, hu, hiff⟩ := State.lookupRange_present (list := list) hP ho he hgood hy hrecord hrow
  rw [← hiff]
  cases g with
  | none =>
    rw [State.lookups_absent hu]
    exact ⟨fun hx => absurd hx Bool.false_ne_true, fun hx => absurd hx (Nat.not_succ_le_zero 0)⟩
  | some g => exact ⟨fun _ => State.lookups_found hu n, fun _ => rfl⟩

end

/-- A lookup that finds nothing leaves the index as it is. -/
theorem State.prefixes_lookups {n : Nat} (h : (s.lookups w st list n).2.2.1 = 0) : (s.lookups w st list n).1.prefixes = s.prefixes := by
  cases n with
  | zero => rfl
  | succ n =>
    cases hr : s.lookupRange w st 0 list 0 with
    | mk u g =>
      cases g with
      | none =>
        rw [State.lookups_absent hr]
        exact State.prefixes_lookupRange hr
      | some g => exact absurd (h ▸ State.lookups_found hr n) (by decide)

end

end Sys2Proof.Machine
end

section
/-! SUPPORT. PublishWork.lean: what PREFIX_PUBLISH does range by range (O28). -/

namespace Sys2Proof.Machine

/-- What a publication has come to: the state, how many ranges are published, whether it has stopped. -/
abbrev Published := State × Nat × Bool

/-- One range of a publication, unless it has stopped. -/
def State.publishStep (w : Writer) (st first list : Nat) (acc : Published) (i : Nat) : Published :=
  if acc.2.2 then acc
  else
    let r := acc.1.publishRange w st (first + i) list
    (r.1, acc.2.1 + b2n r.2, !r.2)

def State.publishes (s : State) (w : Writer) (st first list m : Nat) : Published :=
  (List.range m).foldl (State.publishStep w st first list) (s, 0, false)

/-- The stream entry e₂ is e with k ranges more published. -/
structure Stream.publishedBy (e e₂ : Stream) (k : Nat) : Prop where
  published : e₂.published = e.published + k
  shared : e₂.shared = e.shared + k
  committed : e₂.committed = e.committed
  speculative : e₂.speculative = e.speculative
  blocks : e₂.blocks = e.blocks
  state : e₂.state = e.state
  same : k = 0 → e₂ = e

/-- The entry of a stream whose range j has been published under a hash. -/
def Stream.publish (e : Stream) (j : Nat) (h : BitVec 128) : Stream :=
  { e with published := j + 1, shared := e.shared + 1, chainHash := h, chainValid := true }

theorem Stream.publishedBy_publish {e e₂ : Stream} {k : Nat} (h : e.publishedBy e₂ k) (g : BitVec 128) :
    e.publishedBy (e₂.publish (e.published + k) g) (k + 1) where
  published := rfl
  shared := (congrArg (· + 1) h.shared).trans (Nat.add_assoc _ _ _)
  committed := h.committed
  speculative := h.speculative
  blocks := h.blocks
  state := h.state
  same hk := absurd hk (Nat.succ_ne_zero k)

section
variable {s u : State} {d : Site} {w : Writer} {t : StreamCmd} {x : StreamItem} {P : Partition} {o : Pool} {e : Stream} {st list : Nat}

theorem State.prefixPublish_eq {n : Nat} (h : s.liveStream d x.st P o e) (hle : x.val ≤ e.committed) (ht : t.table = 0)
    (hn : x.val / max o.tokens 1 = n) (hlist : s.deviceOk { d with P := P } t.data (4 * n * o.tokens) = true)
    (hclean : (s.fetch (nearAccess d.p P) t.data (4 * n * o.tokens)).2 = false) :
    s.prefixPublish d w t x =
      (let r := (s.listRead w.cmd d.p P x.st (e.touch P.stepNo) t.data (4 * n * o.tokens)).publishes w x.st e.published t.data (n - e.published)
       (r.1, .ok (r.2.1, 0))) := by
  subst hn
  unfold State.prefixPublish
  rw [State.onLive_of_live h]
  dsimp only
  simp only [if_pos ht]
  rw [if_neg (Nat.not_lt.mpr hle), if_neg Bool.false_ne_true, hlist, Bool.not_true, if_neg Bool.false_ne_true, hclean,
    if_neg Bool.false_ne_true]
  rfl

/-! ### One range (R241) -/

/-- A range is published, or the streams stay as they are. -/
theorem State.publishRange_streams (he : tget s.streams st = some e) (j : Nat) :
    ((s.publishRange w st j list).2 = false ∧ (s.publishRange w st j list).1.streams = s.streams)
      ∨ ((s.publishRange w st j list).2 = true ∧ ∃ h, (s.publishRange w st j list).1.streams = tput s.streams st (e.publish j h)) := by
  have self := State.keeps_self streamWorkFields s
  unfold State.publishRange
  split
  case h_2 => exact .inl ⟨rfl, rfl⟩
  case h_1 P e' hP he' =>
    cases he.symm.trans he'
    split
    case h_1 => exact .inl ⟨rfl, rfl⟩
    case h_2 o ho =>
      extract_lets prev tokens h up
      have hup : ∀ v : State, s.keeps streamWorkFields v → (up v).streams = tput s.streams st (e.publish j h) :=
        fun v hv => congrArg (fun l => tput l st (e.publish j h)) (State.streams_of_keeps hv)
      split
      · exact .inl ⟨rfl, State.streams_of_keeps (State.keeps_condition _ _ (by decide) self)⟩
      split
      · split
        · exact .inl ⟨rfl, State.streams_of_keeps (State.keeps_condition _ _ (by decide) (State.keeps_readVa _ _ _ _ (by decide) self))⟩
        split
        · exact .inr ⟨rfl, h, hup _ (State.keeps_freeLater _ _ _ _ (by decide) (State.keeps_attach _ _ _ _ _ _ (by decide) self))⟩
        · exact .inl ⟨rfl, State.streams_of_keeps (State.keeps_updPart _ _ (by decide) self)⟩
      · have hroom : s.keeps streamWorkFields (s.roomFor w (h.toNat % 2 ^ 20)).1 := State.keeps_roomFor _ _ (by decide) self
        split
        · next v i r heq =>
          rw [heq] at hroom
          split
          · exact .inl ⟨rfl, State.streams_of_keeps (State.keeps_condition _ _ (by decide) (State.keeps_readVa _ _ _ _ (by decide) hroom))⟩
          · exact .inr ⟨rfl, h, hup _ (State.keeps_fillRecord _ _ _ _ _ _ _ _ _ (by decide) hroom)⟩
        · next v heq =>
          rw [heq] at hroom
          exact .inl ⟨rfl, State.streams_of_keeps (State.keeps_updPart _ _ (by decide) hroom)⟩

theorem State.roomFor_free {i r : Nat} (hP : s.part? w.p = some P) (ho : P.pool = some o)
    (hq : (s.prefixes.filter (fun y => decide (y.2.partition = w.p))).length < P.live.prefixQuota) {bucket : Nat}
    (hi : s.freeEntry bucket = some i) (hr : s.freeRecord w.p P o = some r) : s.roomFor w bucket = (s, some (i, r)) := by
  unfold State.roomFor
  simp only [hP, ho, hi, hr, Option.isSome_some, Bool.and_self, if_true, decide_eq_true hq, Bool.true_or]

theorem State.prefixes_fillRecord (s : State) (w : Writer) (P : Partition) (o : Pool) (e : Stream) (j : Nat) (h : BitVec 128)
    (tokens : Bytes) (i r : Nat) : (s.fillRecord w P o e j h tokens i r).prefixes = tput s.prefixes i
      { hash := h, record := r, partition := w.p, domain := e.domain, priority := e.priority, lastUse := P.stepNo } := by
  have hwrite : ∀ (v : State) (va : Nat) (b : Bytes), (v.smWrite w va b).prefixes = v.prefixes := fun v va b =>
    (State.keeps_smWrite w va b (by decide) (State.keeps_self [.flash, .timer, .dram, .spad, .hostMem, .caches, .unsettled, .parts,
      .flight, .near, .funcs, .log, .rowHits, .perf, .out, .free] v)).1 .prefixes (by decide)
  unfold State.fillRecord
  dsimp only
  rw [hwrite, hwrite]

/-- The first range, new to the index, is published in a free entry and a free record. -/
theorem State.publishRange_new {h : BitVec 128} {i r : Nat} (hP : s.part? w.p = some P) (ho : P.pool = some o)
    (he : tget s.streams st = some e) (hh : rangeHash P e.domain 0 (s.rangeTokens w.p P o list 0) = h)
    (hgood : s.bucketBad h = false) (hnew : s.findPrefix w.p e.domain h = none)
    (hrows : s.rowsFault w.p P o e.blockTable 0 1 = none)
    (hq : (s.prefixes.filter (fun y => decide (y.2.partition = w.p))).length < P.live.prefixQuota)
    (hi : s.freeEntry (h.toNat % 2 ^ 20) = some i) (hr : s.freeRecord w.p P o = some r) :
    ∃ v, s.publishRange w st 0 list = (v, true) ∧ v.streams = tput s.streams st (e.publish 0 h) ∧ v.prefixes = tput s.prefixes i
      { hash := h, record := r, partition := w.p, domain := e.domain, priority := e.priority, lastUse := P.stepNo } := by
  refine ⟨(s.fillRecord w P o e 0 h (s.rangeTokens w.p P o list 0) i r).setStream st (e.publish 0 h), ?_, ?_, ?_⟩
  · unfold State.publishRange
    simp only [hP, he, ho, if_true, hh]
    rw [hgood, if_neg Bool.false_ne_true, hnew]
    dsimp only
    rw [State.roomFor_free hP ho hq hi hr]
    dsimp only
    rw [hrows]
    rfl
  · exact congrArg (fun l => tput l st _) (State.streams_of_keeps
      (State.keeps_fillRecord _ _ _ _ _ _ _ _ _ (by decide) (State.keeps_self _ s)))
  · exact s.prefixes_fillRecord ..

/-! ### The ranges in order -/

theorem State.publishStep_stopped {acc : Published} (h : acc.2.2 = true) (first i : Nat) : State.publishStep w st first list acc i = acc :=
  if_pos h

theorem State.publishes_succ (s : State) (w : Writer) (st first list m : Nat) :
    s.publishes w st first list (m + 1) = State.publishStep w st first list (s.publishes w st first list m) m := by
  unfold State.publishes
  rw [List.range_succ, List.foldl_append]
  rfl

theorem State.publishes_first (h : s.publishRange w st 0 list = (u, true)) : s.publishes w st 0 list 1 = (u, 1, false) := by
  rw [s.publishes_succ]
  unfold State.publishStep
  rw [show s.publishes w st 0 list 0 = (s, 0, false) from rfl, if_neg Bool.false_ne_true]
  dsimp only
  rw [Nat.zero_add, h]
  rfl

/-- Ranges are published one after another from the first unpublished one on, until one is not. -/
theorem State.publishes_publishedBy (he : tget s.streams st = some e) (m : Nat) :
    let r := s.publishes w st e.published list m
    r.2.1 ≤ m ∧ (r.2.2 = false → r.2.1 = m) ∧ ∃ e₂, s.setsStream r.1 st e₂ ∧ e.publishedBy e₂ r.2.1 := by
  induction m with
  | zero => exact ⟨le_refl _, fun _ => rfl, e, ⟨he, fun _ _ => rfl⟩, rfl, rfl, rfl, rfl, rfl, rfl, fun _ => rfl⟩
  | succ m ih =>
    obtain ⟨hle, hall, e₂, hset, hby⟩ := ih
    rw [s.publishes_succ]
    generalize s.publishes w st e.published list m = r at hle hall hset hby
    cases hstop : r.2.2 with
    | true =>
      rw [State.publishStep_stopped hstop]
      exact ⟨hle.trans (Nat.le_succ m), fun h => absurd (hstop.symm.trans h) (by decide), e₂, hset, hby⟩
    | false =>
      have hm := hall hstop
      unfold State.publishStep
      rw [hstop, if_neg Bool.false_ne_true]
      dsimp only
      rcases State.publishRange_streams (w := w) (list := list) hset.entry (e.published + m) with ⟨hno, hsame⟩ | ⟨hyes, h, hput⟩
      · rw [hno]
        exact ⟨hle.trans (Nat.le_succ m), fun h => absurd h (by decide), e₂, State.setsStream_congr hset hsame, hby⟩
      · rw [hyes]
        refine ⟨Nat.add_le_add_right hle 1, fun _ => congrArg (· + 1) hm, _, State.setsStream_again hset hput, ?_⟩
        exact hm ▸ Stream.publishedBy_publish hby h

end

end Sys2Proof.Machine
end

section
/-! SUPPORT. StreamRecords.lean: the seven stream commands in the single form, and the statement about them (O28). -/

namespace Sys2Proof.Machine

section
variable {s : State} {d : Site} {o : Pool} {e : Stream}

/-! ### The commands on a stream's own entry -/

theorem State.streamRun_stOpen (hd : s.meetsSite d) (h : s.namesOne d) (ho : d.P.pool = some o)
    (hin : s.streamOutside d.P d.Q.ctx (streamCmdOf d.b).stream = false) (hnone : tget s.streams (streamCmdOf d.b).stream = none)
    (hsegs : (s.segs d.p d.P (o.tableVa (streamCmdOf d.b).stream) o.tableBytes).isSome = true) :
    s.setsStream (s.streamRun State.stOpen d) (streamCmdOf d.b).stream (.opened d d.P o (streamCmdOf d.b) (streamCmdOf d.b).item) := by
  have hwork := State.stOpen_free (s := s.streamBegun d) (w := s.streamWriter d) (t := streamCmdOf d.b) (x := (streamCmdOf d.b).item)
    (State.part?_streamBegun hd) ho ((State.streamOutside_congr (s.streams_streamBegun d) rfl _).trans hin)
    ((congrArg (fun l => tget l _) (s.streams_streamBegun d)).trans hnone) (((s.readsAlike_begun d).segs _ _).symm ▸ hsegs)
  refine State.streamRun_sets h hwork (State.setsStream_tput (congrArg (fun l => tput l _ _) (State.streams_of_keeps ?_)))
  exact State.keeps_smWrite _ _ _ (by decide) (State.keeps_self _ _)

section
variable (hd : s.meetsSite d) (h : s.namesOne d) (hl : s.liveStream d (streamCmdOf d.b).stream d.P o e)
include hd h hl

theorem State.streamRun_stCommit (hlo : e.committed ≤ (streamCmdOf d.b).length) (hhi : (streamCmdOf d.b).length ≤ e.speculative) :
    s.setsStream (s.streamRun State.stCommit d) (streamCmdOf d.b).stream
      { e.touch d.P.stepNo with committed := (streamCmdOf d.b).length } :=
  State.streamRun_sets h (State.stCommit_within (x := (streamCmdOf d.b).item) (State.liveStream_begun hd hl) hlo hhi)
    (State.setsStream_tput rfl)

theorem State.streamRun_stRollback (hlo : e.committed ≤ (streamCmdOf d.b).length) (hhi : (streamCmdOf d.b).length ≤ e.speculative)
    (hrows : s.rowsFault d.p d.P o e.blockTable (cdiv (streamCmdOf d.b).length o.tokens) e.blocks = none) :
    s.setsStream (s.streamRun State.stRollback d) (streamCmdOf d.b).stream { e.touch d.P.stepNo with
      speculative := (streamCmdOf d.b).length, appendBase := (streamCmdOf d.b).length,
      blocks := min e.blocks (cdiv (streamCmdOf d.b).length o.tokens) } := by
  obtain ⟨v, n, hwork, hv⟩ := State.stRollback_within (w := s.streamWriter d) (t := streamCmdOf d.b) (x := (streamCmdOf d.b).item)
    (State.liveStream_begun hd hl) hlo hhi (((s.readsAlike_begun d).rowsFault ..).trans hrows)
  exact State.streamRun_sets h hwork (State.setsStream_tput hv)

theorem State.streamRun_stRelease (hsegs : (s.segs d.p d.P e.blockTable o.tableBytes).isSome = true)
    (hrows : s.rowsFault d.p d.P o e.blockTable 0 e.blocks = none) :
    s.setsStream (s.streamRun State.stRelease d) (streamCmdOf d.b).stream { e with state := .draining, lastStep := d.P.stepNo } := by
  obtain ⟨v, n, hwork, hv⟩ := State.stRelease_mapped (w := s.streamWriter d) (t := streamCmdOf d.b) (x := (streamCmdOf d.b).item)
    (State.liveStream_begun hd hl) rfl (((s.readsAlike_begun d).segs ..).symm ▸ hsegs) (((s.readsAlike_begun d).rowsFault ..).trans hrows)
  exact State.streamRun_sets h hwork (State.setsStream_tput hv)

theorem State.streamRun_stAppend_empty (hlo : e.committed ≤ (e.touch d.P.stepNo).appendBase)
    (hhi : (e.touch d.P.stepNo).appendBase ≤ e.speculative) (hc : (streamCmdOf d.b).length = 0) :
    s.setsStream (s.streamRun State.stAppend d) (streamCmdOf d.b).stream (e.touch d.P.stepNo) :=
  State.streamRun_sets h (State.stAppend_empty (x := (streamCmdOf d.b).item) (State.liveStream_begun hd hl) hlo hhi hc)
    (State.setsStream_tput rfl)

theorem State.streamRun_stAppend {first last : Nat} (hfirst : (e.touch d.P.stepNo).appendBase = first)
    (hlast : (first + (streamCmdOf d.b).length - 1) / o.tokens = last) (hlo : e.committed ≤ first) (hhi : first ≤ e.speculative)
    (hc : (streamCmdOf d.b).length ≠ 0) (hmax : last < o.maxBlocks)
    (hsrc : s.deviceOk d (streamCmdOf d.b).data (((streamCmdOf d.b).length - 1) * (streamCmdOf d.b).stride + o.groups * 1024) = true)
    (hfits : s.appendFits d.p d.P o e.blockTable (streamCmdOf d.b).stream (streamCmdOf d.b).layer (first / o.tokens) last) :
    s.setsStream (s.streamRun State.stAppend d) (streamCmdOf d.b).stream { e.touch d.P.stepNo with
      speculative := max e.speculative (first + (streamCmdOf d.b).length), blocks := max e.blocks (last + 1) } := by
  have hdata : (s.streamBegun d).deviceOk { d with P := d.advanced }
      ((streamCmdOf d.b).data + (streamCmdOf d.b).item.ordinal * (streamCmdOf d.b).stride)
      (((streamCmdOf d.b).item.count - 1) * (streamCmdOf d.b).stride + o.groups * 1024) = true := by
    rw [show (streamCmdOf d.b).item.ordinal = 0 from rfl, Nat.zero_mul, Nat.add_zero]
    exact (s.deviceOk_begun d _ _).trans hsrc
  obtain ⟨v, n, hwork, hv⟩ := State.stAppend_stores (w := s.streamWriter d) (t := streamCmdOf d.b) (x := (streamCmdOf d.b).item)
    (State.liveStream_begun hd hl) rfl hfirst hlast hlo hhi hc hmax hdata (State.appendFits_alike (s.readsAlike_begun d) hfits)
  exact State.streamRun_sets h hwork (State.setsStream_tput hv)

end

/-! ### The prefix commands -/

/-- The state in which a prefix command goes through its ranges: it has begun, touched its stream and read its list. -/
def State.prefixBegun (s : State) (d : Site) (e : Stream) (n : Nat) : State :=
  (s.streamBegun d).listRead s.nextId d.p d.advanced (streamCmdOf d.b).stream (e.touch d.P.stepNo) (streamCmdOf d.b).data n

theorem State.unsettled_streamBegun (hs : s.unsettled = []) : (s.streamBegun d).unsettled = [] :=
  ((s.keeps_streamBegun d).1 .unsettled (by decide)).trans hs

theorem State.clean_streamBegun {va n : Nat} (hs : s.unsettled = []) (hclean : (s.fetch (nearAccess d.p d.P) va n).2 = false) :
    ((s.streamBegun d).fetch (nearAccess d.p d.advanced) va n).2 = false :=
  (congrArg Prod.snd (State.fetch_alike (s.readsAlike_begun d) hs (State.unsettled_streamBegun hs) va n)).trans hclean

section
variable {n : Nat} (hs : s.unsettled = []) (hclean : (s.fetch (nearAccess d.p d.P) (streamCmdOf d.b).data n).2 = false)
include hs hclean

theorem State.streams_prefixBegun :
    (s.prefixBegun d e n).streams = tput s.streams (streamCmdOf d.b).stream (e.touch d.P.stepNo) :=
  (State.streams_listRead (State.unsettled_streamBegun hs) _ (State.clean_streamBegun hs hclean)).trans
    (congrArg (fun l => tput l _ _) (s.streams_streamBegun d))

theorem State.setsStream_prefixBegun :
    s.setsStream (s.prefixBegun d e n) (streamCmdOf d.b).stream (e.touch d.P.stepNo) :=
  State.setsStream_tput (State.streams_prefixBegun hs hclean)

theorem State.prefixes_prefixBegun : (s.prefixBegun d e n).prefixes = s.prefixes :=
  (State.prefixes_listRead (State.unsettled_streamBegun hs) _ (State.clean_streamBegun hs hclean)).trans
    ((s.keeps_streamBegun d).1 .prefixes (by decide))

theorem State.part?_prefixBegun (hd : s.meetsSite d) : (s.prefixBegun d e n).part? d.p = some d.advanced :=
  (State.part?_listRead (State.unsettled_streamBegun hs) _ (State.clean_streamBegun hs hclean) _).trans (State.part?_streamBegun hd)

theorem State.readsAlike_prefixBegun : s.readsAlike d.P (s.prefixBegun d e n) d.advanced d.p :=
  State.readsAlike_trans (s.readsAlike_begun d)
    (State.readsAlike_listRead (State.unsettled_streamBegun hs) _ (State.clean_streamBegun hs hclean))

theorem State.rangeTokens_prefixBegun (o : Pool) (list j : Nat) :
    (s.prefixBegun d e n).rangeTokens d.p d.advanced o list j = s.rangeTokens d.p d.P o list j :=
  State.rangeTokens_alike (State.readsAlike_prefixBegun hs hclean) hs
    (State.unsettled_listRead (State.unsettled_streamBegun hs) _ (State.clean_streamBegun hs hclean)) o list j

theorem State.findPrefix_prefixBegun (p domain : Nat) (h : BitVec 128) :
    (s.prefixBegun d e n).findPrefix p domain h = s.findPrefix p domain h := by
  unfold State.findPrefix
  rw [State.prefixes_prefixBegun hs hclean]

theorem State.freeEntry_prefixBegun (bucket : Nat) : (s.prefixBegun d e n).freeEntry bucket = s.freeEntry bucket := by
  unfold State.freeEntry
  rw [State.prefixes_prefixBegun hs hclean]

end

section
variable {n : Nat} (hd : s.meetsSite d) (h : s.namesOne d) (hl : s.liveStream d (streamCmdOf d.b).stream d.P o e) (hs : s.unsettled = [])
  (hclean : (s.fetch (nearAccess d.p d.P) (streamCmdOf d.b).data (4 * n * o.tokens)).2 = false)
include hd h hl hs hclean

theorem State.streamRun_prefixLookup (hspec : e.speculative = 0)
    (hn : min (((streamCmdOf d.b).length - 1) / max o.tokens 1) o.maxBlocks = n)
    (hlist : s.deviceOk d (streamCmdOf d.b).data (4 * (streamCmdOf d.b).length) = true) :
    let r := (s.prefixBegun d e (4 * n * o.tokens)).lookups (s.streamWriter d) (streamCmdOf d.b).stream (streamCmdOf d.b).data n
    s.setsStream (s.streamRun State.prefixLookup d) (streamCmdOf d.b).stream ((e.touch d.P.stepNo).given o r.2.2.1 r.2.1)
      ∧ (s.streamRun State.prefixLookup d).prefixes = r.1.prefixes := by
  intro r
  obtain ⟨k, hwork⟩ := State.prefixLookup_eq (w := s.streamWriter d) (t := streamCmdOf d.b) (x := (streamCmdOf d.b).item)
    (State.liveStream_begun hd hl) hspec hn ((s.deviceOk_begun d _ _).trans hlist) (State.clean_streamBegun hs hclean)
  have hbegun : (s.streamBegun d).setsStream r.1 (streamCmdOf d.b).stream (e.touch d.P.stepNo) :=
    State.setsStream_congr (State.setsStream_tput (State.streams_listRead (State.unsettled_streamBegun hs) _ (State.clean_streamBegun hs hclean)))
      (State.streams_lookups _ _ _ _ _)
  exact ⟨State.streamRun_sets h hwork (State.setsStream_again hbegun rfl), (State.streamRun_works h hwork).1 .prefixes (by decide)⟩

theorem State.streamRun_prefixPublish (hle : (streamCmdOf d.b).length ≤ e.committed) (hn : (streamCmdOf d.b).length / max o.tokens 1 = n)
    (hlist : s.deviceOk d (streamCmdOf d.b).data (4 * n * o.tokens) = true) :
    let r := (s.prefixBegun d e (4 * n * o.tokens)).publishes (s.streamWriter d) (streamCmdOf d.b).stream e.published (streamCmdOf d.b).data
      (n - e.published)
    (s.streamRun State.prefixPublish d).streams = r.1.streams ∧ (s.streamRun State.prefixPublish d).prefixes = r.1.prefixes := by
  intro r
  have hwork := State.prefixPublish_eq (w := s.streamWriter d) (t := streamCmdOf d.b) (x := (streamCmdOf d.b).item)
    (State.liveStream_begun hd hl) hle h.form hn ((s.deviceOk_begun d _ _).trans hlist)
    (State.clean_streamBegun hs hclean)
  have hkeep := State.streamRun_works h hwork
  exact ⟨hkeep.1 .streams (by decide), hkeep.1 .prefixes (by decide)⟩

end

/-! What the ranges come to, said of the state before the command -/

section
variable {m n : Nat} {h : BitVec 128} (hd : s.meetsSite d) (hs : s.unsettled = []) (ho : d.P.pool = some o)
  (hclean : (s.fetch (nearAccess d.p d.P) (streamCmdOf d.b).data m).2 = false)
  (hh : rangeHash d.P e.domain 0 (s.rangeTokens d.p d.P o (streamCmdOf d.b).data 0) = h)
include hs hclean hh

theorem State.rangeHash_prefixBegun : rangeHash d.advanced (e.touch d.P.stepNo).domain 0
    ((s.prefixBegun d e m).rangeTokens d.p d.advanced o (streamCmdOf d.b).data 0) = h :=
  (congrArg (rangeHash d.P e.domain 0) (State.rangeTokens_prefixBegun hs hclean o _ 0)).trans hh

include hd ho

theorem State.found_unknown (hno : n = 0 ∨ s.bucketBad h = true ∨ s.findPrefix d.p e.domain h = none) :
    ((s.prefixBegun d e m).lookups (s.streamWriter d) (streamCmdOf d.b).stream (streamCmdOf d.b).data n).2.2.1 = 0 := by
  refine State.lookups_unknown (w := s.streamWriter d) (e := e.touch d.P.stepNo) (State.part?_prefixBegun hs hclean hd) ho
    (State.setsStream_prefixBegun hs hclean).entry (State.rangeHash_prefixBegun hs hclean hh) ?_
  rw [(State.readsAlike_prefixBegun hs hclean).bucketBad, State.findPrefix_prefixBegun hs hclean]
  exact hno

theorem State.found_known {y : Nat × PrefixEntry} (hn : 1 ≤ n) (hgood : s.bucketBad h = false)
    (hy : s.findPrefix d.p e.domain h = some y) (hrecord : s.confirmFault d.p d.P o y.2.record = none)
    (hrow : s.rawFault d.p d.P (o.entryVa e.blockTable 0 0) (4 * o.layers.length) = none) :
    s.recordTokens d.p d.P o y.2.record = s.rangeTokens d.p d.P o (streamCmdOf d.b).data 0
      ↔ 1 ≤ ((s.prefixBegun d e m).lookups (s.streamWriter d) (streamCmdOf d.b).stream (streamCmdOf d.b).data n).2.2.1 := by
  have hr := State.readsAlike_prefixBegun (e := e) hs hclean
  rw [← hr.recordTokens, ← State.rangeTokens_prefixBegun (e := e) hs hclean]
  exact State.lookups_known (w := s.streamWriter d) (State.part?_prefixBegun hs hclean hd) ho (State.setsStream_prefixBegun hs hclean).entry hn
    (State.rangeHash_prefixBegun hs hclean hh) ((hr.bucketBad h).trans hgood) ((State.findPrefix_prefixBegun hs hclean _ _ _).trans hy)
    ((hr.confirmFault o _).trans hrecord) ((hr.rawFault _ _).trans hrow)

/-- The first range of a list, new to the index, takes the free entry and the free record. -/
theorem State.published_new {first i r : Nat} (hfirst : first = 0) (hn : n = 1) (hgood : s.bucketBad h = false)
    (hnew : s.findPrefix d.p e.domain h = none) (hrows : s.rowsFault d.p d.P o e.blockTable 0 1 = none)
    (hq : (s.prefixes.filter (fun y => decide (y.2.partition = d.p))).length < d.P.live.prefixQuota)
    (hi : s.freeEntry (h.toNat % 2 ^ 20) = some i) (hr : s.freeRecord d.p d.P o = some r) :
    let a := (s.prefixBegun d e m).publishes (s.streamWriter d) (streamCmdOf d.b).stream first (streamCmdOf d.b).data n
    a.2.1 = 1 ∧ tget a.1.streams (streamCmdOf d.b).stream = some ((e.touch d.P.stepNo).publish 0 h) ∧ tget a.1.prefixes i = some
      { hash := h, record := r, partition := d.p, domain := e.domain, priority := e.priority, lastUse := d.P.stepNo } := by
  subst hfirst hn
  have hra := State.readsAlike_prefixBegun (e := e) hs hclean
  have hpre := State.prefixes_prefixBegun (e := e) hs hclean
  obtain ⟨v, hv, hstreams, hprefixes⟩ := State.publishRange_new (w := s.streamWriter d) (State.part?_prefixBegun hs hclean hd) ho
    (State.setsStream_prefixBegun hs hclean).entry (State.rangeHash_prefixBegun hs hclean hh) ((hra.bucketBad h).trans hgood)
    ((State.findPrefix_prefixBegun hs hclean _ _ _).trans hnew) ((hra.rowsFault ..).trans hrows) (hpre.symm ▸ hq)
    ((State.freeEntry_prefixBegun hs hclean _).trans hi) ((hra.freeRecord o).trans hr)
  intro a
  have ha : a = (v, 1, false) := State.publishes_first hv
  rw [ha]
  dsimp only
  rw [hstreams, hprefixes, tget_tput, if_pos rfl, tget_tput, if_pos rfl]
  exact ⟨rfl, rfl, rfl⟩

end
end

/-! ### The statement -/

/-- Settles O28, command by command: each does its work on the stream that it finds when it begins, and its end leaves the streams and the
index as they are. -/
theorem streamCommandsChangeTheirEntry : Obligations.StreamCommandsChangeTheirEntry := by
  unfold Obligations.StreamCommandsChangeTheirEntry
  intro s p q d o ho hform c others hfrom hto hsound
  have h : s.namesOne d := ⟨hform, hsound⟩
  constructor
  · intro hruns hnone hsegs
    obtain ⟨hd, rfl, rfl⟩ := State.site_of_runs hruns rfl
    have hin := State.streamOutside_of_range (ctx := d.Q.ctx) ho hfrom hto (fun e he => by cases hnone.symm.trans he)
    obtain ⟨t, hexec, hlaunch, hentry, hothers⟩ := State.exec_sets h (exec_stOpen_runs hruns) State.works_stOpen
      (State.streamRun_stOpen hd h ho hin hnone hsegs)
    exact ⟨t, _, hexec, hlaunch, hentry, rfl, rfl, rfl, rfl, rfl, rfl, rfl, rfl, rfl, rfl, hothers⟩
  · intro e he hctx hlive e'
    have live : s.meetsSite d → s.liveStream d c.stream d.P o e := fun hd =>
      ⟨hd.part, ho, State.streamOutside_of_range ho hfrom hto (fun e₁ he₁ => by cases he.symm.trans he₁; exact hctx), he, hlive⟩
    refine ⟨?append, ?commit, ?rollback, ?release, ?beyond, ?prefixes⟩
    case append =>
      intro hruns hlo hhi last row needs
      obtain ⟨hd, rfl, rfl⟩ := State.site_of_runs hruns rfl
      constructor
      · intro hc
        exact State.exec_sets h (exec_stAppend_runs hruns) State.works_stAppend (State.streamRun_stAppend_empty hd h (live hd) hlo hhi hc)
      · intro hc hmax hsrc hrows
        exact State.exec_sets h (exec_stAppend_runs hruns) State.works_stAppend
          (State.streamRun_stAppend hd h (live hd) rfl rfl hlo hhi hc hmax hsrc (State.appendFits_of_rows hrows))
    case commit =>
      intro hruns hlo hhi
      obtain ⟨hd, rfl, rfl⟩ := State.site_of_runs hruns rfl
      exact State.exec_sets h (exec_stCommit_runs hruns) State.works_stCommit (State.streamRun_stCommit hd h (live hd) hlo hhi)
    case rollback =>
      intro hruns hlo hhi hrows
      obtain ⟨hd, rfl, rfl⟩ := State.site_of_runs hruns rfl
      exact State.exec_sets h (exec_stRollback_runs hruns) State.works_stRollback (State.streamRun_stRollback hd h (live hd) hlo hhi hrows)
    case release =>
      intro hruns hsegs hrows
      obtain ⟨hd, rfl, rfl⟩ := State.site_of_runs hruns rfl
      exact State.exec_sets h (exec_stRelease_runs hruns) State.works_stRelease (State.streamRun_stRelease hd h (live hd) hsegs hrows)
    case beyond =>
      rintro (hruns | hruns) hout
      · obtain ⟨hd, rfl, rfl⟩ := State.site_of_runs hruns rfl
        rw [if_pos (State.recOp_of_runs hruns rfl)]
        have hl := State.liveStream_begun hd (live hd)
        exact State.exec_fails h (exec_stCommit_runs hruns) hl (State.stCommit_beyond (x := c.item) hl hout) (by decide) (by decide)
      · obtain ⟨hd, rfl, rfl⟩ := State.site_of_runs hruns rfl
        rw [State.recOp_of_runs hruns rfl, if_neg (by decide)]
        have hl := State.liveStream_begun hd (live hd)
        exact State.exec_fails h (exec_stRollback_runs hruns) hl (State.stRollback_beyond (x := c.item) hl hout) (by decide) (by decide)
    case prefixes =>
      intro hs list clean first h₁
      constructor
      · intro hruns hspec n hlist hclean
        obtain ⟨hd, rfl, rfl⟩ := State.site_of_runs hruns rfl
        obtain ⟨hset, hindex⟩ := State.streamRun_prefixLookup hd h (live hd) hs hclean hspec rfl hlist
        obtain ⟨t, hexec, hlaunch, hentry, hothers⟩ := State.exec_sets h (exec_prefixLookup_runs hruns) State.works_prefixLookup hset
        cases hexec.symm.trans (exec_prefixLookup_runs hruns)
        exact ⟨_, _, _, hexec, hlaunch, State.found_lookups_le _ _ _ _ _, hentry, hothers,
          fun hm => hindex.trans ((State.prefixes_lookups hm).trans (State.prefixes_prefixBegun hs hclean)),
          State.found_unknown hd hs ho hclean rfl,
          fun hn hgood y hy hrecord hrow => State.found_known hd hs ho hclean rfl hn hgood hy hrecord hrow⟩
      · intro hruns hle n hlist hclean
        obtain ⟨hd, rfl, rfl⟩ := State.site_of_runs hruns rfl
        obtain ⟨hstreams, hindex⟩ := State.streamRun_prefixPublish hd h (live hd) hs hclean hle rfl hlist
        have hbegun := State.setsStream_prefixBegun (e := e) hs hclean
        obtain ⟨hk, -, e₂, hset, hby⟩ := State.publishes_publishedBy (w := s.streamWriter d) (list := c.data) hbegun.entry (n - e.published)
        have hrun := State.setsStream_congr (State.setsStream_trans hbegun hset) hstreams
        obtain ⟨t, hexec, hlaunch, hentry, hothers⟩ := State.exec_sets h (exec_prefixPublish_runs hruns) State.works_prefixPublish hrun
        cases hexec.symm.trans (exec_prefixPublish_runs hruns)
        refine ⟨_, _, e₂, hexec, hlaunch, hk, hentry, hby.published, hby.shared, hby.committed, hby.speculative, hby.blocks, hby.state,
          hby.same, hothers, ?_, ?_⟩
        · intro hall
          rw [Nat.sub_eq_zero_of_le hall] at hindex
          exact hindex.trans (State.prefixes_prefixBegun hs hclean)
        · intro hnone hn hgood hnew hrows hquota i r hi hr
          obtain ⟨hone, hput, hstored⟩ := State.published_new (e := e) hd hs ho hclean rfl hnone (show n - e.published = 1 by omega) hgood hnew
            hrows hquota hi hr
          refine ⟨hone, congrArg Stream.chainHash (Option.some.inj (hset.entry.symm.trans hput)), ?_⟩
          rw [hindex]
          exact hstored

end Sys2Proof.Machine
end
